-- ==== Sys2Proof/Word.lean ====
section
/-!
DEFINITION. The words of the Doritra D9 and the sparse tables that hold what a state lists.

All multi-byte quantities are little-endian (R5, 00_scope.md). A table lists the keys that hold something other than
the reading of an unlisted key, in strictly rising order, so that equal contents are equal data.
-/

namespace Sys2Proof

/-- A 32-bit register or word. -/
abbrev Word := BitVec 32

/-- A 64-bit quantity: a program counter, a virtual address, a name. -/
abbrev DWord := BitVec 64

/-- A byte. -/
abbrev Byte := BitVec 8

/-- A sparse table by natural key. -/
abbrev Tbl (α : Type) := List (Nat × α)

end Sys2Proof
end

