-- ==== Sys2Proof/Config.lean ====
section
/-!
DEFINITION. What the spec leaves open: values without a body, so that nothing in Lean can evaluate them, and the fixed
figures of the part.

A free value is applied to what it depends on, or to the counter `State.fresh` that the step reads and advances.
-/

namespace Sys2Proof.Config

/-- A value the spec does not state, by its number in the order in which a run meets such values. -/
opaque freeWord : Nat → Word

/-- A 64-bit value the spec does not state. -/
opaque freeDWord : Nat → DWord

/-- A truth the spec does not state. -/
opaque freeBool : Nat → Bool

/-- SHA-384 of bytes (R442, R452, R453); the spec names the function and does not give it. -/
opaque sha384 : List Byte → BitVec 384

/-- Whether a frame is protected under one of the agreed keys and passes its check (R436), and the RHP message that a frame
carries, if any: the spec names IEEE 802.1AE and UDP/IPv6 and does not give them. -/
opaque macsecOk : List (BitVec 384) → List Byte → Bool
opaque frameMessage : List Byte → Option (List Byte)

/-- What the ageing monitors of a die call for at its re-plans (R434), of which the spec gives no measure: the number of steps of
supply and frequency, by the die and the PTP time. -/
opaque ageingSteps : Nat → Nat → Nat

/-- Whether an ECDSA P-384 signature (r then s) over bytes verifies under a public key of a given hash (R442, R452). -/
opaque ecdsaVerify : BitVec 384 → List Byte → List Byte → Bool

/-- The signature that the identity key makes over bytes (R453). -/
opaque identitySign : List Byte → List Byte

/-- The hashes of the authority, firmware and microcode keys in the fuses (R442, R452). -/
opaque authorityKey : BitVec 384
opaque firmwareKey : BitVec 384
opaque microcodeKey : BitVec 384

/-- The fused rollback counter (R452). -/
opaque rollback : BitVec 32

/-- Byte `k` of the 256 bytes at device offset 0x400 that hold the identity key and its certificate: the first 193
are open, the rest are zero (R447, R453). -/
opaque identityByte : Nat → Byte

/-- The device serial number (R453). -/
opaque serial : BitVec 128

/-- Digests of the boot ROM, of the running firmware at first boot, and of the default image of a kind (R453). -/
opaque bootDigest : BitVec 384
opaque firmwareDigest : BitVec 384
opaque defaultImageDigest : Nat → BitVec 384

/-- Whether an Agate firmware image carries a signature that verifies under the firmware key (R452), and its version: the
spec does not place them in the image. -/
opaque firmwareSigned : List Byte → Bool
opaque firmwareVersion : List Byte → Nat

/-- Byte `k` of a host's read of a range that returns uncorrectable data, by the number of the read. -/
opaque readByte : Nat → Nat → Byte

/-- Whether the header of a control-store image holds the magic, the kind, the length and the word count of R452 for a
kind; the spec does not place those fields. -/
opaque imageHeaderOk : Nat → List Byte → Bool

/-- Whether a core's instruction cache holds the word at an address at a cycle: core, address, cycle (R412 word 6). -/
opaque cached : Nat → Nat → Nat → Bool

/-- The cycles a request waits in each queue and its service time (R424): request number, then the field. -/
opaque latencyFigure : Nat → Nat → Word

/-- The error bound of the PTP servo that a sync packet carries, in ns (R416). -/
opaque ptpError : Nat → Word

/-- What the default raster image makes of a line (topology 1) or a point (topology 2) at a pixel of the frame, of which
the spec names the widths alone (R337): whether it is covered, the depth, and the two barycentrics. The arguments are
the topology, the screen coordinates of the vertices, and the pixel. -/
opaque lineFragment : Nat → List Word → Nat × Nat → Bool × Word × Word × Word

/-- The bytes that the vertex blocks of the primitives in a list store take (R333), by the image of the list codec, none for
the default one: the spec does not give them. -/
opaque vertexBytes : Option Nat → List (List Word) → Nat

/-- The bytes of an entry of a primitive under an image of the list codec that is not the default one (R348), and those for
which a store must have room to take one more: the image, and the vertices. -/
opaque entryBytes : Nat → List (List Word) → Nat
opaque entryRoom : Nat → Nat

/-- What translated Onyx code leaves in a register that it may change (R357): the number of the word executed, and the
register: vector register n of lane l as 64 l + n, predicate n of lane l as 64 l + 32 + n, scalar register n as 2048 + n. -/
opaque onyxReg : Nat → Nat → Word

/-- Byte `k` of the native code of a translation (R358), by the granule's words and the mode. -/
opaque onyxByte : List DWord → Word → Nat → Byte

/-- Byte `k` of a spill slot, in the form that only the reload reads (R335), for the planes it holds. -/
opaque spillByte : List Byte → Nat → Byte

/-- Byte `k` of the header, of the group records and of the sequencer state of a save slot (R257), of which the spec gives
the contents and not the form: the number of the save, and the offset. -/
opaque saveByte : Nat → Nat → Byte

/-- Where in the header of a save slot the buffer records stand, of which the spec gives the layout and not the place
(R257, R272): a number of which the model takes a place in the header. -/
opaque saveRecords : Nat

/-- Where in the window of a CXL port the decoders place the capacity of its devices (R289): a number of which the model
takes an offset that fits. -/
opaque cxlPlace : Nat → Nat

/-- Whether a ray hits a box, and the distance at which it hits a triangle, where a coordinate is infinite or a NaN, for
which the exact tests of R345 state no result: the coordinates of the box or triangle, then origin and direction. -/
opaque rayBox : List Word → Bool
opaque rayTriangle : List Word → Option Word

/-- What a sequencer computes under an image that is not the default one (R348): the image, the step, the value. -/
opaque imageResult : Nat → Nat → Nat → Word

end Sys2Proof.Config
end

