-- ==== Sys2Proof/Syntax.lean ====
section
/-!
DEFINITION. The one inductive of the steps of the Doritra D9: one constructor per row of spec/opcode_table.json.

The rows with an encoding carry the fields of their word, as raw bit vectors under the names of the table
(`sf` and `im` stand for the fields the table calls `s` and `i`). The rows without bits are the steps of the part that
no word encodes: their arguments are what the acting party chooses.
-/

namespace Sys2Proof

/-- The instructions and steps of the Doritra D9 (spec/opcode_table.json). -/
inductive Instr where
  /-- ILL (R42): Any word with major 0x00 and op 0, including the all-zero word, raises ILLOP. -/
  | ill (x : BitVec 21)
  /-- NOP (R190): Changes no state. -/
  | nop (c : BitVec 3)
  /-- TRAP (R190): Raises TRAPI precisely, with k in DETAIL. -/
  | trap (k : BitVec 14) (c : BitVec 3)
  /-- ERET (R191): Leaves handler mode, and each active fibre continues at its sr.trappc. -/
  | eret (c : BitVec 3)
  /-- MFS (R192): Reads a special register into a scalar register or scalar pair. -/
  | mfs (d sf : BitVec 7) (w : BitVec 1) (c : BitVec 3)
  /-- MFS.V (R192): Reads each active fibre's own value of a special register into a vector register or vector pair. -/
  | mfsV (d sf : BitVec 7) (w : BitVec 1) (c : BitVec 3)
  /-- MFS.B (R192): Reads a 32-byte buffer record slot into a scalar octet. -/
  | mfsB (d : BitVec 7) (b : BitVec 4) (c : BitVec 3)
  /-- MTS (R192): Writes a special register from a scalar register or scalar pair. -/
  | mts (d sf : BitVec 7) (w : BitVec 1) (c : BitVec 3)
  /-- MTS.V (R192): Writes a special register from a vector register. -/
  | mtsV (d sf : BitVec 7) (w : BitVec 1) (c : BitVec 3)
  /-- MTS.B (R192): Writes a buffer record slot for the whole team and ends that slot's touch entries. -/
  | mtsB (d : BitVec 7) (b : BitVec 4) (c : BitVec 3)
  /-- FEAT (R193): Writes 1 when feature bit n was accepted for the context, and 0 otherwise. -/
  | feat (d n : BitVec 7) (m : BitVec 1) (c : BitVec 3)
  /-- CLK (R193): Writes the 64-bit local die cycle count to a scalar pair. -/
  | clk (d : BitVec 7) (c : BitVec 3)
  /-- FENCE (R194): Waits until the earlier accesses are performed within the scope, and acts as a release and an acquire. -/
  | fence (sf c : BitVec 3)
  /-- FENCE.AX (R194): A FENCE that also makes the earlier stores visible to engine operations whose reads begin later. -/
  | fenceAx (sf c : BitVec 3)
  /-- SLEEP (R195): Keeps the group from issuing for a given number of counted cycles. -/
  | sleep (n : BitVec 7) (c : BitVec 3)
  /-- SLEEP.LV (R195): Sleeps and offers the group's lane groups for near-threshold mode. -/
  | sleepLv (n : BitVec 7) (c : BitVec 3)
  /-- BKPT (R190): Raises BKPT precisely, or stops the context when a debugger has armed stops. -/
  | bkpt (k : BitVec 14) (c : BitVec 3)
  /-- MARK (R196): Writes a marker record to the trace ring when tracing is enabled. -/
  | mark (n k : BitVec 7) (c : BitVec 3)
  /-- REGE (R196): Pushes a region identifier onto the group's region stack, which may cause a region stop. -/
  | rege (im : BitVec 16) (c : BitVec 3)
  /-- REGL (R196): Pops the region stack, which may cause a region stop. -/
  | regl (c : BitVec 3)
  /-- CSW (R197): Asks Agate to verify and install a sequencer control-store image, and waits for the status. -/
  | csw (n d : BitVec 7) (c : BitVec 3)
  /-- BRA (R57): Unconditional relative branch. -/
  | bra (t : BitVec 14) (c : BitVec 3)
  /-- BRP (R57): Branches in each active fibre whose predicate is 1. -/
  | brp (p : BitVec 5) (t : BitVec 14) (c : BitVec 3)
  /-- BRN (R57): Branches in each active fibre whose predicate is 0. -/
  | brn (p : BitVec 5) (t : BitVec 14) (c : BitVec 3)
  /-- BRP.ANY (R57): Branches the whole batch when any active fibre has the predicate set. -/
  | brpAny (p : BitVec 5) (t : BitVec 14) (c : BitVec 3)
  /-- BRP.ALL (R57): Branches the whole batch when every active fibre has the predicate set. -/
  | brpAll (p : BitVec 5) (t : BitVec 14) (c : BitVec 3)
  /-- CALL (R57): Writes the return address to a vector pair and branches relative to the PC. -/
  | call (l : BitVec 5) (t : BitVec 14) (c : BitVec 3)
  /-- CALLI (R57): Writes the return address and branches to the target held in a vector pair. -/
  | calli (l t : BitVec 5) (c : BitVec 3)
  /-- RET (R57): Branches to the return address held in a vector pair. -/
  | ret (p : BitVec 5) (c : BitVec 3)
  /-- JMPI (R57): Branches to the target held in a vector pair. -/
  | jmpi (t : BitVec 5) (c : BitVec 3)
  /-- BRX (R57): Indexed branch into the table of words that follows the instruction. -/
  | brx (im n : BitVec 7) (c : BitVec 3)
  /-- FORK (R61): Creates one child fibre in a free lane for each active fibre. -/
  | fork (d n : BitVec 7) (c : BitVec 3)
  /-- FEND (R62): Ends each active fibre; the group exits when its last fibre ends. -/
  | fend (c : BitVec 3)
  /-- RCV (R63): Reconvergence barrier: waits, and merges the waiting batches when every live fibre has arrived. -/
  | rcv (c : BitVec 3)
  /-- SPAWN (R65): Creates a new group on the same core, and waits for a context if none is free. -/
  | spawn (a n : BitVec 7) (c : BitVec 3)
  /-- SPAWN.T (R66): Tries to create a group without waiting, and reports success in a predicate. -/
  | spawnT (k : BitVec 3) (a n : BitVec 7) (c : BitVec 3)
  /-- YIELD (R67): Reconverges the group; under pending pre-emption or migration it is a team boundary. -/
  | yield (c : BitVec 3)
  /-- SHFL (R70): Reads a register from a source lane given in a register. -/
  | shfl (d a b : BitVec 7) (c : BitVec 3)
  /-- ELECT (R68): Sets a predicate in the lowest active lane only. -/
  | elect (k : BitVec 5) (c : BitVec 3)
  /-- VOTE.ANY (R69): Sets a predicate when any active fibre has the source predicate set. -/
  | voteAny (k j : BitVec 5) (c : BitVec 3)
  /-- VOTE.ALL (R69): Sets a predicate when every active fibre has the source predicate set. -/
  | voteAll (k j : BitVec 5) (c : BitVec 3)
  /-- VOTE.BALLOT (R69): Writes the lane mask of the source predicate to a vector register. -/
  | voteBallot (d : BitVec 7) (j : BitVec 5) (c : BitVec 3)
  /-- SHFL.X (R70): Reads a register from lane Lane() XOR an immediate mask. -/
  | shflX (d a : BitVec 7) (m : BitVec 5) (c : BitVec 3)
  /-- QPOP (R72): Pops queue entries into the active fibres, and waits while the queue is empty. -/
  | qpop (k : BitVec 3) (d : BitVec 7) (q : BitVec 6) (c : BitVec 3)
  /-- QPOP.T (R72): Pops queue entries without waiting. -/
  | qpopT (k : BitVec 3) (d : BitVec 7) (q : BitVec 6) (c : BitVec 3)
  /-- QPUSH (R73): Appends one entry per active fibre atomically, under the watermark handling. -/
  | qpush (a : BitVec 7) (q : BitVec 6) (c : BitVec 3)
  /-- QSTAT.DEPTH (R74): Reads the queue depth. -/
  | qstatDepth (d q : BitVec 6) (c : BitVec 3)
  /-- QSTAT.FREE (R74): Reads the queue's free space. -/
  | qstatFree (d q : BitVec 6) (c : BitVec 3)
  /-- QSTAT.FLAGS (R74): Reads the drain flag and the over state of the queue. -/
  | qstatFlags (d q : BitVec 6) (c : BitVec 3)
  /-- BAR (R77): The group arrives at a team barrier and waits for the phase to complete. -/
  | bar (k : BitVec 3) (n : BitVec 7) (z : BitVec 1) (c : BitVec 3)
  /-- BARV (R77): The group arrives at a team barrier without waiting and records the phase. -/
  | barv (k : BitVec 3) (n : BitVec 7) (z : BitVec 1) (c : BitVec 3)
  /-- BARW (R77): Waits for the phase recorded by the group's last BARV. -/
  | barw (k : BitVec 3) (z : BitVec 1) (c : BitVec 3)
  /-- PAND (R81): Predicate AND, with optional inversion of each operand. -/
  | pand (k : BitVec 5) (m : BitVec 1) (im : BitVec 5) (n : BitVec 1) (j : BitVec 5) (c : BitVec 3)
  /-- POR (R81): Predicate OR. -/
  | por (k : BitVec 5) (m : BitVec 1) (im : BitVec 5) (n : BitVec 1) (j : BitVec 5) (c : BitVec 3)
  /-- PXOR (R81): Predicate XOR. -/
  | pxor (k : BitVec 5) (m : BitVec 1) (im : BitVec 5) (n : BitVec 1) (j : BitVec 5) (c : BitVec 3)
  /-- PNOT (R81): Predicate NOT. -/
  | pnot (k : BitVec 5) (m : BitVec 1) (im : BitVec 5) (c : BitVec 3)
  /-- PSET (R81): Sets a predicate to whether a vector register is nonzero. -/
  | pset (k : BitVec 5) (a : BitVec 7) (c : BitVec 3)
  /-- SADD (R82): Scalar add. -/
  | sadd (d a b : BitVec 6) (c : BitVec 3)
  /-- SSUB (R82): Scalar subtract. -/
  | ssub (d a b : BitVec 6) (c : BitVec 3)
  /-- SMUL (R82): Scalar multiply, low 32 bits. -/
  | smul (d a b : BitVec 6) (c : BitVec 3)
  /-- SMULH (R82): Scalar multiply, high 32 bits, signed or unsigned. -/
  | smulh (d a b : BitVec 6) (u : BitVec 1) (c : BitVec 3)
  /-- SAND (R82): Scalar bitwise AND. -/
  | sand (d a b : BitVec 6) (c : BitVec 3)
  /-- SOR (R82): Scalar bitwise OR. -/
  | sor (d a b : BitVec 6) (c : BitVec 3)
  /-- SXOR (R82): Scalar bitwise XOR. -/
  | sxor (d a b : BitVec 6) (c : BitVec 3)
  /-- SSHL (R83): Scalar shift left. -/
  | sshl (d a b : BitVec 6) (c : BitVec 3)
  /-- SSHR (R83): Scalar logical shift right. -/
  | sshr (d a b : BitVec 6) (c : BitVec 3)
  /-- SSRA (R83): Scalar arithmetic shift right. -/
  | ssra (d a b : BitVec 6) (c : BitVec 3)
  /-- SMIN (R82): Scalar minimum, signed or unsigned. -/
  | smin (d a b : BitVec 6) (u : BitVec 1) (c : BitVec 3)
  /-- SMAX (R82): Scalar maximum, signed or unsigned. -/
  | smax (d a b : BitVec 6) (u : BitVec 1) (c : BitVec 3)
  /-- SCMP (R82): Scalar compare EQ, NE, LT or LTU, writing 1 or 0. -/
  | scmp (d a b : BitVec 6) (u : BitVec 2) (c : BitVec 3)
  /-- SSEL (R82): Scalar select on the old destination. -/
  | ssel (d a b : BitVec 6) (c : BitVec 3)
  /-- SMOV (R82): Scalar move. -/
  | smov (d a : BitVec 6) (c : BitVec 3)
  /-- SLEA (R82): Scalar add of a shifted operand. -/
  | slea (d a b : BitVec 6) (h : BitVec 2) (c : BitVec 3)
  /-- SADDI (R84): Scalar add of a sign-extended immediate. -/
  | saddi (d a : BitVec 6) (im : BitVec 11) (c : BitVec 3)
  /-- SXORI (R84): Scalar XOR with a sign-extended immediate. -/
  | sxori (d a : BitVec 6) (im : BitVec 11) (c : BitVec 3)
  /-- VADD (R85): Vector add, with optional signed saturation. -/
  | vadd (d a b : BitVec 7) (c : BitVec 3)
  /-- VSUB (R85): Vector subtract. -/
  | vsub (d a b : BitVec 7) (c : BitVec 3)
  /-- VMUL (R85): Vector multiply, low 32 bits. -/
  | vmul (d a b : BitVec 7) (c : BitVec 3)
  /-- VMAD (R85): Vector multiply-add into the destination. -/
  | vmad (d a b : BitVec 7) (c : BitVec 3)
  /-- VMULH.S (R85): Vector multiply high, signed. -/
  | vmulhS (d a b : BitVec 7) (c : BitVec 3)
  /-- VMULH.U (R85): Vector multiply high, unsigned. -/
  | vmulhU (d a b : BitVec 7) (c : BitVec 3)
  /-- VADDC (R85): Vector add with carry in and carry out through p30. -/
  | vaddc (d a b : BitVec 7) (c : BitVec 3)
  /-- VABS (R87): Vector absolute value. -/
  | vabs (d a : BitVec 7) (c : BitVec 3)
  /-- VCLZ (R87): Count of leading zero bits. -/
  | vclz (d a : BitVec 7) (c : BitVec 3)
  /-- VPOPC (R87): Count of one bits. -/
  | vpopc (d a : BitVec 7) (c : BitVec 3)
  /-- VBREV (R87): Bit reversal. -/
  | vbrev (d a : BitVec 7) (c : BitVec 3)
  /-- VMOV (R87): Vector move. -/
  | vmov (d a : BitVec 7) (c : BitVec 3)
  /-- VMOVS (R87): Moves a scalar register to a vector register. -/
  | vmovs (d : BitVec 7) (sf : BitVec 6) (c : BitVec 3)
  /-- VAND (R85): Vector bitwise AND. -/
  | vand (d a b : BitVec 7) (c : BitVec 3)
  /-- VOR (R85): Vector bitwise OR. -/
  | vor (d a b : BitVec 7) (c : BitVec 3)
  /-- VXOR (R85): Vector bitwise XOR. -/
  | vxor (d a b : BitVec 7) (c : BitVec 3)
  /-- VBFE (R86): Bit-field extract. -/
  | vbfe (d a b : BitVec 7) (c : BitVec 3)
  /-- VSHL (R83): Vector shift left. -/
  | vshl (d a b : BitVec 7) (c : BitVec 3)
  /-- VSHR (R83): Vector logical shift right. -/
  | vshr (d a b : BitVec 7) (c : BitVec 3)
  /-- VSRA (R83): Vector arithmetic shift right. -/
  | vsra (d a b : BitVec 7) (c : BitVec 3)
  /-- VBFI (R86): Bit-field insert. -/
  | vbfi (d a b : BitVec 7) (c : BitVec 3)
  /-- VMIN.S (R85): Vector signed minimum. -/
  | vminS (d a b : BitVec 7) (c : BitVec 3)
  /-- VMIN.U (R85): Vector unsigned minimum. -/
  | vminU (d a b : BitVec 7) (c : BitVec 3)
  /-- VMAX.S (R85): Vector signed maximum. -/
  | vmaxS (d a b : BitVec 7) (c : BitVec 3)
  /-- VMAX.U (R85): Vector unsigned maximum. -/
  | vmaxU (d a b : BitVec 7) (c : BitVec 3)
  /-- VDIV.S (R88): Signed division, truncating toward zero. -/
  | vdivS (d a b : BitVec 7) (c : BitVec 3)
  /-- VDIV.U (R88): Unsigned division. -/
  | vdivU (d a b : BitVec 7) (c : BitVec 3)
  /-- VREM.S (R88): Signed remainder. -/
  | vremS (d a b : BitVec 7) (c : BitVec 3)
  /-- VREM.U (R88): Unsigned remainder. -/
  | vremU (d a b : BitVec 7) (c : BitVec 3)
  /-- VCMP (R89): Integer compare under a 4-bit condition, writing a predicate. -/
  | vcmp (n m : BitVec 2) (k : BitVec 5) (a b : BitVec 7) (c : BitVec 3)
  /-- VSEL (R89): Selects a or b according to the old destination. -/
  | vsel (d a b : BitVec 7) (c : BitVec 3)
  /-- VADDI (R90): Vector add of a sign-extended immediate. -/
  | vaddi (d a : BitVec 7) (im : BitVec 9) (c : BitVec 3)
  /-- VSHLI (R90): Vector shift left by an immediate. -/
  | vshli (d a : BitVec 7) (n : BitVec 5) (c : BitVec 3)
  /-- VSHRI (R90): Vector logical shift right by an immediate. -/
  | vshri (d a : BitVec 7) (n : BitVec 5) (c : BitVec 3)
  /-- VSRAI (R90): Vector arithmetic shift right by an immediate. -/
  | vsrai (d a : BitVec 7) (n : BitVec 5) (c : BitVec 3)
  /-- FADD (R94): FP32 add. -/
  | fadd (d a b : BitVec 7) (c : BitVec 3)
  /-- FSUB (R94): FP32 subtract. -/
  | fsub (d a b : BitVec 7) (c : BitVec 3)
  /-- FMUL (R94): FP32 multiply. -/
  | fmul (d a b : BitVec 7) (c : BitVec 3)
  /-- FFMA (R94): FP32 fused multiply-add into the destination. -/
  | ffma (d a b : BitVec 7) (c : BitVec 3)
  /-- FFMS (R94): FP32 fused multiply-subtract. -/
  | ffms (d a b : BitVec 7) (c : BitVec 3)
  /-- FMIN (R95): FP32 minimumNumber. -/
  | fmin (d a b : BitVec 7) (c : BitVec 3)
  /-- FMAX (R95): FP32 maximumNumber. -/
  | fmax (d a b : BitVec 7) (c : BitVec 3)
  /-- FLDEXP (R96): Scales an FP32 value by a power of two. -/
  | fldexp (d a b : BitVec 7) (c : BitVec 3)
  /-- FRND (R96): Rounds to an integral FP32 value in the mode given in the word. -/
  | frnd (d a : BitVec 7) (m : BitVec 2) (c : BitVec 3)
  /-- FFRAC (R96): Fractional part of an FP32 value. -/
  | ffrac (d a : BitVec 7) (c : BitVec 3)
  /-- FCLASS (R96): Writes a one-hot mask of the FP32 class. -/
  | fclass (d a : BitVec 7) (c : BitVec 3)
  /-- FEXPO (R96): Writes Floor(Log2(|a|)) as an integer. -/
  | fexpo (d a : BitVec 7) (c : BitVec 3)
  /-- HADD2 (R98): Packed FP16 add. -/
  | hadd2 (d a b : BitVec 7) (c : BitVec 3)
  /-- HMUL2 (R98): Packed FP16 multiply. -/
  | hmul2 (d a b : BitVec 7) (c : BitVec 3)
  /-- HFMA2 (R98): Packed FP16 fused multiply-add. -/
  | hfma2 (d a b : BitVec 7) (c : BitVec 3)
  /-- BFMA2 (R98): Packed BF16 fused multiply-add. -/
  | bfma2 (d a b : BitVec 7) (c : BitVec 3)
  /-- FCMP (R97): FP32 compare under a float condition, writing a predicate. -/
  | fcmp (n m : BitVec 2) (k : BitVec 5) (a b : BitVec 7) (c : BitVec 3)
  /-- DADD (R99): FP64 add. -/
  | dadd (d a b : BitVec 7) (c : BitVec 3)
  /-- DMUL (R99): FP64 multiply. -/
  | dmul (d a b : BitVec 7) (c : BitVec 3)
  /-- DFMA (R99): FP64 fused multiply-add. -/
  | dfma (d a b : BitVec 7) (c : BitVec 3)
  /-- DCMP (R97): FP64 compare, writing a predicate. -/
  | dcmp (n m : BitVec 2) (k : BitVec 5) (a b : BitVec 7) (c : BitVec 3)
  /-- FDIV (R100): Correctly rounded FP32 division. -/
  | fdiv (d a b : BitVec 7) (c : BitVec 3)
  /-- FRCP (R100): Correctly rounded reciprocal. -/
  | frcp (d a : BitVec 7) (c : BitVec 3)
  /-- FRSQ (R100): Correctly rounded reciprocal square root. -/
  | frsq (d a : BitVec 7) (c : BitVec 3)
  /-- FSQRT (R100): Correctly rounded square root. -/
  | fsqrt (d a : BitVec 7) (c : BitVec 3)
  /-- FEXP2 (R100): Correctly rounded 2^a. -/
  | fexp2 (d a : BitVec 7) (c : BitVec 3)
  /-- FLOG2 (R100): Correctly rounded log2 a. -/
  | flog2 (d a : BitVec 7) (c : BitVec 3)
  /-- FSIN (R100): Correctly rounded sine. -/
  | fsin (d a : BitVec 7) (c : BitVec 3)
  /-- FCOS (R100): Correctly rounded cosine. -/
  | fcos (d a : BitVec 7) (c : BitVec 3)
  /-- CVTF (R103): Converts an integer to a float. -/
  | cvtf (d a : BitVec 7) (h : BitVec 1) (sf t c : BitVec 3)
  /-- CVTI (R104): Converts a float to an integer. -/
  | cvti (d a : BitVec 7) (h : BitVec 1) (sf t c : BitVec 3)
  /-- CVTN (R105): Converts between float formats. -/
  | cvtn (d a : BitVec 7) (h : BitVec 1) (sf t c : BitVec 3)
  /-- QNT (R107): Quantises a block of FP32 lanes into a KBF or MX format. -/
  | qnt (d a : BitVec 7) (f : BitVec 5) (c : BitVec 3)
  /-- DQNT (R109): Converts each block element back to FP32. -/
  | dqnt (d a : BitVec 7) (f : BitVec 5) (c : BitVec 3)
  /-- PACK2 (R110): Packs two FP32 values into FP16 or BF16 halves. -/
  | pack2 (d a : BitVec 7) (f c : BitVec 3)
  /-- UNPK (R110): Unpacks two 16-bit halves into FP32. -/
  | unpk (d a : BitVec 7) (f c : BitVec 3)
  /-- LDG (R120): Covered global load through a buffer record. -/
  | ldg (d a : BitVec 7) (sf : BitVec 4) (w : BitVec 2) (k c : BitVec 3)
  /-- STG (R120): Covered global store through a buffer record. -/
  | stg (d a : BitVec 7) (sf : BitVec 4) (w : BitVec 2) (k c : BitVec 3)
  /-- TCH (R115): Touch: checks, translates and fills lines, and records a touch entry. -/
  | tch (a : BitVec 7) (sf : BitVec 4) (w : BitVec 2) (k : BitVec 1) (c : BitVec 3)
  /-- ATG (R124): Global atomic read-modify-write. -/
  | atg (d a : BitVec 7) (sf : BitVec 4) (o : BitVec 5) (c : BitVec 3)
  /-- ATGC (R125): Global atomic compare-and-swap. -/
  | atgc (d a : BitVec 7) (sf : BitVec 4) (k c : BitVec 3)
  /-- MCS (R127): Multi-destination store to every record of a mask, checked before any write. -/
  | mcs (d a : BitVec 7) (m : BitVec 4) (k c : BitVec 3)
  /-- RDS (R127): Multi-destination atomic integer add. -/
  | rds (d a : BitVec 7) (m : BitVec 4) (k c : BitVec 3)
  /-- RDS.F (R127): Multi-destination atomic float add. -/
  | rdsF (d a : BitVec 7) (m : BitVec 4) (k c : BitVec 3)
  /-- LDX (R128): Scratchpad load at the unit, cluster or die level. -/
  | ldx (d a : BitVec 7) (l : BitVec 2) (sf : BitVec 3) (w o : BitVec 2) (c : BitVec 3)
  /-- STX (R128): Scratchpad store. -/
  | stx (d a : BitVec 7) (l : BitVec 2) (sf : BitVec 3) (w o : BitVec 2) (c : BitVec 3)
  /-- ATX (R130): Scratchpad atomic. -/
  | atx (d a : BitVec 7) (l : BitVec 2) (p : BitVec 3) (w : BitVec 1) (q : BitVec 2) (c : BitVec 3)
  /-- LDL (R131): Load from the lane's own slice. -/
  | ldl (d a : BitVec 7) (w o : BitVec 2) (c : BitVec 3)
  /-- STL (R131): Store to the lane's own slice. -/
  | stl (d a : BitVec 7) (w o : BitVec 2) (c : BitVec 3)
  /-- TMOV (R134): Starts a two-dimensional move between scratchpad levels that completes to a barrier object. -/
  | tmov (n m : BitVec 7) (c : BitVec 3)
  /-- TMOV.W (R134): Tile move that waits for its completion. -/
  | tmovW (n m : BitVec 7) (c : BitVec 3)
  /-- ACQ (R137): Acquires a sync object, and waits for a held lock. -/
  | acq (sf : BitVec 3) (o : BitVec 7) (c : BitVec 3)
  /-- REL (R137): Releases a sync object, freeing a lock that the group holds. -/
  | rel (sf : BitVec 3) (o : BitVec 7) (c : BitVec 3)
  /-- ARV (R137): Releases and arrives on a barrier, or adds to a counter. -/
  | arv (sf : BitVec 3) (n o : BitVec 7) (c : BitVec 3)
  /-- ARV.X (R137): Releases, arrives on a barrier once and declares pending bytes. -/
  | arvX (sf : BitVec 3) (n o : BitVec 7) (c : BitVec 3)
  /-- WAITP (R139): Waits for a barrier phase or a counter target and acquires, trapping when FAULT is set. -/
  | waitp (sf : BitVec 3) (p o : BitVec 7) (c : BitVec 3)
  /-- WAITP.NF (R139): WAITP that ignores the flag word. -/
  | waitpNf (sf : BitVec 3) (p o : BitVec 7) (c : BitVec 3)
  /-- SOFLG (R137): Reads a selected field of a sync object. -/
  | soflg (l : BitVec 3) (d o : BitVec 7) (c : BitVec 3)
  /-- SOFLG.FLAG.C (R137): Reads and clears an object's flag word in one atomic step. -/
  | soflgFlagC (d o : BitVec 7) (c : BitVec 3)
  /-- RGET (R142): Takes a published ring slot and acquires, waiting while none is filled. -/
  | rget (sf : BitVec 3) (d r : BitVec 7) (c : BitVec 3)
  /-- RGET.T (R142): Takes a ring slot without waiting. -/
  | rgetT (sf : BitVec 3) (d r : BitVec 7) (c : BitVec 3)
  /-- RPUT (R142): Releases and frees ring slots by count. -/
  | rput (sf : BitVec 3) (n r : BitVec 7) (c : BitVec 3)
  /-- RCLM (R142): Claims a free ring slot, waiting while none is free. -/
  | rclm (sf : BitVec 3) (d r : BitVec 7) (c : BitVec 3)
  /-- RCLM.T (R142): Claims a ring slot without waiting. -/
  | rclmT (sf : BitVec 3) (d r : BitVec 7) (c : BitVec 3)
  /-- RPUB (R142): Releases and publishes claimed ring slots by count. -/
  | rpub (sf : BitVec 3) (n r : BitVec 7) (c : BitVec 3)
  /-- CPY (R143): Starts per-lane copies between global memory and a scratchpad. -/
  | cpy (w : BitVec 2) (a n : BitVec 7) (c : BitVec 3)
  /-- CPYB (R144): Starts a bulk copy of one range. -/
  | cpyb (sf : BitVec 3) (n m : BitVec 7) (c : BitVec 3)
  /-- CPYD (R147): Starts a copy that expands codes through a decode stream. -/
  | cpyd (sf : BitVec 3) (n m : BitVec 7) (c : BitVec 3)
  /-- CTAB (R146): Loads a decode table into a stream's table queue. -/
  | ctab (n : BitVec 7) (c : BitVec 3)
  /-- INTR (R151): Records an interest in a named tile at the die router. -/
  | intr (r : BitVec 3) (n m : BitVec 7) (c : BitVec 3)
  /-- ANNC (R152): Announces a named tile to the routers of its reach. -/
  | annc (r : BitVec 3) (n m : BitVec 7) (c : BitVec 3)
  /-- NRET (R153): Retires the iterations of a tensor up to the given one within the reach. -/
  | nret (r : BitVec 3) (n : BitVec 7) (c : BitVec 3)
  /-- NPRB (R154): Reads a snapshot of a name's state from the routers and stores. -/
  | nprb (r : BitVec 3) (n d : BitVec 7) (c : BitVec 3)
  /-- GREQ (R156): Requests the fill of a procedural block without waiting. -/
  | greq (n d : BitVec 7) (c : BitVec 3)
  /-- GDONE (R157): Ends a generator's fill with success, making the block FILLED. -/
  | gdone (c : BitVec 3)
  /-- GFAIL (R157): Ends a generator's fill with failure, poisoning the block. -/
  | gfail (k : BitVec 7) (c : BitVec 3)
  /-- MBLD (R167): Queues a load of a B tile into Garnet macros. -/
  | mbld (sf : BitVec 3) (n o : BitVec 7) (c : BitVec 3)
  /-- MBLD.W (R162): MBLD that waits for its completion. -/
  | mbldW (sf : BitVec 3) (n : BitVec 7) (c : BitVec 3)
  /-- MMUL (R168): Queues an exact block multiply into partial sums. -/
  | mmul (sf : BitVec 3) (n o : BitVec 7) (c : BitVec 3)
  /-- MMUL.W (R162): MMUL that waits for its completion. -/
  | mmulW (sf : BitVec 3) (n : BitVec 7) (c : BitVec 3)
  /-- MHAD (R172): Queues a block Hadamard transform along rows. -/
  | mhad (sf : BitVec 3) (n o : BitVec 7) (c : BitVec 3)
  /-- MHAD.W (R162): MHAD that waits for its completion. -/
  | mhadW (sf : BitVec 3) (n : BitVec 7) (c : BitVec 3)
  /-- MSCA (R169): Queues the scaling and accumulation of partial sums into an FP32 plane. -/
  | msca (sf : BitVec 3) (n o : BitVec 7) (c : BitVec 3)
  /-- MSCA.W (R162): MSCA that waits for its completion. -/
  | mscaW (sf : BitVec 3) (n : BitVec 7) (c : BitVec 3)
  /-- MQNT (R171): Queues the quantisation of a tile into a KBF plane and an exponent plane. -/
  | mqnt (sf : BitVec 3) (n o : BitVec 7) (c : BitVec 3)
  /-- MQNT.W (R162): MQNT that waits for its completion. -/
  | mqntW (sf : BitVec 3) (n : BitVec 7) (c : BitVec 3)
  /-- MOUT (R173): Copies a meshlet into a meshlet slot and returns its handle. -/
  | mout (n d : BitVec 7) (c : BitVec 3)
  /-- PRIM (R174): Submits primitives of a meshlet slot to the binners. -/
  | prim (n : BitVec 7) (c : BitVec 3)
  /-- TLD (R177): Loads a tile-plane element at a pixel. -/
  | tld (k : BitVec 3) (d a : BitVec 7) (c : BitVec 3)
  /-- TST (R177): Stores a tile-plane element at a pixel. -/
  | tst (k : BitVec 3) (d a : BitVec 7) (c : BitVec 3)
  /-- BLND (R179): Blends a colour into a plane in fragment-key order and releases the order slot. -/
  | blnd (k : BitVec 3) (d a : BitVec 7) (c : BitVec 3)
  /-- DPTH (R180): Depth test with a write on a pass, in fragment-key order. -/
  | dpth (k : BitVec 3) (d a : BitVec 7) (c : BitVec 3)
  /-- DPTH.T (R180): Depth test without a write. -/
  | dpthT (k : BitVec 3) (d a : BitVec 7) (c : BitVec 3)
  /-- DISC (R181): Discards the fragment, releasing its order slot and ending the fibre. -/
  | disc (c : BitVec 3)
  /-- TRET (R182): Retires the team's tile once its fragments and matrix operations are done, and starts the export or spill. -/
  | tret (n : BitVec 7) (c : BitVec 3)
  /-- IPOL (R184): Interpolates an attribute word at the given barycentrics. -/
  | ipol (j : BitVec 3) (d a : BitVec 7) (h : BitVec 1) (c : BitVec 3)
  /-- SMPL (R185): Samples a texture at an explicit LOD. -/
  | smpl (t : BitVec 3) (d a : BitVec 7) (c : BitVec 3)
  /-- SMPL.G (R185): Samples a texture with quad derivatives and an LOD bias. -/
  | smplG (t : BitVec 3) (d a : BitVec 7) (c : BitVec 3)
  /-- SMPG (R185): Gathers one channel from the four texels of the bilinear footprint. -/
  | smpg (t : BitVec 3) (d a : BitVec 7) (c : BitVec 3)
  /-- SMPG.G (R185): Gather with quad-derivative LOD. -/
  | smpgG (t : BitVec 3) (d a : BitVec 7) (c : BitVec 3)
  /-- RAYQ (R187): Starts a ray query for each active fibre. -/
  | rayq (sf : BitVec 3) (d a : BitVec 7) (c : BitVec 3)
  /-- RAYQ.O (R187): Starts a ray query that treats every hit as opaque. -/
  | rayqO (sf : BitVec 3) (d a : BitVec 7) (c : BitVec 3)
  /-- RAYC (R188): Rejects the pending candidate and resumes the traversal. -/
  | rayc (d : BitVec 7) (c : BitVec 3)
  /-- RAYA (R188): Accepts the pending candidate and resumes the traversal. -/
  | raya (d : BitVec 7) (c : BitVec 3)
  /-- HNT.IMM (R22): Hint that supplies the upper bits of a 32-bit immediate. -/
  | hntImm (p : BitVec 23)
  /-- HNT.GAP (R22): Hint that gives the effective gap. -/
  | hntGap (g : BitVec 8)
  /-- HNT.PRED (R22): Hint that predicates the next instruction. -/
  | hntPred (o : BitVec 1) (p : BitVec 5)
  /-- HNT.RND (R22): Hint that sets the rounding mode for one instruction. -/
  | hntRnd (m : BitVec 2)
  /-- HNT.SCOPE (R22): Hint that replaces the instruction's scope. -/
  | hntScope (sf : BitVec 3)
  /-- HNT.MOD (R22): Hint that gives operand and result modifiers. -/
  | hntMod (m : BitVec 7)
  /-- HNT.RELAX (R22): Hint that removes an access from the ordering of its sync object. -/
  | hntRelax
  /-- LAUNCH_HEAD_READ (R227): The sequencer reads and checks the block that reaches head. -/
  | launchHeadRead (ctx q : Nat)
  /-- PREDECESSOR_TEST (R228): The sequencer retests the predecessors of a waiting launch when a named counter changes. -/
  | predecessorTest (lid : Nat)
  /-- GEOMETRY_BATCH_TAKE (R326): An Evaluated launch of a geometry-source queue becomes the next batch of an open pass. -/
  | geometryBatchTake (lid : Nat)
  /-- BIND_RECORD_WRITE (R231): Agate writes, changes or clears a bind record in a die's slot table. -/
  | bindRecordWrite (die slot : Nat) (rec : BitVec 128)
  /-- LIST_STORE_ALLOC (R333): Agate allocates a list store on each binning die when a pass opens. -/
  | listStoreAlloc (lid : Nat) (bases : List Nat)
  /-- INDEX_TAKE (R234): A core with room chooses a launch and takes or steals a team index. -/
  | indexTake (core : Nat)
  /-- PERSISTENT_GRID_START (R214): When every team of a persistent grid is admitted, all teams begin in one cycle. -/
  | persistentGridStart (lid : Nat)
  /-- LAUNCH_COMPLETION (R230): The sequencer releases the grid's accesses, acts on the done object and clears the bind records. -/
  | launchCompletion (lid : Nat)
  /-- BALANCER_EVALUATE (R237): Every 16 µs a die's balancer moves a core's partition boundary by one context. -/
  | balancerEvaluate (die : Nat)
  /-- PARTITION_CONTROL_WRITE (R236): Agate writes a core's partition control register, and a bmin above bmax is ignored and logged. -/
  | partitionControlWrite (core : Nat) (v : BitVec 32)
  /-- MIGRATION_REQUEST (R238): Agate asks that a resident team be migrated at its next YIELD. -/
  | migrationRequest (tid : Nat)
  /-- MIGRATION_WITHDRAW (R238): Agate withdraws a migration request that has not reached a boundary within 2 ms. -/
  | migrationWithdraw (tid : Nat)
  /-- TRAP_DISPOSITION (R244): Once older writes have landed, a trap is disposed of by the first applicable rule. -/
  | trapDisposition (core g : Nat)
  /-- PAGE_SERVICE (R245): Agate services a PAGE fault or forwards it to the host, then replays the fibres or disposes of the trap again. -/
  | pageService (token : Nat)
  /-- TEAM_SAVE (R257): A team at a boundary is saved to its slot and descheduled. -/
  | teamSave (tid : Nat)
  /-- TEAM_RESTORE (R258): Agate restores a saved team whole onto a core that can admit it. -/
  | teamRestore (tid core : Nat)
  /-- DEADLINE_EXPIRY (R260): A context still Draining at its deadline is reset by force and becomes Lost. -/
  | deadlineExpiry (ctx : Nat)
  /-- PUSHER_RESCHEDULE (R217): Within 64 counted cycles of the depth falling below low, the Descheduled pushers become Resident and re-execute their pushes. -/
  | pusherReschedule (core g : Nat)
  /-- TOUCH_ENTRY_EXPIRY (R116): A touch entry ceases to be live 256 counted cycles after its issue. -/
  | touchEntryExpiry (core g : Nat)
  /-- WC_BUFFER_TIMEOUT (R121): Non-temporal stores held 4,096 cycles in a write-combining buffer are sent. -/
  | wcBufferTimeout (core g : Nat)
  /-- SLEEP_END (R195): A sleep ends after its count of counted cycles. -/
  | sleepEnd (core g : Nat)
  /-- BARRIER_WAVE_RELEASE (R427): A wave of groups freed by a phase completion is released at its scheduled cycle. -/
  | barrierWaveRelease (core : Nat)
  /-- ENGINE_TAKE (R293): An idle copy engine takes the next context's oldest queued entry, and claims its ring slot. -/
  | engineTake (die op : Nat)
  /-- ENGINE_LINE_SERVICE (R149): A missing translation of an engine line is serviced, and the line replays, or it is declared unresolvable and fails. -/
  | engineLineService (token : Nat)
  /-- TABLE_READY (R264): A decode table's read completes and it becomes ready in CTAB order, ending a stream stall. -/
  | tableReady (die ctx stream : Nat)
  /-- STREAM_STATUS_WRITE (R299): A stalled decode stream's status record is written at least every 65,536 die cycles. -/
  | streamStatusWrite (die ctx stream : Nat)
  /-- OPERATION_COMPLETION (R148): An asynchronous engine operation completes, succeeding or failing, and publishes its ring slot. -/
  | operationCompletion (die op : Nat)
  /-- BYTE_CONTRIBUTION (R455): The declared byte count is applied to the object as it stands, after any translation service. -/
  | byteContribution (n : Nat)
  /-- MATRIX_OP_COMPLETE (R162): A queued matrix operation completes, merges its flags and contributes its bytes. -/
  | matrixOpComplete (core : Nat)
  /-- TILE_EXPORT (R182): The export of a retired tile's colour plane to the frame buffer completes, and the tile returns to Opal. -/
  | tileExport (tid : Nat)
  /-- TILE_SPILL (R323): A prefix task's TRET spills every plane losslessly and Opal keeps the tile. -/
  | tileSpill (tid : Nat)
  /-- REMOTE_TIMEOUT (R277): A fabric or CXL request not completed within 50 ms ends as an uncorrectable error. -/
  | remoteTimeout (n : Nat)
  /-- BINNER_APPEND (R331): A binner appends a primitive record to its tiles' lists in key order. -/
  | binnerAppend (die lid : Nat)
  /-- LINK_FAILED (R332): A binning path that has not delivered for 50 ms fails the pass. -/
  | linkFailed (lid src dst : Nat)
  /-- TILE_TASK_ADMIT (R336): Opal admits a queued prefix or final task of a tile on a bound core. -/
  | tileTaskAdmit (lid tile core : Nat)
  /-- FRAGMENT_CREATE (R338): The raster sequencer resolves depth and creates fragment and helper fibres in key order. -/
  | fragmentCreate (tid : Nat)
  /-- SEQ_HANG (R350): A sequencer operation left unfinished for 2^24 cycles is ended and logged. -/
  | seqHang (kind core g : Nat)
  /-- CSW_INSTALL (R197): Agate finishes verifying a control-store image, installs it on every die and returns the status. -/
  | cswInstall (core g : Nat)
  /-- ONYX_TRANSLATE (R358): A translation sequencer finishes translating a granule and installs it in one step. -/
  | onyxTranslate (ctx pa : Nat) (mode : BitVec 32)
  /-- INTEREST_FORWARD (R391): A router forwards an interest's request up the reach, or holds it while the request table is full. -/
  | interestForward (die e : Nat)
  /-- TILE_ARRIVAL (R391): An announced tile reaches a router, is stored, and satisfies and returns down the recorded requests. -/
  | tileArrival (n : Nat)
  /-- INTEREST_WRITE_DONE (R392): The name engine finishes writing a tile into a destination, and the interest ends. -/
  | interestWriteDone (die e : Nat)
  /-- INTEREST_LIFETIME_END (R393): A die router ends an interest whose lifetime has elapsed, with NEVER. -/
  | interestLifetimeEnd (die e : Nat)
  /-- RETIREMENT_APPLY (R153): A router advances its retirement mark, drops copies and fails the covered interests. -/
  | retirementApply (n : Nat)
  /-- GENERATOR_START (R401): Agate reads the generator's launch block and starts a team to fill a block. -/
  | generatorStart (ctx va core : Nat)
  /-- PROC_EVICTION (R404): After a GDONE over budget, Agate marks the oldest eligible block evicting and invalidates its page. -/
  | procEviction (ctx range : Nat)
  /-- INVALIDATION_COMPLETE (R285): An invalidation completes once live touch entries and engine holds on covered lines have ended. -/
  | invalidationComplete (n : Nat)
  /-- LATENCY_ACCOUNT (R423): When a sampled line request's reply reaches the coalescer, a latency account is written. -/
  | latencyAccount (n : Nat)
  /-- SAMPLE_EXPIRY (R409): At each sampling period, a core samples the next eligible group and writes or drops a record. -/
  | sampleExpiry (core : Nat)
  /-- SYNC_PACKET (R415): A C-die emits a sync packet when its count's low 16 bits wrap or its frequency changes. -/
  | syncPacket (die : Nat)
  /-- CLOCK_PATTERN_WRITE (R425): Agate writes a cluster's clock pattern, effective at the next multiple of 32, and a write of 0 is ignored. -/
  | clockPatternWrite (cluster : Nat) (v : BitVec 32)
  /-- CURRENT_SLOPE_WRITE (R426): Agate writes a cluster's wave size and spacing. -/
  | currentSlopeWrite (cluster : Nat) (v : BitVec 32)
  /-- POWER_REGISTER_WRITE (R429): Agate writes a die's ntwait and nten. -/
  | powerRegisterWrite (die : Nat) (v : BitVec 32)
  /-- NT_ENTRY (R429): An island enters near-threshold mode after its groups have stalled for ntwait cycles, or at a SLEEP.LV. -/
  | ntEntry (core quad island : Nat)
  /-- NT_EXIT (R430): An island returns to nominal 0.25 µs after a wake cause. -/
  | ntExit (core quad island : Nat)
  /-- HOLD_EXPIRY (R428): An empty quadrant's islands go Off 2 µs after entering Hold, when the arbiter limit allows. -/
  | holdExpiry (core quad : Nat)
  /-- RAMP_ADMIT (R431): The in-rush arbiter admits a queued quadrant's islands to ramp. -/
  | rampAdmit (die : Nat)
  /-- RAMP_DONE (R428): Ramping islands become Nominal after 1.2 µs. -/
  | rampDone (core quad : Nat)
  /-- BUDGET_LEASE_END (R433): When a power budget's lease ends with no later valid message, the floor applies. -/
  | budgetLeaseEnd
  /-- AGEING_REPLAN (R434): Every 6 hours, Agate reads the ageing monitors and raises the supply or lowers the frequency. -/
  | ageingReplan (die mv mhz : Nat)
  /-- THERMAL_THROTTLE (R435): Above 100 °C, Agate narrows the clock patterns of the hot clusters. -/
  | thermalThrottle (cluster : Nat) (v : BitVec 32)
  /-- THERMAL_TRIP (R435): At 115 °C, a hardware trip stops every clock and resets the device with every context Lost. -/
  | thermalTrip
  /-- DEVICE_RESET (R452): Reset: the boot ROM verifies the Agate firmware and falls back to recovery on failure. -/
  | deviceReset (image : List (BitVec 8))
  /-- FRAME_DISCARD (R436): A frame that is unprotected or fails its MACsec check is discarded and counted. -/
  | frameDiscard
  /-- PTP_MESSAGE (R436): A PTP message updates the device's slave clock. -/
  | ptpMessage (ns : Nat)
  /-- LINK_LOSS (R451): A fabric port loses lock and begins to retrain, and the loss is reported with LINK. -/
  | linkLoss (port : Nat)
  /-- LINK_RETRAIN_DONE (R451): A retraining port comes back up, and the retrain is reported. -/
  | linkRetrainDone (port ns : Nat)
  /-- CXL_LINK_DOWN (R290): A CXL port whose link is down ends its outstanding and new requests as uncorrectable errors. -/
  | cxlLinkDown (hdie : Nat)
  /-- HELLO (R438): Opens a session against a credential, and returns the boot status and an attestation report. -/
  | hello (seq : Nat) (cred nonce : List (BitVec 8))
  /-- FEATURE_READ (R448): Returns the offered feature set. -/
  | featureRead (sess seq : Nat)
  /-- FEATURE_ACCEPT (R448): Accepts and locks a context's feature set. -/
  | featureAccept (sess seq ctx : Nat) (feats : BitVec 256)
  /-- CLAIM (R443): A claim for ownership, which wins at once when the device has no owner. -/
  | claim (sess seq : Nat)
  /-- HANDOVER (R443): The owner hands ownership to a session with a live claim. -/
  | handover (sess seq to_ : Nat)
  /-- LEASE (R444): The owner renews its lease. -/
  | lease (sess seq : Nat)
  /-- READ (R439): Reads a context's memory, its control space or the device control space. -/
  | read (sess seq space ctx addr len : Nat)
  /-- WRITE (R439): The owner writes memory, or writes control-space fields that have no row of their own. -/
  | write (sess seq space ctx addr : Nat) (data : List (BitVec 8))
  /-- SUBMIT (R440): Writes launch blocks into a launch queue and then advances tail. -/
  | submit (sess seq ctx q : Nat) (blocks : List (List (BitVec 8)))
  /-- EVENT_ACK (R441): The host acknowledges one device event. -/
  | eventAck (sess num : Nat)
  /-- EVENT_RESEND (R449): An unacknowledged event is resent every 10 ms, up to 50 times. -/
  | eventResend (num : Nat)
  /-- POWER (R433): A rack budget message, accepted only when valid. -/
  | power (sess seq : Nat) (payload : List (BitVec 8))
  /-- SESSION_TIMEOUT (R438): A session silent for 10 s is closed, and its claim lapses. -/
  | sessionTimeout (sess : Nat)
  /-- OWNER_LEASE_END (R444): The owner's lease ends without renewal, and an election follows. -/
  | ownerLeaseEnd
  /-- CREDENTIAL_EXPIRY (R443): The owner's credential expires, and an election follows. -/
  | credentialExpiry (sess : Nat)
  /-- CREATE (R447): Command 1: creates a context with its accepted feature set. -/
  | create (sess seq ctx : Nat) (feats : BitVec 256)
  /-- REQUEST_PREEMPTION (R259): Command 2, or Agate policy: requests pre-emption of an Active context, which begins Draining. -/
  | requestPreemption (sess seq ctx : Nat)
  /-- WITHDRAW (R259): Command 3: withdraws the pre-emption request of a Draining context. -/
  | withdraw (sess seq ctx : Nat)
  /-- RESUME (R255): Command 4: resumes a Stopped context and redisposes its stopping traps. -/
  | resume (sess seq ctx : Nat)
  /-- THAW (R254): Command 5: thaws a Frozen context. -/
  | thaw (sess seq ctx : Nat)
  /-- RESET (R254): Command 6: resets a context by force, which becomes Lost. -/
  | reset (sess seq ctx : Nat)
  /-- CLEAR (R255): Command 7: clears a Lost context into an empty Active one. -/
  | clear (sess seq ctx : Nat)
  /-- INVALIDATE (R285): Command 8: starts the invalidation of a VA range or of a whole context. -/
  | invalidate (sess seq ctx va len : Nat)
  /-- EVICT_BLOCK (R400): Command 9: evicts one FILLED procedural block. -/
  | evictBlock (sess seq ctx va : Nat)
  /-- FLUSH_REGION (R359): Command 10: flushes the translation region. -/
  | flushRegion (sess seq ctx : Nat)
  /-- TEAR_DOWN (R239): Command 11: tears down a context, discarding launches and killing teams. -/
  | tearDown (sess seq ctx : Nat)
  /-- RETRY_FAULT (R447): Command 12: retries the faults of a forwarded PAGE event. -/
  | retryFault (sess seq ctx token : Nat)
  /-- DECLARE_UNRESOLVABLE (R447): Command 13: declares the faults of a forwarded PAGE event unresolvable. -/
  | declareUnresolvable (sess seq ctx token : Nat)
  /-- SESSION_THAW (R450): Op 1 at device offset 0x080 thaws a frozen session. -/
  | sessionThaw (sess seq target : Nat)
  /-- TRAP_CONTROL_WRITE (R248): Writes a context's trap control block, which is refused when out of range. -/
  | trapControlWrite (sess seq ctx off : Nat) (data : List (BitVec 8))
  /-- TRANSLATION_BLOCK_WRITE (R286): Writes a context's translation block, which is refused when reserved. -/
  | translationBlockWrite (sess seq ctx off : Nat) (data : List (BitVec 8))
  /-- SAMPLE_BLOCK_WRITE (R413): Writes a context's sample block, and an en change from 0 to 1 resets seq. -/
  | sampleBlockWrite (sess seq ctx off : Nat) (data : List (BitVec 8))
  /-- TRACE_CONTROL_WRITE (R418): Writes a context's trace control block. -/
  | traceControlWrite (sess seq ctx off : Nat) (data : List (BitVec 8))
  /-- NAME_CONTROL_WRITE (R389): Writes a context's name control block. -/
  | nameControlWrite (sess seq ctx off : Nat) (data : List (BitVec 8))
  /-- TELEMETRY_CONTROL_WRITE (R382): Writes the telemetry control block and resets the counts of the covered channels. -/
  | telemetryControlWrite (sess seq ctx off : Nat) (data : List (BitVec 8))
  /-- CONTEXT_TABLES_WRITE (R446): Writes a context's tables, accepted only while the context has no teams. -/
  | contextTablesWrite (sess seq ctx off : Nat) (data : List (BitVec 8))
  /-- ERROR_LOG_CONTROL_WRITE (R251): Writes a context's error log control block. -/
  | errorLogControlWrite (sess seq ctx off : Nat) (data : List (BitVec 8))
  /-- SAMPLING_CONTROL_WRITE (R408): Writes a core's sampling control register. -/
  | samplingControlWrite (sess seq core : Nat) (v : BitVec 32)
  /-- TILE_STORE_SIZE_WRITE (R394): Writes the tile-store size, which takes effect later. -/
  | tileStoreSizeWrite (sess seq mib : Nat)
  /-- TILE_STORE_SIZE_EFFECT (R394): The written tile-store size takes effect once no team is held and no launch is in flight. -/
  | tileStoreSizeEffect
  /-- PACKAGE_ID_WRITE (R454): Writes the package identifier, which takes effect later. -/
  | packageIdWrite (sess seq : Nat) (id : BitVec 32)
  /-- PACKAGE_ID_EFFECT (R454): The written package identifier takes effect once no team is held and no launch is in flight. -/
  | packageIdEffect
  /-- POWER_FLOOR_WRITE (R433): Writes the power floor, from 500 to 2,000 W. -/
  | powerFloorWrite (sess seq watts : Nat)
  /-- FIRMWARE_IMAGE_WRITE (R440): In recovery, places firmware image bytes in space 3. -/
  | firmwareImageWrite (sess seq addr : Nat) (data : List (BitVec 8))
  /-- FIRMWARE_VERIFY (R452): In recovery, a zero-length write at the image end verifies the image, and Agate restarts from it. -/
  | firmwareVerify (sess seq addr : Nat)
  /-- RESERVED_ENCODING (R32): A fetched word whose major, minor, op, selector or hint kind is reserved raises ILLOP at decode. -/
  | reservedEncoding (w : BitVec 32)
  /-- PTP_LOCK_LOSS (R436): The PTP slave clock loses lock, global time runs free from the last locked value and sync packets carry the unlocked flag. -/
  | ptpLockLoss
  /-- HOST_PORT_LINK_CHANGE (R441): The host Ethernet port goes down or comes up, and Agate reports it with a LINK event naming port 0x200. -/
  | hostPortLinkChange (up : Bool) (ns : Nat)
  /-- DIE_FREQUENCY_CHANGE (R432): Agate changes a die's clock frequency to keep package power within the effective budget, and a sync packet marks the change. -/
  | dieFrequencyChange (die khz : Nat)
  /-- MACSEC_KEY_AGREEMENT (R436): An IEEE 802.1X MACsec Key Agreement frame is taken by the port and updates the keys that decide which frames pass. -/
  | macsecKeyAgreement (key : BitVec 384)
deriving DecidableEq, Repr

end Sys2Proof
end

