-- ==== Sys2Proof/Machine/Bits.lean ====
section
/-!
DEFINITION. Bit fields, sign extension, byte order, lane masks and sparse tables: the helpers of every other file.

Bytes of a quantity lie lowest first (R5, 00_scope.md). Nothing here belongs to one instruction.
-/

namespace Sys2Proof.Machine

/-! ## Numbers -/

/-- Bits `lo` to `lo + n - 1` of `v`. -/
def bits (v lo n : Nat) : Nat := v / 2 ^ lo % 2 ^ n

/-- Bit `k` of `v`. -/
def bit (v k : Nat) : Bool := v / 2 ^ k % 2 == 1

/-- The `n`-bit value `v` read as signed (R56). -/
def sext (n v : Nat) : Int := if v % 2 ^ n < 2 ^ (n - 1) then (v % 2 ^ n : Nat) else (v % 2 ^ n : Nat) - (2 ^ n : Nat)

/-- S32 of R56. -/
def s32 (w : Word) : Int := sext 32 w.toNat

/-- Low32 of R56. -/
def low32 (x : Int) : Word := BitVec.ofInt 32 x

/-- High32 of R56. -/
def high32 (x : Int) : Word := BitVec.ofInt 32 (x / 2 ^ 32)

/-- A natural number as a word, modulo 2^32. -/
def word (n : Nat) : Word := BitVec.ofNat 32 n

/-- A truth value as a word. -/
def bword (b : Bool) : Word := if b then 1 else 0

/-- A truth value as a number. -/
def b2n (b : Bool) : Nat := if b then 1 else 0

/-- The quotient rounded up. -/
def ceilDiv (a b : Nat) : Nat := (a + b - 1) / b

/-- `v` rounded up to a multiple of `a`. -/
def alignUp (v a : Nat) : Nat := ceilDiv v a * a

/-- `v` with bits [6:4] XOR-ed with `sw`: the swizzle of R114 and R128. -/
def swizzle (v sw : Nat) : Nat := v / 128 * 128 + ((v / 16 % 8) ^^^ (sw % 8)) * 16 + v % 16

/-- The virtual address space holds 2^52 bytes. -/
def vaTop : Nat := 2 ^ 52

/-- `a - b` modulo 2^32. -/
def sub32 (a b : Nat) : Nat := (a + (2 ^ 32 - b % 2 ^ 32)) % 2 ^ 32

/-- A value of sr.compat without a reserved value (R361). -/
def compatOk (v : Nat) : Bool :=
  bits v 2 2 != 3 && bits v 4 2 != 3 && bits v 7 2 != 3 && bits v 9 2 != 3 && bits v 11 2 < 2 && bits v 14 2 != 3

/-! ## Bytes -/

/-- The `n` lowest bytes of `v`, lowest first (R5). -/
def leBytes : Nat → Nat → List Byte
  | 0, _ => []
  | n + 1, v => BitVec.ofNat 8 v :: leBytes n (v / 256)

/-- The number that bytes hold, lowest first (R5). -/
def leNat : List Byte → Nat
  | [] => 0
  | b :: bs => b.toNat + 256 * leNat bs

/-- The `n` bytes of a list from offset `o`; bytes past its end read zero. -/
def sliceBytes (bs : List Byte) (o n : Nat) : List Byte :=
  let part := (bs.drop o).take n
  part ++ List.replicate (n - part.length) 0

/-- The `n`-byte number at offset `o` of a list of bytes. -/
def byteField (bs : List Byte) (o n : Nat) : Nat := leNat (sliceBytes bs o n)

/-- A list of bytes with `new` written at offset `o`. -/
def spliceBytes (bs : List Byte) (o : Nat) (new : List Byte) : List Byte :=
  sliceBytes bs 0 o ++ new ++ bs.drop (o + new.length)

/-- The 32-bit words that bytes hold, lowest first. -/
def bytesWords : Nat → List Byte → List Word
  | 0, _ => []
  | n + 1, bs => word (byteField bs 0 4) :: bytesWords n (bs.drop 4)

/-- The bytes of words, lowest first. -/
def wordsBytes (ws : List Word) : List Byte := ws.flatMap fun w => leBytes 4 w.toNat

/-! ## Lanes -/

/-- The lanes of a mask, ascending. -/
def lanesOf (m : BitVec 32) : List Nat := (List.range 32).filter fun i => m.getLsbD i

/-- The mask of a list of lanes. -/
def maskOf (ls : List Nat) : BitVec 32 := ls.foldl (fun m i => m ||| (1 <<< i : BitVec 32)) 0

/-! ## Sparse tables -/

/-- The value that a table lists for a key. -/
def tget? {α : Type} : Tbl α → Nat → Option α
  | [], _ => none
  | (k, v) :: t, q => if k == q then some v else tget? t q

/-- The value of a key, `d` for one not listed. -/
def tget {α : Type} (t : Tbl α) (k : Nat) (d : α) : α := (tget? t k).getD d

/-- The table with `v` listed for `q`, keys strictly rising. -/
def tset {α : Type} : Tbl α → Nat → α → Tbl α
  | [], q, v => [(q, v)]
  | (k, u) :: t, q, v => if q < k then (q, v) :: (k, u) :: t else if k == q then (q, v) :: t else (k, u) :: tset t q v

/-- The table with nothing listed for `q`. -/
def tdel {α : Type} (t : Tbl α) (q : Nat) : Tbl α := t.filter fun e => e.1 != q

/-- The table with `v` listed for `q`, or nothing listed when `v` is the reading of an unlisted key. -/
def tput {α : Type} [DecidableEq α] (t : Tbl α) (q : Nat) (v d : α) : Tbl α :=
  if v = d then tdel t q else tset t q v

/-- The table with the value listed for `q`, if any, changed by `f`. -/
def tmod {α : Type} (t : Tbl α) (q : Nat) (f : α → α) : Tbl α :=
  t.map fun e => if e.1 == q then (e.1, f e.2) else e

/-- The lowest number from `from_` on that is not a key, searching `n` numbers. -/
def tfree {α : Type} (t : Tbl α) : Nat → Nat → Option Nat
  | _, 0 => none
  | k, n + 1 => if (tget? t k).isNone then some k else tfree t (k + 1) n

/-- The keys of a table, ascending. -/
def tkeys {α : Type} (t : Tbl α) : List Nat := t.map (·.1)

/-- The element of a list with the least key, the first among equals. -/
def minBy {α : Type} (key : α → Nat) : List α → Option α
  | [] => none
  | x :: xs =>
    match minBy key xs with
    | none => some x
    | some y => if key y < key x then some y else some x

/-- A list with the first element that satisfies `p` changed by `f`. -/
def modFirst {α : Type} (p : α → Bool) (f : α → α) : List α → List α
  | [] => []
  | x :: xs => if p x then f x :: xs else x :: modFirst p f xs

/-- A list without the first element that satisfies `p`. -/
def delFirst {α : Type} (p : α → Bool) : List α → List α
  | [] => []
  | x :: xs => if p x then xs else x :: delFirst p xs

end Sys2Proof.Machine
end

