-- ==== Sys2Proof/Machine/State.lean ====
section
/-!
DEFINITION. The state of the Doritra D9 as plain data, and the state right after reset.

The state holds one KV9600-A package and its host sessions. Tables are sparse (`Tbl`): a key that is not listed reads
as that table's reset value, which the accessor of the table names. Structures that the spec places in memory (page
tables, queues, sync objects, rings, launch blocks, descriptors) are bytes of `State.mem`.
-/

namespace Sys2Proof.Machine

/-! ## Why a step can stop -/

/-- The faults of the model. -/
inductive Fault where
  /-- Raised by the meaning of an encoded instruction when `State.cur` names no resident group or no batch of it, so
  that no party issues the instruction. `step` never makes such a state. Safe: the machine only stops. -/
  | noIssuer
deriving DecidableEq, Repr

/-- The refusals of the model. -/
inductive Refusal where
  /-- Raised by `exec` for an instruction that has no meaning yet. Safe: the machine only stops. -/
  | notModelled (mnemonic : String)
deriving DecidableEq, Repr

/-! ## Fibres, batches and groups -/

/-- A trap on its way to its disposition (R240, R241). -/
structure Trap where
  code   : Nat
  detail : Nat
  addr   : Nat
  obj    : Bool
  nested : Bool
  /-- The PC, the Onyx PC and the Onyx op that the record of a LEGACY trap holds (R363); `none` for other traps. -/
  onyx   : Option (Nat × Nat)
deriving DecidableEq, Repr

/-- Why a fibre is parked (R243). -/
inductive Park where
  /-- A trap that is still to be disposed of (R244). `fromRule` is the rule of R244 from which it is disposed of next;
  5 passes over the stopmask bits (R255), and 6 waits for a resume. -/
  | trap (t : Trap) (fromRule : Nat)
  /-- A PAGE fault under service; `token` is its entry in `State.faults` (R245). -/
  | service (t : Trap) (token : Nat)
  /-- A FILLING or evicting procedural block, by its virtual address (R119, R404). -/
  | fill (block : Nat) (addr : Nat)
deriving DecidableEq, Repr

/-- The vertices of a primitive: for each the screen X, Y and Z and the clip w, and the attributes (R184, R330, R337). -/
structure PrimVerts where
  xyzw  : List (List Word)
  attrs : List (List Word)
deriving DecidableEq, Repr

/-- What the hardware holds of a fragment fibre (R174, R178, R338). -/
structure Frag where
  batchSeq : Nat
  prim     : Nat
  pixel    : Nat
  helper   : Bool
  /-- The fragment still holds its order slot. -/
  slot     : Bool
  verts    : PrimVerts
deriving DecidableEq, Repr

/-- A hit of a ray query (R187, R188). -/
structure RayHit where
  t    : Word
  inst : Nat
  prim : Nat
deriving DecidableEq, Repr

/-- A node on the path of a ray query: its address, and the instance records through which it was reached, the innermost
first. -/
structure RayNode where
  node  : Nat
  insts : List Nat
deriving DecidableEq, Repr

/-- The query of a fibre (R187, R188, R346, R347). -/
structure RayQuery where
  root   : Nat
  ray    : List Word
  opaq   : Bool
  lvl    : Nat
  node   : RayNode
  stack  : List RayNode
  trail  : List Nat
  /-- Position within the run under test: the slot and the next record (R347). -/
  pos    : Option (Nat × Nat)
  best   : Option RayHit
  cand   : Option RayHit
  logged : Bool
deriving DecidableEq, Repr

/-- A lane of a group: a fibre, or a free lane with the registers it last held (R200, R202). -/
structure Lane where
  live      : Bool
  pc        : Nat
  preds     : BitVec 32
  regs      : Tbl Word
  handler   : Bool
  trapcause : Word
  trappc    : DWord
  trapaddr  : DWord
  parked    : Option Park
  frag      : Option Frag
  ray       : Option RayQuery
  /-- The address of the native instruction that last gave the fibre its PC by a transfer (R363). -/
  via       : Nat
  /-- The nesting depth of Onyx calls below the entered function (R356), and that of the code which a handler
  interrupted. -/
  depth     : Nat
  depthBack : Nat
  /-- The virtual address of the Onyx granule by which the fibre entered the translation that it runs (R357, R363), and that
  of the code which a handler interrupted. -/
  granule     : Nat
  granuleBack : Nat
  /-- The PC of the fibre's QPUSH that was descheduled and tests `high` no more (R217 step 4). -/
  retested  : Option Nat
deriving DecidableEq, Repr

/-- A free lane whose registers read zero. -/
def Lane.empty : Lane :=
  { live := false, pc := 0, preds := 0, regs := [], handler := false, trapcause := 0, trappc := 0, trapaddr := 0,
    parked := none, frag := none, ray := none, via := 0, depth := 0, depthBack := 0, granule := 0,
    granuleBack := 0, retested := none }

/-- A register that a write in flight will change. -/
inductive RegRef where
  | v (lane n : Nat)
  /-- `len` bits from bit `lo` of a vector register (R102). -/
  | vbits (lane n lo len : Nat)
  | p (lane n : Nat)
  | s (n : Nat)
  /-- Flags that are OR-ed into sr.fpflags. -/
  | flags
deriving DecidableEq, Repr

/-- The register that a write changes. -/
def RegRef.whole : RegRef → RegRef
  | .vbits l n _ _ => .v l n
  | r => r

/-- A write in flight: the first cycle of its die in which a reader sees it, its register and its value (R17, R20). -/
structure InFlight where
  due : Nat
  ref : RegRef
  val : Word
deriving DecidableEq, Repr

/-- A hint of a run (R21, R22). -/
structure HintWord where
  pc      : Nat
  kind    : Nat
  payload : Nat
deriving DecidableEq, Repr

/-- The word of a hint (R21). -/
def HintWord.word (h : HintWord) : Word := BitVec.ofNat 32 (0xFC000000 + h.kind % 8 * 2 ^ 23 + h.payload % 2 ^ 23)

/-- Who started an operation: for the record of a freeze (R253). -/
structure Origin where
  core  : Nat
  group : Nat
  role  : Nat
  team  : Nat
  grid  : Nat
  pc    : Nat
  lanes : BitVec 32
deriving DecidableEq, Repr

/-- An operation of a matrix queue (R161). -/
structure MatrixOp where
  ctx    : Nat
  tid    : Nat
  gctx   : Nat
  gage   : Nat × Nat
  /-- 0 MBLD, 1 MMUL, 2 MHAD, 3 MSCA, 4 MQNT. -/
  kind   : Nat
  words  : List Word
  fpmode : Word
  rnd    : Option Nat
  obj    : Nat
  scope  : Nat
  ticket : Nat
  /-- The channel's word and the count of R382 at entry. -/
  chan   : Word
  count  : Nat
  origin : Origin
deriving DecidableEq, Repr

/-- A primitive submitted by PRIM, after the transform of the default image (R330). -/
structure PrimRec where
  batchSeq : Nat
  team     : Nat
  prim     : Nat
  topo     : Nat
  verts    : PrimVerts
  /-- The tiles of the record's binner that the primitive covers. -/
  tiles    : List Nat
deriving DecidableEq, Repr

/-- What a batch waits for, with what the instruction has done already. -/
inductive Wait where
  /-- A wait whose condition the instruction tests anew; `reason` is its stall reason (R410). -/
  | poll (reason : Nat)
  /-- BAR or BARV `k` executed at an address, by fibres before the group's others (R77). -/
  | gather (k addr : Nat)
  /-- BAR or BARW waits for the end of phase `ph` of barrier `k`; released from the cycle of its wave (R427). -/
  | phase (k ph : Nat) (release : Option Nat)
  /-- RCV, or the reconvergence of a YIELD, at its address (R63, R67). -/
  | rcv (addr : Nat) (yield : Bool)
  /-- ACQ in the queue of a lock: the object and the order in which it was reached (R140). -/
  | lock (obj since : Nat)
  /-- WAITP on a barrier object for the end of a phase; released from the cycle of its wave (R427). -/
  | object (obj ph : Nat) (release : Option Nat)
  /-- A push that was descheduled (R217). -/
  | push (q : Nat)
  /-- A waiting operation (TMOV.W, a .W matrix form, TRET, NRET), by its ticket. -/
  | op (ticket : Nat) (reason : Nat)
  /-- Loads or atomics whose far target has not answered (R277), by their entry in `State.remotes`: the lanes with
  their addresses. -/
  | remote (n : Nat) (far : List (Nat × Nat))
  /-- A matrix instruction that passed its checks waits for room in the core's queue (R161). -/
  | matrix (m : MatrixOp)
  /-- PRIM waits for the batch window and for room in its binners, with what it submits (R332). -/
  | prim (recs : List PrimRec)
  /-- BLND or DPTH waits for order slots; the lanes that have been performed (R178). -/
  | order (served : BitVec 32)
  /-- CSW waits for Agate (R197). -/
  | csw
  /-- An entry that waits for an Onyx translation (R358). -/
  | onyx (pa : Nat) (mode : Word)
  /-- An instruction that reads or writes a register with a pending variable-latency write: it has not issued (R20). -/
  | score
  /-- The line of the next word comes into the instruction cache in a cycle (R2, R410). -/
  | code (due : Nat)
  /-- The line of the next word lies in a package that has not answered, by its entry in `State.remotes` (R277, R410). -/
  | codeFar (n : Nat)
deriving DecidableEq, Repr

/-- The registers that a waiting instruction read in its issue cycle (R17). -/
structure Snap where
  sregs  : Tbl Word
  lanes  : Tbl Lane
  fpmode : Word
deriving DecidableEq, Repr

/-- A batch (R54): the lanes that issue together, its hint run, and what it waits for. -/
structure Batch where
  lanes  : BitVec 32
  hints  : List HintWord
  wait   : Option Wait
  /-- The instruction whose wait the batch is in; it is not fetched again. -/
  held   : Option Instr
  /-- The registers as they stood when that instruction issued. -/
  snap   : Option Snap
  /-- One past the last cycle in which the batch was tried and could not go on. -/
  tried  : Nat
  /-- Consecutive issues of the group that passed the batch over while it was ready (R219). -/
  passed : Nat
  /-- For fibres that have left the parked state and have not issued: the counted cycles since (R220). -/
  replay : Option Nat := none
deriving DecidableEq, Repr

/-- A storage beside global memory: the unit scratchpad, lane slices, macros and accumulator region of a core, a
cluster scratchpad, a die scratchpad (R268). Slice `c` holds lane slice `k` (quadrant x 32 + lane) at 4096 x k. -/
inductive Scr where
  | unit (core : Nat)
  | slice (core : Nat)
  | garnet (core : Nat)
  | accum (core : Nat)
  | cluster (cluster : Nat)
  | die (die : Nat)
deriving DecidableEq, Repr

/-- The share of one fibre in a touch entry: dropped, or the bytes touched, by their swizzled virtual address and the
physical address of the first. -/
structure TouchShare where
  lane    : Nat
  dropped : Bool
  va      : Nat
  pa      : Nat
deriving DecidableEq, Repr

/-- A live touch entry (R116). `issued` counts pulses of the cluster's issue clock. -/
structure Touch where
  slot   : Nat
  write  : Bool
  width  : Nat
  issued : Nat
  shares : List TouchShare
deriving DecidableEq, Repr

/-- A store of a group that has not been performed at its memory or scratchpad: a non-temporal one in the
write-combining buffer (R121), or another on its way (R309-R311). -/
structure HeldStore where
  since : Nat
  /-- The scratchpad; none for global memory. -/
  scr   : Option Scr
  pa    : Nat
  bytes : List Byte
  nt    : Bool
  /-- The sync object to which the write is bound by its record, 0 for none (R309). -/
  sobj  : Nat
  /-- The fibre has written it under the RELAX hint (R309). -/
  relax : Bool
  /-- The scope of its SCOPE hint (R123). -/
  scope : Option Nat := none
deriving DecidableEq, Repr

/-- A group as a party of the consistency rules (R306): its team, its core, and its group context. -/
structure Party where
  tid  : Nat
  core : Nat
  g    : Nat
deriving DecidableEq, Repr

/-- A release of an object, or a FENCE for none, that publishes a store: its party and its scope (R309, R315). -/
structure Pub where
  obj   : Option Nat
  by_   : Party
  scope : Nat
deriving DecidableEq, Repr

/-- The model's own field: a store that has been performed and that some groups need not see yet (R310, R311): its
storage, none for global memory; its address, and what the bytes held before; its party, the object that binds it, and
its stated scope; what has published it, and the groups that have not seen it. -/
structure Past where
  scr    : Option Scr
  at_    : Nat
  old    : List Byte
  by_    : Party
  sobj   : Nat
  relax  : Bool
  scope  : Nat
  pubs   : List Pub
  unseen : List Party
deriving DecidableEq, Repr

/-- The states of a group context that holds a group (R201). -/
inductive GroupState where
  | resident
  /-- Descheduled by a push to the queue: its place in the order of descheduling, and, once `over` has fallen or a drain
  is pending, the count of pulses by which it is Resident again (R217). -/
  | descheduled (q order : Nat) (due : Option Nat)
  | boundary
deriving DecidableEq, Repr

/-- A group in a group context (R200). -/
structure Group where
  tid       : Nat
  ctx       : Nat
  role      : Nat
  budget    : Nat
  wbase     : Nat
  lbase     : Nat
  lanes     : Tbl Lane
  batches   : List Batch
  sregs     : Tbl Word
  fpmode    : Word
  fpflags   : Word
  compat    : Word
  regions   : List (BitVec 16)
  touches   : List Touch
  lastQueue : Option Nat
  st        : GroupState
  /-- The cycle of admission, spawn or restore, and the rank among groups of the same cycle (R235, R407). -/
  age       : Nat × Nat
  /-- The first cycle since which the group has issued nothing, in pulses counted (R235 rule 1). -/
  lastIssue : Nat
  /-- The first cycle in which the gap lets the group issue (R16). -/
  nextIssue : Nat
  giveWay   : Bool
  /-- The give-way mark at the start of the cycle (R412). -/
  gwStart   : Bool
  /-- The PC of the latest issue, that of the first hint of its run, and whether its batch was in handler mode (R411). -/
  shown     : Nat × Bool
  /-- The word issued at that PC; none for an issue that found no word (R412). -/
  shownWord : Option Word
  inflight  : List InFlight
  /-- Variable-latency writes whose results have not landed (R20). -/
  pending   : List InFlight
  /-- Stores not yet performed, oldest first. -/
  held      : List HeldStore
  /-- The pulse count at which SLEEP ends, and whether it is SLEEP.LV (R195). -/
  sleep     : Option (Nat × Bool)
  /-- BARV records by barrier: the phase, and the lanes that a BARW has served since (R77; log entry 23). -/
  barv      : Tbl (Nat × BitVec 32)
deriving DecidableEq, Repr

/-! ## Teams -/

/-- A phase of a team barrier (R77, R78). -/
structure BarPhase where
  arrivals : Nat
  /-- The count fixed at the first arrival, and whether that arrival gave it as 0. -/
  count    : Option Nat
  auto     : Bool
  /-- The groups resident at the first arrival, and those of them that have not arrived. -/
  all      : List Nat
  due      : List Nat
deriving DecidableEq, Repr

/-- A phase without an arrival. -/
def BarPhase.start : BarPhase := { arrivals := 0, count := none, auto := false, all := [], due := [] }

/-- A team barrier (R77, R78): the number of its present phase, that phase, and the later phases in which groups have
arrived already. -/
structure Bar where
  phase : Nat
  cur   : BarPhase
  later : List BarPhase
deriving DecidableEq, Repr

/-- A barrier at phase 0 (R78). -/
def Bar.start : Bar := { phase := 0, cur := BarPhase.start, later := [] }

/-- A meshlet slot of a core (R173). -/
structure Meshlet where
  tid   : Nat
  attrs : Nat
  verts : List (List Word × List Word)
deriving DecidableEq, Repr

/-- The fill that a generator team makes (R157, R385, R402). -/
structure GenFill where
  block   : Nat
  range   : Nat
  depth   : Nat
  /-- The fill itself, by its number, and the fills of the chain that started it (R402). -/
  fill    : Nat
  chain   : List Nat
  /-- The outcome, `some none` for GDONE and the cause for GFAIL, and whether it has taken effect (R157, R406). -/
  verdict : Option (Option Nat)
  decided : Bool
deriving DecidableEq, Repr

/-- The tile task that a team holds (R320, R336). -/
structure TileTask where
  tile    : Nat
  final   : Bool
  /-- The entries of the tile's list that the task covers: the first and one past the last (R322). -/
  lo      : Nat
  hi      : Nat
  /-- The next entry whose fragments are to be created, and the quads of it already resolved (R338). -/
  at_     : Nat
  quad    : Nat
  /-- The entry whose fragment hidden-surface removal kept, by pixel, once it has run (R339). -/
  winners : Option (Tbl Nat)
  /-- The raster image installed at admission; `none` is the default one (R349). -/
  image   : Option Nat
  /-- The team still holds the tile (R182). -/
  held    : Bool
  /-- TRET has been issued: the colour plane, the object and the instruction. -/
  tret    : Option (Nat × Nat × Origin)
  /-- A reload of the planes failed with this code (R323). -/
  failed  : Option Nat
deriving DecidableEq, Repr

/-- A team (R204-R208). -/
structure Team where
  lid      : Nat
  ctx      : Nat
  grid     : Nat
  index    : Nat
  core     : Nat
  part     : Nat
  nroles   : Nat
  begun    : Bool
  begunAt  : Nat
  recs     : Tbl (BitVec 256)
  bars     : Tbl Bar
  ubase    : Nat
  usize    : Nat
  cbase    : Nat
  csize    : Nat
  dbase    : Nat
  dsize    : Nat
  lsize    : Nat
  mbase    : Nat
  macros   : Nat
  abase    : Nat
  accs     : Nat
  gen      : Option GenFill
  tile     : Option TileTask
  lastPrim : Option Nat
  /-- A migration request and the PTP time in ns of its end (R238). -/
  migrate  : Option Nat
  /-- The PTP time in ns of the last admission or restore (R238). -/
  placedAt : Nat
  /-- All groups have exited; the allocations are held until engine operations on them end (R208). -/
  ended    : Bool
deriving DecidableEq, Repr

/-- A saved team: the parts whose form in the slot is the hardware's own (R257), group by group. -/
structure SavedTeam where
  team   : Team
  /-- The groups in the order of their records, each with the group context that it left. -/
  groups : List (Nat × Group)
  meshes : Tbl Meshlet
deriving DecidableEq, Repr

/-! ## Launches -/

/-- A role descriptor (R210). -/
structure RoleDesc where
  pcoff  : Nat
  groups : Nat
  fibres : Nat
  budget : Nat
deriving DecidableEq, Repr

/-- A launch block as read (R209). -/
structure Block where
  nroles  : Nat
  persist : Bool
  tile    : Bool
  gx      : Nat
  gy      : Nat
  gz      : Nat
  cbase   : Nat
  rmask   : Nat
  fpmode  : Word
  ubytes  : Nat
  cbytes  : Nat
  dbytes  : Nat
  lbytes  : Nat
  macros  : Nat
  acc     : Nat
  save    : Nat
  rstate  : Nat
  preds   : List Nat
  cond    : Nat
  csense  : Bool
  done    : Nat
  roles   : List RoleDesc
  recs    : List (BitVec 256)
  stab    : List Word
deriving DecidableEq, Repr

/-- The states of a launch past Head (R227); a launch that is Complete or Discarded is no longer listed. -/
inductive LaunchState where
  | waiting
  | evaluated
  | pendingBind
  | running
  | completing
deriving DecidableEq, Repr

/-- A launch (R227). -/
structure Launch where
  ctx     : Nat
  queue   : Nat
  index   : Nat
  st      : LaunchState
  block   : Block
  /-- The launch identifier (sr.grid), from Pending bind on. -/
  grid    : Nat
  /-- Ticket counters: per die, the lowest remaining index and one past the highest (R233). -/
  tickets : List (Nat × Nat)
  /-- A persistent grid whose teams have not begun yet (R214). -/
  gated   : Bool
  /-- The done action is suppressed or faulted with this code: an Invalid launch, or one too large. -/
  failed  : Option Nat
  /-- The pass that the launch feeds as a geometry batch, and its number (R326). -/
  batchOf : Option (Nat × Nat)
  /-- The list stores of the pass have been allocated (R333). -/
  stores  : Tbl Nat
  /-- A predecessor could not be read, and that has been logged. -/
  noted   : Bool := false
deriving DecidableEq, Repr

/-- A bind record's place in use (R231, R234): teams admitted on the die since the record became valid. -/
structure SlotUse where
  record   : BitVec 128
  admitted : Nat
deriving DecidableEq, Repr

/-! ## Rendering -/

/-- A plane of a render state (R328). -/
structure Plane where
  fmt    : Nat
  blend  : Nat
  cmp    : Nat
  dwrite : Bool
  offset : Nat
  clear  : List Byte
deriving DecidableEq, Repr

/-- A render state (R327). -/
structure RenderState where
  hsr     : Bool
  sdepth  : Bool
  frole   : Nat
  gqueue  : Nat
  nbatch  : Nat
  width   : Nat
  height  : Nat
  fbase   : Nat
  fpitch  : Nat
  binmask : Nat
  high    : Nat
  low     : Nat
  lsize   : Nat
  pspan   : Nat
  spill   : Nat
  planes  : List Plane
deriving DecidableEq, Repr

/-- A binner of a pass on one die: records held and not yet appended, and the end markers received (R332). -/
structure Binner where
  held : List PrimRec
  ends : List (Nat × Nat)
deriving DecidableEq, Repr

/-- The states of a tile (R336). -/
inductive TileState where
  | idle
  | prefixQueued
  | prefixRunning
  | finalQueued
  | finalRunning
  | retired
deriving DecidableEq, Repr

/-- A tile of a pass: its list, its cuts and its place in the list engine's account (R322, R334, R336). -/
structure TileRec where
  st      : TileState
  entries : List PrimRec
  /-- Cuts not yet served, as lengths of the list. -/
  cuts    : List Nat
  /-- Entries covered by tasks already admitted. -/
  served  : Nat
  /-- Entries of retired prefix tasks, whose bytes are freed. -/
  freed   : Nat
  /-- A prefix task has run, so the planes are reloaded. -/
  spilled : Bool
  /-- The contents of the spill slot in the hardware's own form (R335): the planes' bytes. -/
  planes  : List Byte
  /-- A spill or reload failed with this code (R323). -/
  bad     : Option Nat
deriving DecidableEq, Repr

/-- An open pass, by the launch that opened it (R326). -/
structure Pass where
  ctx      : Nat
  rs       : RenderState
  ntiles   : Nat
  taken    : Nat
  batches  : List (Nat × Nat)
  complete : Nat
  /-- Teams of each batch. -/
  sizes    : List Nat
  closed   : Bool
  binners  : Tbl Binner
  tiles    : Tbl TileRec
  /-- The pass has failed with this code (R332). -/
  failed   : Option Nat
  /-- Raster, binner and codec images at opening (R349). -/
  images   : Tbl Nat
deriving DecidableEq, Repr

/-! ## Engines -/

/-- The side of a copy: global by virtual address under a swizzle, or a scratchpad by physical offset. -/
structure Side where
  /-- 0 global, 1 unit, 2 cluster, 3 die (R144). -/
  space   : Nat
  base    : Nat
  swizzle : Nat
deriving DecidableEq, Repr

/-- One lane's transfer of a CPY: the virtual and the physical global address, and the scratchpad address. -/
structure Transfer where
  va   : Nat
  pa   : Nat
  scr  : Nat
deriving DecidableEq, Repr

/-- What an operation does. -/
inductive OpKind where
  | cpy (toScratch : Bool) (lvl width : Nat) (ts : List Transfer)
  | copy (src dst : Side) (count : Nat) (ring : Nat) (slotDst : Bool)
  | decode (src : Nat) (dst : Side) (width block count stream ring : Nat) (swz : Nat)
  | table (src n stream : Nat) (bf16 : Bool) (swz : Nat)
  | tmov (src dst : Side) (rows rowBytes sstr dstr : Nat)
  | announce (src : Side) (size reach name : Nat)
deriving DecidableEq, Repr

/-- How an operation failed: the fault code, the failing address, the cause of a generator that failed, and 1 for a
failing write (R148, R252). -/
structure OpFail where
  code   : Nat
  addr   : Nat
  cause  : Nat
  detail : Nat
deriving DecidableEq, Repr

/-- An entry of a die's copy queue (R291), or a read of the name engine. -/
structure EngineOp where
  id     : Nat
  ctx    : Nat
  tid    : Nat
  core   : Nat
  origin : Origin
  major  : Nat
  op     : Nat
  kind   : OpKind
  obj    : Nat
  scope  : Nat
  /-- The entries of the die queue that the operation takes. -/
  size   : Nat
  /-- The entries that engines have taken, oldest first, and the ring slot the operation claimed, as the count of claims
  before it (R293, R142). -/
  begun  : Nat
  slot   : Option Nat
  /-- The first failure met so far. -/
  failed : Option OpFail
  /-- How far the operation has come: bytes of a block copy, blocks of a decode operation. -/
  pos    : Nat
  /-- The line entries of a CPY that have completed, in any order (R292). -/
  gone   : List Nat := []
  /-- The bytes of a destination word that the next block completes, with their places (R295). -/
  tail   : List (Option Scr × Nat × List Byte) := []
  /-- Bits for the object's flag word met so far. -/
  flags  : Nat
  /-- The operation has completed and waits to publish its slot (R266). -/
  finished : Bool
  /-- Waiters of a .W form. -/
  ticket : Nat
deriving DecidableEq, Repr

/-- A table of a decode stream (R146, R264). -/
structure DecodeTable where
  op      : Nat
  ready   : Bool
  /-- The read has completed; the table gets ready when those ahead of it are (R264). -/
  arrived : Bool := false
  failed  : Option OpFail
  entries : List (BitVec 16)
deriving DecidableEq, Repr

/-- A decode stream of a context on a die (R263-R265, R299). -/
structure Stream where
  tables : List DecodeTable
  /-- Cycles in which a block waited for a table (R265). -/
  stall  : Nat
  blocks : Nat
  overs   : Nat
  lastWr : Nat
deriving DecidableEq, Repr

/-- A step on an object that an operation or a launch still has to make (R148, R455). -/
structure Contribution where
  ctx     : Nat
  obj     : Nat
  bytes   : Nat
  /-- The action is a launch's done action (R230), with the queue and the block index for the log. -/
  done    : Option (Nat × Nat)
  /-- The cause when the operation failed. -/
  fcode   : Option Nat
  /-- Bits to set in the flag word. -/
  flags   : Nat
  origin  : Origin
  srckind : Nat
  src     : Nat
  /-- The major and the op of the instruction. -/
  major   : Nat
  op      : Nat
  /-- The failing address or the name, and the cause of a generator that failed. -/
  addr    : Nat
  gcause  : Nat
  /-- The interest that ends with the contribution: die and entry. -/
  interest : Option (Nat × Nat)
  /-- The log gives the failure of the operation under another code (R323). -/
  silent   : Bool := false
deriving DecidableEq, Repr

/-! ## Names -/

/-- The states of a pending-interest entry (R392). -/
inductive InterestState where
  | waiting
  /-- The name engine writes the tile, which came in a cycle. -/
  | writing (bytes : List Byte) (since : Nat)
  /-- The outcome is final: the fault code, or 0 for success. -/
  | ending (code : Nat)
deriving DecidableEq, Repr

/-- A pending-interest entry of a die router (R386, R392). -/
structure Interest where
  ctx      : Nat
  tid      : Nat
  name     : Nat
  reach    : Nat
  dst      : Side
  cap      : Nat
  obj      : Nat
  scope    : Nat
  core     : Nat
  expires  : Nat
  st       : InterestState
  /-- Its request has been forwarded, or has joined an outstanding one. -/
  sent     : Bool
  origin   : Origin
deriving DecidableEq, Repr

/-- A request entry of a package router: context, name, child die router (R392), with the reach of the interest. -/
structure Request where
  ctx   : Nat
  name  : Nat
  child : Nat
  reach : Nat
deriving DecidableEq, Repr

/-- A stored copy of a tile (R394); `stamp` orders delivery and storing. -/
structure TileCopy where
  ctx   : Nat
  name  : Nat
  reach : Nat
  bytes : List Byte
  stamp : Nat
deriving DecidableEq, Repr

/-- A tile on its way: to a die router (0-7) or a package router (8, 9) (R391). -/
structure Flight where
  id     : Nat
  ctx    : Nat
  name   : Nat
  reach  : Nat
  at_    : Nat
  bytes  : List Byte
  /-- The tile travels up from its announcement; otherwise it returns down the path of requests. -/
  up     : Bool
  /-- The announcer's object, and who announced. -/
  obj    : Nat
  origin : Origin
deriving DecidableEq, Repr

/-- A retirement on its way to a router (R153, R388). -/
structure Retire where
  id     : Nat
  ctx    : Nat
  tensor : Nat
  iter   : Nat
  router : Nat
  ticket : Nat
  /-- The cycle in which its NRET issued. -/
  since  : Nat
deriving DecidableEq, Repr

/-! ## Translation -/

/-- An entry of a TLB (R284, R287). -/
structure TlbEntry where
  ctx   : Nat
  va    : Nat
  size  : Nat
  pa    : Nat
  /-- The low twelve bits of the leaf's entry. -/
  leaf  : Nat
  /-- The table that holds the leaf, and the index of the leaf's lowest replica (R288). -/
  tab   : Nat
  idx   : Nat
  count : Nat
deriving DecidableEq, Repr

/-- An invalidation in progress (R285). -/
structure Inval where
  id    : Nat
  ctx   : Nat
  /-- The range; `none` for the whole context. -/
  range : Option (Nat × Nat)
  /-- The command to report, and the block to evict when the invalidation belongs to an eviction (R404). -/
  cmd   : Option (Nat × Nat × Nat)
  evict : Option (Nat × Nat)
deriving DecidableEq, Repr

/-- Who waits for the service of a fault (R149, R211, R245). -/
inductive FaultWho where
  | fibres (core g : Nat)
  | engine (die op : Nat)
  | contribution (n : Nat)
  | interest (die e : Nat)
  | launch (ctx q : Nat)
  | save (tid : Nat)
  | tile (tid : Nat)
  | reload (lid tile : Nat)
  | pass (lid : Nat)
  | generator (ctx block : Nat)
  /-- A request that nothing waits for, with its source in the error log and the count of dropped records that it advances. -/
  | posted (kind src : Nat) (drop : Option Nat)
  /-- The request of a host session that is being performed. -/
  | host (sess : Nat)
  /-- The read of a control-store image for a group. -/
  | csw (core g : Nat)
deriving DecidableEq, Repr

/-- A fault under service (R245). -/
structure FaultRec where
  ctx       : Nat
  va        : Nat
  access    : Nat
  who       : FaultWho
  forwarded : Bool
  /-- Declared unresolvable. -/
  denied    : Bool
  /-- The party waits for the fill of a procedural block, not for a translation (R149). -/
  fill      : Bool
  /-- Resolved; the party has not gone on yet. -/
  settled   : Bool
  /-- The address at which the party met the fault. -/
  met       : Nat
deriving DecidableEq, Repr

/-- A procedural block that is FILLING or evicting (R400, R404). -/
structure FillRec where
  /-- The number of the fill: no two fills share one. -/
  id       : Nat
  block    : Nat
  range    : Nat
  depth    : Nat
  chain    : List Nat
  evicting : Bool
  started  : Bool
deriving DecidableEq, Repr

/-! ## Units -/

/-- The state of the islands of a quadrant (R428). -/
inductive IslandState where
  | nominal
  | hold (since : Nat)
  /-- A Hold that a wake request has ended: Nominal from a cycle on. -/
  | waking (at_ : Nat)
  | off
  | queued
  | ramping (since : Nat)
deriving DecidableEq, Repr

/-- The voltage islands of a quadrant: the common state, and per island near-threshold mode or the cycle in which
its exit ends (R428, R430). -/
structure Islands where
  st      : IslandState
  nt      : List Bool
  leaving : List (Option Nat)
  /-- The cycle since which every group with a live fibre on the island has been stalled (R429). -/
  stalled : List (Option Nat)
deriving DecidableEq, Repr

/-- Islands at reset. -/
def Islands.start : Islands :=
  { st := .nominal, nt := [false, false, false, false], leaving := [none, none, none, none],
    stalled := [none, none, none, none] }

/-- A line of an instruction cache: its context, virtual and physical address, and its bytes as they were read. -/
structure CodeLine where
  ctx   : Nat
  va    : Nat
  pa    : Nat
  bytes : List Byte
deriving DecidableEq, Repr

/-- A core (R2). -/
structure Core where
  groups   : Tbl Group
  unit     : List Host.Cell
  slices   : List Host.Cell
  macros   : List Host.Cell
  accum    : List Host.Cell
  mqueue   : List MatrixOp
  /-- The cycle at which the first operation of `mqueue` took the array; none while the array is free (R161, R168). -/
  mbegan   : Option Nat
  meshlets : Tbl Meshlet
  part     : Word
  /-- The context that the balancer withholds, and the partition it is to join (R237). -/
  withheld : Option (Nat × Nat)
  /-- Blocked cycles of each partition in the present interval (R237). -/
  blocked  : Nat × Nat
  sampling : Word
  /-- Sampling waits for the next team admitted: the number of the first team that counts (R408). -/
  armed    : Option Nat
  /-- The cycle of the next expiry, and the context sampled last (R409). -/
  expiry   : Option Nat
  lastSamp : Option Nat
  /-- Per context: seq and dropped (R412). -/
  sampSeq  : Tbl (Nat × Nat)
  tlb      : List TlbEntry
  /-- Line requests per context (R423), and MSCA counts per context x 16 + channel (R382). -/
  lines    : Tbl Nat
  mscas    : Tbl Nat
  islands  : Tbl Islands
  /-- Resident image of the sampler, ray and raster sequencers (R349). -/
  images   : Tbl Nat
  /-- The lines of the instruction cache, in the order of their filling (R2). -/
  icache   : List CodeLine
  /-- Groups placed on the core since reset (R407). -/
  placed   : Nat
  /-- Groups that have exited in the present cycle, by their contexts (R409). -/
  exited   : Tbl Group
deriving DecidableEq, Repr

/-- A core at reset (R236). -/
def Core.start : Core :=
  { groups := [], unit := [], slices := [], macros := [], accum := [], mqueue := [], mbegan := none, meshlets := [],
    part := 0x01400020, withheld := none, blocked := (0, 0), sampling := 0, armed := none, expiry := none, lastSamp := none, sampSeq := [],
    tlb := [], lines := [], mscas := [], islands := [], images := [], icache := [], placed := 0, exited := [] }

/-- A cluster (R2, R425, R426). -/
structure Cluster where
  scratch : List Host.Cell
  pattern : Word
  /-- A pattern written and not yet in effect. -/
  next    : Option Word
  /-- Pulses masked since reset: the counted pulses are the die cycles less these. -/
  masked  : Nat
  slope   : Word
deriving DecidableEq, Repr

/-- A cluster at reset. -/
def Cluster.start : Cluster := { scratch := [], pattern := 0xFFFFFFFF, next := none, masked := 0, slope := 0x00000408 }

/-- A C-die (R2). -/
structure Die where
  scratch   : List Host.Cell
  slots     : Tbl SlotUse
  ops       : List EngineOp
  /-- The context whose entry was taken last, for the round robin of R293. -/
  lastTake  : Nat
  streams   : Tbl Stream
  interests : Tbl Interest
  copies    : List TileCopy
  tlb2      : List TlbEntry
  /-- Resident images of the binner and the list codec (R349). -/
  images    : Tbl Nat
  power     : Word
  /-- Quadrants that wait for the in-rush arbiter, oldest first: core, quadrant, cycle (R431). -/
  ramps     : List (Nat × Nat × Nat)
  khz       : Nat
  /-- Ticks of `State.now` in which the die's clock had no edge, the present one not counted: the die's cycle count is
  what remains (R414). -/
  lag       : Nat
  /-- The fraction of a cycle that the clock has gained, in kHz, and whether it has an edge in the present tick. -/
  phase     : Nat
  edge      : Bool
  mv        : Nat
  /-- A sync packet is due: periodic, frequency change (R415). -/
  sync      : Bool × Bool
  /-- The cycle of the next balancer evaluation (R237). -/
  balance   : Nat
  /-- The cycle count of the die at the last evaluation. -/
  balanceAt : Nat := 0
  /-- The PTP time in ns of the next re-plan (R434). -/
  replan    : Nat
deriving DecidableEq, Repr

/-- A C-die at reset. -/
def Die.start : Die :=
  { scratch := [], slots := [], ops := [], lastTake := 0, streams := [], interests := [], copies := [], tlb2 := [], images := [],
    power := 0x00011000, ramps := [], khz := 3600000, lag := 0, phase := 0, edge := true, mv := 500, sync := (false, false), balance := 57600, replan := 21600000000000 }

/-- An H-die: its package router and tile store (R392, R394), and its CXL port (R290). -/
structure HDie where
  requests : List Request
  copies   : List TileCopy
  cxlUp    : Bool
  /-- Bytes of the memory devices behind the port (R289). -/
  devices  : Nat
deriving DecidableEq, Repr

/-- An H-die at reset. -/
def HDie.start : HDie := { requests := [], copies := [], cxlUp := true, devices := 0 }

/-! ## Contexts -/

/-- The states of a context (R255). -/
inductive CtxState where
  | active
  | draining
  | saved
  | stopped
  | frozen
  | lost
deriving DecidableEq, Repr

/-- A translation of an Onyx granule (R358): its physical address and mode, the virtual address by which it was first
entered, its native base, the words as they stood, and whether it is dead. -/
structure OnyxTr where
  pa    : Nat
  mode  : Word
  va    : Nat
  base  : Nat
  words : List DWord
  dead  : Bool
deriving DecidableEq, Repr

/-- A launch queue as the sequencer observed it last: the words of its descriptor, whether it is stopped, and whether its
enable has been cleared since it stopped (R224, R225). -/
structure QueueSeen where
  words   : List Byte
  stopped : Bool
  cleared : Bool
  /-- The descriptor could not be read, and that has been logged. -/
  unread  : Bool := false
deriving DecidableEq, Repr

/-- A context (R446). The control space is a table of 32-bit words by offset / 4. -/
structure Ctx where
  st        : CtxState
  /-- The state to which a resume or a thaw returns. -/
  back      : CtxState
  /-- A freeze while Stopped returns to Stopped, and that to `back2`. -/
  back2     : CtxState
  features  : Option (BitVec 256)
  ctl       : Tbl Word
  /-- The PTP time in ns at which the deadline expires, and the ns that remain while the timer is suspended (R260). -/
  deadline  : Option Nat
  remains   : Option Nat
  onyx      : List OnyxTr
  /-- Bytes of the translation region in use (R358). -/
  onyxUsed  : Nat
  fills     : List FillRec
  /-- Causes of POISONED blocks, by the block's VA (R119). -/
  causes    : Tbl Nat
  /-- Blocks that entered FILLED by GDONE, oldest first: the block, its range, the cycle (R404). -/
  filled    : List (Nat × Nat × Nat)
  /-- Fills by GDONE after which Agate has not yet looked at the budget: the range and the block (R404). -/
  gdone     : List (Nat × Nat)
  /-- Evictions that the owner has asked for and that wait for another of their range: the block, the range, the size and
  the number of the request (R404, R447). -/
  evictq    : List (Nat × Nat × Nat × Nat)
  saved     : Tbl SavedTeam
  /-- Installed image per kind (R197); absent: the default image. -/
  images    : Tbl Nat
  /-- The launch queues as the sequencer observed them last (R224, R225). -/
  queues    : Tbl QueueSeen
  /-- The tick in which a trap of the context was last disposed of otherwise than by a freeze (R261; log entry 75). -/
  disposed  : Option Nat := none
  /-- Violations met by units in a cycle in which a trap had been disposed of: they freeze the context at the start of the
  next (R253, R261). -/
  freezes   : List (Origin × Nat × Nat) := []
  /-- The save or the restore of a team has failed: the context is reset at the start of the next cycle (R260). -/
  doomed    : Bool := false
deriving DecidableEq, Repr

/-- A context before it is created (R446): reset values of its control space read as zero but for the sizes. -/
def Ctx.start : Ctx :=
  { st := .active, back := .active, back2 := .active, features := none, ctl := [], deadline := none, remains := none,
    onyx := [], onyxUsed := 0, fills := [], causes := [], filled := [], gdone := [], evictq := [], saved := [], images := [],
    queues := [] }

/-! ## The host link -/

/-- A kept reply (R438). -/
structure Reply where
  seq     : Nat
  type    : Nat
  status  : Nat
  payload : List Byte
deriving DecidableEq, Repr

/-- A request of a session (R439, R440). -/
inductive HostReq where
  | featureRead
  | featureAccept (ctx : Nat) (feats : BitVec 256)
  | claim
  | handover (to_ : Nat)
  | lease
  | read (space ctx addr len : Nat)
  | write (space ctx addr : Nat) (data : List Byte)
  | submit (ctx q : Nat) (blocks : List (List Byte))
  | power (payload : List Byte)
  /-- A message of a type that names no request, or whose payload does not fit its type (R439, R440). -/
  | malformed (type : Nat)
deriving DecidableEq, Repr

/-- A request that waits for its turn, or for a far target, with the PTP time of its arrival. -/
structure HeldReq where
  seq : Nat
  at_ : Nat
  req : HostReq
deriving DecidableEq, Repr

/-- A session (R438, R442, R450). -/
structure Session where
  priority : Nat
  power    : Bool
  expiry   : Nat
  next     : Nat
  /-- Requests that arrived ahead of the next expected one, and that one itself while it waits for a far target. -/
  ahead    : List HeldReq
  kept     : List Reply
  /-- PTP time of the last message. -/
  heard    : Nat
  /-- End of the live claim. -/
  claim    : Option Nat
  frozen   : Bool
deriving DecidableEq, Repr

/-- An event sent and not acknowledged (R449). -/
structure EventRec where
  num     : Nat
  session : Nat
  payload : List Byte
  sent    : Nat
  times   : Nat
deriving DecidableEq, Repr

/-- Requests to a far target that have not answered (R277): the physical lines, the core, the group context and the
team that made them, and whether they are stores, for which no fibre waits; or the unit that made them, and whether they
have ended. -/
structure Remote where
  ctx   : Nat
  lines : List Nat
  due   : Nat
  core  : Nat
  g     : Nat
  tid   : Nat
  store : Bool
  who   : Option FaultWho
  ended : Bool
  /-- The grid of the group whose request it is. -/
  grid  : Nat := 0
deriving DecidableEq, Repr

/-- A trace record that waits until the accounts of its die with earlier cycles have been written (R419): its cycle, its
class, its source in the error log, and its bytes. -/
structure TraceWait where
  ctx   : Nat
  die   : Nat
  cycle : Nat
  cls   : Nat
  kind  : Nat
  src   : Nat
  bytes : List Byte
deriving DecidableEq, Repr

/-- A sampled line request whose account is still to be written (R423). -/
structure LatReq where
  ctx   : Nat
  core  : Nat
  g     : Nat
  cycle : Nat
  pc    : Nat
  regions : List (BitVec 16)
  op    : Nat
  target : Nat
  va    : Nat
  /-- The physical line. -/
  pa    : Nat
  /-- The operation of an engine that carries the request out (CPY). -/
  eng   : Option Nat
  serial : Nat
  /-- The cycle of its reply at the core's coalescer, once it has come (R424). -/
  reply  : Option Nat := none
deriving DecidableEq, Repr

/-- A CSW that Agate works on (R197). -/
structure CswReq where
  core : Nat
  g    : Nat
  ctx  : Nat
  kind : Nat
  dflt : Bool
  va   : Nat
  len  : Nat
  dst  : Nat
  /-- The lanes of the batch that waits. -/
  lanes : BitVec 32
deriving DecidableEq, Repr

/-- The host link and the owner's data (R436-R453). -/
structure HostState where
  sessions  : Tbl Session
  nextSess  : Nat
  owner     : Option Nat
  leaseEnd  : Nat
  events    : List EventRec
  eventNum  : Nat
  discards  : Nat
  keys      : List (BitVec 384)
  portUp    : Bool
  ports     : Tbl Bool
  /-- 0 booted, 1 recovery after a failed verification, 2 after a refused rollback (R440). -/
  boot      : Nat
  image     : List Host.Cell
  /-- One past the last byte placed. -/
  imageSize : Nat
  /-- The digest of the running firmware when it was placed in recovery (R453); none for the one of the first boot. -/
  firmware  : Option (BitVec 384)
  powerSeq  : Option Nat
  budget    : Nat
  budgetEnd : Option Nat
  floor     : Nat
  /-- The replies, by session, that the device sent to the last message it received (R438, R440). -/
  sent      : List (Nat × Reply)
deriving DecidableEq, Repr

/-- The issuing party of an encoded instruction: core, group context, and place of the batch in the batch list. -/
structure Cur where
  core  : Nat
  g     : Nat
  b     : Nat
deriving DecidableEq, Repr

/-! ## The whole machine -/

/-- The parts of a cycle, the model's own: what goes before every other party of the cycle, the body, and the end (log
entries 3 and 75). -/
inductive Phase where
  | opening
  | body
  | closing
deriving DecidableEq, Repr

/-- What comes from outside the machine: a step, named as its row, or a frame at the host port (R436, R437). -/
inductive Input where
  | step (i : Instr)
  | frame (bytes : List Byte)
deriving DecidableEq, Repr

/-- The state of the machine. -/
structure State where
  /-- Ticks since reset of a clock of 3.6 GHz, the highest frequency of a die (R414, R434). -/
  now      : Nat
  /-- The PTP time in ns at a cycle (R415): that of the last message, or of reset. -/
  ptpBase  : Nat
  ptpCycle : Nat
  /-- The PTP clock is locked (R416). -/
  ptpLocked : Bool
  mem      : List Host.Cell
  /-- Bytes of physical memory, and of scratchpads, that return uncorrectable data (R122, R271). -/
  poison   : List Nat
  scrPoison : List (Scr × Nat)
  /-- Ranges of the CXL windows that the ports' decoders give to devices, as published to the owner (R276, R289). -/
  cxl      : List (Nat × Nat)
  cores    : Tbl Core
  clusters : Tbl Cluster
  dies     : Tbl Die
  hdies    : Tbl HDie
  ctxs     : Tbl Ctx
  teams    : Tbl Team
  nextTid  : Nat
  launches : Tbl Launch
  nextLid  : Nat
  passes   : Tbl Pass
  faults   : Tbl FaultRec
  nextTok  : Nat
  contribs : Tbl Contribution
  nextCon  : Nat
  flights  : List Flight
  retires  : List Retire
  /-- Tickets of waiting forms whose operation has completed: the ticket, and the failing address of a failure. -/
  tickets  : Tbl (Option Nat)
  nextOp   : Nat
  invals   : List Inval
  remotes  : Tbl Remote
  lats     : Tbl LatReq
  /-- Trace records that wait for earlier accounts, oldest first. -/
  traces   : List TraceWait
  csws     : List CswReq
  /-- Tile-store size: written, and in force, in MiB (R394). -/
  tsWritten : Nat
  tsForce   : Nat
  /-- Package identifier: written, and in force (R454). -/
  idWritten : Word
  idForce   : Word
  ownerKey : List Byte
  /-- Tables with a heat drop already logged (R288). -/
  heatDrop : List Nat
  host     : HostState
  /-- The issuing party. -/
  cur      : Cur
  /-- Quadrants (core x 4 + quadrant) that have issued in the present cycle. -/
  issued   : List Nat
  /-- The model's own field: the part of the present cycle to which the next step belongs. -/
  phase    : Phase
  /-- The model's own field: what comes from outside the machine, with the cycle from which each may be taken. -/
  inbox    : List (Nat × Input)
  /-- The model's own field: choices among steps whose order the spec leaves open; an empty list chooses 0. -/
  sched    : List Nat
  /-- The model's own field: the number of free values drawn. -/
  fresh    : Nat
  /-- The model's own field: the cycles by which the next variable-latency results and instruction lines come late, where
  the spec leaves that open; an empty list delays nothing. -/
  delays   : List Nat
  /-- The model's own field: whether the next plain stores stay on their way after their issue; an empty list performs
  each at once. -/
  stays    : List Bool
  /-- The model's own field: performed stores that some group need not see yet, newest first (R310, R311). -/
  past     : List Past
  /-- The model's own field: how many unseen stores back the next loads read that have a choice; an empty list reads the
  newest value. -/
  backs    : List Nat
deriving DecidableEq, Repr

/-- The host link at reset. -/
def HostState.start : HostState :=
  { sessions := [], nextSess := 1, owner := none, leaseEnd := 0, events := [], eventNum := 0, discards := 0, keys := [],
    portUp := true, ports := [], boot := 0, image := [], imageSize := 0, firmware := none, powerSeq := none, budget := 1200,
    budgetEnd := none, floor := 1200, sent := [] }

/-- The machine right after reset: no context, no launch, no group, memory with nothing listed. -/
def State.reset : State :=
  { now := 0, ptpBase := 0, ptpCycle := 0, ptpLocked := false, mem := [], poison := [], scrPoison := [], cxl := [], cores := [], clusters := [], dies := [], hdies := [],
    ctxs := [], teams := [], nextTid := 1, launches := [], nextLid := 1, passes := [], faults := [], nextTok := 1,
    contribs := [], nextCon := 1, flights := [], retires := [], tickets := [], nextOp := 1, invals := [], remotes := [],
    lats := [], traces := [], csws := [], tsWritten := 4, tsForce := 4, idWritten := 0, idForce := 0, ownerKey := [], heatDrop := [],
    host := HostState.start, cur := { core := 0, g := 0, b := 0 }, issued := [], phase := .opening, inbox := [], sched := [], fresh := 0, delays := [], stays := [], past := [], backs := [] }

end Sys2Proof.Machine
end

