-- ==== Sys2Proof/Machine/Memory.lean ====
section
/-!
DEFINITION. Byte memories in canonical form, and the physical address map (R276, R454, 10_memory.md).

A memory is a list of cells, addresses strictly rising, no cell equal to 0, which is what an unlisted address reads as
(log entry 2).
-/

namespace Sys2Proof.Machine

/-! ## A memory of bytes -/

/-- The byte at an address: 0 where nothing is listed. -/
def Memory.read : List Host.Cell → Nat → Byte
  | [], _ => 0
  | (k, b) :: m, a => if k == a then b else Memory.read m a

/-- The cells of bytes at rising addresses: those that are not 0. -/
def Memory.cells : Nat → List Byte → List Host.Cell
  | _, [] => []
  | a, b :: bs => if b == 0 then Memory.cells (a + 1) bs else (a, b) :: Memory.cells (a + 1) bs

/-- Writing bytes at rising addresses. -/
def Memory.writeList (m : List Host.Cell) (a : Nat) (bs : List Byte) : List Host.Cell :=
  m.filter (·.1 < a) ++ Memory.cells a bs ++ m.filter (a + bs.length ≤ ·.1)

/-- The cells of a range. -/
def Memory.window (m : List Host.Cell) (a n : Nat) : List Host.Cell := m.filter fun c => a ≤ c.1 && c.1 < a + n

/-- The bytes of a range, by address. -/
def Memory.readFrom (m : List Host.Cell) (a : Nat) : Nat → List Byte
  | 0 => []
  | n + 1 => Memory.read m a :: Memory.readFrom m (a + 1) n

/-- Reading `n` bytes at rising addresses. -/
def Memory.readList (m : List Host.Cell) (a n : Nat) : List Byte := Memory.readFrom (Memory.window m a n) a n

/-- The memory with a range cleared. -/
def Memory.clear (m : List Host.Cell) (a n : Nat) : List Host.Cell :=
  m.filter fun c => !(a ≤ c.1 && c.1 < a + n)

/-- The canonical form: addresses strictly rising and no cell equal to 0. -/
def Memory.wf : List Host.Cell → Bool
  | [] => true
  | (_, b) :: [] => b != 0
  | (k, b) :: (l, c) :: m => b != 0 && k < l && Memory.wf ((l, c) :: m)

/-! ## The physical address map -/

/-- The targets of R276. -/
inductive Target where
  | loc
  | unbacked
  | cxl (hdie : Nat)
  | fabric (pkg : Nat)
deriving DecidableEq, Repr

/-- Bytes of local LPDDR6: 1,536 GiB. -/
def localTop : Nat := 0x18000000000

/-- The address by which the package's own bytes are held: a fabric address that names this package reaches the same
bytes as its local address (R276, R454). -/
def State.ownAddr (s : State) (pa : Nat) : Nat :=
  if bits pa 51 1 == 1 && bits pa 41 10 == s.idForce.toNat % 1024 then bits pa 0 41 else pa

/-- What a physical address targets (R276). -/
def State.target (s : State) (pa : Nat) : Target :=
  let a := s.ownAddr pa
  if a < localTop then .loc
  else if a < 0x4000000000000 then .unbacked
  else if a < 0x8000000000000 then
    if s.cxl.any (fun r => r.1 ≤ a && a < r.1 + r.2) then .cxl (if a < 0x6000000000000 then 0 else 1) else .unbacked
  else if a < 2 ^ 52 then (if bits a 0 41 < localTop then .fabric (bits a 41 10) else .unbacked)
  else .unbacked

/-- Whether a physical address is backed (R281). -/
def State.backed (s : State) (pa : Nat) : Bool :=
  match s.target pa with
  | .unbacked => false
  | _ => true

/-- Whether a naturally aligned range of physical memory is backed; the borders of the map are multiples of 4 KiB and
a range of local memory or of one window is tested at its ends and at the borders of the pool's ranges. -/
def State.backedRange (s : State) (pa n : Nat) : Bool :=
  s.backed pa && s.backed (pa + n - 1) && s.target pa == s.target (pa + n - 1) &&
    (match s.target pa with
     | .cxl _ => s.cxl.any fun r => r.1 ≤ pa && pa + n ≤ r.1 + r.2
     | _ => true)

/-- An H-die. -/
def State.hdie (s : State) (h : Nat) : HDie := tget s.hdies h HDie.start

/-- How a request to a physical address ends (R277, R290): it is performed, it ends at once with an error (a CXL link
that is down), or it does not complete (a package that is not there). -/
inductive Reach where
  | ok
  | now
  | late
deriving DecidableEq, Repr

/-- How a request ends. An unbacked address ends at once; no translation yields one (R281). -/
def State.reach (s : State) (pa : Nat) : Reach :=
  match s.target pa with
  | .loc => .ok
  | .unbacked => .now
  | .cxl h => if (s.hdie h).cxlUp then .ok else .now
  | .fabric _ => .late

/-- A store that some group need not see yet wrote a byte of a range of a storage. -/
def Past.hits (e : Past) (scr : Option Scr) (a n : Nat) : Bool := e.scr = scr && e.at_ < a + n && a < e.at_ + e.old.length

/-- A byte of physical memory. -/
def State.rd8 (s : State) (pa : Nat) : Byte := Memory.read s.mem (s.ownAddr pa)

/-- Bytes of physical memory. -/
def State.rd (s : State) (pa n : Nat) : List Byte := Memory.readList s.mem (s.ownAddr pa) n

/-- A number in physical memory, lowest byte first. -/
def State.rdNat (s : State) (pa n : Nat) : Nat := leNat (s.rd pa n)

/-- Writing bytes of physical memory; the written bytes are no longer poisoned (R122). Every party sees the write; that of
a group's store is `State.put`. -/
def State.wr (s : State) (pa : Nat) (bs : List Byte) : State :=
  let a := s.ownAddr pa
  { s with mem := Memory.writeList s.mem a bs
           poison := s.poison.filter fun p => !(a ≤ p && p < a + bs.length)
           past := s.past.filter fun e => !e.hits none a bs.length }

/-- Whether bytes of physical memory return uncorrectable data (R122). -/
def State.bad (s : State) (pa n : Nat) : Bool :=
  let a := s.ownAddr pa
  s.poison.any fun p => a ≤ p && p < a + n

/-! ## Cores, clusters, dies -/

/-- A core. -/
def State.core (s : State) (c : Nat) : Core := tget s.cores c Core.start

/-- The state with a core replaced. -/
def State.setCore (s : State) (c : Nat) (x : Core) : State := { s with cores := tset s.cores c x }

/-- The state with a core changed. -/
def State.modCore (s : State) (c : Nat) (f : Core → Core) : State := s.setCore c (f (s.core c))

/-- A cluster, by its number in the package (R3). -/
def State.cluster (s : State) (c : Nat) : Cluster := tget s.clusters c Cluster.start

/-- The state with a cluster changed. -/
def State.modCluster (s : State) (c : Nat) (f : Cluster → Cluster) : State :=
  { s with clusters := tset s.clusters c (f (s.cluster c)) }

/-- A C-die. -/
def State.die (s : State) (d : Nat) : Die := tget s.dies d Die.start

/-- The state with a C-die changed. -/
def State.modDie (s : State) (d : Nat) (f : Die → Die) : State := { s with dies := tset s.dies d (f (s.die d)) }

/-- The state with an H-die changed. -/
def State.modHdie (s : State) (h : Nat) (f : HDie → HDie) : State := { s with hdies := tset s.hdies h (f (s.hdie h)) }

/-- The cluster of a core (R3). -/
def clusterOf (core : Nat) : Nat := core / 4

/-- The C-die of a core (R3). -/
def dieOf (core : Nat) : Nat := core / 24

/-- A context. -/
def State.ctx (s : State) (x : Nat) : Ctx := tget s.ctxs x Ctx.start

/-- The state with a context changed. -/
def State.modCtx (s : State) (x : Nat) (f : Ctx → Ctx) : State := { s with ctxs := tset s.ctxs x (f (s.ctx x)) }

/-- A team that is not there: no allocation, no context. -/
def Team.none : Team :=
  { lid := 0, ctx := 0, grid := 0, index := 0, core := 0, part := 0, nroles := 1, begun := true, begunAt := 0,
    recs := [], bars := [], ubase := 0, usize := 0, cbase := 0, csize := 0, dbase := 0, dsize := 0, lsize := 0,
    mbase := 0, macros := 0, abase := 0, accs := 0, gen := .none, tile := .none, lastPrim := .none, migrate := .none,
    placedAt := 0, ended := true }

/-- A team. -/
def State.team (s : State) (t : Nat) : Team := tget s.teams t Team.none

/-- The state with a team changed. -/
def State.modTeam (s : State) (t : Nat) (f : Team → Team) : State := { s with teams := tmod s.teams t f }

/-- A group of a core, if the group context holds one. -/
def State.group? (s : State) (c g : Nat) : Option Group := tget? (s.core c).groups g

/-- The state with the group of a group context replaced. -/
def State.setGroup (s : State) (c g : Nat) (G : Group) : State :=
  s.modCore c fun C => { C with groups := tset C.groups g G }

/-- The state with the group of a group context, if any, changed. -/
def State.modGroup (s : State) (c g : Nat) (f : Group → Group) : State :=
  s.modCore c fun C => { C with groups := tmod C.groups g f }

/-- Every resident group of the package with its core and its group context. -/
def State.allGroups (s : State) : List (Nat × Nat × Group) :=
  s.cores.flatMap fun (c, C) => C.groups.map fun (g, G) => (c, g, G)

/-- The groups of a team: group context and group. -/
def State.teamGroups (s : State) (t : Nat) : List (Nat × Group) :=
  (s.core (s.team t).core).groups.filter fun e => e.2.tid == t

/-- PTP time in ns: 18 ticks of 3.6 GHz take 5 ns (R415; log entry 7). -/
def State.ptp (s : State) : Nat := s.ptpBase + (s.now - s.ptpCycle) * 5 / 18

/-- The ticks that a time in µs takes (log entry 7). -/
def usCycles (us : Nat) : Nat := us * 3600

/-- 50 ms in ticks: the time in which a far request completes (R277). -/
def remoteLimit : Nat := usCycles 50000

/-- The frequency of `State.now` in kHz: the highest of a die (log entry 7). -/
def refKhz : Nat := 3600000

/-- The local cycle count of a C-die (R414): the edges of its own clock since reset. -/
def State.cycle (s : State) (d : Nat) : Nat := s.now - (s.die d).lag

/-- The cycle count of the die of a core. -/
def State.coreCycle (s : State) (core : Nat) : Nat := s.cycle (dieOf core)

/-- The clock of the die of a core has an edge in the present tick. -/
def State.clocked (s : State) (core : Nat) : Bool := (s.die (dieOf core)).edge

/-- Pulses of the issue clock of a cluster counted since reset (R116). -/
def State.counted (s : State) (cl : Nat) : Nat := s.cycle (cl / 6) - (s.cluster cl).masked

/-! ## Scratchpads -/

/-- The bytes of a storage beside global memory. -/
def State.scr (s : State) : Scr → List Host.Cell
  | .unit c => (s.core c).unit
  | .slice c => (s.core c).slices
  | .garnet c => (s.core c).macros
  | .accum c => (s.core c).accum
  | .cluster c => (s.cluster c).scratch
  | .die d => (s.die d).scratch

/-- The state with the bytes of a storage replaced. -/
def State.setScr (s : State) (x : Scr) (m : List Host.Cell) : State :=
  match x with
  | .unit c => s.modCore c fun C => { C with unit := m }
  | .slice c => s.modCore c fun C => { C with slices := m }
  | .garnet c => s.modCore c fun C => { C with macros := m }
  | .accum c => s.modCore c fun C => { C with accum := m }
  | .cluster c => s.modCluster c fun C => { C with scratch := m }
  | .die d => s.modDie d fun D => { D with scratch := m }

/-- Reading bytes of a storage. -/
def State.scrRead (s : State) (x : Scr) (a n : Nat) : List Byte := Memory.readList (s.scr x) a n

/-- Writing bytes of a storage; the written bytes are no longer poisoned (R271). -/
def State.scrWrite (s : State) (x : Scr) (a : Nat) (bs : List Byte) : State :=
  let t := s.setScr x (Memory.writeList (s.scr x) a bs)
  { t with scrPoison := t.scrPoison.filter fun p => !(p.1 = x && a ≤ p.2 && p.2 < a + bs.length)
           past := t.past.filter fun e => !e.hits (some x) a bs.length }

/-- Clearing a range of a storage (R207). -/
def State.scrClear (s : State) (x : Scr) (a n : Nat) : State :=
  let t := s.setScr x (Memory.clear (s.scr x) a n)
  { t with scrPoison := t.scrPoison.filter fun p => !(p.1 = x && a ≤ p.2 && p.2 < a + n)
           past := t.past.filter fun e => !e.hits (some x) a n }

/-- Whether bytes of a storage read with an uncorrectable error (R271). -/
def State.scrBad (s : State) (x : Scr) (a n : Nat) : Bool :=
  s.scrPoison.any fun p => p.1 = x && a ≤ p.2 && p.2 < a + n

/-- The storage, base and size of a team's allocation at level 0 unit, 1 cluster, 2 die (R268, R269). -/
def Team.level (T : Team) : Nat → Scr × Nat × Nat
  | 0 => (.unit T.core, T.ubase, T.usize)
  | 1 => (.cluster (clusterOf T.core), T.cbase, T.csize)
  | _ => (.die (dieOf T.core), T.dbase, T.dsize)

/-! ## The control space of a context (R446, 23_host.md) -/

/-- The reset value of the word at offset / 4 of a control space: the size fields of R248, R251, R381, R413, R418
start at 4, every other field at 0. -/
def ctlDefault (k : Nat) : Word :=
  if [0x018 / 4, 0x068 / 4, 0x088 / 4, 0x108 / 4, 0x248 / 4].contains k then 4 else 0

/-- A word of the control space. -/
def Ctx.word (c : Ctx) (off : Nat) : Nat := (tget c.ctl (off / 4) (ctlDefault (off / 4))).toNat

/-- A 64-bit field of the control space. -/
def Ctx.dword (c : Ctx) (off : Nat) : Nat := c.word off + 2 ^ 32 * c.word (off + 4)

/-- The control space with a word replaced. -/
def Ctx.setWord (c : Ctx) (off v : Nat) : Ctx :=
  { c with ctl := tput c.ctl (off / 4) (BitVec.ofNat 32 v) (ctlDefault (off / 4)) }

end Sys2Proof.Machine
end

