-- ==== Sys2Proof/Machine/Translate.lean ====
section
/-!
DEFINITION. Page tables, TLBs and the heat table (R275-R288, 10_memory.md), and the units that reach a context's memory
by virtual address without a TLB: launch sequencers, Agate, the writers of rings and logs, the host.
-/

namespace Sys2Proof.Machine

/-! ## Fault codes (R240) -/

/-- The fault codes that traps, flag words and logs carry. -/
def fcIllop : Nat := 1
/-- UNFEATURED. -/
def fcUnfeatured : Nat := 2
/-- PRIV. -/
def fcPriv : Nat := 3
/-- GAPFAULT. -/
def fcGapfault : Nat := 4
/-- OOB. -/
def fcOob : Nat := 5
/-- PAGE. -/
def fcPage : Nat := 6
/-- PROT. -/
def fcProt : Nat := 7
/-- ALIGN. -/
def fcAlign : Nat := 8
/-- WINDOW. -/
def fcWindow : Nat := 9
/-- FILL. -/
def fcFill : Nat := 10
/-- NEVER. -/
def fcNever : Nat := 11
/-- LEGACY. -/
def fcLegacy : Nat := 12
/-- POISON. -/
def fcPoison : Nat := 13
/-- TIMEOUT. -/
def fcTimeout : Nat := 14
/-- MULTIDEST. -/
def fcMultidest : Nat := 15
/-- BKPT. -/
def fcBkpt : Nat := 16
/-- TRAPI. -/
def fcTrapi : Nat := 17

/-! ## Walks -/

/-- What an access needs of a leaf (R279): a load or engine read, a store, a fetch, an atomic. -/
inductive Access where
  | read
  | write
  | fetch
  | atomic
deriving DecidableEq, Repr

/-- The DETAIL of PAGE and PROT (R240). -/
def Access.detail : Access → Nat
  | .read => 0
  | .write => 1
  | .fetch => 2
  | .atomic => 1

/-- A leaf found by a walk. -/
structure Leaf where
  /-- First virtual address of the page, its size and its physical base. -/
  va    : Nat
  size  : Nat
  pa    : Nat
  /-- Bits [11:0] of the entry, with FS of the lowest replica in bits [9:8] (R282). -/
  flags : Nat
  /-- The table, and the index of the lowest replica. -/
  tab   : Nat
  idx   : Nat
deriving DecidableEq, Repr

/-- How a walk ends. -/
inductive Walk where
  | leaf (l : Leaf)
  | absent
  | malformed (level entry : Nat)
  /-- An entry stands behind a link that is down or in a package that does not answer, or reads with an uncorrectable
  error (R277, R290): its physical address. -/
  | lost (pa : Nat)
deriving DecidableEq, Repr

/-- The count of one bits of `v` from bit `b` upward, at most `n`. -/
def onesFrom (v b : Nat) : Nat → Nat
  | 0 => 0
  | n + 1 => if bit v b then onesFrom v (b + 1) n + 1 else 0

/-- The size of a table: 1,024 entries of 8 bytes. -/
def tableSize : Nat := 8192

/-- The leaf that an entry at a level below 3 forms for a virtual address, none when the entry is malformed
(R279-R282). -/
def State.leafOf (s : State) (va level tab idx e : Nat) : Option Leaf :=
  let b := 12 + 10 * level
  let addr := bits e 12 40 * 4096
  let sbit := bit e 6
  let t := onesFrom addr b 9
  let p := bit e 7
  let ok :=
    bits e 10 2 == 0 && bits e 52 12 == 0 && addr % 2 ^ b == 0 &&
    (if sbit then level < 2 && t ≤ 8 else true) &&
    (if p then level == 0 && sbit && 3 ≤ t && !bit e 4 && !bit e 5 else true)
  if ok then
    let k := if sbit then t + 1 else 0
    let size := 2 ^ (b + k)
    let pa := if sbit then addr - (2 ^ t - 1) * 2 ^ b else addr
    let idx0 := idx / 2 ^ k * 2 ^ k
    if s.backedRange pa size then
      let fs := if p then bits (s.rdNat (tab + 8 * idx0) 8) 8 2 else bits e 8 2
      some { va := va / size * size, size := size, pa := pa, flags := e % 256 + fs * 256, tab := tab, idx := idx0 }
    else none
  else none

/-- A walk from the table of a level downwards (R278, R281). -/
def State.walkFrom (s : State) (va : Nat) : Nat → Nat → Walk
  | level, tab =>
    let idx := bits va (12 + 10 * level) 10
    let e := s.rdNat (tab + 8 * idx) 8
    if s.reach (tab + 8 * idx) != .ok || s.bad (tab + 8 * idx) 8 then .lost (tab + 8 * idx)
    else if !bit e 0 then .absent
    else if bit e 1 then
      match level with
      | 0 => .malformed 0 e
      | l + 1 =>
        let next := bits e 12 40 * 4096
        if bits e 2 8 == 0 && bits e 10 2 == 0 && bits e 52 12 == 0 && next % tableSize == 0 &&
            s.backedRange next tableSize then State.walkFrom s va l next
        else .malformed (l + 1) e
    else if level == 3 then .malformed 3 e
    else
      match s.leafOf va level tab idx e with
      | some l => .leaf l
      | none => .malformed level e

/-- A walk of a context's translation tree. -/
def State.walk (s : State) (x va : Nat) : Walk :=
  s.walkFrom va 3 (bits ((s.ctx x).dword 0x040) 0 52)

/-- Whether a leaf's permissions allow an access (R279). -/
def leafAllows (flags : Nat) : Access → Bool
  | .read => bit flags 2
  | .write => bit flags 3
  | .fetch => bit flags 4
  | .atomic => bit flags 2 && bit flags 3

/-- The fill states of R279 and R119. -/
def fsUnfilled : Nat := 0
/-- FILLING. -/
def fsFilling : Nat := 1
/-- FILLED. -/
def fsFilled : Nat := 2
/-- POISONED. -/
def fsPoisoned : Nat := 3

/-- How the translation of one line ends. -/
inductive Xlate where
  | ok (pa : Nat) (flags : Nat)
  | fault (code : Nat)
  /-- A procedural block that is not FILLED (R119): the virtual address of the block and its fill state. -/
  | proc (block : Nat) (fs : Nat)
deriving DecidableEq, Repr

/-- What a leaf gives for an address and an access, with FS as given: permission first, then the fill state (R115). -/
def Leaf.result (l : Leaf) (va : Nat) (acc : Access) (fs : Nat) : Xlate :=
  if !leafAllows l.flags acc then .fault fcProt
  else if bit l.flags 7 && fs != fsFilled then .proc l.va fs
  else .ok (l.pa + (va - l.va)) l.flags

/-! ## Procedural ranges (R398, R399) -/

/-- A physical address by a walk alone, for the range table. -/
def State.walkPa (s : State) (x va : Nat) : Option Nat :=
  if va < vaTop then
    match s.walk x va with
    | .leaf l => if bit l.flags 2 && !bit l.flags 7 && s.reach l.pa == .ok then some (l.pa + (va - l.va)) else none
    | _ => none
  else none

/-- A range descriptor, in the fields that name its blocks. -/
structure RangeDesc where
  idx    : Nat
  base   : Nat
  nblk   : Nat
  bsize  : Nat
  budget : Nat
  filled : Nat
  gen    : Nat
  pinlo  : Nat
  pinhi  : Nat
deriving DecidableEq, Repr

/-- The number of ranges in the range table (R389). -/
def Ctx.nrange (c : Ctx) : Nat := bits (c.word 0x0E0) 0 9

/-- The address of range descriptor `k`. -/
def Ctx.rangeVa (c : Ctx) (k : Nat) : Nat := bits (c.dword 0x0D8) 0 52 + 64 * k

/-- Range descriptor `k`, if it can be read, is enabled and holds no reserved value (R6). -/
def State.rangeDesc (s : State) (x k : Nat) : Option RangeDesc :=
  match s.walkPa x ((s.ctx x).rangeVa k) with
  | none => none
  | some pa =>
    let d := s.rd pa 64
    let w := byteField d 12 4
    let f (o n wid : Nat) : Bool := byteField d o n < 2 ^ wid
    let zero := f 0 8 52 && f 8 4 24 && f 12 4 4 && f 16 4 24 && f 20 4 25 && f 24 8 52 && f 32 4 24 && f 36 4 24 &&
      (d.drop 40).all (· == 0)
    if bit w 3 && bits w 0 3 ≤ 5 && zero then
      some { idx := k, base := byteField d 0 8, nblk := byteField d 8 4, bsize := 2 ^ (16 + bits w 0 3),
             budget := byteField d 16 4, filled := byteField d 20 4, gen := byteField d 24 8, pinlo := byteField d 32 4,
             pinhi := byteField d 36 4 }
    else none

/-- The enabled range that contains an address. -/
def State.rangeOf (s : State) (x va : Nat) : Option RangeDesc :=
  (List.range (s.ctx x).nrange).findSome? fun k =>
    match s.rangeDesc x k with
    | some r => if r.base ≤ va && va < r.base + r.nblk * r.bsize then some r else none
    | none => none

/-- A P leaf lies in an enabled range of its block size (R399). -/
def State.registered (s : State) (x : Nat) (l : Leaf) : Bool :=
  !bit l.flags 7 || (match s.rangeOf x l.va with
                     | some r => r.bsize == l.size
                     | none => false)

/-- A block is being evicted: it is FILLED until step 3 of R404. -/
def Ctx.evictsBlock (c : Ctx) (block : Nat) : Bool := c.fills.any fun f => f.block == block && f.evicting

/-- The fill state that a touch finds: a block that is being evicted is met as FILLING (R404). -/
def State.fillState (s : State) (x : Nat) (l : Leaf) : Nat :=
  if bits l.flags 8 2 == fsFilled && (s.ctx x).evictsBlock l.va then fsFilling
  else bits l.flags 8 2

/-- What a leaf of a context gives for an address and an access. -/
def State.leafResult (s : State) (x : Nat) (l : Leaf) (va : Nat) (acc : Access) : Xlate :=
  l.result va acc (s.fillState x l)

/-- The translation of an address by a fresh walk. -/
def State.xlate (s : State) (x va : Nat) (acc : Access) : Xlate :=
  if va < vaTop then
    match s.walk x va with
    | .leaf l => if s.registered x l then s.leafResult x l va acc else .fault fcPage
    | .absent => .fault fcPage
    | .malformed _ _ => .fault fcPage
    | .lost _ => .fault fcPoison
  else .fault fcPage

/-! ## Access by virtual address without a TLB -/

/-- A range of virtual addresses cut at the borders of 4 KiB granules: address and length of each part. -/
def granules (va : Nat) : Nat → Nat → List (Nat × Nat)
  | 0, _ => []
  | _, 0 => []
  | n, fuel + 1 =>
    let k := min n (4096 - va % 4096)
    (va, k) :: granules (va + k) (n - k) fuel

/-- The parts of a range with their physical addresses, or the first fault with its address. -/
def State.vaParts (s : State) (x : Nat) (acc : Access) : List (Nat × Nat) → Except (Nat × Nat) (List (Nat × Nat))
  | [] => .ok []
  | (va, n) :: t =>
    match s.xlate x va acc with
    | .ok pa _ =>
      match s.reach pa with
      | .ok => (s.vaParts x acc t).map ((pa, n) :: ·)
      | _ => .error (fcPoison, va)
    | .fault code => .error (code, va)
    | .proc _ _ => .error (fcPage, va)

/-- The granules of a range. -/
def rangeParts (va n : Nat) : List (Nat × Nat) := granules va n (n / 4096 + 2)

/-- Reading a range of a context's memory: the bytes, or the fault code and the address of the fault. -/
def State.vaRead (s : State) (x va n : Nat) : Except (Nat × Nat) (List Byte) :=
  match s.vaParts x .read (rangeParts va n) with
  | .error e => .error e
  | .ok ps =>
    match ((rangeParts va n).zip ps).find? fun e => s.bad e.2.1 e.2.2 with
    | some e => .error (fcPoison, e.1.1)
    | none => .ok (ps.flatMap fun p => s.rd p.1 p.2)

/-- Writing parts of physical memory in turn. -/
def State.wrParts (s : State) : List (Nat × Nat) → List Byte → State
  | [], _ => s
  | (pa, n) :: t, bs => (s.wr pa (bs.take n)).wrParts t (bs.drop n)

/-- Writing a range of a context's memory: nothing is written when a part of it faults. -/
def State.vaWrite (s : State) (x va : Nat) (bs : List Byte) : Except (Nat × Nat) State :=
  match s.vaParts x .write (rangeParts va bs.length) with
  | .error e => .error e
  | .ok ps => .ok (s.wrParts ps bs)

/-! ## Rings of a context in memory (R250, R251, R381, R413, R419) -/

/-- Where the fields of a ring's control block lie in the control space. -/
structure RingAt where
  base : Nat
  size : Nat
  wr   : Nat
  drop : Nat
  rd   : Nat
  /-- Bytes of a record. -/
  rec_ : Nat

/-- The trap log (R248). -/
def trapRing : RingAt := { base := 0x010, size := 0x018, wr := 0x020, drop := 0x024, rd := 0x028, rec_ := 64 }
/-- The sample ring (R413). -/
def sampleRing : RingAt := { base := 0x060, size := 0x068, wr := 0x06C, drop := 0x070, rd := 0x074, rec_ := 32 }
/-- The trace ring (R418). -/
def traceRing : RingAt := { base := 0x080, size := 0x088, wr := 0x08C, drop := 0x090, rd := 0x094, rec_ := 64 }
/-- The telemetry ring (R381). -/
def telemetryRing : RingAt := { base := 0x100, size := 0x108, wr := 0x10C, drop := 0x110, rd := 0x114, rec_ := 32 }
/-- The error log (R251). -/
def errorRing : RingAt := { base := 0x240, size := 0x248, wr := 0x24C, drop := 0x250, rd := 0x254, rec_ := 64 }

/-- A record of a ring is dropped: the drop count advances. -/
def State.ringDrop (s : State) (x drop : Nat) : State := s.modCtx x fun c => c.setWord drop (c.word drop + 1)

/-- Appending a record to a ring: it is written and the write count advances, or, when the ring is full, has no base,
or its write faults, it is dropped and the drop count advances. The answer gives the address of a fault that the write
met. -/
def State.ringAppend (s : State) (x : Nat) (r : RingAt) (rec_ : List Byte) : State × Option Nat :=
  let c := s.ctx x
  let base := c.dword r.base
  let cap := 2 ^ bits (c.word r.size) 0 5
  let w := c.word r.wr
  if base == 0 || sub32 w (c.word r.rd) == cap then (s.ringDrop x r.drop, none)
  else
    match s.vaWrite x (base + r.rec_ * (w % cap)) (sliceBytes rec_ 0 r.rec_) with
    | .ok t => (t.modCtx x fun c => c.setWord r.wr (w + 1), none)
    | .error e => (s.ringDrop x r.drop, some e.2)

/-- The address of the fault that the write of a record would meet. -/
def State.ringFault (s : State) (x : Nat) (r : RingAt) (rec_ : List Byte) : Option Nat := (s.ringAppend x r rec_).2

/-! ## Events to sessions (R441, R449) -/

/-- The context field of an event that names none. -/
def noCtx : Nat := 0xFFF

/-- Sending an event to sessions: it has one number, whatever the number of its receivers (R441). -/
def State.eventTo (s : State) (to_ : List Nat) (code x : Nat) (detail : List Byte) : State :=
  { s with host := { s.host with
      events := s.host.events ++ to_.map fun k =>
        { num := s.host.eventNum, session := k, payload := leBytes 4 code ++ leBytes 4 x ++ sliceBytes detail 0 48,
          sent := s.now, times := 1 }
      eventNum := (s.host.eventNum + 1) % 2 ^ 32 } }

/-- The sessions to which an event goes: the owner, or every session for ownership (1) and link (7) events (R449). -/
def HostState.receivers (h : HostState) (code : Nat) : List Nat :=
  if code == 1 || code == 7 then tkeys h.sessions else h.owner.toList

/-- Sending an event. One that no session receives is not sent (DESIGN CHOICE, log entry 61). -/
def State.event (s : State) (code x : Nat) (detail : List Byte) : State :=
  match s.host.receivers code with
  | [] => s
  | to_ => s.eventTo to_ code x detail

/-! ## The error log (R251, R252) -/

/-- Who reports an error: the kind of R252 and the number of the source. -/
structure ErrSrc where
  kind : Nat
  src  : Nat

/-- A core as the source of an error. -/
def srcCore (c : Nat) : ErrSrc := { kind := 0, src := c }
/-- A unit of a C-die as the source of an error. -/
def srcDie (d : Nat) : ErrSrc := { kind := 1, src := d }
/-- A unit of an H-die as the source of an error. -/
def srcHdie (h : Nat) : ErrSrc := { kind := 2, src := h }

/-- Writing an entry to a context's error log, with its ERRLOG event. -/
def State.logError (s : State) (x code fcode : Nat) (src : ErrSrc) (a0 a1 a2 : Nat) : State :=
  let entry := leBytes 2 code ++ leBytes 1 fcode ++ leBytes 1 src.kind ++ leBytes 4 src.src ++ leBytes 8 a0 ++
    leBytes 8 a1 ++ leBytes 8 a2 ++ leBytes 8 s.ptp
  (s.ringAppend x errorRing (sliceBytes entry 0 64)).1.event 9 x entry

/-- The request to bytes of memory that ended with an error is logged (R277): the port's link is down, the package does
not answer, or a pooled device returns poisoned data. -/
def State.noteLine (s : State) (x : Nat) (src : ErrSrc) (pa n : Nat) : State :=
  let pooled := match s.target pa with
    | .cxl _ => true
    | _ => false
  if s.reach pa != .ok || (pooled && s.bad pa n) then s.logError x 7 fcPoison src (pa / 128 * 128) 0 0 else s

/-- The line in a package that does not answer at which the walk for an address, or the access itself, waits for the end of
its request (R277). -/
def State.lateAt (s : State) (x va : Nat) : Option Nat :=
  let line (pa : Nat) : Option Nat := if s.reach pa == .late then some (pa / 128 * 128) else none
  if va < vaTop then
    match s.walk x va with
    | .lost pa => line pa
    | .leaf l => line (l.pa + (va - l.va))
    | _ => none
  else none

/-- A request of a unit that nothing waits for goes to a line that does not answer: at its end it is logged (R277), and the
count of dropped records at the offset given advances. -/
def State.openPosted (s : State) (x : Nat) (src : ErrSrc) (line : Nat) (drop : Option Nat) : State :=
  { s with nextOp := s.nextOp + 1
           remotes := tset s.remotes s.nextOp
             { ctx := x, lines := [line], due := s.now + remoteLimit, core := 0, g := 64, tid := 0, store := false,
               who := some (.posted src.kind src.src drop), ended := false } }

/-- What Agate logs of a walk for a structure that it reads: a malformed entry (R281), an entry or a structure that could
not be read (R277, R290). -/
def State.noteTable (s : State) (x : Nat) (src : ErrSrc) (va : Nat) : State :=
  if vaTop ≤ va then s
  else
    match s.lateAt x va with
    | some line => s.openPosted x src line none
    | none =>
      match s.walk x va with
      | .leaf l => s.noteLine x src (l.pa + (va - l.va)) (4096 - va % 4096)
      | .absent => s
      | .malformed level e => s.logError x 12 0 (srcHdie 0) va level e
      | .lost pa => s.noteLine x (srcHdie 0) pa 8

/-- The read of a structure for which Agate logs something. -/
def State.tableFault (s : State) (x va : Nat) : Bool :=
  va < vaTop &&
    match s.walk x va with
    | .leaf l => s.reach (l.pa + (va - l.va)) != .ok
    | .absent => false
    | .malformed _ _ => true
    | .lost _ => true

/-- The descriptors of the range table are looked at for a P leaf: what is logged of the first that cannot be read. -/
def State.noteRanges (s : State) (x : Nat) : State :=
  match (List.range (s.ctx x).nrange).find? fun k => (s.walkPa x ((s.ctx x).rangeVa k)).isNone with
  | some k => s.noteTable x (srcHdie 0) ((s.ctx x).rangeVa k)
  | none => s

/-- What Agate logs of the walk for an address that gave no translation: a malformed entry (R281), a P leaf of no enabled
range (R399), an entry that could not be read (R277). -/
def State.noteWalk (s : State) (x va : Nat) : State :=
  if vaTop ≤ va then s
  else
    match s.walk x va with
    | .leaf l => if s.registered x l then s else (s.noteRanges x).logError x 14 0 (srcHdie 0) va 0 0
    | .absent => s
    | .malformed level e => s.logError x 12 0 (srcHdie 0) va level e
    | .lost pa => if s.reach pa == .late then s else s.noteLine x (srcHdie 0) pa 8

/-- What is logged of an access by virtual address that ended in an error. -/
def State.noteFault (s : State) (x : Nat) (src : ErrSrc) (e : Nat × Nat) : State :=
  if e.1 == fcPage then s.noteWalk x e.2
  else if e.1 == fcPoison then
    match s.lateAt x e.2 with
    | some line => s.openPosted x src line none
    | none =>
      match s.xlate x e.2 .read with
      | .ok pa _ => s.noteLine x src pa (4096 - pa % 4096)
      | _ => s.noteWalk x e.2
  else s

/-- Appending a record to a ring. A write to a package that does not answer ends after its time, and the record is then
counted as dropped (R277). The Bool tells whether the write met a fault. -/
def State.ringPut (s : State) (x : Nat) (r : RingAt) (rec_ : List Byte) : State × Bool :=
  match s.ringFault x r rec_ with
  | none => ((s.ringAppend x r rec_).1, false)
  | some va =>
    match s.lateAt x va with
    | some line => (s.openPosted x (srcHdie 0) line (some r.drop), true)
    | none => ((s.ringAppend x r rec_).1.noteWalk x va, true)

/-- Agate logs a firmware fault: in the log of the context it names, or as an event alone (R251). -/
def State.firmwareFault (s : State) (x : Option Nat) (addr v : Nat) : State :=
  match x with
  | some x => s.logError x 17 0 (srcHdie 0) addr v 0
  | none =>
    s.event 9 noCtx (leBytes 2 17 ++ leBytes 1 0 ++ leBytes 1 2 ++ leBytes 4 0 ++ leBytes 8 addr ++ leBytes 8 v ++
      leBytes 8 0 ++ leBytes 8 s.ptp)

/-! ## TLBs (R283-R288) -/

/-- Adding a hit count to the heat word of a leaf (R288). -/
def State.sendHeat (s : State) (e : TlbEntry) (n : Nat) : State :=
  let c := s.ctx e.ctx
  if n == 0 || !bit (c.word 0x050) 0 then s
  else
    let a := (e.tab + c.dword 0x048 + 4 * e.idx) % 2 ^ 52
    if s.target a == .loc then s.wr a (leBytes 4 (min (s.rdNat a 4 + n) 0xFFFFFFFF))
    else if s.heatDrop.contains e.tab then s
    else { s with heatDrop := e.tab :: s.heatDrop }.logError e.ctx 13 0 (srcHdie 0) e.tab 0 0

/-- Whether an entry caches the page of another. -/
def TlbEntry.samePage (a b : TlbEntry) : Bool := a.ctx == b.ctx && a.va == b.va && a.size == b.size

/-- Whether an entry serves an address. -/
def TlbEntry.covers (e : TlbEntry) (x va : Nat) : Bool := e.ctx == x && e.va ≤ va && va < e.va + e.size

/-- The largest hit count of an entry. -/
def hitMax : Nat := 0xFFFF

/-- A first-level entry leaves its TLB: its count passes to the second level or to the heat table (R287). -/
def State.dropTlb1 (s : State) (d : Nat) (e : TlbEntry) : State :=
  match (s.die d).tlb2.find? (·.samePage e) with
  | some f =>
    let sum := f.count + e.count
    if hitMax < sum then
      (s.modDie d fun D => { D with tlb2 := modFirst (·.samePage e) (fun f => { f with count := 0 }) D.tlb2 }).sendHeat e sum
    else s.modDie d fun D => { D with tlb2 := modFirst (·.samePage e) (fun f => { f with count := sum }) D.tlb2 }
  | none => s.sendHeat e e.count

/-- Counting a translation that an entry of a list serves. -/
def hitTlb (x va : Nat) (l : List TlbEntry) : List TlbEntry :=
  modFirst (·.covers x va) (fun e => { e with count := min hitMax (e.count + 1) }) l

/-- Filling the second-level TLB of a die; the oldest entry leaves a full TLB (log entry 10). -/
def State.fillTlb2 (s : State) (d : Nat) (e : TlbEntry) : State :=
  let l := (s.die d).tlb2
  if l.length < 16384 then s.modDie d fun D => { D with tlb2 := l ++ [e] }
  else
    match l with
    | [] => s
    | o :: r => (s.modDie d fun D => { D with tlb2 := r ++ [e] }).sendHeat o o.count

/-- Filling the first-level TLB of a core; the oldest entry leaves a full TLB (log entry 10). -/
def State.fillTlb1 (s : State) (c : Nat) (e : TlbEntry) : State :=
  let l := (s.core c).tlb
  if l.length < 256 then s.modCore c fun C => { C with tlb := l ++ [e] }
  else
    match l with
    | [] => s
    | o :: r => (s.modCore c fun C => { C with tlb := r ++ [e] }).dropTlb1 (dieOf c) o

/-- A page holds a byte of a range; no range stands for all addresses. -/
def meetsRange (va size : Nat) : Option (Nat × Nat) → Bool
  | none => true
  | some (a, n) => a < va + size && va < a + n

/-- Whether an invalidation in progress covers a page: then every translation is a fresh walk (R285). An invalidation
takes the entries it covers from every TLB as it starts, and none comes in while it lasts. -/
def State.invalidating (s : State) (x va size : Nat) : Bool :=
  s.invals.any fun i => i.ctx == x && meetsRange va size i.range

/-- The leaf that an entry of a TLB holds. -/
def TlbEntry.leaf' (e : TlbEntry) : Leaf :=
  { va := e.va, size := e.size, pa := e.pa, flags := e.leaf, tab := e.tab, idx := e.idx }

/-- The entry that caches a leaf. -/
def Leaf.entry (l : Leaf) (x : Nat) : TlbEntry :=
  { ctx := x, va := l.va, size := l.size, pa := l.pa, leaf := l.flags, tab := l.tab, idx := l.idx, count := 1 }

/-- A TLB may hold a leaf: a procedural block only while FILLED (R283). -/
def Leaf.cacheable (l : Leaf) : Bool := !bit l.flags 7 || bits l.flags 8 2 == fsFilled

/-- A leaf for an address as a die's engines find it: the second-level TLB, else a walk that fills it. What Agate logs of
a walk without a leaf is logged (R281, R399). -/
def State.leafDie (s : State) (d x va : Nat) : State × Option Leaf :=
  if vaTop ≤ va then (s, none)
  else
    match (s.die d).tlb2.find? (·.covers x va) with
    | some e => (s.modDie d fun D => { D with tlb2 := hitTlb x va D.tlb2 }, some e.leaf')
    | none =>
      match s.walk x va with
      | .leaf l =>
        if s.registered x l then
          (if l.cacheable && !s.invalidating x l.va l.size then s.fillTlb2 d (l.entry x) else s, some l)
        else (s.noteWalk x va, none)
      | _ => (s.noteWalk x va, none)

/-- A leaf for an address as a core finds it: its own TLB, then that of its die, then a walk. -/
def State.leafCore (s : State) (c x va : Nat) : State × Option Leaf :=
  if vaTop ≤ va then (s, none)
  else
    match (s.core c).tlb.find? (·.covers x va) with
    | some e => (s.modCore c fun C => { C with tlb := hitTlb x va C.tlb }, some e.leaf')
    | none =>
      match s.leafDie (dieOf c) x va with
      | (t, some l) => (if l.cacheable && !s.invalidating x l.va l.size then t.fillTlb1 c (l.entry x) else t, some l)
      | (t, none) => (t, none)

/-- The leaf for an address that a core would find, with nothing counted and nothing filled. -/
def State.peekLeaf (s : State) (c x va : Nat) : Option Leaf :=
  if vaTop ≤ va then none
  else
    match (s.core c).tlb.find? (·.covers x va), (s.die (dieOf c)).tlb2.find? (·.covers x va) with
    | some e, _ => some e.leaf'
    | none, some e => some e.leaf'
    | none, none =>
      match s.walk x va with
      | .leaf l => if s.registered x l then some l else none
      | _ => none

/-- How a translation without a leaf ends: POISON where an entry could not be read (R277), PAGE otherwise. -/
def State.noLeaf (s : State) (x va : Nat) : Nat :=
  if va < vaTop then
    match s.walk x va with
    | .lost _ => fcPoison
    | _ => fcPage
  else fcPage

/-- The translation of an address on a core. -/
def State.xlateCore (s : State) (c x va : Nat) (acc : Access) : State × Xlate :=
  match s.leafCore c x va with
  | (t, some l) => (t, t.leafResult x l va acc)
  | (t, none) => (t, .fault (s.noLeaf x va))

/-- The translation of an address by an engine of a die. -/
def State.xlateDie (s : State) (d x va : Nat) (acc : Access) : State × Xlate :=
  match s.leafDie d x va with
  | (t, some l) => (t, t.leafResult x l va acc)
  | (t, none) => (t, .fault (s.noLeaf x va))

/-- Line translations that a core's TLB serves while a touch entry holds their translations (R118, R275, R287): the
entry of each line counts, where it still stands. -/
def State.serveLines (s : State) (c x : Nat) (lines : List Nat) : State :=
  s.modCore c fun C => { C with tlb := lines.foldl (fun l va => hitTlb x va l) C.tlb }

/-- Removing the entries of a context's range, or of the whole context, from every TLB and every instruction cache
(R285 step 2). -/
def State.purgeTlbs (s : State) (x : Nat) (range : Option (Nat × Nat)) : State :=
  let hit (e : TlbEntry) : Bool := e.ctx == x && meetsRange e.va e.size range
  let s1 := (tkeys s.cores).foldl (fun u c =>
    let es := (u.core c).tlb.filter hit
    es.foldl (fun u e => u.dropTlb1 (dieOf c) e) (u.modCore c fun C =>
      { C with tlb := C.tlb.filter fun e => !hit e
               icache := C.icache.filter fun l => !(l.ctx == x && meetsRange l.va 128 range) })) s
  (tkeys s1.dies).foldl (fun u d =>
    let es := (u.die d).tlb2.filter hit
    es.foldl (fun u e => u.sendHeat e e.count) (u.modDie d fun D => { D with tlb2 := D.tlb2.filter fun e => !hit e })) s1

/-! ## Fill states (R282) -/

/-- Changing FS of a procedural block, by the leaf's lowest replica. -/
def State.setFs (s : State) (l : Leaf) (fs : Nat) : State :=
  let a := l.tab + 8 * l.idx
  let e := s.rdNat a 8
  s.wr a (leBytes 8 (e - bits e 8 2 * 256 + fs * 256))

/-- The leaf of a procedural block by a fresh walk. -/
def State.procLeaf (s : State) (x va : Nat) : Option Leaf :=
  if va < vaTop then
    match s.walk x va with
    | .leaf l => if bit l.flags 7 then some l else none
    | _ => none
  else none

end Sys2Proof.Machine
end

