-- ==== Sys2Proof/Machine/Past.lean ====
section
/-!
DEFINITION. What a group may still read of stores that have been performed (R306-R315, 12_consistency.md): a store of a
group that another resident group has neither seen nor been ordered after stands in `State.past`, and a load of that group
returns the newest value or, as `State.backs` chooses, an older one. A release or FENCE publishes stores at its scope, and
an acquire or FENCE at a scope that includes the other party makes the acquirer see them (log entry 8).
-/

namespace Sys2Proof.Machine

/-- A group as a party. -/
def partyOf (core g : Nat) (G : Group) : Party := { tid := G.tid, core := core, g := g }

/-- A scope of a party includes another party (R10, R30, R308). -/
def scopeIncludes (scope : Nat) (p q : Party) : Bool :=
  match scope with
  | 0 => p.tid == q.tid
  | 1 => clusterOf p.core == clusterOf q.core
  | 2 => dieOf p.core == dieOf q.core
  | _ => true

/-- The bytes of a range as they were before the store. -/
def Past.undo (e : Past) (a : Nat) (bs : List Byte) : List Byte :=
  bs.zipIdx.map fun (b, i) => if e.at_ ≤ a + i then e.old.getD (a + i - e.at_) b else b

/-- The scope that a sync object gives the accesses it governs (R123, R302): package where the object cannot be read. -/
def State.objScope (s : State) (x k : Nat) : Nat :=
  if k == 0 || (s.ctx x).word 0x1A0 ≤ k then 3
  else
    match s.vaRead x ((s.ctx x).dword 0x198 + 64 * k) 4 with
    | .ok b => min 5 (bits (byteField b 0 4) 2 3)
    | .error _ => 3

/-- The stated scope of a store (R123, R310): that of its SCOPE hint, else of its level, else of the object of its record,
else package. -/
def State.statedScope (s : State) (x : Nat) (h : HeldStore) : Nat :=
  match h.scope, h.scr with
  | some k, _ => k
  | none, some (.cluster _) => 1
  | none, some (.die _) => 2
  | none, some _ => 0
  | none, none => if h.relax then 3 else s.objScope x h.sobj

/-- A store of a group is performed: at its scratchpad or in memory. The other resident groups may not see it yet. -/
def State.put (s : State) (x : Nat) (p : Party) (h : HeldStore) : State :=
  let t := match h.scr with
    | some d => s.scrWrite d h.pa h.bytes
    | none => s.wr h.pa h.bytes
  match (s.allGroups.map fun e => partyOf e.1 e.2.1 e.2.2).filter (· != p) with
  | [] => t
  | others =>
    let e : Past :=
      { scr := h.scr, at_ := if h.scr.isSome then h.pa else s.ownAddr h.pa,
        old := match h.scr with
          | some d => s.scrRead d h.pa h.bytes.length
          | none => s.rd h.pa h.bytes.length,
        by_ := p, sobj := if h.relax then 0 else h.sobj, relax := h.relax, scope := s.statedScope x h, pubs := [], unseen := others }
    { t with past := e :: s.past }

/-- What a party reads of a range when it goes `k` unseen stores back from the newest, with the stores after its read: the
party has seen the store whose value it returns and all before it (R312). -/
def lookBack (p : Party) (scr : Option Scr) (a n : Nat) : Nat → List Past → List Byte → List Past × List Byte
  | _, [], bs => ([], bs)
  | k, e :: t, bs =>
    if !e.hits scr a n then
      let r := lookBack p scr a n k t bs
      (e :: r.1, r.2)
    else if 0 < k && e.unseen.contains p then
      let r := lookBack p scr a n (k - 1) t (e.undo a bs)
      (e :: r.1, r.2)
    else
      let r := lookBack p scr a n 0 t bs
      ({ e with unseen := e.unseen.filter (· != p) } :: r.1, r.2)

/-- Stores that some group need not see yet. -/
def unseenOnly (l : List Past) : List Past := l.filter fun e => !e.unseen.isEmpty

/-- The bytes that a load of a group finds (R310, R311): `vol` is a load that returns the newest value (R121, R312). -/
def State.readSeen (s : State) (p : Party) (vol : Bool) (scr : Option Scr) (a n : Nat) : State × List Byte :=
  let newest := match scr with
    | some d => s.scrRead d a n
    | none => s.rd a n
  let at_ := if scr.isSome then a else s.ownAddr a
  if s.past.any fun e => e.hits scr at_ n && e.unseen.contains p then
    let r := lookBack p scr at_ n (if vol then 0 else s.backs.headD 0) s.past newest
    ({ s with past := unseenOnly r.1, backs := if vol then s.backs else s.backs.drop 1 }, r.2)
  else (s, newest)

/-- A party has read parts of memory at their newest values, and reads no older ones later (R312). -/
def State.seen (s : State) (p : Party) (ps : List (Nat × Nat)) : State :=
  ps.foldl (fun u e => (u.readSeen p true none e.1 e.2).1) s

/-- A release of an object, or a FENCE for none, by a party (R309, R315): what it publishes, `mine` telling which of its own
stores. It hands on what the party has been made to see (R308, the chain). -/
def State.publish (s : State) (p : Party) (obj : Option Nat) (scope : Nat) (mine : Past → Bool) : State :=
  if obj == some 0 then s
  else
  { s with past := s.past.map fun e =>
      if if e.by_ == p then mine e else !e.unseen.contains p && !e.pubs.isEmpty then
        { e with pubs := { obj := obj, by_ := p, scope := scope } :: e.pubs }
      else e }

/-- The party is ordered after a publication by an acquire of an object, or by a FENCE for none, at a scope (R308, R315). -/
def Pub.reaches (b : Pub) (q : Party) (obj : Option Nat) (scope sobj : Nat) : Bool :=
  (match obj with
    | none => true
    | some k => if b.obj.isNone then sobj == k else b.obj == some k) &&
    scopeIncludes b.scope b.by_ q && scopeIncludes scope q b.by_

/-- An acquire of an object, or a FENCE for none, by a party (R308, R310): it sees the stores that were published to it and
whose stated scope includes it. -/
def State.acquire (s : State) (q : Party) (obj : Option Nat) (scope : Nat) : State :=
  if obj == some 0 then s
  else
  { s with past := unseenOnly (s.past.map fun e =>
      if scopeIncludes e.scope e.by_ q && e.pubs.any fun b => b.reaches q obj scope e.sobj then
        { e with unseen := e.unseen.filter (· != q) }
      else e) }

/-- Every party sees the stores that satisfy a test. -/
def State.reveal (s : State) (p : Past → Bool) : State := { s with past := s.past.filter fun e => !p e }

/-- Parties that are gone see nothing more. -/
def State.forget (s : State) (p : Party → Bool) : State :=
  { s with past := unseenOnly (s.past.map fun e => { e with unseen := e.unseen.filter fun q => !p q }) }

end Sys2Proof.Machine
end

