-- ==== Sys2Proof/Machine/Submit.lean ====
section
/-!
DEFINITION. Launch queues: their descriptors as the sequencers observe them, and the discard of what is submitted to a
context that is lost (R223-R225, R227, R239, 07_scheduling.md).
-/

namespace Sys2Proof.Machine

/-! ## Launch queues (R223) -/

/-- A launch queue descriptor with the physical address at which it lies. -/
structure LaunchQueue where
  pa   : Nat
  base : Nat
  cap  : Nat
  tail : Nat
  head : Nat
  word : Nat
  rest : Nat

/-- The sequencer serves the queue. -/
def LaunchQueue.enabled (q : LaunchQueue) : Bool := bit q.word 0
/-- The sequencer has stopped the queue. -/
def LaunchQueue.stopped (q : LaunchQueue) : Bool := bit q.word 1
/-- Blocks submitted and not yet taken. -/
def LaunchQueue.waiting (q : LaunchQueue) : Nat := sub32 q.tail q.head
/-- The descriptor holds no reserved value and no more blocks than its capacity (R225). -/
def LaunchQueue.valid (q : LaunchQueue) : Bool :=
  q.base % 256 == 0 && q.base < vaTop && 1 ≤ q.cap && q.cap ≤ 65536 && bits q.word 2 30 == 0 && q.rest == 0 &&
    q.waiting ≤ q.cap
/-- The address of block `n`. -/
def LaunchQueue.block (q : LaunchQueue) (n : Nat) : Nat := q.base + 256 * (n % 2 ^ 32 % q.cap)

/-- The descriptor of launch queue `k`, when it can be read. -/
def State.launchQueue (s : State) (x k : Nat) : Option LaunchQueue :=
  (s.walkPa x ((s.ctx x).dword 0x190 + 32 * k)).map fun pa =>
    let d := s.rd pa 32
    { pa := pa, base := byteField d 0 8, cap := byteField d 8 4, tail := byteField d 12 4, head := byteField d 16 4,
      word := byteField d 20 4, rest := byteField d 24 8 }

/-- The descriptor is one that the sequencer stops at: a reserved value, or more blocks than the capacity. The stopped bit
is the sequencer's own. -/
def LaunchQueue.bad (q : LaunchQueue) : Bool := q.enabled && !({ q with word := q.word - b2n q.stopped * 2 }).valid

/-- A queue as the sequencer of it has seen it, once the descriptor has changed (R225): a bad descriptor stops the queue,
and an enable cleared and set again restarts it. -/
def QueueSeen.next (o : QueueSeen) (q : LaunchQueue) : QueueSeen :=
  let kept := o.stopped && !(o.cleared && q.enabled)
  { words := [], stopped := kept || q.bad, cleared := kept && (o.cleared || !q.enabled) }

/-- The sequencer of a queue observes a change of its descriptor (R224, R225): every step that changes it is observed,
and the stopped bit is written as it is. A descriptor that cannot be read is logged once (R277, R281). -/
def State.observeQueue (s : State) (x k : Nat) : State :=
  let o := tget (s.ctx x).queues k { words := [], stopped := false, cleared := false }
  match s.launchQueue x k with
  | none =>
    let va := (s.ctx x).dword 0x190 + 32 * k
    if o.unread || !s.tableFault x va then s
    else (s.modCtx x fun c => { c with queues := tset c.queues k { o with unread := true } }).noteTable x (srcHdie (k % 2)) va
  | some q =>
    if o.words == s.rd q.pa 32 && !o.unread then s
    else
      let n := o.next q
      let s1 := s.wr (q.pa + 20) (leBytes 4 (q.word - b2n q.stopped * 2 + b2n n.stopped * 2))
      let s2 := s1.modCtx x fun c => { c with queues := tset c.queues k { n with words := s1.rd q.pa 32 } }
      if n.stopped && !(o.stopped && !(o.cleared && q.enabled)) then s2.logError x 4 0 (srcHdie (k % 2)) k 0 0 else s2

/-- The sequencers look at every launch queue of a context. -/
def State.observeQueues (s : State) (x : Nat) : State :=
  (List.range 16).foldl (fun u k => u.observeQueue x k) s

/-- The head of a queue advances (R227). -/
def State.advanceHead (s : State) (x k : Nat) : State :=
  match s.launchQueue x k with
  | some q => s.wr (q.pa + 16) (leBytes 4 ((q.head + 1) % 2 ^ 32))
  | none => s

/-! ## Teardown (R239) -/

/-- The launch that stands at the head of a queue, once it has been read. -/
def State.atHead (s : State) (x q : Nat) : Option (Nat × Launch) :=
  s.launches.find? fun e => e.2.ctx == x && e.2.queue == q && (e.2.st == .waiting || e.2.st == .evaluated)

/-- The blocks between head and tail of a queue are discarded. -/
def State.discardQueue (s : State) (x q : Nat) : State :=
  match s.launchQueue x q with
  | none => s
  | some Q =>
    let skip := if (s.atHead x q).isSome then 1 else 0
    let n := if Q.waiting ≤ 65536 then Q.waiting - skip else 0
    let s1 := (List.range n).foldl (fun u k =>
      u.logError x 2 0 (srcHdie (q % 2)) q ((Q.head + skip + k) % 2 ^ 32) 0) s
    if Q.waiting == 0 then s1 else s1.wr (Q.pa + 16) (leBytes 4 Q.tail)

/-- The sequencers observe the launch queues of every context; a Lost context takes no submission (R224, R239). -/
def State.observeAll (s : State) : State :=
  (tkeys s.ctxs).foldl (fun u x =>
    if (u.ctx x).st == .lost then (List.range 16).foldl (fun v k => v.discardQueue x k) u else u.observeQueues x) s

end Sys2Proof.Machine
end

