-- ==== Sys2Proof/Machine/Ops.lean ====
section
/-!
DEFINITION. The named operations over registers and batches, taking a trap and returning from one.

Registers (R25-R29), writes in flight (R17, R18), batches (R54, R59), parking and the disposition of traps
(R242-R250), handler mode and ERET (R191, R246), the stop and the freeze of a context (R244, R253-R255), the end of
groups and teams (R62, R208).
-/

namespace Sys2Proof.Machine

/-- What a step answers. -/
abbrev Out := Host.Outcome State Fault Refusal

/-! ## Registers -/

/-- The fibre in a lane, or a free lane. -/
def Group.lane (G : Group) (l : Nat) : Lane := tget G.lanes l Lane.empty

/-- The group with a lane changed. -/
def Group.modLane (G : Group) (l : Nat) (f : Lane → Lane) : Group := { G with lanes := tset G.lanes l (f (G.lane l)) }

/-- Vector register `n` of a fibre. -/
def Lane.v (L : Lane) (n : Nat) : Word := tget L.regs n 0

/-- Predicate `n` of a fibre: p31 reads 1 (R25). -/
def Lane.p (L : Lane) (n : Nat) : Bool := n == 31 || L.preds.getLsbD n

/-- Vector register `n` of the fibre in lane `l`. -/
def Group.v (G : Group) (l n : Nat) : Word := (G.lane l).v n

/-- Predicate `n` of the fibre in lane `l`. -/
def Group.p (G : Group) (l n : Nat) : Bool := (G.lane l).p n

/-- Scalar register `n`: s63 reads zero (R25). -/
def Group.s (G : Group) (n : Nat) : Word := if n == 63 then 0 else tget G.sregs n 0

/-- The 64-bit value of the vector pair from `n` (Pair of R56). -/
def Group.vpair (G : Group) (l n : Nat) : Nat := (G.v l n).toNat + 2 ^ 32 * (G.v l (n + 1)).toNat

/-- The 64-bit value of the scalar pair from `n`. -/
def Group.spair (G : Group) (n : Nat) : Nat := (G.s n).toNat + 2 ^ 32 * (G.s (n + 1)).toNat

/-- The lanes that hold a live fibre. -/
def Group.live (G : Group) : List Nat := (List.range 32).filter fun l => (G.lane l).live

/-- The word of predicates with predicate `n` replaced; p31 is not held (R25). -/
def setPred (w : BitVec 32) (n : Nat) (b : Bool) : BitVec 32 :=
  if n == 31 then w
  else if b then w ||| (1 <<< n : BitVec 32) else w &&& ~~~(1 <<< n : BitVec 32)

/-- The bits of sr.fpflags that are not Reserved (R29). -/
def flagsMask : Word := 0xFF

/-- A word with `len` bits from bit `lo` replaced by the lowest bits of another. -/
def mergeBits (old : Word) (lo len : Nat) (new : Word) : Word :=
  let m : Word := BitVec.ofNat 32 ((2 ^ len - 1) * 2 ^ lo)
  (old &&& ~~~m) ||| ((new <<< lo) &&& m)

/-- Writing one register: s63 and p31 discard the write (R25), flags are OR-ed (R29). -/
def Group.write1 (G : Group) (w : RegRef × Word) : Group :=
  match w.1 with
  | .v l n => G.modLane l fun L => { L with regs := tput L.regs n w.2 0 }
  | .vbits l n lo len => G.modLane l fun L => { L with regs := tput L.regs n (mergeBits (L.v n) lo len w.2) 0 }
  | .p l n => G.modLane l fun L => { L with preds := setPred L.preds n (w.2 != 0) }
  | .s n => if n == 63 then G else { G with sregs := tput G.sregs n w.2 0 }
  | .flags => { G with fpflags := G.fpflags ||| (w.2 &&& flagsMask) }

/-- Writing registers in turn. -/
def Group.write (G : Group) (ws : List (RegRef × Word)) : Group := ws.foldl Group.write1 G

/-- Placing a write among others in order of landing, behind those of the same cycle. -/
def insertDue (f : InFlight) : List InFlight → List InFlight
  | [] => [f]
  | x :: xs => if x.due ≤ f.due then x :: insertDue f xs else f :: x :: xs

/-- The writes of a list in order of landing, those of one cycle in the order of the list. -/
def sortDue (l : List InFlight) : List InFlight := l.foldl (fun acc f => insertDue f acc) []

/-- The fixed-latency writes in flight that have landed by a cycle take effect in order of landing, those of one
cycle in order of issue (R17, R18; log entry 6). -/
def Group.settle (G : Group) (now : Nat) : Group :=
  let due := sortDue (G.inflight.filter fun f => f.due ≤ now)
  ({ G with inflight := G.inflight.filter fun f => now < f.due }).write (due.map fun (f : InFlight) => (f.ref, f.val))

/-- A write to s63 or p31, which is discarded (R25): it is never in flight. -/
def RegRef.discards : RegRef → Bool
  | .s n => n == 63
  | .p _ n => n == 31
  | _ => false

/-- Writes of an instruction of latency `lat` issued at `now` (R17): an instruction issued at `now + lat` or later
sees them. -/
def Group.writeFixed (G : Group) (now lat : Nat) (ws : List (RegRef × Word)) : Group :=
  { G with inflight := G.inflight ++ (ws.filter fun w => !w.1.discards).map fun w =>
      { due := now + lat, ref := w.1, val := w.2 } }

/-- Writes of an instruction of variable latency: they land at once and supersede a write in flight to the same
register (R20; log entry 5). -/
def Group.writeVar (G : Group) (ws : List (RegRef × Word)) : Group :=
  ({ G with inflight := G.inflight.filter fun f => f.ref = RegRef.flags || !ws.any fun w => w.1 = f.ref.whole }).write ws

/-- Writes of an instruction of variable latency that land `n` cycles later (R20): until then an instruction that reads
or writes one of the registers waits. Flags are merged at once. -/
def Group.writeLate (G : Group) (now n : Nat) (ws : List (RegRef × Word)) : Group :=
  let regs := ws.filter fun w => w.1 != RegRef.flags && !w.1.discards
  let H := G.writeVar (ws.filter fun w => w.1 = RegRef.flags)
  { H with inflight := H.inflight.filter fun f => f.ref = RegRef.flags || !regs.any fun w => w.1.whole = f.ref.whole
           pending := H.pending ++ regs.map fun w => { due := now + n, ref := w.1, val := w.2 } }

/-- The variable-latency writes that have landed by a cycle take effect, and an instruction that waits for one is tried
again once none is pending (R20). -/
def Group.land (G : Group) (now : Nat) : Group :=
  let due := G.pending.filter fun f => f.due ≤ now
  if due.isEmpty then G
  else
    ({ G with pending := G.pending.filter fun f => now < f.due
              batches := G.batches.map fun (B : Batch) => if B.wait = some Wait.score then { B with wait := none } else B }).write
      (due.map fun (f : InFlight) => (f.ref, f.val))

/-- Every write in flight and every pending one lands. -/
def Group.landAll (G : Group) : Group :=
  let last (l : List InFlight) : Nat := (l.map (·.due)).foldl max 0
  (G.settle (last G.inflight)).land (last G.pending)

/-- The writes of a 64-bit value to the vector pair from `n`. -/
def wpair (l n : Nat) (v : Nat) : List (RegRef × Word) := [(.v l n, word v), (.v l (n + 1), word (v / 2 ^ 32))]

/-- The writes of words to consecutive vector registers. -/
def wregs (l n : Nat) (ws : List Word) : List (RegRef × Word) :=
  ws.zipIdx.map fun (w, i) => (.v l (n + i), w)

/-- The write of a predicate. -/
def wpred (l n : Nat) (b : Bool) : RegRef × Word := (.p l n, bword b)

/-! ## What a fibre does at an instruction -/

/-- Bits [63:52] of an address are zero (R58). -/
def wellFormedVa (a : Nat) : Bool := a < vaTop

/-- A trap with its code, detail and address (R240). -/
def mkTrap (code detail addr : Nat) : Trap :=
  { code := code, detail := detail, addr := addr, obj := false, nested := false, onyx := none }

/-- The trap of an access whose translation fails with a code: PAGE and PROT tell what was asked for (R240). -/
def Access.trap (acc : Access) (code va : Nat) : Trap :=
  mkTrap code (if code == fcPage || code == fcProt then acc.detail else 0) va

/-- The trap of a malformed target (R58), none for a well-formed one. -/
def badTarget (t : Nat) : Option Trap :=
  if t % 4 != 0 then some (mkTrap fcAlign 0 t) else if wellFormedVa t then none else some (mkTrap fcPage 2 t)

/-- What one fibre of the batch does. A fibre with no entry, and one with all defaults, goes on behind the
instruction. -/
structure LaneOut where
  lane   : Nat
  writes : List (RegRef × Word) := []
  trap   : Option Trap := none
  park   : Option Park := none
  /-- The next PC where it is not that of the next instruction. -/
  next   : Option Nat := none
  /-- The fibre ends (R62). -/
  ends   : Bool := false
  /-- Flags set in sr.fpflags. -/
  flags  : Nat := 0
  /-- The fibre reached a far target that does not answer (R277): the virtual address and the physical line. -/
  far    : Option (Nat × Nat) := none

/-! ## Batches -/

/-- The PC of a batch: that of its lowest lane. -/
def Group.batchPc (G : Group) (B : Batch) : Nat :=
  match lanesOf B.lanes with
  | [] => 0
  | l :: _ => (G.lane l).pc

/-- A batch with a fresh hint run and no wait. -/
def Batch.fresh (m : BitVec 32) : Batch :=
  { lanes := m, hints := [], wait := none, held := none, snap := none, tried := 0, passed := 0 }

/-- The distinct values of a list of numbers, ascending. -/
def distinct (l : List Nat) : List Nat :=
  l.foldl (fun acc x => acc.takeWhile (· < x) ++ (if acc.contains x then [] else [x]) ++ acc.dropWhile (· < x)) []

/-- Splitting a batch by the next PC of its fibres (R54, R59): fibres that fall through keep the batch and its age;
fibres with other targets form new batches, younger than all others, the lowest target the oldest of them. A batch
whose fibres all go to one place stays one batch and keeps its age. -/
def Group.split (G : Group) (bi fall : Nat) (nxt : List (Nat × Nat)) : Group :=
  let G1 := nxt.foldl (fun H (e : Nat × Nat) => H.modLane e.1 fun L => { L with pc := e.2 }) G
  let lanesAt (t : Nat) : BitVec 32 := maskOf ((nxt.filter fun e => e.2 == t).map (·.1))
  match distinct (nxt.map (·.2)) with
  | [] => { G1 with batches := G1.batches.eraseIdx bi }
  | [_] => { G1 with batches := G1.batches.modify bi fun _ => Batch.fresh (maskOf (nxt.map (·.1))) }
  | ts =>
    let rest := (ts.filter (· != fall)).map fun t => Batch.fresh (lanesAt t)
    if ts.contains fall then
      { G1 with batches := (G1.batches.modify bi fun _ => Batch.fresh (lanesAt fall)) ++ rest }
    else { G1 with batches := G1.batches.eraseIdx bi ++ rest }

/-- Fibres that leave the parked state at one PC form one new batch, the youngest (R54, R243). -/
def Group.rejoin (G : Group) (ls : List Nat) (pc : Nat) : Group :=
  if ls.isEmpty then G
  else
    let H := ls.foldl (fun H l => H.modLane l fun L => { L with pc := pc, parked := none }) G
    { H with batches := H.batches ++ [{ Batch.fresh (maskOf ls) with replay := some 0 }] }

/-- A fibre ends: its lane becomes free and its registers are no one's (R62). -/
def Lane.ended (L : Lane) : Lane := { Lane.empty with regs := L.regs, preds := L.preds }

/-- A fibre's share of every touch entry ceases to be live (R116). -/
def Group.dropShares (G : Group) (ls : List Nat) : Group :=
  { G with touches := G.touches.map fun t => { t with shares := t.shares.filter fun x => !ls.contains x.lane } }

/-- The fibres in lanes end (R62). -/
def Group.endLanes (G : Group) (ls : List Nat) : Group :=
  let H := ls.foldl (fun H l => H.modLane l Lane.ended) G
  let stays (f : InFlight) : Bool :=
    match f.ref.whole with
    | .v l _ => !ls.contains l
    | .p l _ => !ls.contains l
    | _ => true
  { H.dropShares ls with inflight := H.inflight.filter stays, pending := H.pending.filter stays }

/-! ## Context states (R255) -/

/-- Whether groups of the context may issue (R255). -/
def CtxState.issues : CtxState → Bool
  | .active => true
  | .draining => true
  | _ => false

/-- A pre-emption request is pending for the context: the drain flag of the queue instructions (R72, R259). -/
def State.draining (s : State) (x : Nat) : Bool :=
  let c := s.ctx x
  match c.st with
  | .draining => true
  | .stopped => c.back == .draining
  | .frozen => c.back == .draining || (c.back == .stopped && c.back2 == .draining)
  | _ => false

/-- The drain flag as a team sees it: a generator team stands outside pre-emption (R401). -/
def State.drainSeen (s : State) (x tid : Nat) : Bool := s.draining x && (s.team tid).gen.isNone

/-- The deadline timer stops counting global time (R253, R260, R261). -/
def Ctx.pauseDeadline (c : Ctx) (now : Nat) : Ctx :=
  match c.deadline with
  | some d => { c with deadline := none, remains := some (d - now) }
  | none => c

/-- The deadline timer goes on with the time that remained when the context is Draining again (R255, R260). -/
def Ctx.resumeDeadline (c : Ctx) (now : Nat) : Ctx :=
  match c.st, c.remains with
  | .draining, some r => { c with deadline := some (now + r), remains := none }
  | _, _ => c

/-- A context stops (R244, R422): a context that is Stopped already stays so. -/
def State.stopCtx (s : State) (x : Nat) : State :=
  s.modCtx x fun c => if c.st.issues then { (c.pauseDeadline s.ptp) with st := .stopped, back := c.st } else c

/-- A context freezes (R253). -/
def State.freezeCtx (s : State) (x : Nat) : State :=
  s.modCtx x fun c =>
    match c.st with
    | .frozen => c
    | .lost => c
    | .stopped => { (c.pauseDeadline s.ptp) with st := .frozen, back := .stopped, back2 := c.back }
    | st => { (c.pauseDeadline s.ptp) with st := .frozen, back := st }

/-! ## Trap records (R249, R250) -/

/-- sr.trapcause for a trap (R241). -/
def Trap.cause (t : Trap) : Nat :=
  t.code % 256 + t.detail % 65536 * 256 + b2n t.obj * 2 ^ 24 + b2n t.nested * 2 ^ 25

/-- The dispositions of R249. -/
def dispDelivered : Nat := 0
/-- Stopped. -/
def dispStopped : Nat := 1
/-- Frozen. -/
def dispFrozen : Nat := 2
/-- Killed. -/
def dispKilled : Nat := 3

/-- The bytes of a region stack in a record: eight entries, the top one first (R249). -/
def regionBytes (n : Nat) (rs : List (BitVec 16)) : List Byte :=
  sliceBytes ((rs.take n).flatMap fun r => leBytes 2 r.toNat) 0 (2 * n)

/-- What a trap record says (R249). -/
structure TrapRec where
  cause   : Nat
  lanes   : BitVec 32
  pc      : Nat
  addr    : Nat
  core    : Nat
  group   : Nat
  role    : Nat
  disp    : Nat
  team    : Nat
  grid    : Nat
  regions : List (BitVec 16)
  onyx    : Option (Nat × Nat)

/-- The 64 bytes of a trap record (R249). The region stack of the state holds its top entry first; a record gives the
topmost four. -/
def TrapRec.bytes (r : TrapRec) (now : Nat) : List Byte :=
  leBytes 4 r.cause ++ leBytes 4 r.lanes.toNat ++ leBytes 8 (r.pc % vaTop) ++ leBytes 8 r.addr ++
    leBytes 4 (r.core % 256 + r.group % 64 * 256 + r.role % 4 * 16384 + r.disp % 8 * 65536) ++
    leBytes 4 r.team ++ leBytes 4 r.grid ++ regionBytes 4 r.regions ++ leBytes 8 (now % 2 ^ 48) ++
    leBytes 8 ((r.onyx.map (·.1)).getD 0) ++ leBytes 4 ((r.onyx.map (·.2)).getD 0)

/-- The record of fibres of a group with one cause. -/
def State.trapRec (s : State) (c g : Nat) (G : Group) (ls : List Nat) (pc : Nat) (t : Trap) (disp : Nat) : TrapRec :=
  let T := s.team G.tid
  { cause := t.cause, lanes := maskOf ls, pc := pc, addr := t.addr, core := c, group := g, role := G.role,
    disp := disp, team := T.index, grid := T.grid, regions := G.regions, onyx := t.onyx }

/-- The bytes of a record, with the cycle count of its core's die. -/
def State.recBytes (s : State) (r : TrapRec) : List Byte := r.bytes (s.coreCycle r.core)

/-- Writing a trap record (R250). -/
def State.logTrap (s : State) (x : Nat) (r : TrapRec) : State := (s.ringPut x trapRing (s.recBytes r)).1

/-- The first `n` bytes of a record as the detail of a STOP or FREEZE event (R441). -/
def State.recDetail (s : State) (r : TrapRec) (n : Nat) : List Byte := (s.recBytes r).take n

/-! ## Taking a trap -/

/-- Fibres of a group with one cause and one instruction; `from_` is the first rule of R244 to test. -/
structure TrapSet where
  core  : Nat
  g     : Nat
  pc    : Nat
  from_ : Nat
  /-- The lanes with their traps, ascending; CODE and DETAIL are equal. -/
  traps : List (Nat × Trap)

/-- The lanes of a set. -/
def TrapSet.lanes (q : TrapSet) : List Nat := q.traps.map (·.1)

/-- The fibres of a set stay parked, to be disposed of again from a rule. -/
def State.keepParked (s : State) (q : TrapSet) (rule : Nat) : State :=
  s.modGroup q.core q.g fun G =>
    q.traps.foldl (fun H (e : Nat × Trap) => H.modLane e.1 fun L => { L with parked := some (.trap e.2 rule) }) G

/-- The context stops for a set (R244): a record with disposition 1 and the STOP event. -/
def State.stopFor (s : State) (x : Nat) (G : Group) (q : TrapSet) (t : Trap) : State :=
  let r := s.trapRec q.core q.g G q.lanes q.pc t dispStopped
  (((s.keepParked q 6).stopCtx x).logTrap x r).event 3 x (s.recDetail r 48)

/-- The context freezes for a set (R253): a record with disposition 2 and the FREEZE event; a thaw disposes of the
fibres from rule 3. -/
def State.freezeFor (s : State) (x : Nat) (G : Group) (q : TrapSet) (t : Trap) : State :=
  let r := s.trapRec q.core q.g G q.lanes q.pc t dispFrozen
  (((s.keepParked q 3).freezeCtx x).logTrap x r).event 4 x (leBytes 4 0 ++ leBytes 4 0 ++ s.recDetail r 40)

/-- The kind of the access in a PAGE fault's detail, as its event gives it (R441). -/
def pageAccess (t : Trap) : Nat := t.detail % 4

/-- A PAGE fault goes for service (R245): one entry for each page that fibres of the set address. -/
def State.serviceFor (s : State) (x : Nat) (q : TrapSet) : State :=
  (q.traps.foldl (fun (a : State × Tbl Nat) (e : Nat × Trap) =>
    let page := e.2.addr / 4096
    let park (u : State) (tok : Nat) : State :=
      u.modGroup q.core q.g fun G => G.modLane e.1 fun L => { L with parked := some (.service e.2 tok) }
    match tget? a.2 page with
    | some tok => (park a.1 tok, a.2)
    | none =>
      let tok := a.1.nextTok
      (park { a.1 with
          nextTok := tok + 1
          faults := tset a.1.faults tok
            { ctx := x, va := e.2.addr, access := pageAccess e.2, who := .fibres q.core q.g, forwarded := false,
              denied := false, fill := false, settled := false, met := e.2.addr } } tok, tset a.2 page tok)) (s, [])).1

/-- What delivery writes into a fibre (R246): the saved cause, PC and address, handler mode, and the PC. The handler is
native code or an Onyx function of its own; the interrupted code's nesting depth and granule are kept (R356, R363). A query that waited for a
service goes on no more. -/
def Lane.deliver (L : Lane) (t : Trap) (pc handler : Nat) : Lane :=
  { L with trapcause := word t.cause, trappc := BitVec.ofNat 64 pc, trapaddr := BitVec.ofNat 64 t.addr,
           handler := true, pc := handler, parked := none, depth := 0, depthBack := L.depth,
           granuleBack := L.granule
           ray := L.ray.filter fun q => q.cand.isSome }

/-- A set is delivered to the context's handler (R246): one batch at the handler's address. -/
def State.deliverFor (s : State) (q : TrapSet) (handler : Nat) : State :=
  s.modGroup q.core q.g fun G =>
    let H := q.traps.foldl (fun H (e : Nat × Trap) => H.modLane e.1 fun L => L.deliver e.2 q.pc handler) G
    let K := H.dropShares q.lanes
    { K with batches := K.batches ++ [Batch.fresh (maskOf q.lanes)] }

/-! ## Procedural blocks (R400-R403) -/

/-- The recursion limit of a context (R389). -/
def Ctx.depthLimit (c : Ctx) : Nat := let d := bits (c.word 0x0E0) 12 4; if d == 0 then 4 else d

/-- What a generator team's translation of an address gives in the block that the team fills: that of a FILLED block
(R385; log entry 29). -/
def State.ownBlock (s : State) (x : Nat) (gen : Option GenFill) (va : Nat) : Xlate → Xlate
  | .proc b fs =>
    match if (gen.map (·.block)) == some b then s.procLeaf x b else none with
    | some l => .ok (l.pa + (va - l.va)) l.flags
    | none => .proc b fs
  | r => r

/-- Marking an UNFILLED block FILLING: the fill that Agate will start, its depth and its chain (R400, R402). -/
def State.beginFill (s : State) (x : Nat) (gen : Option GenFill) (block : Nat) : State :=
  match s.procLeaf x block with
  | none => s
  | some l =>
    let f : FillRec :=
      { id := s.nextOp, block := l.va, range := ((s.rangeOf x l.va).map (·.idx)).getD 0,
        depth := (gen.map (·.depth)).getD 0 + 1,
        chain := (gen.map fun g => g.fill :: g.chain).getD [], evicting := false, started := false }
    ({ s.setFs l fsFilling with nextOp := s.nextOp + 1 } : State).modCtx x fun c => { c with fills := c.fills ++ [f] }

/-- The block is being filled by a generator team's own fill, or by one of the chain that started it (R402). Another fill
of such a block, later, and an eviction of it are no fills of the chain. -/
def State.inChain (s : State) (x : Nat) (g : GenFill) (block : Nat) : Bool :=
  (s.ctx x).fills.any fun f => f.block == block && !f.evicting && (g.fill :: g.chain).contains f.id

/-- A party meets a block that is not FILLED (R119, R402): the fill it starts, or the FILL trap of a generator team
whose own chain or depth forbids it. -/
def State.meetBlock (s : State) (x : Nat) (gen : Option GenFill) (block fs va : Nat) : State × Option Trap :=
  if fs == fsUnfilled then
    match gen with
    | some g =>
      if (s.ctx x).depthLimit ≤ g.depth then (s, some (mkTrap fcFill 0xFFFE va)) else (s.beginFill x gen block, none)
    | none => (s.beginFill x gen block, none)
  else if fs == fsPoisoned then (s, some (mkTrap fcPoison (tget (s.ctx x).causes block 0) va))
  else
    match gen with
    | some g => if s.inChain x g block then (s, some (mkTrap fcFill 0xFFFD va)) else (s, none)
    | none => (s, none)

/-- Changing every group of a context. -/
def State.mapGroups (s : State) (x : Nat) (f : Group → Group) : State :=
  { s with cores := s.cores.map fun e =>
      (e.1, { e.2 with groups := e.2.groups.map fun h => (h.1, if h.2.ctx == x then f h.2 else h.2) }) }

/-- The fibre is parked on a block. -/
def Lane.onBlock (L : Lane) (block : Nat) : Bool :=
  match L.parked with
  | some (.fill b _) => b == block
  | _ => false

/-- The fibres of a group that are parked on a block replay, those of one PC as one batch (R119, R243). -/
def Group.releaseFill (block : Nat) (G : Group) : Group :=
  let ls := (G.lanes.filter fun e => e.2.onBlock block).map (·.1)
  (distinct (ls.map fun l => (G.lane l).pc)).foldl (fun H pc => H.rejoin (ls.filter fun l => (G.lane l).pc == pc) pc) G

/-- The fibres of a group that are parked on a block raise FILL, to be disposed of by the step TRAP_DISPOSITION. -/
def Group.poisonFill (block cause : Nat) (G : Group) : Group :=
  { G with lanes := G.lanes.map fun e => (e.1,
      match e.2.parked with
      | some (.fill b a) => if b == block then { e.2 with parked := some (.trap (mkTrap fcFill cause a) 1) } else e.2
      | _ => e.2) }

/-- The fill of a block is over: FS takes its state, and the block is listed no more. -/
def State.endFill (s : State) (x block fs : Nat) : State :=
  let s1 := match s.procLeaf x block with
    | some l => s.setFs l fs
    | none => s
  s1.modCtx x fun c => { c with fills := c.fills.filter fun f => f.block != block }

/-- A reset is in progress, or the context is Frozen or Lost (rule 1 of R244). -/
def Ctx.holdsTraps (c : Ctx) : Bool := c.st == .frozen || c.st == .lost

/-- The fibres parked on a block whose fill or eviction is over leave it: they replay, or raise FILL when the block is
POISONED (R119). Those of a Frozen context stay parked until its thaw (R253). -/
def State.wakeFill (s : State) (x block : Nat) : State :=
  if (s.ctx x).holdsTraps then s
  else
    match s.procLeaf x block with
    | some l =>
      if bits l.flags 8 2 == fsPoisoned then s.mapGroups x (Group.poisonFill block (tget (s.ctx x).causes block 0))
      else if s.fillState x l == fsFilling then s
      else s.mapGroups x (Group.releaseFill block)
    | none => s.mapGroups x (Group.releaseFill block)

/-- The blocks on which fibres of a context are parked. -/
def State.parkedBlocks (s : State) (x : Nat) : List Nat :=
  (s.allGroups.flatMap fun (_, _, G) =>
    if G.ctx == x then G.lanes.filterMap fun e =>
      match e.2.parked with
      | some (.fill b _) => some b
      | _ => none
    else []).eraseDups

/-- Every fibre of a context that is parked on a block which it no longer waits for leaves it. -/
def State.wakeFills (s : State) (x : Nat) : State := (s.parkedBlocks x).foldl (fun u b => u.wakeFill x b) s

/-- What has been stored to a block is seen by every party: GDONE releases it to those that touch the block (R307). -/
def State.revealBlock (s : State) (x block : Nat) : State :=
  match s.procLeaf x block with
  | some l => s.reveal (·.hits none (s.ownAddr l.pa) l.size)
  | none => s

/-- A block becomes FILLED by GDONE (R157, R400): `filled` of its range gains 1, and its waiters replay. -/
def State.fillBlock (s : State) (x block range : Nat) : State :=
  let s1 := ((s.revealBlock x block).endFill x block fsFilled).modCtx x fun c =>
    { c with filled := c.filled ++ [(block, range, s.now)], gdone := c.gdone ++ [(range, block)] }
  let va := (s1.ctx x).rangeVa range + 20
  let s2 := match s1.walkPa x va with
    | some pa => s1.wr pa (leBytes 4 (s1.rdNat pa 4 + 1))
    | none => s1.noteTable x (srcHdie 0) va
  s2.wakeFill x block

/-- A block becomes POISONED (R157, R400, R403): its waiters raise FILL with the cause. -/
def State.poisonBlock (s : State) (x block cause : Nat) : State :=
  ((s.endFill x block fsPoisoned).modCtx x fun c => { c with causes := tset c.causes block cause }).wakeFill x block

/-- The outcome that GDONE or GFAIL gave a generator's fill takes effect, at the end of the cycle or with the end of
its team; a team that ends without an outcome poisons its block with `cause` (R157, R403, R406). -/
def State.settleGen (s : State) (tid : Nat) (cause : Option Nat) : State :=
  let T := s.team tid
  match T.gen with
  | none => s
  | some g =>
    if g.decided then s
    else
      let mark (u : State) : State := u.modTeam tid fun T => { T with gen := some { g with decided := true } }
      match g.verdict, cause with
      | some none, _ => mark (s.fillBlock T.ctx g.block g.range)
      | some (some k), _ => mark (s.poisonBlock T.ctx g.block k)
      | none, some k => mark (s.poisonBlock T.ctx g.block k)
      | none, none => s

/-! ## Steps on objects still to be made -/

/-- A step on an object is listed. -/
def State.addContribution (s : State) (n : Contribution) : State :=
  { s with nextCon := s.nextCon + 1, contribs := tset s.contribs s.nextCon n }

/-! ## Killing a team -/

/-- Nothing of the context waits for the request of the unit. -/
def FaultWho.isPosted : FaultWho → Bool
  | .posted _ _ _ => true
  | .host _ => true
  | _ => false

/-- The party that waits for the service of a fault is still there. -/
def State.waits (s : State) : FaultWho → Bool
  | .fibres c g => (s.group? c g).isSome
  | .engine d o => (s.die d).ops.any fun e => e.id == o
  | .interest d e => (tget? (s.die d).interests e).isSome
  | .contribution n => (tget? s.contribs n).isSome
  | .save _ => true
  | .tile t => (tget? s.teams t).isSome
  | .pass l => (tget? s.launches l).isSome
  | .reload l _ => (tget? s.launches l).isSome
  | .launch _ _ => true
  | .generator _ _ => true
  | .posted _ _ _ => true
  | .host k => (tget? s.host.sessions k).isSome
  | .csw c g => s.csws.any fun q => q.core == c && q.g == g

/-- Entries of parties that are gone are taken away, and the far requests of units that are gone. -/
def State.sweepFaults (s : State) : State :=
  { s with faults := s.faults.filter fun e => s.waits e.2.who
           remotes := s.remotes.filter fun e => e.2.who.all s.waits }

/-- The operations of a core's matrix queue that stay; when the one on the array leaves, the array is free. -/
def Core.keepMatrix (C : Core) (p : MatrixOp → Bool) : Core :=
  { C with mqueue := C.mqueue.filter p, mbegan := if (C.mqueue.head?.map p).getD false then C.mbegan else none }

/-- A store that a group held is performed (R121): at its scratchpad, or at its memory; where the target no longer
answers, the request ends with an error (R277, R290). -/
def State.perform (s : State) (x : Nat) (p : Party) (h : HeldStore) : State :=
  if h.scr.isSome || s.reach h.pa == .ok then s.put x p h else s.noteLine x (srcCore p.core) h.pa 1

/-- Stores that a group held are performed one after another; the sequencers observe each (R224). -/
def State.performAll (s : State) (x : Nat) (p : Party) : List HeldStore → State
  | [] => s
  | [h] => s.perform x p h
  | h :: k :: t => (s.perform x p h).observeAll.performAll x p (k :: t)

/-- The tensor of a name. -/
def nameTensor (n : Nat) : Nat := bits n 44 20

/-- An interest's entry is free; when it was the last of its merge set, the upward request is withdrawn (R391, R392). -/
def State.freeInterest (s : State) (d e : Nat) : State :=
  match tget? (s.die d).interests e with
  | none => s
  | some i =>
    let t := s.modDie d fun D => { D with interests := tdel D.interests e }
    if (t.die d).interests.any fun j => j.2.ctx == i.ctx && j.2.name == i.name && j.2.sent then t
    else t.modHdie (nameTensor i.name % 2) fun H =>
      { H with requests := H.requests.filter fun r => !(r.ctx == i.ctx && r.name == i.name && r.child == d) }

/-- The interests of a team are discarded. -/
def State.dropInterests (s : State) (tid : Nat) : State :=
  s.dies.foldl (fun u d => (d.2.interests.filter fun i => i.2.tid == tid).foldl (fun v i => v.freeInterest d.1 i.1) u) s

/-- What is left of an engine operation when a team is killed: the read of a table, which belongs to its stream (R263). -/
def EngineOp.afterKill (tid : Nat) (o : EngineOp) : Option EngineOp :=
  if o.tid != tid then some o
  else
    match o.kind with
    | .table .. => some { o with tid := 0, ticket := 0 }
    | _ => none

/-- The groups of a team are killed (R260, R403): one record per group with disposition 3, the groups are freed unsaved,
and the team's engine and matrix operations and its interests are discarded. The stores that a group held go to
memory. A table that the team has issued survives it, with its read (R242, R263). -/
def State.killGroups (s : State) (tid : Nat) (t : Trap) : State :=
  let T := s.team tid
  let s1 := (s.teamGroups tid).foldl (fun u (e : Nat × Group) =>
    let G := e.2
    let pc := (G.live.head?.map fun l => (G.lane l).pc).getD 0
    let r := u.trapRec T.core e.1 G G.live pc t dispKilled
    (u.logTrap T.ctx r).performAll G.ctx (partyOf T.core e.1 G) G.held) s
  let s2 := s1.modCore T.core fun C =>
    { C.keepMatrix (fun m => m.tid != tid) with
             groups := C.groups.filter fun e => e.2.tid != tid
             meshlets := C.meshlets.filter fun e => e.2.tid != tid }
  let s3 : State := { s2.dropInterests tid with
    dies := (s2.dropInterests tid).dies.map fun e => (e.1, { e.2 with ops := e.2.ops.filterMap (EngineOp.afterKill tid) })
    csws := s2.csws.filter fun q => (s2.group? q.core q.g).isSome
    remotes := s2.remotes.filter fun e => e.2.tid != tid
    teams := tdel s2.teams tid }
  let s4 : State := { s3.forget (·.tid == tid) with contribs := s3.contribs.filter fun c => c.2.interest.all fun i =>
    (tget? (s3.die i.1).interests i.2).isSome }
  s4.sweepFaults

/-- A generator team is killed by a fault (R403): its block takes the fault code as its cause. -/
def State.killTeam (s : State) (tid : Nat) (t : Trap) : State := (s.settleGen tid (some t.code)).killGroups tid t

/-- The trap freezes its context (rule 2 of R244). -/
def Trap.freezes (t : Trap) : Bool := (t.code == fcProt || t.code == fcMultidest) && !t.obj

/-- The traps of a set; those of fibres in handler mode are nested (R241). -/
def TrapSet.nest (q : TrapSet) (s : State) : List (Nat × Trap) :=
  q.traps.map fun e =>
    if ((s.group? q.core q.g).map fun G => (G.lane e.1).handler).getD false then (e.1, { e.2 with nested := true }) else e

/-- The disposition of a set by the first rule of R244 that applies, from the rule the set names; 5 stands for a
disposition that a resume makes, from rule 5 with the stopmask bits ignored (R255). A trap of a generator team that
rules 1 to 3 do not dispose of kills the team (R403). A freeze goes before the dispositions of its cycle (R261): one that
comes after a disposition belongs to the next cycle (log entry 75). -/
def State.dispose (s : State) (q : TrapSet) : State :=
  match s.group? q.core q.g, q.nest s with
  | some G, (l0, t0) :: ts =>
    let q : TrapSet := { q with traps := (l0, t0) :: ts }
    let x := G.ctx
    let c := s.ctx x
    let inHandler := (G.lane l0).handler
    if c.holdsTraps then s.keepParked q (min q.from_ 5)
    else if q.from_ ≤ 2 && t0.freezes then
      (if c.disposed == some s.now then s.keepParked q q.from_ else s.freezeFor x G q t0)
    else
    let s := s.modCtx x fun c => { c with disposed := some s.now }
    if q.from_ ≤ 3 && t0.code == fcPage && !t0.obj && !inHandler then s.serviceFor x q
    else if (s.team G.tid).gen.isSome then s.killTeam G.tid t0
    else if q.from_ ≤ 4 && inHandler then s.stopFor x G q t0
    else if q.from_ ≤ 4 && bit (c.word 0x00C) t0.code then s.stopFor x G q t0
    else if bit (c.word 0x008) t0.code && t0.code != fcTimeout && c.dword 0x000 != 0 && !inHandler then
      let s1 := s.deliverFor q (c.dword 0x000)
      if bit (c.word 0x018) 5 then s1.logTrap x (s.trapRec q.core q.g G q.lanes q.pc t0 dispDelivered) else s1
    else s.stopFor x G q t0
  | _, _ => s

/-- Whether two traps share a record and a batch: equal CODE and DETAIL (R246, R249), and the same handler mode. -/
def sameCause (h1 h2 : Bool) (a b : Trap) : Bool :=
  a.code == b.code && a.detail == b.detail && a.obj == b.obj && h1 == h2 && a.onyx == b.onyx

/-- Grouping lanes with their traps by cause, in ascending order of the lowest lane of each. -/
def groupCauses (hm : Nat → Bool) : List (Nat × Trap) → List (List (Nat × Trap))
  | [] => []
  | e :: es =>
    let gs := groupCauses hm es
    match gs.find? fun q => q.any fun f => sameCause (hm e.1) (hm f.1) e.2 f.2 with
    | some q => (e :: q) :: gs.erase q
    | none => [e] :: gs

/-- Whether a cause freezes the context (rule 2 of R244); such a cause is disposed of first (R261). -/
def freezes (q : List (Nat × Trap)) : Bool :=
  q.any fun e => e.2.freezes

/-- Disposing of parked fibres of one instruction, cause by cause. -/
def State.disposeAll (s : State) (c g pc rule : Nat) (ts : List (Nat × Trap)) : State :=
  match s.group? c g with
  | none => s
  | some G =>
    let qs := groupCauses (fun l => (G.lane l).handler) ts
    ((qs.filter freezes) ++ (qs.filter fun q => !freezes q)).foldl (fun u q =>
      u.dispose { core := c, g := g, pc := pc, from_ := rule, traps := q }) s

/-- A variable-latency write of the group is pending that a fibre's older instructions made: its own registers, or
those of the group (R242). -/
def Group.owes (G : Group) (ls : List Nat) : Bool :=
  G.pending.any fun f =>
    match f.ref.whole with
    | .v l _ => ls.contains l
    | .p l _ => ls.contains l
    | _ => true

/-- Fibres trap at an instruction (R242, R243): they keep the reported PC, park, and are disposed of (R244), at once or
when their pending writes have landed. They have left their batch already. -/
def State.takeTraps (s : State) (c g rpc : Nat) (ts : List (Nat × Trap)) : State :=
  if ts.isEmpty then s
  else
    let t := s.modGroup c g fun G =>
      ts.foldl (fun H (e : Nat × Trap) => H.modLane e.1 fun L =>
        { L with pc := rpc, parked := some (.trap e.2 1) }) G
    if ((s.group? c g).map (·.owes (ts.map (·.1)))).getD false then t else t.disposeAll c g rpc 1 ts

/-- The return from a trap (R191): what ERET does to a fibre whose sr.trappc is well formed. -/
def Lane.eret (L : Lane) : Lane :=
  { L with handler := false, pc := L.trappc.toNat, depth := L.depthBack, granule := L.granuleBack }

/-! ## The end of groups and teams -/

/-- The side of an operation lies in a scratchpad. -/
def Side.scratch (d : Side) : Bool := d.space != 0

/-- The operation reads or writes a scratchpad. -/
def OpKind.scratch : OpKind → Bool
  | .cpy _ _ _ _ => true
  | .copy a b _ _ _ => a.scratch || b.scratch
  | .decode _ d _ _ _ _ _ _ => d.scratch
  | .table _ _ _ _ _ => false
  | .tmov _ _ _ _ _ _ => true
  | .announce a _ _ _ => a.scratch

/-- An operation of a team reads or writes its scratchpads. -/
def EngineOp.onTeam (o : EngineOp) (tid : Nat) : Bool := o.tid == tid && o.kind.scratch && !o.finished

/-- An interest of a team may still write its scratchpads. -/
def Interest.onTeam (i : Interest) (tid : Nat) : Bool :=
  i.tid == tid && i.dst.scratch &&
    match i.st with
    | .ending _ => false
    | _ => true

/-- What still reads or writes a team's storage, or holds back its end: engine and matrix operations, routers, a tile's
export or spill, and primitives that the binners have not appended (R208, R256, R324). -/
def State.teamBusy (s : State) (tid : Nat) : Bool :=
  let T := s.team tid
  (s.cores.any fun e => e.2.mqueue.any fun m => m.tid == tid) ||
  (s.dies.any fun e => (e.2.ops.any (·.onTeam tid)) || e.2.interests.any fun i => i.2.onTeam tid) ||
  (T.tile.map fun t => t.tret.isSome).getD false ||
  (match (tget? s.launches T.lid).bind (·.batchOf) with
   | some (lid, b) =>
     ((tget? s.passes lid).map fun P =>
       P.binners.any fun e => e.2.held.any fun r => r.batchSeq == b && r.team == T.index).getD false
   | none => false)

/-- The end marker of a team follows its last record to every binner of the pass that it feeds (R332). -/
def State.endMarker (s : State) (T : Team) : State :=
  match (tget? s.launches T.lid).bind (·.batchOf) with
  | none => s
  | some (lid, b) =>
    { s with passes := tmod s.passes lid fun P =>
        { P with binners := ((List.range 8).filter (bit P.rs.binmask)).foldl (fun bs d =>
            let B := tget bs d { held := [], ends := [] }
            tset bs d { B with ends := B.ends ++ [(b, T.index)] }) P.binners } }

/-- A team that has ended and that nothing uses any more gives back its storage and its meshlet slots (R174, R208). -/
def State.reapTeam (s : State) (tid : Nat) : State :=
  let T := s.team tid
  if T.ended && !s.teamBusy tid then
    let s1 := (s.endMarker T).modCore T.core fun C => { C with meshlets := C.meshlets.filter fun e => e.2.tid != tid }
    { s1 with teams := tdel s1.teams tid }
  else s

/-- The phase has reached its count. -/
def BarPhase.full (p : BarPhase) : Bool := p.count.any (· ≤ p.arrivals)

/-- The phase takes an arrival of a group: its first one, or one below its count of a group that was resident at the
first (R77, R78). -/
def BarPhase.takes (p : BarPhase) (g : Nat) : Bool := p.count.isNone || (!p.full && p.all.contains g)

/-- An arrival in a phase that takes it. The first one fixes the count (R77). -/
def BarPhase.arrive (p : BarPhase) (g cnt : Nat) (resident : List Nat) : BarPhase :=
  match p.count with
  | none =>
    { arrivals := 1, count := some (if cnt == 0 then resident.length else cnt), auto := cnt == 0, all := resident,
      due := resident.filter (· != g) }
  | some _ => { p with arrivals := p.arrivals + 1, due := p.due.filter (· != g) }

/-- A group exits. A phase whose count was given as 0 expects one arrival less when the group has not arrived in it
(R78). -/
def BarPhase.exit (p : BarPhase) (g : Nat) : BarPhase :=
  { p with count := if p.auto && p.due.contains g then p.count.map (· - 1) else p.count
           all := p.all.filter (· != g), due := p.due.filter (· != g) }

/-- An arrival in the first of some phases that takes it, or in a new one after them: the phases, and its place. -/
def arriveIn (g cnt : Nat) (resident : List Nat) : List BarPhase → List BarPhase × Nat
  | [] => ([BarPhase.start.arrive g cnt resident], 0)
  | p :: ps =>
    if p.takes g then (p.arrive g cnt resident :: ps, 0)
    else
      let r := arriveIn g cnt resident ps
      (p :: r.1, r.2 + 1)

/-- Phases that have reached their counts complete, the first one first. -/
def Bar.complete (phase : Nat) : List BarPhase → Bar
  | [] => { phase := phase, cur := BarPhase.start, later := [] }
  | p :: ps => if p.full then Bar.complete (phase + 1) ps else { phase := phase, cur := p, later := ps }

/-- A group arrives: the barrier afterwards, and the phase that the arrival belongs to (R77, R78). -/
def Bar.arrive (b : Bar) (g cnt : Nat) (resident : List Nat) : Bar × Nat :=
  let r := arriveIn g cnt resident (b.cur :: b.later)
  (Bar.complete b.phase r.1, b.phase + r.2)

/-- A group exits (R78). -/
def Bar.exit (b : Bar) (g : Nat) : Bar := Bar.complete b.phase (b.cur.exit g :: b.later.map (·.exit g))

/-- A group exits (R62): its context is free; the team ends with its last group (R208). Meshlet slots and held
stores of the group are the team's and memory's: the write-combining buffer drains. -/
def State.exitGroup (s : State) (c g : Nat) : State :=
  match s.group? c g with
  | none => s
  | some G =>
    let s0 := (s.performAll G.ctx (partyOf c g G) G.held).forget (· == partyOf c g G)
    let s1 := s0.modCore c fun C => { C with groups := tdel C.groups g, exited := tset C.exited g G }
    let s2 := s1.modTeam G.tid fun T => { T with bars := T.bars.map fun e => (e.1, e.2.exit g) }
    if (s2.teamGroups G.tid).isEmpty then
      ((s2.settleGen G.tid (some 0xFFFF)).modTeam G.tid fun T => { T with ended := true }).reapTeam G.tid
    else s2

/-- The role whose groups receive a team's fragment fibres: that of its pass, for a team with a tile task (R321). -/
def State.fragRole (s : State) (tid : Nat) : Option Nat :=
  let T := s.team tid
  if T.tile.isSome then (tget? s.passes T.lid).map (·.rs.frole) else none

/-- The groups of the fragment role that hold no live fibre exit when the tile has been retired and every group of the
other roles has exited (R321). -/
def State.sweepFrags (s : State) (tid : Nat) : State :=
  let T := s.team tid
  match T.tile, s.fragRole tid with
  | some t, some r =>
    let gs := s.teamGroups tid
    if !t.held && gs.all (fun e => e.2.role == r) then
      (gs.filter fun e => e.2.live.isEmpty).foldl (fun u e => u.exitGroup T.core e.1) s
    else s
  | _, _ => s

/-- A group without a live fibre exits, unless it is one of the fragment role (R62, R321). -/
def State.leave (s : State) (c g : Nat) : State :=
  match s.group? c g with
  | none => s
  | some G =>
    if !G.live.isEmpty then s
    else if s.fragRole G.tid == some G.role then s.sweepFrags G.tid
    else (s.exitGroup c g).sweepFrags G.tid

/-! ## Issue accounting -/

/-- The core's clock: pulses of its cluster counted since reset. -/
def State.pulses (s : State) (c : Nat) : Nat := s.counted (clusterOf c)

/-- A group issues (R16, R235): the gap holds it, and its give-way mark takes the flag; a hint word leaves the mark
and has gap 0. `lastIssue` becomes the first counted cycle after the issue. -/
def State.account (s : State) (c g gap : Nat) (mark : Option Bool) : State :=
  let s1 := s.modGroup c g fun G =>
    { G with lastIssue := s.pulses c + 1, nextIssue := s.coreCycle c + 1 + gap, giveWay := mark.getD G.giveWay }
  { s1 with issued := (c * 4 + g / 16) :: s1.issued }

/-- A held store covers a byte of a storage. -/
def HeldStore.over (h : HeldStore) (scr : Option Scr) (a : Nat) : Bool :=
  h.scr = scr && h.pa ≤ a && a < h.pa + h.bytes.length

/-- A held store meets a range of a storage. -/
def HeldStore.meets (h : HeldStore) (scr : Option Scr) (a n : Nat) : Bool :=
  h.scr = scr && h.pa < a + n && a < h.pa + h.bytes.length

/-- The group's own held stores laid over the bytes of a storage, oldest first (R120, R121). -/
def overlay (held : List HeldStore) (scr : Option Scr) (pa : Nat) (bs : List Byte) : List Byte :=
  held.foldl (fun acc h =>
    acc.zipIdx.map fun (b, i) => if h.over scr (pa + i) then h.bytes.getD (pa + i - h.pa) b else b) bs

/-- Some bytes of a range of memory are uncorrectable and not replaced by a held store (R120, R122). -/
def State.badUnder (s : State) (held : List HeldStore) (pa n : Nat) : Bool :=
  s.bad pa n && (List.range n).any fun i => s.bad (pa + i) 1 && !held.any fun h => h.over none (pa + i)

/-- Which of the held stores are performed when those that satisfy a test are: an older one goes before a newer one that
meets it. The list stands newest first. -/
def chosenHeld (p : HeldStore → Bool) : List HeldStore → List HeldStore → List HeldStore
  | _, [] => []
  | later, h :: hs =>
    if p h || later.any (fun k => h.scr = k.scr && h.pa < k.pa + k.bytes.length && k.pa < h.pa + h.bytes.length) then
      h :: chosenHeld p (h :: later) hs
    else chosenHeld p later hs

/-- The held stores of a group that satisfy a test are performed. -/
def State.performHeld (s : State) (c g : Nat) (p : HeldStore → Bool) : State :=
  match s.group? c g with
  | none => s
  | some G =>
    let go := (chosenHeld p [] G.held.reverse).reverse
    (s.performAll G.ctx (partyOf c g G) go).modGroup c g fun G => { G with held := G.held.filter fun h => !go.contains h }

/-- Every held store of a group is performed (R121). -/
def State.drainWc (s : State) (c g : Nat) : State :=
  match s.group? c g with
  | none => s
  | some G => (s.performAll G.ctx (partyOf c g G) G.held).modGroup c g fun G => { G with held := [] }

end Sys2Proof.Machine
end

