-- ==== Sys2Proof/WellFormed.lean ====
section
/-!
DEFINITION. The field values that make an instruction defined: step 2 of the decoding order (R43, 01_word.md).

An encoded instruction is well formed when none of its fields holds a value that its row calls reserved; the steps
without bits have no such fields.
-/

namespace Sys2Proof

/-- A 7-bit field of an E word that names a scalar register has bit 6 zero (R13). -/
def scal (r : BitVec 7) : Bool := r.toNat < 64

/-- A defined scope code (R30). -/
def scope (r : BitVec 3) : Bool := r.toNat ≤ 5

/-- A reach of the name instructions: die, package or fabric (R150). -/
def reach (r : BitVec 3) : Bool := r == 2 || r == 3 || r == 4

/-- A defined access class (R38). -/
def cls (k : BitVec 3) : Bool := k.toNat ≤ 2

/-- A listed special register (R27). -/
def readable (n : Nat) : Bool := n ≤ 0x10

/-- A special register that some MTS may write (R27). -/
def writable (n : Nat) : Bool := 0x0A ≤ n && n ≤ 0x0F

/-- alt = 1 only on a 64-bit special register (R27). -/
def wide (n : Nat) (w : BitVec 1) : Bool := w == 0 || n == 0x09 || n == 0x0E || n == 0x0F

/-- The width of an integer code (R35). -/
def intWidth : Nat → Nat
  | 0 => 32
  | 1 => 32
  | 2 => 16
  | 3 => 16
  | 4 => 8
  | 5 => 8
  | _ => 64

/-- The width of a float code (R35). -/
def floatWidth : Nat → Nat
  | 0 => 32
  | 1 => 16
  | 2 => 16
  | 3 => 64
  | _ => 8

/-- H = 1 needs an operand of 16 or 8 bits (R35). -/
def halfOk (h : BitVec 1) (a b : Nat) : Bool := h == 0 || a ≤ 16 || b ≤ 16

/-- A block format of QNT and DQNT (R35): bits [1:0] are b[4:3] and bits [4:2] are b[7:5]. -/
def blockFormat (f : BitVec 5) : Bool := if f.toNat % 4 == 3 then f.toNat / 4 ≤ 4 else f.toNat / 4 ≤ 6

/-- Every field of the instruction holds a defined value. -/
def Instr.wellFormed : Instr → Bool
  | .ill _ => true
  | .nop _ => true
  | .trap _ _ => true
  | .eret _ => true
  | .mfs d sf w _ => scal d && readable sf.toNat && wide sf.toNat w
  | .mfsV _ sf w _ => readable sf.toNat && wide sf.toNat w
  | .mfsB d _ _ => scal d
  | .mts d sf w _ => scal d && writable sf.toNat && wide sf.toNat w
  | .mtsV _ sf w _ => writable sf.toNat && wide sf.toNat w
  | .mtsB d _ _ => scal d
  | .feat d _ _ _ => scal d
  | .clk d _ => scal d
  | .fence sf _ => scope sf
  | .fenceAx sf _ => scope sf
  | .sleep n _ => scal n
  | .sleepLv n _ => scal n
  | .bkpt _ _ => true
  | .mark n _ _ => scal n
  | .rege _ _ => true
  | .regl _ => true
  | .csw n d _ => scal n && scal d
  | .bra _ _ => true
  | .brp _ _ _ => true
  | .brn _ _ _ => true
  | .brpAny _ _ _ => true
  | .brpAll _ _ _ => true
  | .call _ _ _ => true
  | .calli _ _ _ => true
  | .ret _ _ => true
  | .jmpi _ _ => true
  | .brx _ _ _ => true
  | .fork _ n _ => scal n
  | .fend _ => true
  | .rcv _ => true
  | .spawn _ n _ => scal n
  | .spawnT _ _ n _ => scal n
  | .yield _ => true
  | .shfl _ _ _ _ => true
  | .elect _ _ => true
  | .voteAny _ _ _ => true
  | .voteAll _ _ _ => true
  | .voteBallot _ _ _ => true
  | .shflX _ _ _ _ => true
  | .qpop _ _ _ _ => true
  | .qpopT _ _ _ _ => true
  | .qpush _ _ _ => true
  | .qstatDepth _ _ _ => true
  | .qstatFree _ _ _ => true
  | .qstatFlags _ _ _ => true
  | .bar _ n _ _ => scal n
  | .barv _ n _ _ => scal n
  | .barw _ _ _ => true
  | .pand _ _ _ _ _ _ => true
  | .por _ _ _ _ _ _ => true
  | .pxor _ _ _ _ _ _ => true
  | .pnot _ _ _ _ => true
  | .pset _ _ _ => true
  | .sadd _ _ _ _ => true
  | .ssub _ _ _ _ => true
  | .smul _ _ _ _ => true
  | .smulh _ _ _ _ _ => true
  | .sand _ _ _ _ => true
  | .sor _ _ _ _ => true
  | .sxor _ _ _ _ => true
  | .sshl _ _ _ _ => true
  | .sshr _ _ _ _ => true
  | .ssra _ _ _ _ => true
  | .smin _ _ _ _ _ => true
  | .smax _ _ _ _ _ => true
  | .scmp _ _ _ _ _ => true
  | .ssel _ _ _ _ => true
  | .smov _ _ _ => true
  | .slea _ _ _ _ _ => true
  | .saddi _ _ _ _ => true
  | .sxori _ _ _ _ => true
  | .vadd _ _ _ _ => true
  | .vsub _ _ _ _ => true
  | .vmul _ _ _ _ => true
  | .vmad _ _ _ _ => true
  | .vmulhS _ _ _ _ => true
  | .vmulhU _ _ _ _ => true
  | .vaddc _ _ _ _ => true
  | .vabs _ _ _ => true
  | .vclz _ _ _ => true
  | .vpopc _ _ _ => true
  | .vbrev _ _ _ => true
  | .vmov _ _ _ => true
  | .vmovs _ _ _ => true
  | .vand _ _ _ _ => true
  | .vor _ _ _ _ => true
  | .vxor _ _ _ _ => true
  | .vbfe _ _ _ _ => true
  | .vshl _ _ _ _ => true
  | .vshr _ _ _ _ => true
  | .vsra _ _ _ _ => true
  | .vbfi _ _ _ _ => true
  | .vminS _ _ _ _ => true
  | .vminU _ _ _ _ => true
  | .vmaxS _ _ _ _ => true
  | .vmaxU _ _ _ _ => true
  | .vdivS _ _ _ _ => true
  | .vdivU _ _ _ _ => true
  | .vremS _ _ _ _ => true
  | .vremU _ _ _ _ => true
  | .vcmp n m _ _ _ _ => n.toNat * 4 + m.toNat ≤ 9
  | .vsel _ _ _ _ => true
  | .vaddi _ _ _ _ => true
  | .vshli _ _ _ _ => true
  | .vshri _ _ _ _ => true
  | .vsrai _ _ _ _ => true
  | .fadd _ _ _ _ => true
  | .fsub _ _ _ _ => true
  | .fmul _ _ _ _ => true
  | .ffma _ _ _ _ => true
  | .ffms _ _ _ _ => true
  | .fmin _ _ _ _ => true
  | .fmax _ _ _ _ => true
  | .fldexp _ _ _ _ => true
  | .frnd _ _ _ _ => true
  | .ffrac _ _ _ => true
  | .fclass _ _ _ => true
  | .fexpo _ _ _ => true
  | .hadd2 _ _ _ _ => true
  | .hmul2 _ _ _ _ => true
  | .hfma2 _ _ _ _ => true
  | .bfma2 _ _ _ _ => true
  | .fcmp n m _ _ _ _ => n.toNat * 4 + m.toNat ≤ 7
  | .dadd _ _ _ _ => true
  | .dmul _ _ _ _ => true
  | .dfma _ _ _ _ => true
  | .dcmp n m _ _ _ _ => n.toNat * 4 + m.toNat ≤ 7
  | .fdiv _ _ _ _ => true
  | .frcp _ _ _ => true
  | .frsq _ _ _ => true
  | .fsqrt _ _ _ => true
  | .fexp2 _ _ _ => true
  | .flog2 _ _ _ => true
  | .fsin _ _ _ => true
  | .fcos _ _ _ => true
  | .cvtf _ _ h sf t _ => t.toNat ≤ 5 && halfOk h (intWidth sf.toNat) (floatWidth t.toNat)
  | .cvti _ _ h sf t _ => sf.toNat ≤ 5 && halfOk h (floatWidth sf.toNat) (intWidth t.toNat)
  | .cvtn _ _ h sf t _ => sf.toNat ≤ 5 && t.toNat ≤ 5 && sf != t && halfOk h (floatWidth sf.toNat) (floatWidth t.toNat)
  | .qnt _ _ f _ => blockFormat f
  | .dqnt _ _ f _ => blockFormat f
  | .pack2 _ _ f _ => f == 1 || f == 2
  | .unpk _ _ f _ => f == 1 || f == 2
  | .ldg _ _ _ w k _ => w != 3 && cls k
  | .stg _ _ _ w k _ => w != 3 && cls k
  | .tch _ _ w _ _ => w != 3
  | .atg _ _ _ o _ => o.toNat ≤ 11
  | .atgc _ _ _ k _ => cls k
  | .mcs _ _ _ k _ => cls k
  | .rds _ _ _ k _ => cls k
  | .rdsF _ _ _ k _ => cls k
  | .ldx _ _ l _ _ _ _ => l != 3
  | .stx _ _ l _ _ _ _ => l != 3
  | .atx _ _ l p _ q _ => l != 3 && p.toNat * 4 + q.toNat ≤ 11
  | .ldl _ _ _ _ _ => true
  | .stl _ _ _ _ _ => true
  | .tmov n m _ => scal n && scal m
  | .tmovW n m _ => scal n && scal m
  | .acq sf o _ => scope sf && scal o
  | .rel sf o _ => scope sf && scal o
  | .arv sf n o _ => scope sf && scal n && scal o
  | .arvX sf n o _ => scope sf && scal n && scal o
  | .waitp sf p o _ => scope sf && scal p && scal o
  | .waitpNf sf p o _ => scope sf && scal p && scal o
  | .soflg l d o _ => l.toNat ≤ 3 && scal d && scal o
  | .soflgFlagC d o _ => scal d && scal o
  | .rget sf d r _ => scope sf && scal d && scal r
  | .rgetT sf d r _ => scope sf && scal d && scal r
  | .rput sf n r _ => scope sf && scal n && scal r
  | .rclm sf d r _ => scope sf && scal d && scal r
  | .rclmT sf d r _ => scope sf && scal d && scal r
  | .rpub sf n r _ => scope sf && scal n && scal r
  | .cpy w _ n _ => w != 3 && scal n
  | .cpyb sf n m _ => scope sf && scal n && scal m
  | .cpyd sf n m _ => scope sf && scal n && scal m
  | .ctab n _ => scal n
  | .intr r n m _ => reach r && scal n && scal m
  | .annc r n m _ => reach r && scal n && scal m
  | .nret r n _ => reach r && scal n
  | .nprb r n d _ => reach r && scal n && scal d
  | .greq n d _ => scal n && scal d
  | .gdone _ => true
  | .gfail k _ => scal k
  | .mbld sf n o _ => scope sf && scal n && scal o
  | .mbldW sf n _ => scope sf && scal n
  | .mmul sf n o _ => scope sf && scal n && scal o
  | .mmulW sf n _ => scope sf && scal n
  | .mhad sf n o _ => scope sf && scal n && scal o
  | .mhadW sf n _ => scope sf && scal n
  | .msca sf n o _ => scope sf && scal n && scal o
  | .mscaW sf n _ => scope sf && scal n
  | .mqnt sf n o _ => scope sf && scal n && scal o
  | .mqntW sf n _ => scope sf && scal n
  | .mout n d _ => scal n && scal d
  | .prim n _ => scal n
  | .tld _ _ _ _ => true
  | .tst _ _ _ _ => true
  | .blnd _ _ _ _ => true
  | .dpth _ _ _ _ => true
  | .dpthT _ _ _ _ => true
  | .disc _ => true
  | .tret n _ => scal n
  | .ipol _ _ _ _ _ => true
  | .smpl _ _ _ _ => true
  | .smplG _ _ _ _ => true
  | .smpg _ _ _ _ => true
  | .smpgG _ _ _ _ => true
  | .rayq _ _ _ _ => true
  | .rayqO _ _ _ _ => true
  | .rayc _ _ => true
  | .raya _ _ => true
  | .hntImm _ => true
  | .hntGap _ => true
  | .hntPred _ _ => true
  | .hntRnd _ => true
  | .hntScope _ => true
  | .hntMod _ => true
  | .hntRelax => true
  | .launchHeadRead _ _ => true
  | .predecessorTest _ => true
  | .geometryBatchTake _ => true
  | .bindRecordWrite _ _ _ => true
  | .listStoreAlloc _ _ => true
  | .indexTake _ => true
  | .persistentGridStart _ => true
  | .launchCompletion _ => true
  | .balancerEvaluate _ => true
  | .partitionControlWrite _ _ => true
  | .migrationRequest _ => true
  | .migrationWithdraw _ => true
  | .trapDisposition _ _ => true
  | .pageService _ => true
  | .teamSave _ => true
  | .teamRestore _ _ => true
  | .deadlineExpiry _ => true
  | .pusherReschedule _ _ => true
  | .touchEntryExpiry _ _ => true
  | .wcBufferTimeout _ _ => true
  | .sleepEnd _ _ => true
  | .barrierWaveRelease _ => true
  | .engineTake _ _ => true
  | .engineLineService _ => true
  | .tableReady _ _ _ => true
  | .streamStatusWrite _ _ _ => true
  | .operationCompletion _ _ => true
  | .byteContribution _ => true
  | .matrixOpComplete _ => true
  | .tileExport _ => true
  | .tileSpill _ => true
  | .remoteTimeout _ => true
  | .binnerAppend _ _ => true
  | .linkFailed _ _ _ => true
  | .tileTaskAdmit _ _ _ => true
  | .fragmentCreate _ => true
  | .seqHang _ _ _ => true
  | .cswInstall _ _ => true
  | .onyxTranslate _ _ _ => true
  | .interestForward _ _ => true
  | .tileArrival _ => true
  | .interestWriteDone _ _ => true
  | .interestLifetimeEnd _ _ => true
  | .retirementApply _ => true
  | .generatorStart _ _ _ => true
  | .procEviction _ _ => true
  | .invalidationComplete _ => true
  | .latencyAccount _ => true
  | .sampleExpiry _ => true
  | .syncPacket _ => true
  | .clockPatternWrite _ _ => true
  | .currentSlopeWrite _ _ => true
  | .powerRegisterWrite _ _ => true
  | .ntEntry _ _ _ => true
  | .ntExit _ _ _ => true
  | .holdExpiry _ _ => true
  | .rampAdmit _ => true
  | .rampDone _ _ => true
  | .budgetLeaseEnd => true
  | .ageingReplan _ _ _ => true
  | .thermalThrottle _ _ => true
  | .thermalTrip => true
  | .deviceReset _ => true
  | .frameDiscard => true
  | .ptpMessage _ => true
  | .linkLoss _ => true
  | .linkRetrainDone _ _ => true
  | .cxlLinkDown _ => true
  | .hello _ _ _ => true
  | .featureRead _ _ => true
  | .featureAccept _ _ _ _ => true
  | .claim _ _ => true
  | .handover _ _ _ => true
  | .lease _ _ => true
  | .read _ _ _ _ _ _ => true
  | .write _ _ _ _ _ _ => true
  | .submit _ _ _ _ _ => true
  | .eventAck _ _ => true
  | .eventResend _ => true
  | .power _ _ _ => true
  | .sessionTimeout _ => true
  | .ownerLeaseEnd => true
  | .credentialExpiry _ => true
  | .create _ _ _ _ => true
  | .requestPreemption _ _ _ => true
  | .withdraw _ _ _ => true
  | .resume _ _ _ => true
  | .thaw _ _ _ => true
  | .reset _ _ _ => true
  | .clear _ _ _ => true
  | .invalidate _ _ _ _ _ => true
  | .evictBlock _ _ _ _ => true
  | .flushRegion _ _ _ => true
  | .tearDown _ _ _ => true
  | .retryFault _ _ _ _ => true
  | .declareUnresolvable _ _ _ _ => true
  | .sessionThaw _ _ _ => true
  | .trapControlWrite _ _ _ _ _ => true
  | .translationBlockWrite _ _ _ _ _ => true
  | .sampleBlockWrite _ _ _ _ _ => true
  | .traceControlWrite _ _ _ _ _ => true
  | .nameControlWrite _ _ _ _ _ => true
  | .telemetryControlWrite _ _ _ _ _ => true
  | .contextTablesWrite _ _ _ _ _ => true
  | .errorLogControlWrite _ _ _ _ _ => true
  | .samplingControlWrite _ _ _ _ => true
  | .tileStoreSizeWrite _ _ _ => true
  | .tileStoreSizeEffect => true
  | .packageIdWrite _ _ _ => true
  | .packageIdEffect => true
  | .powerFloorWrite _ _ _ => true
  | .firmwareImageWrite _ _ _ _ => true
  | .firmwareVerify _ _ _ => true
  | .reservedEncoding _ => false
  | .ptpLockLoss => true
  | .hostPortLinkChange _ _ => true
  | .dieFrequencyChange _ _ => true
  | .macsecKeyAgreement _ => true

end Sys2Proof
end

