-- ==== Sys2Proof/Machine/Operands.lean ====
section
/-!
DEFINITION. Hint runs, register operands, the decoding checks in their order, and the issue of an instruction
(R14, R16, R18-R26, R43, R44, 01_word.md; R53, R456, 02_control_arith.md).

Every meaning of an encoded instruction is one call of `issue` with its form and its effect.
-/

namespace Sys2Proof.Machine

/-! ## Hint runs (R21-R23) -/

/-- A hint run as the instruction after it sees it. `bad` tells that the run is ill formed in itself: a second hint of
a kind, kind 7, or a nonzero unassigned payload bit. -/
structure HintView where
  bad   : Bool := false
  imm   : Option Nat := none
  gap   : Option Nat := none
  pred  : Option (Nat × Bool) := none
  rnd   : Option Nat := none
  scope : Option Nat := none
  mods  : Option Nat := none
  relax : Bool := false

/-- Adding one hint to a view (R21, R22). -/
def HintView.add (v : HintView) (h : HintWord) : HintView :=
  let p := h.payload
  match h.kind with
  | 0 => if v.imm.isSome then { v with bad := true } else { v with imm := some p }
  | 1 => if v.gap.isSome || 256 ≤ p then { v with bad := true } else { v with gap := some p }
  | 2 => if v.pred.isSome || 64 ≤ p then { v with bad := true } else { v with pred := some (p % 32, p / 32 == 0) }
  | 3 => if v.rnd.isSome || 4 ≤ p then { v with bad := true } else { v with rnd := some p }
  | 4 => if v.scope.isSome || 6 ≤ p then { v with bad := true } else { v with scope := some p }
  | 5 => if v.mods.isSome || 128 ≤ p then { v with bad := true } else { v with mods := some p }
  | 6 => if v.relax || p != 0 then { v with bad := true } else { v with relax := true }
  | _ => { v with bad := true }

/-- The view of a run. -/
def hintView (hs : List HintWord) : HintView := hs.foldl HintView.add {}

/-! ## Forms -/

/-- A register operand: its kind and number, how many consecutive registers it names, and the alignment it needs
(R14). -/
inductive Opnd where
  | v (n cnt align : Nat)
  | s (n cnt align : Nat)
  | p (n : Nat)
deriving DecidableEq, Repr

/-- A vector register. -/
def ov {w : Nat} (r : BitVec w) : Opnd := .v r.toNat 1 1
/-- A vector pair, quad or octet, aligned to its size. -/
def ovn {w : Nat} (n : Nat) (r : BitVec w) : Opnd := .v r.toNat n n
/-- A scalar register. -/
def os {w : Nat} (r : BitVec w) : Opnd := .s r.toNat 1 1
/-- A scalar pair, quad or octet, aligned to its size. -/
def osn {w : Nat} (n : Nat) (r : BitVec w) : Opnd := .s r.toNat n n
/-- A predicate. -/
def op {w : Nat} (r : BitVec w) : Opnd := .p r.toNat

/-- Vector register `n` of the active fibre in the lane that a fibre names. -/
def peerV (src : Group → Nat → Nat) (n : Nat) (G : Group) (act : List Nat) (l : Nat) : List (RegRef × Nat) :=
  if act.contains (src G l) then [(.v (src G l) n, n)] else []

/-- Predicate `n` of every active fibre. -/
def peerP (n : Nat) (_ : Group) (act : List Nat) (_ : Nat) : List (RegRef × Nat) := act.map fun m => (.p m n, n + 128)

/-- Consecutive vector registers of the active fibres in the same block of lanes. -/
def peerBlock (blocks : List (List Nat)) (n cnt : Nat) (_ : Group) (act : List Nat) (l : Nat) : List (RegRef × Nat) :=
  (blocks.filter (·.contains l)).flatMap fun ls =>
    (act.filter fun m => ls.contains m).flatMap fun m => (List.range cnt).map fun k => (.v m (n + k), n + k)

/-- What the decoding checks need to know of an instruction. -/
structure Form where
  ins   : Instr
  c     : BitVec 3
  /-- Register operands in the order of the assembly form, then the implicit ones (R19). -/
  ops   : List Opnd := []
  /-- The latency of R17; none for a variable one (R20). -/
  lat   : Option Nat := none
  /-- Which hints apply besides GAP (R23). -/
  imm   : Bool := false
  pred  : Bool := true
  rnd   : Bool := false
  scope : Bool := false
  relax : Bool := false
  /-- The bits that a MOD hint may set; none when no MOD hint applies. -/
  mods  : Option Nat := none
  /-- The feature bit (R44). -/
  feat  : Nat := 0
  /-- The instruction or register needs handler mode (R43 step 5). -/
  priv  : Bool := false
  /-- What a fibre reads beside its operands, of a group whose active lanes are given: registers of other fibres, with
  the numbers that GAPFAULT reports (R19). -/
  peers : Group → List Nat → Nat → List (RegRef × Nat) := fun _ _ _ => []

/-- Every hint of the run can apply (R23; step 1 of R43). -/
def Form.hintsOk (F : Form) (v : HintView) : Bool :=
  !v.bad && (v.imm.isNone || F.imm) && (v.gap.isNone || F.c.toNat / 2 == 0) && (v.pred.isNone || F.pred) &&
    (v.rnd.isNone || F.rnd) && (v.scope.isNone || F.scope) && (!v.relax || F.relax) &&
    (match v.mods with
     | none => true
     | some m =>
       match F.mods with
       | none => false
       | some allowed => m &&& allowed == m)

/-- A register operand is aligned and within the budget (step 3 of R43). -/
def Opnd.ok (budget : Nat) : Opnd → Bool
  | .v n cnt align => n % align == 0 && n + cnt ≤ budget
  | .s n _ align => n % align == 0
  | .p _ => true

/-- A context accepted a feature bit; bit 0 is always offered and accepted (R44, R448; log entry 20). -/
def Ctx.hasFeature (c : Ctx) (k : Nat) : Bool :=
  match c.features with
  | none => k == 0
  | some f => f.getLsbD k

/-- Steps 1 to 4 of R43, which are the same for every fibre of the batch. -/
def Form.check (F : Form) (v : HintView) (budget : Nat) (c : Ctx) : Option Trap :=
  if !F.hintsOk v then some (mkTrap fcIllop 0 0)
  else if !F.ins.wellFormed then some (mkTrap fcIllop 0 0)
  else if !F.ops.all (Opnd.ok budget) then some (mkTrap fcIllop 0 0)
  else if !c.hasFeature F.feat then some (mkTrap fcUnfeatured F.feat 0)
  else none

/-- The registers of an operand for one fibre, lowest first, with the number that GAPFAULT reports (R19). -/
def Opnd.regs (l : Nat) : Opnd → List (RegRef × Nat)
  | .v n cnt _ => (List.range cnt).map fun i => (.v l (n + i), n + i)
  | .s n cnt _ => (List.range cnt).map fun i => (.s (n + i), n + i + 256)
  | .p n => [(.p l n, n + 128)]

/-- The predicate that a PRED hint reads. -/
def HintView.reads (v : HintView) (l : Nat) : List (RegRef × Nat) :=
  match v.pred with
  | some (p, _) => [(RegRef.p l p, p + 128)]
  | none => []

/-- A write of a list is to one of the registers. -/
def writesTo (fl : List InFlight) (r : RegRef) : Bool := fl.any fun f => f.ref.whole = r

/-- The first register of an instruction with a fixed-latency write in flight, in the order of R19: the operands, then
what the fibre reads beside them, then the predicate of a PRED hint. -/
def hazard (fl : List InFlight) (l : Nat) (ops : List Opnd) (peers : List (RegRef × Nat)) (v : HintView) : Option Nat :=
  ((ops.flatMap (Opnd.regs l) ++ peers ++ v.reads l).find? fun r => writesTo fl r.1).map (·.2)

/-- Steps 5 and 6 of R43 for one fibre. -/
def Form.checkLane (F : Form) (v : HintView) (scoreboard : Bool) (G : Group) (act : List Nat) (l : Nat) : Option Trap :=
  if F.priv && !(G.lane l).handler then some (mkTrap fcPriv 0 0)
  else if scoreboard then (hazard G.inflight l F.ops (F.peers G act l) v).map fun n => mkTrap fcGapfault n 0
  else none

/-- The scalar registers that an instruction which waits after its issue is still to write (R20). What it writes for its own
fibres no other batch reads or writes. -/
def lateDests : Instr → List Nat
  | .qstatDepth d _ _ => [d.toNat]
  | .qstatFree d _ _ => [d.toNat]
  | .qstatFlags d _ _ => [d.toNat]
  | .arv _ n _ _ => [n.toNat]
  | .arvX _ n _ _ => [n.toNat]
  | .soflg _ d _ _ => [d.toNat]
  | .soflgFlagC d _ _ => [d.toNat]
  | .rget _ d _ _ => [d.toNat]
  | .rgetT _ d _ _ => [d.toNat]
  | .rclm _ d _ _ => [d.toNat]
  | .rclmT _ d _ _ => [d.toNat]
  | .nprb _ _ d _ => [d.toNat]
  | .greq _ d _ => [d.toNat]
  | .mout _ d _ => [d.toNat]
  | .csw _ d _ => [d.toNat]
  | _ => []

/-- The registers of a group that instructions which have issued and wait are still to write (R20). -/
def Group.owed (G : Group) : List RegRef :=
  (G.batches.flatMap fun B =>
    match B.wait, B.held with
    | some _, some i => (lateDests i).map RegRef.s
    | _, _ => []).filter fun r => !r.discards

/-- A variable-latency write to the register is pending (R20). -/
def Group.awaits (G : Group) (r : RegRef) : Bool := writesTo G.pending r || G.owed.contains r

/-- The instruction reads or writes a register with a pending variable-latency write, in some fibre (R20). -/
def Form.blocked (F : Form) (v : HintView) (G : Group) (lanes act : List Nat) : Bool :=
  (!G.pending.isEmpty || !G.owed.isEmpty) &&
    (lanes.any (fun l => (v.reads l).any fun r => G.awaits r.1) ||
      act.any fun l => (F.ops.flatMap (Opnd.regs l) ++ F.peers G act l).any fun r => G.awaits r.1)

/-! ## The issuing batch -/

/-- The batch that issues, with what its instruction reads. `R` is the group as its registers stood in the issue
cycle. -/
structure Issue where
  core  : Nat
  g     : Nat
  bi    : Nat
  G     : Group
  R     : Group
  B     : Batch
  T     : Team
  tid   : Nat
  x     : Nat
  /-- The address of the instruction, and the PC a trap reports: that of the first hint of its run (R24). -/
  pc    : Nat
  rpc   : Nat
  hv    : HintView
  /-- The lanes of the batch, and those of its active fibres (R53), ascending. -/
  lanes : List Nat
  act   : List Nat
  /-- The instruction issues now, and is not a waiting one tried again. -/
  first : Bool

/-- The issuing group as a party. -/
def Issue.party (I : Issue) : Party := { tid := I.tid, core := I.core, g := I.g }

/-- The fibres that pass the PRED hint (R22). -/
def activeLanes (R : Group) (lanes : List Nat) (v : HintView) : List Nat :=
  match v.pred with
  | none => lanes
  | some (p, want) => lanes.filter fun l => R.p l p == want

/-- The issuing batch that `State.cur` names. -/
def State.issuer (s : State) : Option Issue :=
  match s.group? s.cur.core s.cur.g with
  | none => none
  | some G =>
    match G.batches[s.cur.b]? with
    | none => none
    | some B =>
      if B.lanes == 0 then none
      else
        let R := match B.snap with
          | some n => { G with sregs := n.sregs, lanes := n.lanes, fpmode := n.fpmode }
          | none => G
        let pc := G.batchPc B
        let hv := hintView B.hints
        let lanes := lanesOf B.lanes
        some { core := s.cur.core, g := s.cur.g, bi := s.cur.b, G := G, R := R, B := B, T := s.team G.tid, tid := G.tid,
               x := G.ctx, pc := pc, rpc := (B.hints.head?.map (·.pc)).getD pc, hv := hv, lanes := lanes,
               act := activeLanes R lanes hv, first := B.wait.isNone }

/-- What an instruction does: its effect is performed, the batch waits, or (for an instruction tried again) the effect
has moved the fibres of the group itself. -/
inductive Result where
  | go (s : State) (outs : List LaneOut)
  | wait (s : State) (w : Wait)
  /-- The batch waits but for the fibres whose traps are given. -/
  | waitPart (s : State) (w : Wait) (outs : List LaneOut)
  | done (s : State)

/-- What a lane does, by default nothing. -/
def outOf (outs : List LaneOut) (l : Nat) : LaneOut := (outs.find? fun o => o.lane == l).getD { lane := l }

/-- The next delay has been used. -/
def State.spendDelay (s : State) (used : Bool) : State := if used then { s with delays := s.delays.drop 1 } else s

/-- The fibres of the batch as an instruction leaves them: registers written, fibres ended and parked, the batch split
by next PC (R53, R59, R62, R243); then the group exits if no fibre is left, and traps are disposed of. -/
def State.finish (s : State) (I : Issue) (lat : Option Nat) (outs : List LaneOut) : State :=
  let all := I.lanes.map (outOf outs)
  let ws := all.flatMap (·.writes)
  let fl := all.foldl (fun a o => a ||| o.flags) 0
  let ws1 := if fl == 0 then ws else ws ++ [(RegRef.flags, word fl)]
  let traps := all.filterMap fun o => o.trap.map fun t => (o.lane, t)
  let parks := all.filterMap fun o => if o.trap.isSome then none else o.park.map fun p => (o.lane, p)
  let gone := all.filter fun o => o.trap.isNone && o.park.isNone && o.ends
  let rest := all.filter fun o => o.trap.isNone && o.park.isNone && !o.ends
  let late := if lat.isNone && !ws1.isEmpty then s.delays.headD 0 else 0
  let s1 := (s.spendDelay (lat.isNone && !ws1.isEmpty)).modGroup I.core I.g fun G =>
    let G1 := match lat with
      | some n => G.writeFixed (s.coreCycle I.core) n ws1
      | none => if late == 0 then G.writeVar ws1 else G.writeLate (s.coreCycle I.core) late ws1
    let G2 := parks.foldl (fun H (e : Nat × Park) => H.modLane e.1 fun L =>
      { L with pc := I.rpc, parked := some e.2 }) G1
    let G3 := (rest.filter (·.next.isSome)).foldl (fun H o => H.modLane o.lane fun L => { L with via := I.pc })
      (G2.endLanes (gone.map (·.lane)))
    G3.split I.bi (I.pc + 4) (rest.map fun o => (o.lane, o.next.getD (I.pc + 4)))
  let s2 := s1.takeTraps I.core I.g I.rpc traps
  s2.leave I.core I.g

/-- The batch waits at its instruction (none for an Onyx word); fibres that trap or park have left it. -/
def State.hold (s : State) (I : Issue) (i : Option Instr) (w : Wait) (pre : List LaneOut) : State :=
  let traps := pre.filterMap fun o => o.trap.map fun t => (o.lane, t)
  let parks := pre.filterMap fun o => if o.trap.isSome then none else o.park.map fun p => (o.lane, p)
  let out := maskOf (traps.map (·.1) ++ parks.map (·.1))
  (s.modGroup I.core I.g fun G =>
    let H := parks.foldl (fun H (e : Nat × Park) => H.modLane e.1 fun L => { L with pc := I.rpc, parked := some e.2 }) G
    { H with batches := H.batches.modify I.bi fun B =>
        { B with lanes := B.lanes &&& ~~~out, wait := some w, held := i, tried := s.now + 1,
                 snap := some (B.snap.getD { sregs := I.R.sregs, lanes := I.R.lanes, fpmode := I.R.fpmode }) } }).takeTraps
    I.core I.g I.rpc traps

/-- The gap of an instruction (R16, R22). -/
def Form.gap (F : Form) (v : HintView) : Nat := v.gap.getD (F.c.toNat / 2)

/-- The checking scoreboard of a context (R19, R248). -/
def Ctx.scoreboard (c : Ctx) : Bool := bit (c.word 0x018) 6

/-- The issue slot of a group's quadrant stays free. -/
def State.freeSlot (s : State) (c g : Nat) : State := { s with issued := s.issued.filter (· != c * 4 + g / 16) }

/-- The instruction waits for a pending write before it issues (R20): its quadrant's issue slot stays free. -/
def State.stall (s : State) (I : Issue) : State :=
  (s.modGroup I.core I.g fun G => { G with batches := G.batches.modify I.bi fun B => { B with wait := some .score } }).freeSlot
    I.core I.g

/-- An instruction that waits for far targets is tried again: once the request has ended, its fibres raise POISON. -/
def remoteRetry (I : Issue) (s : State) (k : Unit → Result) : Result :=
  match I.B.wait with
  | some (.remote n far) =>
    if (tget? s.remotes n).isSome then .wait s (.remote n far)
    else .go s (far.map fun e => { lane := e.1, trap := some (mkTrap fcPoison 0 e.2) })
  | _ => k ()

/-- The issue of an instruction by the batch that `State.cur` names: the issue slot is accounted for, the checks of
R43 are made in their order, and the effect acts for the fibres that pass them. An instruction that waited is tried
again without a new issue and without new checks.

The spec leaves open, and the model chooses (log entry 67): a fibre that traps GAPFAULT is active no more for what the others
read of the active fibres at ELECT, VOTE and SHFL (R53, R55, R68-R70, R243); when the predicate of a PRED hint is itself in flight, R19
names the hazard for the fibres that execute, which are those that the predicate's old value admits (R18, R22); and a
run that is ill formed traps the fibres that pass a PRED hint of that run (R21, R22). -/
def issue (F : Form) (run : Issue → State → Result) (s : State) : Out :=
  match s.issuer with
  | none => .fault .noIssuer
  | some I =>
    if I.first && F.blocked I.hv I.G I.lanes I.act then .next (s.stall I)
    else
    let s1 := if I.first then s.account I.core I.g (F.gap I.hv) (some (F.c.toNat % 2 == 1)) else s
    let c := s.ctx I.x
    match if I.first then F.check I.hv I.G.budget c else none with
    | some t => .next (s1.finish I F.lat (I.act.map fun l => { lane := l, trap := some t }))
    | none =>
      let pre := if I.first then I.act.filterMap fun l =>
          (F.checkLane I.hv c.scoreboard I.G I.act l).map fun t => { lane := l, trap := some t : LaneOut }
        else []
      let J := { I with act := I.act.filter fun l => !pre.any fun o => o.lane == l }
      if J.act.isEmpty then .next (s1.finish I F.lat pre)
      else
        match if J.first then run J s1 else remoteRetry J s1 fun _ => run J s1 with
        | .go s2 outs => .next (s2.finish I F.lat (pre ++ outs))
        | .wait s2 w => .next (s2.hold J (some F.ins) w pre)
        | .waitPart s2 w outs => .next (s2.hold J (some F.ins) w (pre ++ outs))
        | .done s2 => .next s2

/-! ## Shapes of effects -/

/-- An effect on registers alone, fibre by fibre. -/
def eachLane (f : Issue → Nat → LaneOut) (I : Issue) (s : State) : Result := .go s (I.act.map (f I))

/-- What each active fibre does to the state, in ascending lane order. -/
def laneOuts (f : Issue → Nat → State → State × LaneOut) (I : Issue) (s : State) : State × List LaneOut :=
  I.act.foldl (fun (a : State × List LaneOut) l =>
    let q := f I l a.1
    (q.1, a.2 ++ [q.2])) (s, [])

/-- An effect of each fibre on the state. -/
def eachLaneState (f : Issue → Nat → State → State × LaneOut) (I : Issue) (s : State) : Result :=
  let r := laneOuts f I s
  .go r.1 r.2

/-- An effect performed once, that writes the same scalar registers whatever the fibre (R53): the writes stand at the
lowest active lane. -/
def scalarOut (I : Issue) (ws : List (RegRef × Word)) : List LaneOut :=
  match I.act with
  | [] => []
  | l :: _ => [{ lane := l, writes := ws }]

/-- Every active fibre raises one trap. -/
def trapAll (I : Issue) (t : Trap) : List LaneOut := I.act.map fun l => { lane := l, trap := some t }

/-- The lowest active lane. -/
def Issue.low (I : Issue) : Nat := I.act.headD 0

/-- The scope in force: that of a SCOPE hint, else the one given (R22). -/
def Issue.scope (I : Issue) (d : Nat) : Nat := I.hv.scope.getD d

/-- The free value of a run, and the state that has drawn it. -/
def State.draw (s : State) : State × Nat := ({ s with fresh := s.fresh + 1 }, s.fresh)

end Sys2Proof.Machine
end

