-- ==== Sys2Proof/Machine/Access.lean ====
section
/-!
DEFINITION. Accesses by virtual address that a core makes for an instruction through its TLBs: the structures in memory
that an instruction names (R75, R115, R122, R132; 10_memory.md); requests to far targets (R277); the releases of a group
(R121, R309, R314).
-/

namespace Sys2Proof.Machine

/-! ## Own stores -/

/-- The stores to the unit scratchpad that the issuing group holds are performed, before an instruction of it reads or
writes there by another path (R120, R312). -/
def State.landUnit (s : State) (I : Issue) : State := s.performHeld I.core I.g fun h => h.scr = some (.unit I.core)

/-! ## Far requests -/

/-- Opening a request to far lines that will not answer. -/
def State.openFar (s : State) (I : Issue) (lines : List Nat) (store : Bool) : State × Nat :=
  let n := s.nextOp
  ({ s with nextOp := n + 1
            remotes := tset s.remotes n { ctx := I.x, lines := lines.eraseDups, due := s.now + remoteLimit, core := I.core,
                                          g := I.g, tid := I.tid, store := store, who := none, ended := false,
                                          grid := I.T.grid } }, n)

/-- The end of an instruction some of whose fibres have reached far targets: those wait for the end of the request, while
the writes of the others are made, and fibres that trap or park leave the batch (R277). -/
def farWait (I : Issue) (r : State × List LaneOut) : Result :=
  match r.2.filterMap fun o => o.far.map fun f => (o.lane, f) with
  | [] => .go r.1 r.2
  | fs =>
    let f := r.1.openFar I (fs.map (·.2.2)) false
    let stopped (o : LaneOut) : Bool := o.trap.isSome || o.park.isSome
    let s1 := f.1.modGroup I.core I.g fun G => G.writeVar ((r.2.filter (!stopped ·)).flatMap (·.writes))
    .waitPart s1 (.remote f.2 (fs.map fun e => (e.1, e.2.1))) (r.2.filter stopped)

/-- An effect of each fibre on the state, of an instruction that may reach far targets. -/
def eachLaneFar (f : Issue → Nat → State → State × LaneOut) (I : Issue) (s : State) : Result := farWait I (laneOuts f I s)

/-! ## Structures in memory -/

/-- Why an access to a structure does not complete: a trap, or a target that does not answer, by the virtual address and
the physical line. -/
inductive CoreErr where
  | trap (t : Trap)
  | far (va line : Nat)

/-- An instruction ends with a trap, or waits for the table entry of the walk that stands in a package which does not answer
(R277). -/
def State.walkErr (s : State) (x : Nat) (t : Trap) : CoreErr :=
  match if t.code == fcPoison then s.lateAt x t.addr else none with
  | some line => .far t.addr line
  | none => .trap t

/-- What a fibre does whose translation gave a fault: it traps, or waits for such a table entry. -/
def State.walkOut (s : State) (x l : Nat) (t : Trap) : LaneOut :=
  match s.walkErr x t with
  | .far va line => { lane := l, far := some (va, line) }
  | .trap t => { lane := l, trap := some t }

/-- The fibres of an instruction trap, or wait for the far target. -/
def CoreErr.stop (e : CoreErr) (I : Issue) (s : State) : Result :=
  match e with
  | .trap t => .go s (trapAll I t)
  | .far va line =>
    let f := s.openFar I [line] false
    .waitPart f.1 (.remote f.2 (I.act.map fun l => (l, va))) []

/-- The error of a request to a physical address that is not performed, with what is logged of it. -/
def State.unreached (s : State) (I : Issue) (va pa n : Nat) : State × CoreErr :=
  match s.reach pa with
  | .late => (s, .far va (pa / 128 * 128))
  | _ => (s.noteLine I.x (srcCore I.core) pa n, .trap (mkTrap fcPoison 0 va))

/-- The physical parts of a range as a core translates them, or the error. The group's own stores to the range are
performed first (R120). -/
def State.coreParts (s : State) (I : Issue) (acc : Access) :
    List (Nat × Nat) → State × Except CoreErr (List (Nat × Nat))
  | [] => (s, .ok [])
  | (va, n) :: t =>
    match s.xlateCore I.core I.x va acc with
    | (s1, .ok pa _) =>
      if s1.reach pa != .ok then
        let r := s1.unreached I va pa n
        (r.1, .error r.2)
      else
        match (s1.performHeld I.core I.g fun h => h.meets none pa n).coreParts I acc t with
        | (s2, .ok ps) => (s2, .ok ((pa, n) :: ps))
        | (s2, .error e) => (s2, .error e)
    | (s1, .fault code) => (s1, .error (s1.walkErr I.x (acc.trap code va)))
    | (s1, .proc _ _) => (s1, .error (.trap (mkTrap fcPage acc.detail va)))

/-- A core reads a range, or the error. -/
def State.coreRead (s : State) (I : Issue) (acc : Access) (va n : Nat) : State × Except CoreErr (List Byte) :=
  match s.coreParts I acc (rangeParts va n) with
  | (s1, .error e) => (s1, .error e)
  | (s1, .ok ps) =>
    match ((rangeParts va n).zip ps).find? fun e => s1.bad e.2.1 e.2.2 with
    | some e =>
      let r := s1.unreached I e.1.1 e.2.1 e.2.2
      (r.1, .error r.2)
    | none => (s1.seen I.party ps, .ok (ps.flatMap fun p => s1.rd p.1 p.2))

/-- A core writes a range, or the error, with nothing written. -/
def State.coreWrite (s : State) (I : Issue) (va : Nat) (bs : List Byte) : State × Option CoreErr :=
  match s.coreParts I .write (rangeParts va bs.length) with
  | (s1, .error e) => (s1, some e)
  | (s1, .ok ps) => (s1.wrParts ps bs, none)

/-- Writing a range whose translation has just succeeded. -/
def State.corePut (s : State) (I : Issue) (va : Nat) (bs : List Byte) : State := (s.coreWrite I va bs).1

/-- Reading ranges in turn, or the first error. -/
def State.coreReads (s : State) (I : Issue) (acc : Access) (n : Nat) :
    List Nat → State × Except CoreErr (List (List Byte))
  | [] => (s, .ok [])
  | va :: t =>
    match s.coreRead I acc va n with
    | (s1, .error e) => (s1, .error e)
    | (s1, .ok b) =>
      match s1.coreReads I acc n t with
      | (s2, .ok bs) => (s2, .ok (b :: bs))
      | (s2, .error e) => (s2, .error e)

/-! ## Releases -/

/-- The address of object `k`, and the size of the table (R301, R446). -/
def Ctx.objVa (c : Ctx) (k : Nat) : Nat := c.dword 0x198 + 64 * k
/-- The number of objects. -/
def Ctx.objCount (c : Ctx) : Nat := c.word 0x1A0

/-- A range word of R303 holds no reserved value. -/
def rangeOk (r : Nat) : Bool :=
  bits r 58 6 == 0 && bits r 56 2 != 3 && bits r 0 32 % 16 == 0 && bits r 32 24 % 16 == 0

/-- The two range words of an object (R302); none where the object cannot be read. -/
def State.objRanges (s : State) (x k : Nat) : List Nat :=
  if k == 0 || (s.ctx x).objCount ≤ k then []
  else
    match s.vaRead x ((s.ctx x).objVa k + 32) 16 with
    | .ok b => [byteField b 0 8, byteField b 8 8].filter rangeOk
    | .error _ => []

/-- A range word governs a byte of a storage that lies in the team's allocation at its level (R303). -/
def rangeGoverns (T : Team) (r : Nat) (scr : Scr) (a : Nat) : Bool :=
  let p := T.level (bits r 56 2)
  let o := bits r 0 32
  p.1 = scr && p.2.1 + o ≤ a && a < p.2.1 + o + bits r 32 24 && a < p.2.1 + p.2.2

/-- A store of `n` bytes is bound to object `k` with the given ranges (R309): through its record, or by a range of the
object at the release. A store under RELAX is bound to none. -/
def storeBound (T : Team) (k : Nat) (ranges : List Nat) (relax : Bool) (sobj : Nat) (scr : Option Scr) (a n : Nat) : Bool :=
  !relax &&
    match scr with
    | none => k != 0 && sobj == k
    | some d => (List.range n).any fun i => ranges.any fun r => rangeGoverns T r d (a + i)

/-- A held store is bound to the object. -/
def HeldStore.bound (h : HeldStore) (T : Team) (k : Nat) (ranges : List Nat) : Bool :=
  storeBound T k ranges h.relax h.sobj h.scr h.pa h.bytes.length

/-- A performed store is bound to the object. -/
def Past.bound (e : Past) (T : Team) (k : Nat) (ranges : List Nat) : Bool :=
  storeBound T k ranges e.relax e.sobj e.scr e.at_ e.old.length

/-- The release of object `k` at a scope by a group (R121, R309, R314, R318): the stores that it publishes are performed,
and with them the non-temporal ones. At system scope it performs every earlier store, which a host session then sees. -/
def State.release (s : State) (core g x : Nat) (T : Team) (tid k scope : Nat) : State :=
  let ranges := s.objRanges x k
  (s.performHeld core g fun h => h.nt || scope == 5 || h.bound T k ranges).publish { tid := tid, core := core, g := g } (some k) scope
    (·.bound T k ranges)

/-- A store of the group to a far line has not been performed (R314). -/
def State.farStores (s : State) (core g : Nat) : Bool := s.remotes.any fun e => e.2.store && e.2.core == core && e.2.g == g

/-- A release by the issuing group: it waits while a store of the group is on its way to a far target, and has then
performed what it publishes before `k` goes on (R314). -/
def releasing (obj scope : Nat) (I : Issue) (s : State) (k : State → Result) : Result :=
  if s.farStores I.core I.g then .wait s (.poll 15) else k (s.release I.core I.g I.x I.T I.tid obj scope)

end Sys2Proof.Machine
end

