-- ==== Sys2Proof/Machine/Object.lean ====
section
/-!
DEFINITION. Sync objects and ring objects: their layouts, their validity and the steps on them (R135-R142, R148,
03_memory_instr.md; R296, R297, 11_copies.md; R301-R305, 12_consistency.md).
-/

namespace Sys2Proof.Machine

/-! ## Sync objects -/

/-- A sync object (R302). -/
structure Obj where
  kind     : Nat
  scope    : Nat
  flags    : Nat
  state    : Nat
  target   : Nat
  arrivals : Nat
  pending  : Int
  ranges   : List Byte
deriving DecidableEq, Repr

/-- Kind barrier. -/
def kBarrier : Nat := 0
/-- Kind lock. -/
def kLock : Nat := 1
/-- Kind counter. -/
def kCounter : Nat := 2

/-- The bits of the flag word (R136). -/
def ofFault : Nat := 2 ^ 8
/-- DECODE. -/
def ofDecode : Nat := 2 ^ 9
/-- DUP. -/
def ofDup : Nat := 2 ^ 10
/-- MISUSE. -/
def ofMisuse : Nat := 2 ^ 11
/-- RETIRED. -/
def ofRetired : Nat := 2 ^ 12

/-- The holder word of a free lock (R304). -/
def lockFree : Nat := 0xFFFFFFFF


/-- The object that 64 bytes hold, none for an invalid one (R302). -/
def parseObj (b : List Byte) : Option Obj :=
  let w0 := byteField b 0 4
  let o : Obj := { kind := bits w0 0 2, scope := bits w0 2 3, flags := byteField b 4 4, state := byteField b 8 4,
                   target := byteField b 12 4, arrivals := byteField b 16 4, pending := sext 64 (byteField b 24 8),
                   ranges := sliceBytes b 32 16 }
  let kindOk :=
    if o.kind == kBarrier then o.target != 0
    else o.target == 0 && o.arrivals == 0 && o.pending == 0 &&
      (o.kind == kCounter || o.state == lockFree || (o.state < 2 ^ 14 && o.state / 64 < 192))
  if o.kind ≤ 2 && o.scope ≤ 5 && bits w0 5 27 == 0 && bits o.flags 13 3 == 0 && bits o.flags 24 8 == 0 &&
      byteField b 20 4 == 0 && (b.drop 48).all (· == 0) && rangeOk (byteField b 32 8) && rangeOk (byteField b 40 8) &&
      kindOk then some o
  else none

/-- The 64 bytes of an object. -/
def Obj.bytes (o : Obj) : List Byte :=
  leBytes 4 (o.kind + o.scope * 4) ++ leBytes 4 o.flags ++ leBytes 4 o.state ++ leBytes 4 o.target ++
    leBytes 4 o.arrivals ++ leBytes 4 0 ++ leBytes 8 (o.pending % 2 ^ 64).toNat ++ o.ranges ++ List.replicate 16 0

/-- A barrier's phases complete while the arrivals reach T and no byte is pending (R138). -/
def Obj.advance (o : Obj) : Obj :=
  if o.kind == kBarrier && o.pending == 0 then
    { o with state := (o.state + o.arrivals / o.target) % 2 ^ 32, arrivals := o.arrivals % o.target }
  else o

/-- Setting a bit of the flag word. -/
def Obj.flag (o : Obj) (m : Nat) : Obj := { o with flags := o.flags ||| m }

/-- Arrivals at a barrier, with bytes declared (R137). -/
def Obj.arrive (o : Obj) (n bytes : Nat) : Obj :=
  { o with arrivals := (o.arrivals + n), pending := o.pending + bytes }.advance

/-- A failure: FAULT, and FCODE when FAULT was 0 (R148). -/
def Obj.fault (o : Obj) (code : Nat) : Obj :=
  if bit o.flags 8 then o else { o with flags := (o.flags ||| ofFault) - bits o.flags 16 8 * 2 ^ 16 + code % 256 * 2 ^ 16 }

/-- A byte contribution (R148, R300). -/
def Obj.contribute (o : Obj) (n : Nat) : Obj :=
  if o.kind == kBarrier then { o with pending := o.pending - n }.advance
  else if o.kind == kCounter then { o with state := (o.state + n) % 2 ^ 32 }
  else o.flag ofMisuse

/-- The action of a launch completion (R230). -/
def Obj.done (o : Obj) : Obj :=
  if o.kind == kBarrier then o.arrive 1 0
  else if o.kind == kCounter then { o with state := (o.state + 1) % 2 ^ 32 }
  else o.flag ofMisuse

/-- The physical address of a 64-byte structure that an instruction acts on atomically (R301): it needs R and W and
local memory. The group's own stores to it are performed first (R120). -/
def State.structPa (s : State) (I : Issue) (va : Nat) : State × Except CoreErr Nat :=
  match s.xlateCore I.core I.x va .atomic with
  | (t, .ok pa _) =>
    if t.target (t.ownAddr pa) != .loc then (t, .error (.trap (mkTrap fcProt 1 va)))
    else if t.bad pa 64 then (t, .error (.trap (mkTrap fcPoison 0 va)))
    else (t.performHeld I.core I.g fun h => h.meets none pa 64, .ok pa)
  | (t, .fault code) => (t, .error (t.walkErr I.x (Access.atomic.trap code va)))
  | (t, .proc _ _) => (t, .error (.trap (mkTrap fcPage 1 va)))

/-- The object that an instruction names (R135): its address and itself. -/
def State.objFor (s : State) (I : Issue) (k : Nat) : State × Except CoreErr (Nat × Obj) :=
  let c := s.ctx I.x
  if k == 0 || c.objCount ≤ k then (s, .error (.trap (mkTrap fcOob 0 k)))
  else
    match s.structPa I (c.objVa k) with
    | (t, .error e) => (t, .error e)
    | (t, .ok pa) =>
      match parseObj (t.rd pa 64) with
      | some o => (t, .ok (pa, o))
      | none => (t, .error (.trap (mkTrap fcOob 0 k)))

/-- Writing an object. -/
def State.putObj (s : State) (pa : Nat) (o : Obj) : State := s.wr pa (o.bytes)

/-- Whether an index may be named as an object at issue: 0 for none, or a valid object (R302); the trap otherwise. -/
def State.checkObj (s : State) (I : Issue) (k : Nat) : State × Option CoreErr :=
  if k == 0 then (s, none)
  else
    match s.objFor I k with
    | (t, .ok _) => (t, none)
    | (t, .error e) => (t, some e)

/-! ## Ring objects -/

/-- A ring object (R296). -/
structure Ring where
  base  : Nat
  ssize : Nat
  c     : Nat
  w     : Nat
  rd    : Nat
  f     : Nat
  fr    : Nat
  fobj  : Nat
deriving DecidableEq, Repr

/-- The slots claimed or filled and not yet taken. -/
def Ring.out (r : Ring) : Nat := sub32 r.w r.rd

/-- The ring that 64 bytes hold, none for one that breaks R296 or R297 in itself. -/
def parseRing (b : List Byte) : Option Ring :=
  let r : Ring := { base := byteField b 0 8, ssize := byteField b 8 4, c := byteField b 12 4, w := byteField b 16 4,
                    rd := byteField b 20 4, f := byteField b 24 4, fr := byteField b 28 4, fobj := byteField b 32 4 }
  if r.base < vaTop && r.base % 64 == 0 && r.ssize % 4 == 0 && 4 ≤ r.ssize && r.ssize ≤ 65536 && 1 ≤ r.c &&
      r.c ≤ 4096 && r.fobj != 0 && r.fobj < 2 ^ 20 && (b.drop 36).all (· == 0) && r.f ≤ r.out && r.fr ≤ r.c &&
      r.out ≤ r.c - r.fr then some r
  else none

/-- The counters of a ring, at bytes 16 to 31. -/
def Ring.counters (r : Ring) : List Byte := leBytes 4 r.w ++ leBytes 4 r.rd ++ leBytes 4 r.f ++ leBytes 4 r.fr

/-- The address of ring `k`. -/
def Ctx.ringVa (c : Ctx) (k : Nat) : Nat := c.dword 0x1A8 + 64 * k
/-- The number of rings. -/
def Ctx.ringCount (c : Ctx) : Nat := c.word 0x1A4

/-- The ring that an instruction names (R141, R297). -/
def State.ringFor (s : State) (I : Issue) (k : Nat) : State × Except CoreErr (Nat × Ring) :=
  let c := s.ctx I.x
  let oob := CoreErr.trap (mkTrap fcOob 0 k)
  if k == 0 || c.ringCount ≤ k then (s, .error oob)
  else
    match s.structPa I (c.ringVa k) with
    | (t, .error e) => (t, .error e)
    | (t, .ok pa) =>
      match parseRing (t.rd pa 64) with
      | none => (t, .error oob)
      | some r =>
        match t.objFor I r.fobj with
        | (u, .ok _) => (u, .ok (pa, r))
        | (u, .error (.trap e)) => (u, .error (if e.code == fcOob then oob else .trap e))
        | (u, .error e) => (u, .error e)

/-- Writing the counters of a ring. -/
def State.putRing (s : State) (pa : Nat) (r : Ring) : State := s.wr (pa + 16) r.counters

/-- Claiming a slot (RCLM of R142), none while none is free. -/
def Ring.claim (r : Ring) : Option (Nat × Ring) :=
  if r.fr == 0 then none else some (r.w % r.c, { r with w := (r.w + 1) % 2 ^ 32, fr := r.fr - 1 })
/-- Taking a slot (RGET), none while none is filled. -/
def Ring.take (r : Ring) : Option (Nat × Ring) :=
  if r.f == 0 then none else some (r.rd % r.c, { r with rd := (r.rd + 1) % 2 ^ 32, f := r.f - 1 })
/-- Publishing slots (RPUB), none when too many. -/
def Ring.publish (r : Ring) (n : Nat) : Option Ring := if r.out - r.f < n then none else some { r with f := r.f + n }
/-- Freeing slots (RPUT), none when too many. -/
def Ring.free (r : Ring) (n : Nat) : Option Ring :=
  if r.c - r.fr - r.out < n then none else some { r with fr := r.fr + n }

end Sys2Proof.Machine
end

