-- ==== Sys2Proof/Machine/Flags.lean ====
section
/-!
DEFINITION. The arithmetic flags of sr.fpflags and of NUM in a flag word (R29, R136), and the integer flag rules.
-/

namespace Sys2Proof.Machine

/-- Invalid operation. -/
def fNV : Nat := 1
/-- Division by zero. -/
def fDZ : Nat := 2
/-- Overflow. -/
def fOF : Nat := 4
/-- Underflow. -/
def fUF : Nat := 8
/-- Inexact. -/
def fNX : Nat := 16
/-- A block mantissa or integer result saturated. -/
def fSAT : Nat := 32
/-- A nonzero element rounded to zero on conversion to a block format. -/
def fALOSS : Nat := 64
/-- A result was flushed to zero by FTZ. -/
def fFTZF : Nat := 128

/-- A flag when a condition holds. -/
def flagIf (b : Bool) (f : Nat) : Nat := if b then f else 0

/-- SatS32 of R56: the clamped value, and SAT when the clamp changes it. -/
def satS32 (x : Int) : Word × Nat :=
  if x < -2147483648 then (0x80000000, fSAT)
  else if 2147483647 < x then (0x7FFFFFFF, fSAT)
  else (low32 x, 0)

/-- A sum or product as VADD, VSUB and VMAD write it: wrapped, or saturated under MOD bit 6 (R85). -/
def wrapOrSat (sat : Bool) (x : Int) : Word × Nat := if sat then satS32 x else (low32 x, 0)

/-- The carry out of VADDC (R85). -/
def carryOut (t : Nat) : Bool := 2 ^ 32 ≤ t

end Sys2Proof.Machine
end

