-- ==== Sys2Proof/Machine/Float.lean ====
section
/-!
DEFINITION. Exact floating-point arithmetic with one rounding (R91-R101, 02_control_arith.md; R369-R372,
17_numbers_matrix.md).

A finite value is a sign, a natural mantissa and a binary exponent; sums, products and comparisons are made on exact
integers, and `Fmt.round` rounds once.
-/

namespace Sys2Proof.Machine

/-! ## Formats -/

/-- What the largest exponent of a format encodes. -/
inductive FmtTop where
  /-- Infinities and NaNs as IEEE 754. -/
  | ieee
  /-- Finite values, but for the all-ones fraction, which is a NaN (E4M3, R105). -/
  | e4m3
  /-- Finite values only (MX elements of 6 and 4 bits). -/
  | finite
deriving DecidableEq, Repr

/-- A float format: exponent bits, fraction bits, bias. -/
structure Fmt where
  ew   : Nat
  mw   : Nat
  bias : Nat
  top  : FmtTop
deriving DecidableEq, Repr

/-- FP32. -/
def fp32 : Fmt := { ew := 8, mw := 23, bias := 127, top := .ieee }
/-- FP16. -/
def fp16 : Fmt := { ew := 5, mw := 10, bias := 15, top := .ieee }
/-- BF16. -/
def bf16 : Fmt := { ew := 8, mw := 7, bias := 127, top := .ieee }
/-- FP64. -/
def fp64 : Fmt := { ew := 11, mw := 52, bias := 1023, top := .ieee }
/-- FP8 E4M3. -/
def e4m3 : Fmt := { ew := 4, mw := 3, bias := 7, top := .e4m3 }
/-- FP8 E5M2. -/
def e5m2 : Fmt := { ew := 5, mw := 2, bias := 15, top := .ieee }
/-- FP6 E3M2. -/
def e3m2 : Fmt := { ew := 3, mw := 2, bias := 3, top := .finite }
/-- FP6 E2M3. -/
def e2m3 : Fmt := { ew := 2, mw := 3, bias := 1, top := .finite }
/-- FP4 E2M1. -/
def e2m1 : Fmt := { ew := 2, mw := 1, bias := 1, top := .finite }

/-- The float format of a code of R35. -/
def floatFmt : Nat → Fmt
  | 0 => fp32
  | 1 => fp16
  | 2 => bf16
  | 3 => fp64
  | 4 => e4m3
  | _ => e5m2

/-- Bits of an encoding. -/
def Fmt.width (f : Fmt) : Nat := 1 + f.ew + f.mw

/-- Formats of 8 bits and less: their NaNs are quiet, DAZ never applies, and a finite overflow saturates
(R91, R105). -/
def Fmt.narrow (f : Fmt) : Bool := f.width ≤ 8

/-- The exponent of the smallest normal value. -/
def Fmt.emin (f : Fmt) : Int := 1 - f.bias

/-- The largest exponent field of a finite value. -/
def Fmt.topExp (f : Fmt) : Nat :=
  match f.top with
  | .ieee => 2 ^ f.ew - 2
  | _ => 2 ^ f.ew - 1

/-- The encoding of the largest finite value. -/
def Fmt.maxFinite (f : Fmt) : Nat :=
  match f.top with
  | .e4m3 => f.topExp * 2 ^ f.mw + (2 ^ f.mw - 2)
  | _ => f.topExp * 2 ^ f.mw + (2 ^ f.mw - 1)

/-- The sign bit. -/
def Fmt.signBit (f : Fmt) (neg : Bool) : Nat := if neg then 2 ^ (f.ew + f.mw) else 0

/-- The encoding of an infinity. -/
def Fmt.inf (f : Fmt) (neg : Bool) : Nat := f.signBit neg + (2 ^ f.ew - 1) * 2 ^ f.mw

/-- The canonical NaN (R93, R105). -/
def Fmt.nan (f : Fmt) : Nat :=
  match f.top with
  | .ieee => (2 ^ f.ew - 1) * 2 ^ f.mw + 2 ^ (f.mw - 1)
  | _ => (2 ^ f.ew - 1) * 2 ^ f.mw + (2 ^ f.mw - 1)

/-! ## Values -/

/-- A value: a NaN (signalling or quiet), an infinity, or (-1)^neg * m * 2^e. -/
inductive Num where
  | nan (signalling : Bool)
  | inf (neg : Bool)
  | fin (neg : Bool) (m : Nat) (e : Int)
deriving DecidableEq, Repr

/-- The value of an encoding; with DAZ a subnormal of 16 bits and more reads as zero of its sign (R91). -/
def Fmt.decode (f : Fmt) (daz : Bool) (v : Nat) : Num :=
  let neg := bit v (f.ew + f.mw)
  let ex := bits v f.mw f.ew
  let fr := v % 2 ^ f.mw
  if ex == 2 ^ f.ew - 1 && f.top == .ieee then
    if fr == 0 then .inf neg else .nan (!f.narrow && fr < 2 ^ (f.mw - 1))
  else if ex == 2 ^ f.ew - 1 && f.top == .e4m3 && fr == 2 ^ f.mw - 1 then .nan false
  else if ex == 0 then .fin neg (if daz && !f.narrow then 0 else fr) (f.emin - f.mw)
  else .fin neg (2 ^ f.mw + fr) (ex - f.bias - f.mw : Int)

/-- A NaN. -/
def Num.isNan : Num → Bool
  | .nan _ => true
  | _ => false

/-- A signalling NaN. -/
def Num.isSnan : Num → Bool
  | .nan s => s
  | _ => false

/-- An infinity. -/
def Num.isInf : Num → Bool
  | .inf _ => true
  | _ => false

/-- A zero. -/
def Num.isZero : Num → Bool
  | .fin _ m _ => m == 0
  | _ => false

/-- The sign of a value that is no NaN. -/
def Num.neg : Num → Bool
  | .nan _ => false
  | .inf n => n
  | .fin n _ _ => n

/-- The value with its sign inverted. -/
def Num.flip : Num → Num
  | .nan s => .nan s
  | .inf n => .inf (!n)
  | .fin n m e => .fin (!n) m e

/-! ## Rounding -/

/-- The rounding modes of R28, as numbers: 0 RNE, 1 RTZ, 2 RUP, 3 RDN. -/
abbrev Mode := Nat

/-- `m * 2^-k` rounded to an integer for a value of a given sign; `sticky` adds a part above 0 and below the last bit
of `m`. The Bool tells that the result is inexact. -/
def shiftRound (mode : Mode) (neg : Bool) (m k : Nat) (sticky : Bool) : Nat × Bool :=
  let q := m / 2 ^ k
  let r := m % 2 ^ k
  let inexact := r != 0 || sticky
  let up :=
    match mode with
    | 0 => if k == 0 then false else
        2 ^ (k - 1) < r || (r == 2 ^ (k - 1) && (sticky || q % 2 == 1))
    | 1 => false
    | 2 => !neg && inexact
    | _ => neg && inexact
  (if up then q + 1 else q, inexact)

/-- `m * 2^e` as a multiple of `2^q`, rounded. -/
def quantise (mode : Mode) (neg : Bool) (m : Nat) (e q : Int) (sticky : Bool) : Nat × Bool :=
  if q ≤ e then (m * 2 ^ (e - q).toNat, sticky) else shiftRound mode neg m (q - e).toNat sticky

/-- The result of an overflow (R92; R105 for the formats of 8 bits): OF and NX, and SAT where the result saturates. -/
def Fmt.overflow (f : Fmt) (mode : Mode) (neg : Bool) : Nat × Nat :=
  if f.narrow then (f.signBit neg + f.maxFinite, fOF + fNX + fSAT)
  else
    let toInf := mode == 0 || (mode == 2 && !neg) || (mode == 3 && neg)
    (if toInf then f.inf neg else f.signBit neg + f.maxFinite, fOF + fNX)

/-- Rounding (-1)^neg * m * 2^e, with a nonzero part below the last bit of `m` when `sticky`, once to a format (R92):
the encoding and the flags OF, UF, NX, SAT, FTZF. Tininess is detected after rounding with an unbounded exponent. The
caller of a sticky value gives `m` at least two bits more than the format holds. -/
def Fmt.round (f : Fmt) (mode : Mode) (ftz neg : Bool) (m : Nat) (e : Int) (sticky : Bool) : Nat × Nat :=
  if m == 0 then (f.signBit neg, 0)
  else
    let top := e + Nat.log2 m
    let q := max (top - f.mw) (f.emin - f.mw)
    let (r, inexact) := quantise mode neg m e q sticky
    let (u, _) := quantise mode neg m e (top - f.mw) sticky
    let tiny := top < f.emin && !(u == 2 ^ (f.mw + 1) && top + 1 == f.emin)
    let flags := flagIf inexact fNX ||| flagIf (tiny && inexact) fUF
    -- the exponent field of the rounded value; 0 for a subnormal or zero
    let carried := r == 2 ^ (f.mw + 1)
    let r' := if carried then 2 ^ f.mw else r
    let q' := if carried then q + 1 else q
    if r' < 2 ^ f.mw then
      if ftz && r' != 0 then (f.signBit neg, flags ||| fUF ||| fNX ||| fFTZF) else (f.signBit neg + r', flags)
    else
      let ex := (q' + f.mw + f.bias).toNat
      let mag := ex * 2 ^ f.mw + (r' - 2 ^ f.mw)
      if f.maxFinite < mag then f.overflow mode neg else (f.signBit neg + mag, flags)

/-- Rounding a value that is no NaN; an infinity in a format without one gives the maximum with SAT (R105). -/
def Fmt.ofNum (f : Fmt) (mode : Mode) (ftz : Bool) : Num → Nat × Nat
  | .nan _ => (f.nan, 0)
  | .inf n => if f.top == .ieee then (f.inf n, 0) else (f.signBit n + f.maxFinite, fSAT)
  | .fin n m e => f.round mode ftz n m e false

/-- Rounding a signed integer times 2^e. -/
def Fmt.ofInt (f : Fmt) (mode : Mode) (ftz zneg : Bool) (x e : Int) : Nat × Nat :=
  if x == 0 then (f.signBit zneg, 0) else f.round mode ftz (x < 0) x.natAbs e false

/-- Rounding the quotient `a / b * 2^e` of naturals, `b` not zero. -/
def Fmt.ofRatio (f : Fmt) (mode : Mode) (ftz neg : Bool) (a b : Nat) (e : Int) : Nat × Nat :=
  let k := Nat.log2 b + f.mw + 4
  f.round mode ftz neg (a * 2 ^ k / b) (e - k) (a * 2 ^ k % b != 0)

/-! ## Operations -/

/-- A finite value as a signed integer times 2^e0, where e0 is at most its exponent. -/
def finInt (neg : Bool) (m : Nat) (e e0 : Int) : Int :=
  let x : Int := (m * 2 ^ (e - e0).toNat : Nat)
  if neg then -x else x

/-- The sign of an exact zero sum (R94): that of the terms when they agree, else +0, and -0 under RDN. -/
def zeroSign (mode : Mode) (a b : Bool) : Bool := if a == b then a else mode == 3

/-- Whether an operation with these inputs sets NV for a signalling NaN (R93). -/
def snanFlag (xs : List Num) : Nat := flagIf (xs.any Num.isSnan) fNV

/-- Round(a + b) (R94). -/
def Fmt.add (f : Fmt) (mode : Mode) (ftz : Bool) (a b : Num) : Nat × Nat :=
  match a, b with
  | .nan _, _ => (f.nan, snanFlag [a, b])
  | _, .nan _ => (f.nan, snanFlag [a, b])
  | .inf x, .inf y => if x == y then (f.inf x, 0) else (f.nan, fNV)
  | .inf x, _ => (f.inf x, 0)
  | _, .inf y => (f.inf y, 0)
  | .fin x m e, .fin y n g =>
    let e0 := min e g
    f.ofInt mode ftz (zeroSign mode x y) (finInt x m e e0 + finInt y n g e0) e0

/-- Round(a * b) (R94). -/
def Fmt.mul (f : Fmt) (mode : Mode) (ftz : Bool) (a b : Num) : Nat × Nat :=
  match a, b with
  | .nan _, _ => (f.nan, snanFlag [a, b])
  | _, .nan _ => (f.nan, snanFlag [a, b])
  | .inf x, _ => if b.isZero then (f.nan, fNV) else (f.inf (x != b.neg), 0)
  | _, .inf y => if a.isZero then (f.nan, fNV) else (f.inf (a.neg != y), 0)
  | .fin x m e, .fin y n g => f.round mode ftz (x != y) (m * n) (e + g) false

/-- Round(a * b + d) with one rounding (R94). -/
def Fmt.fma (f : Fmt) (mode : Mode) (ftz : Bool) (a b d : Num) : Nat × Nat :=
  let invalid := (a.isInf && b.isZero) || (a.isZero && b.isInf)
  if invalid || a.isNan || b.isNan || d.isNan then (f.nan, flagIf invalid fNV ||| snanFlag [a, b, d])
  else if a.isInf || b.isInf then
    let n := a.neg != b.neg
    match d with
    | .inf y => if y == n then (f.inf n, 0) else (f.nan, fNV)
    | _ => (f.inf n, 0)
  else
    match a, b, d with
    | _, _, .inf y => (f.inf y, 0)
    | .fin x m e, .fin y n g, .fin z k h =>
      let e0 := min (e + g) h
      f.ofInt mode ftz (zeroSign mode (x != y) z) (finInt (x != y) (m * n) (e + g) e0 + finInt z k h e0) e0
    | _, _, _ => (f.nan, 0)

/-- The least exponent of the finite values of a list. -/
def minExpo (xs : List Num) : Int :=
  (xs.foldl (fun (a : Option Int) x =>
    match x, a with
    | .fin _ _ e, some b => some (min b e)
    | .fin _ _ e, none => some e
    | _, _ => a) none).getD 0

/-- One rounding of the exact sum of values, times 2^-sh: a NaN gives NaN, infinities of both signs give NaN and NV, and
those of one sign give that infinity (R172, R380). -/
def sumRound (f : Fmt) (mode : Mode) (ftz : Bool) (sh : Nat) (xs : List Num) : Nat × Nat :=
  if xs.any Num.isNan then (f.nan, snanFlag xs)
  else
    let pos := xs.any fun x => x.isInf && !x.neg
    let neg := xs.any fun x => x.isInf && x.neg
    if pos && neg then (f.nan, fNV)
    else if pos || neg then (f.inf neg, 0)
    else
      let e0 := minExpo xs
      let sum := xs.foldl (fun (a : Int) x =>
        match x with
        | .fin n k e => a + finInt n k e e0
        | _ => a) 0
      let zneg := if xs.all (·.neg) then true else if xs.all (!·.neg) then false else mode == 3
      f.ofInt mode ftz zneg sum (e0 - sh)

/-- The order of two values. -/
inductive FOrd where
  | lt
  | eq
  | gt
  | un
deriving DecidableEq, Repr

/-- Comparing two values; zeros of both signs are equal. -/
def Num.cmp (a b : Num) : FOrd :=
  match a, b with
  | .nan _, _ => .un
  | _, .nan _ => .un
  | .inf x, .inf y => if x == y then .eq else if x then .lt else .gt
  | .inf x, _ => if x then .lt else .gt
  | _, .inf y => if y then .gt else .lt
  | .fin x m e, .fin y n g =>
    let e0 := min e g
    let u := finInt x m e e0
    let v := finInt y n g e0
    if u < v then .lt else if u == v then .eq else .gt

/-- minimumNumber and maximumNumber (R95): the other input when one is a NaN; -0.0 orders below +0.0; the result is an
input value, to which FTZ applies. -/
def Fmt.minMax (f : Fmt) (isMax ftz : Bool) (a b : Num) : Nat × Nat :=
  let nv := snanFlag [a, b]
  let less := match a.cmp b with
    | .lt => true
    | .eq => a.neg && !b.neg
    | _ => false
  let pick := if a.isNan then b else if b.isNan then a else if less != isMax then a else b
  let r := f.ofNum 0 ftz pick
  (r.1, r.2 ||| nv)

/-- The float conditions of R31. -/
def floatCond (cond : Nat) (o : FOrd) : Bool :=
  match cond with
  | 0 => o == .eq
  | 1 => o != .eq
  | 2 => o == .lt
  | 3 => o == .lt || o == .eq
  | 4 => o == .gt
  | 5 => o == .gt || o == .eq
  | 6 => o == .un
  | _ => o != .un

/-- The flag of a comparison (R97): NV for a signalling NaN, and for a quiet one under LT, LE, GT and GE. -/
def cmpFlag (cond : Nat) (a b : Num) : Nat :=
  flagIf (a.isSnan || b.isSnan || ((a.isNan || b.isNan) && 2 ≤ cond && cond ≤ 5)) fNV

/-! ## Modifiers (R91, R92) -/

/-- abs, then neg, on the sign bit of an encoding. -/
def Fmt.absNeg (f : Fmt) (ab ng : Bool) (v : Nat) : Nat :=
  let sb := 2 ^ (f.ew + f.mw)
  let x := if ab then v % sb else v
  if ng then (if bit x (f.ew + f.mw) then x - sb else x + sb) else x

/-- MOD bit 6 (R92): the result clamped to [+0.0, 1.0], with -0.0 and NaN becoming +0.0. -/
def Fmt.clamp (f : Fmt) (v : Nat) : Nat :=
  match f.decode false v with
  | .nan _ => 0
  | .inf n => if n then 0 else f.bias * 2 ^ f.mw
  | .fin n _ _ => if n then 0 else min v (f.bias * 2 ^ f.mw)

/-- What an instruction's hints and its group's mode register say about its arithmetic (R28, R91, R92). -/
structure FEnv where
  mode : Mode
  ftz  : Bool
  daz  : Bool
  mods : Nat
deriving DecidableEq, Repr

/-- Input a, b or d prepared: DAZ, then abs and neg from two bits of the MOD hint (R91). -/
def FEnv.input (E : FEnv) (f : Fmt) (k : Nat) (v : Nat) : Num :=
  f.decode E.daz (f.absNeg (bit E.mods k) (bit E.mods (k + 1)) v)

/-- The result with MOD bits 4 and 5 (forms that are not FMA-class) and bit 6 applied (R92; log entry 22). -/
def FEnv.output (E : FEnv) (f : Fmt) (fmaClass : Bool) (r : Nat × Nat) : Nat × Nat :=
  let v := if fmaClass then r.1 else f.absNeg (bit E.mods 4) (bit E.mods 5) r.1
  (if bit E.mods 6 then f.clamp v else v, r.2)

/-- The two-operand operations. -/
inductive FOp where
  | add
  | sub
  | mul
  | min
  | max
deriving DecidableEq, Repr

/-- A two-operand operation on encodings. -/
def FEnv.bin (E : FEnv) (f : Fmt) (o : FOp) (a b : Nat) : Nat × Nat :=
  let x := E.input f 0 a
  let y := E.input f 2 b
  E.output f false
    (match o with
     | .add => f.add E.mode E.ftz x y
     | .sub => f.add E.mode E.ftz x y.flip
     | .mul => f.mul E.mode E.ftz x y
     | .min => f.minMax false E.ftz x y
     | .max => f.minMax true E.ftz x y)

/-- An FMA-class operation on encodings: a * b + d, or a * b - d. -/
def FEnv.fmaOp (E : FEnv) (f : Fmt) (sub : Bool) (a b d : Nat) : Nat × Nat :=
  let z := E.input f 4 d
  E.output f true (f.fma E.mode E.ftz (E.input f 0 a) (E.input f 2 b) (if sub then z.flip else z))

/-- A comparison of encodings: the truth and the flags (R97). -/
def FEnv.cmp (E : FEnv) (f : Fmt) (cond a b : Nat) : Bool × Nat :=
  let x := E.input f 0 a
  let y := E.input f 2 b
  (floatCond cond (x.cmp y), cmpFlag cond x y)

/-- Both halves of a register (R98): element 0 in bits [15:0], element 1 in bits [31:16]; the flags are OR-ed. -/
def halves (g : Nat → Nat → Nat → Nat × Nat) (a b d : Word) : Word × Nat :=
  let lo := g (a.toNat % 65536) (b.toNat % 65536) (d.toNat % 65536)
  let hi := g (a.toNat / 65536) (b.toNat / 65536) (d.toNat / 65536)
  (word (lo.1 + 65536 * hi.1), lo.2 ||| hi.2)

/-! ## FP32 operations of majors 0x19 and 0x1A (R96) -/

/-- A finite value rounded to an integer: the integer's magnitude, and whether it differs. -/
def roundInt (mode : Mode) (neg : Bool) (m : Nat) (e : Int) : Nat × Bool := quantise mode neg m e 0 false

/-- FRND. -/
def frnd (E : FEnv) (mode : Mode) (a : Nat) : Nat × Nat :=
  match E.input fp32 0 a with
  | .nan s => (fp32.nan, flagIf s fNV)
  | .inf n => (fp32.inf n, 0)
  | .fin n m e => ((fp32.round mode false n (roundInt mode n m e).1 0 false).1, 0)

/-- FFRAC: Round(a - Floor(a)), with 1.0 replaced by the largest value below it. -/
def ffrac (E : FEnv) (a : Nat) : Nat × Nat :=
  match E.input fp32 0 a with
  | .nan s => (fp32.nan, flagIf s fNV)
  | .inf _ => (fp32.nan, fNV)
  | .fin n m e =>
    let e0 := min e 0
    let x := finInt n m e e0
    let one : Int := (2 ^ (-e0).toNat : Nat)
    let r := fp32.ofInt E.mode E.ftz (zeroSign E.mode n (!n)) (x % one) e0
    if r.1 == 0x3F800000 then (0x3F7FFFFF, r.2 ||| fNX) else r

/-- FLDEXP: Round(a * 2^b). Exponents beyond the range of every result are cut to its end. -/
def fldexp (E : FEnv) (a : Nat) (b : Int) : Nat × Nat :=
  match E.input fp32 0 a with
  | .nan s => (fp32.nan, flagIf s fNV)
  | .inf n => (fp32.inf n, 0)
  | .fin n m e => fp32.round E.mode E.ftz n m (e + max (-600) (min b 600)) false

/-- FEXPO. -/
def fexpo (E : FEnv) (a : Nat) : Word :=
  match E.input fp32 0 a with
  | .nan _ => 0x7FFFFFFF
  | .inf _ => 0x7FFFFFFF
  | .fin _ m e => if m == 0 then 0x80000000 else low32 (e + Nat.log2 m)

/-- FCLASS: the register as it stands. -/
def fclass (a : Nat) : Word :=
  let k : Nat :=
    match fp32.decode false a with
    | .nan s => if s then 8 else 9
    | .inf n => if n then 0 else 7
    | .fin n m _ =>
      if m == 0 then (if n then 3 else 4)
      else if m < 2 ^ 23 then (if n then 2 else 5)
      else if n then 1 else 6
  word (2 ^ k)

/-- FDIV (R100, R101). -/
def fdiv (E : FEnv) (a b : Nat) : Nat × Nat :=
  let x := E.input fp32 0 a
  let y := E.input fp32 2 b
  match x, y with
  | .nan _, _ => (fp32.nan, snanFlag [x, y])
  | _, .nan _ => (fp32.nan, snanFlag [x, y])
  | .inf _, .inf _ => (fp32.nan, fNV)
  | .inf n, _ => (fp32.inf (n != y.neg), 0)
  | _, .inf n => (fp32.signBit (x.neg != n), 0)
  | .fin p m e, .fin q n g =>
    if n == 0 then (if m == 0 then (fp32.nan, fNV) else (fp32.inf (p != q), fDZ))
    else fp32.ofRatio E.mode E.ftz (p != q) m n (e - g)

end Sys2Proof.Machine
end

