-- ==== Sys2Proof/Machine/Exact.lean ====
section
/-!
DEFINITION. Exact rational values for the fixed units, whose results are rounded once (R184, R330, R337, R342, R345).
-/

namespace Sys2Proof.Machine

/-- An exact rational: a numerator over a positive denominator, not reduced. -/
structure Fr where
  n : Int
  d : Nat

namespace Fr

/-- An integer. -/
def int (x : Int) : Fr := { n := x, d := 1 }

/-- An integer times a power of two. -/
def pow2 (x : Int) (e : Int) : Fr := if 0 ≤ e then { n := x * (2 ^ e.toNat : Nat), d := 1 } else { n := x, d := 2 ^ (-e).toNat }

/-- The sum. -/
def add (a b : Fr) : Fr := if a.d == b.d then { n := a.n + b.n, d := a.d } else { n := a.n * b.d + b.n * a.d, d := a.d * b.d }

/-- The negative. -/
def neg (a : Fr) : Fr := { a with n := -a.n }

/-- The difference. -/
def sub (a b : Fr) : Fr := a.add b.neg

/-- The product. -/
def mul (a b : Fr) : Fr := { n := a.n * b.n, d := a.d * b.d }

/-- The quotient by a value that is not zero. -/
def div (a b : Fr) : Fr := { n := if b.n < 0 then -(a.n * b.d) else a.n * b.d, d := a.d * b.n.natAbs }

/-- The value is zero. -/
def isZero (a : Fr) : Bool := a.n == 0

/-- The order. -/
def lt (a b : Fr) : Bool := a.n * b.d < b.n * a.d

/-- The order or equality. -/
def le (a b : Fr) : Bool := a.n * b.d ≤ b.n * a.d

/-- The smaller value. -/
def min (a b : Fr) : Fr := if b.lt a then b else a

/-- The larger value. -/
def max (a b : Fr) : Fr := if a.lt b then b else a

/-- The greatest integer that is not larger. -/
def floor (a : Fr) : Int := a.n / a.d

/-- Rounding a fraction to a format. An exact value of zero has no sign: the model gives +0.0, where R184 says nothing of the
sign of an IPOL result that is exactly zero (DESIGN CHOICE, log entry 84). -/
def round (f : Fmt) (mode : Mode) (a : Fr) : Nat := if a.n == 0 then 0 else (f.ofRatio mode false (a.n < 0) a.n.natAbs a.d 0).1

end Fr

/-- The value of a finite number. -/
def Num.fr : Num → Fr
  | .fin n m e => Fr.pow2 (if n then -(m : Int) else m) e
  | _ => Fr.int 0

/-- The exact value of an FP32 word; zero for a NaN or an infinity. -/
def fr32 (w : Word) : Fr := (fp32.decode false w.toNat).fr

/-- An FP32 word is finite. -/
def finite32 (w : Word) : Bool := bits w.toNat 23 8 != 0xFF

/-- An FP32 word is a NaN. -/
def nan32 (w : Word) : Bool := (fp32.decode false w.toNat).isNan

/-- One rounding to FP32 under round-to-nearest-even. -/
def Fr.w32 (a : Fr) : Word := word (a.round fp32 0)

/-! ## Extended values -/

/-- A value of an expression evaluated exactly with infinities and NaN. -/
inductive XVal where
  | nan
  | inf (neg : Bool)
  | fin (x : Fr)

/-- The value of an FP32 word. -/
def xval (w : Word) : XVal :=
  match fp32.decode false w.toNat with
  | .nan _ => .nan
  | .inf n => .inf n
  | .fin n m e => .fin (Num.fin n m e).fr

/-- The sum: opposite infinities give NaN. -/
def XVal.add : XVal → XVal → XVal
  | .nan, _ => .nan
  | _, .nan => .nan
  | .inf a, .inf b => if a == b then .inf a else .nan
  | .inf a, _ => .inf a
  | _, .inf b => .inf b
  | .fin a, .fin b => .fin (a.add b)

/-- The negative. -/
def XVal.neg : XVal → XVal
  | .nan => .nan
  | .inf a => .inf (!a)
  | .fin a => .fin a.neg

/-- The product: zero times an infinity gives NaN. -/
def XVal.mul : XVal → XVal → XVal
  | .nan, _ => .nan
  | _, .nan => .nan
  | .inf a, .inf b => .inf (a != b)
  | .inf a, .fin y => if y.isZero then .nan else .inf (a != (y.n < 0))
  | .fin x, .inf b => if x.isZero then .nan else .inf (b != (x.n < 0))
  | .fin x, .fin y => .fin (x.mul y)

/-- One rounding to FP32 under round-to-nearest-even. -/
def XVal.w32 : XVal → Word
  | .nan => word fp32.nan
  | .inf n => word (fp32.inf n)
  | .fin x => x.w32

end Sys2Proof.Machine
end

