-- ==== Sys2Proof/Machine/Raster.lean ====
section
/-!
DEFINITION. The default images of the binner and of the raster sequencer (R327-R330, R337-R339, 14_rendering.md), and the
plane formats (R175).
-/

namespace Sys2Proof.Machine

/-! ## Planes -/

/-- The bytes of an element of a plane format (R175). -/
def planeSize (fmt : Nat) : Nat :=
  match fmt with
  | 0 => 0
  | 2 => 8
  | 3 => 16
  | 8 => 2
  | _ => 4

/-- The registers that an element takes (R175). -/
def planeRegs (fmt : Nat) : Nat := max 1 (planeSize fmt / 4)

/-- A described plane of a render state. -/
def RenderState.plane (rs : RenderState) (k : Nat) : Option Plane := (rs.planes[k]?).filter fun p => p.fmt != 0

/-- The depth plane (R339). -/
def RenderState.depth (rs : RenderState) : Option Plane := rs.planes.find? fun p => p.fmt == 5

/-- The described planes, in order. -/
def RenderState.described (rs : RenderState) : List Plane := rs.planes.filter fun p => p.fmt != 0

/-- Tiles in a row of the frame, and the tiles of the frame (R329). -/
def RenderState.tw (rs : RenderState) : Nat := rs.width / 32
/-- Tiles in the frame. -/
def RenderState.ntiles (rs : RenderState) : Nat := rs.tw * (rs.height / 32)

/-- The offset of a pixel's element in the unit allocation (R328). -/
def Plane.at_ (p : Plane) (pix : Nat) : Nat := p.offset + pix * planeSize p.fmt

/-! ## Binning (R330) -/

/-- The die whose binner takes a tile (R330). -/
def RenderState.binner (rs : RenderState) (t : Nat) : Nat :=
  let ds := (List.range 8).filter (bit rs.binmask)
  ds.getD (t % ds.length) 0

/-- Step 1: no vertex holds a NaN, an infinity or w at or below zero. -/
def vertexOk (v : List Word) : Bool :=
  (v.take 4).all finite32 && (match fp32.decode false (v.getD 3 0).toNat with
    | .fin n m _ => !n && m != 0
    | _ => false)

/-- Step 2: the screen coordinates of a vertex and its clip w. -/
def screenVertex (rs : RenderState) (v : List Word) : List Word :=
  let c (k : Nat) : Fr := fr32 (v.getD k 0)
  let w := c 3
  let scr (x : Fr) (size : Nat) : Word := ((x.add w).mul (Fr.int size)).div (w.mul (Fr.int 2)) |>.w32
  [scr (c 0) rs.width, scr (c 1) rs.height, ((c 2).div w).w32, v.getD 3 0]

/-- A coordinate of a screen vertex. -/
def coord (v : List Word) (k : Nat) : Fr := fr32 (v.getD k 0)

/-- Twice the signed area of a triangle (step 3). -/
def triArea (vs : List (List Word)) : Fr :=
  match vs with
  | [a, b, c] =>
    (((coord b 0).sub (coord a 0)).mul ((coord c 1).sub (coord a 1))).sub
      (((coord c 0).sub (coord a 0)).mul ((coord b 1).sub (coord a 1)))
  | _ => Fr.int 1

/-- The smallest and the largest value of a coordinate. -/
def extremes (vs : List (List Word)) (k : Nat) : Fr × Fr :=
  match vs with
  | [] => (Fr.int 0, Fr.int 0)
  | v :: rest => rest.foldl (fun a u => (a.1.min (coord u k), a.2.max (coord u k))) (coord v k, coord v k)

/-- The tile indices along an axis that a range of screen coordinates meets, within `n` tiles. -/
def tileSpan (r : Fr × Fr) (n : Nat) : List Nat :=
  let t (x : Fr) : Int := (x.div (Fr.int 32)).floor
  let lo := (max 0 (t r.1)).toNat
  let hi := t r.2
  if hi < lo then [] else (List.range (min (hi.toNat + 1) n)).drop lo

/-- Step 4: the tiles that a primitive meets. -/
def primTiles (rs : RenderState) (vs : List (List Word)) : List Nat :=
  let xs := tileSpan (extremes vs 0) rs.tw
  (tileSpan (extremes vs 1) (rs.height / 32)).flatMap fun ty => xs.map fun tx => ty * rs.tw + tx

/-- The default binner image on a primitive of a topology (R330): its screen vertices and tiles, none when it is
dropped. -/
def binDefault (rs : RenderState) (topo cull : Nat) (vs : List (List Word)) : Option (List (List Word) × List Nat) :=
  if !vs.all vertexOk then none
  else
    let ss := vs.map (screenVertex rs)
    if !ss.all (fun v => v.all finite32) then none
    else
      let a := triArea ss
      let culled := topo == 0 && (a.isZero || (cull == 1 && a.n < 0) || (cull == 2 && 0 < a.n))
      let ts := primTiles rs ss
      if culled || ts.isEmpty then none else some (ss, ts)

/-- The resident images of a unit with that of a kind reloaded: the image `img`, none for the default one (R349). -/
def withImage (m : Tbl Nat) (kind : Nat) (img : Option Nat) : Tbl Nat := (img.map (tset m kind)).getD (tdel m kind)

/-! ## Rasterisation (R337) -/

/-- The edge function of an edge of a triangle at a point. -/
def edgeAt (a b : List Word) (px py : Fr) : Fr :=
  (((coord b 0).sub (coord a 0)).mul (py.sub (coord a 1))).sub
    (((coord b 1).sub (coord a 1)).mul (px.sub (coord a 0)))

/-- A top edge or a left edge, for a triangle whose area has the sign given. -/
def edgeTopLeft (a b : List Word) (pos : Bool) : Bool :=
  let dx := (coord b 0).sub (coord a 0)
  let dy := (coord a 1).sub (coord b 1)
  if dy.isZero then (if pos then 0 < dx.n else dx.n < 0) else (if pos then 0 < dy.n else dy.n < 0)

/-- A sample of a primitive at a pixel: covered, the depth, and b1 and b2; under an image that is not the default one also
whether the position receives a helper fibre and whether the depth is written. -/
structure Sample where
  cover  : Bool
  z      : Word
  b1     : Word
  b2     : Word
  helper : Bool := false
  write  : Bool := false

/-- A triangle at a pixel of the frame (R337, R338). -/
def triSample (vs : List (List Word)) (x y : Nat) : Sample :=
  match vs with
  | [a, b, c] =>
    let px : Fr := { n := 2 * x + 1, d := 2 }
    let py : Fr := { n := 2 * y + 1, d := 2 }
    let area := triArea vs
    let pos : Bool := 0 < area.n
    let es := [(b, c), (c, a), (a, b)]
    let ew := es.map fun e => edgeAt e.1 e.2 px py
    let inside := (es.zip ew).all fun e =>
      let v := e.2.n
      if v == 0 then edgeTopLeft e.1.1 e.1.2 pos else (if pos then 0 < v else v < 0)
    let be := ew.map fun w => w.div area
    let beta (k : Nat) : Fr := be.getD k (Fr.int 0)
    let zf := (coord a 2).add (((beta 1).mul ((coord b 2).sub (coord a 2))).add
      ((beta 2).mul ((coord c 2).sub (coord a 2))))
    let q (k : Nat) (v : List Word) : Fr := (beta k).div (coord v 3)
    let tot := ((q 0 a).add (q 1 b)).add (q 2 c)
    if tot.isZero then { cover := inside, z := zf.w32, b1 := word fp32.nan, b2 := word fp32.nan }
    else { cover := inside, z := zf.w32, b1 := ((q 1 b).div tot).w32, b2 := ((q 2 c).div tot).w32 }
  | _ => { cover := false, z := 0, b1 := 0, b2 := 0 }

/-- The sample of a primitive at a pixel of the frame under an image: the default one, or another, which defines
everything that R348 gives the raster image. -/
def primSample (image : Option Nat) (p : PrimRec) (x y : Nat) : Sample :=
  match image with
  | none =>
    if p.topo == 0 then triSample p.verts.xyzw x y
    else
      let r := Config.lineFragment p.topo p.verts.xyzw.flatten (x, y)
      { cover := r.1, z := r.2.1, b1 := r.2.2.1, b2 := r.2.2.2 }
  | some k =>
    let v (j : Nat) : Word := Config.imageResult k ((p.batchSeq * 2 ^ 32 + p.prim) * 2 ^ 30 + x * 2 ^ 15 + y) j
    { cover := v 0 != 0, z := v 1, b1 := v 2, b2 := v 3, helper := v 4 != 0, write := v 5 != 0 }

/-- A fragment whose depth lies outside [0, 1] is dropped (R337). -/
def Sample.exists_ (f : Sample) : Bool :=
  f.cover && finite32 f.z && 0 ≤ (fr32 f.z).n && (fr32 f.z).le (Fr.int 1)

/-! ## Depth (R180, R328, R339) -/

/-- The compare functions of R328: the depth against the element. -/
def depthPass (cmp : Nat) (z d : Word) : Bool :=
  match (fp32.decode false z.toNat).cmp (fp32.decode false d.toNat) with
  | .un => cmp == 7 && !nan32 z
  | .lt => [1, 3, 5, 7].contains cmp
  | .eq => [2, 3, 6, 7].contains cmp
  | .gt => [4, 5, 6, 7].contains cmp

end Sys2Proof.Machine
end

