-- ==== Sys2Proof/Machine/Record.lean ====
section
/-!
DEFINITION. Buffer records, the addresses of global accesses, stores, line requests, and the atomic step (R114, R120-R124,
03_memory_instr.md; R272-R277, 10_memory.md; R423, 21_observation.md).
-/

namespace Sys2Proof.Machine

/-! ## Buffer records -/

/-- A buffer record (R272). -/
structure Rec where
  base   : Nat
  extent : Nat
  stride : Nat
  sobj   : Nat
  elem   : Nat
  r      : Bool
  w      : Bool
  trap   : Bool
  swz    : Nat
deriving DecidableEq, Repr

/-- The record that 256 bits hold. -/
def parseRec (v : BitVec 256) : Rec :=
  let n := v.toNat
  { base := bits n 0 52, extent := bits n 64 53, stride := bits n 128 32, sobj := bits n 160 20, elem := bits n 192 3,
    r := bit n 196, w := bit n 197, trap := bit n 198, swz := bits n 200 3 }

/-- A record that holds no reserved value (R272). -/
def recValid (v : BitVec 256) : Bool :=
  let n := v.toNat
  bits n 52 12 == 0 && bits n 117 11 == 0 && bits n 180 12 == 0 && !bit n 195 && !bit n 199 && bits n 203 21 == 0 &&
    bits n 224 32 == 0 && bits n 192 3 ≤ 4 && bits n 64 53 ≤ 2 ^ 52 && bits n 0 52 + bits n 64 53 ≤ 2 ^ 52

/-- The record in a slot of a team: all zero where nothing has written it (R273). -/
def Team.rec_ (T : Team) (slot : Nat) : Rec := parseRec (tget T.recs slot 0)

/-- The width of an atomic on a record (R38, R124). -/
def Rec.atomWidth (r : Rec) : Nat := if r.elem == 1 then 8 else 4

/-- The address of an access of `w` bytes at an index (R114), without the permission check: the trap, `none` when the
fibre is dropped, or the virtual address before and after the swizzle. -/
def Rec.place (r : Rec) (idx w : Nat) : Except Trap (Option (Nat × Nat)) :=
  let off := idx * r.stride
  if r.extent < off + w then (if r.trap then .error (mkTrap fcOob 0 off) else .ok none)
  else
    let va := r.base + off
    if va % w != 0 then .error (mkTrap fcAlign 0 va) else .ok (some (va, swizzle va r.swz))

/-- The address of an access with the permission check of the record (R114). -/
def Rec.addr (r : Rec) (idx w : Nat) (needR needW : Bool) : Except Trap (Option (Nat × Nat)) :=
  match r.place idx w with
  | .ok (some (va, pva)) =>
    if needW && !r.w then .error (mkTrap fcProt 1 va)
    else if needR && !r.r then .error (mkTrap fcProt 0 va)
    else .ok (some (va, pva))
  | e => e

/-- The 128-byte line of an address. -/
def lineOf (a : Nat) : Nat := a / 128 * 128

/-- Translating the lines of an instruction, each once (R275). -/
def State.xlateLines (s : State) (core x : Nat) (acc : Access) (lines : List Nat) : State × List (Nat × Xlate) :=
  lines.eraseDups.foldl (fun (a : State × List (Nat × Xlate)) ln =>
    let r := a.1.xlateCore core x ln acc
    (r.1, a.2 ++ [(ln, r.2)])) (s, [])

/-- The translation of an address by that of its line. -/
def lineResult (rs : List (Nat × Xlate)) (pva : Nat) : Xlate :=
  match rs.find? fun r => r.1 == lineOf pva with
  | some (_, .ok pa f) => .ok (pa + pva % 128) f
  | some (_, r) => r
  | none => .fault fcPage

/-- What the touch's checks find for one fibre: the physical address, or its trap or park (R114, R115, R119). A generator's
access to its own block acts as on FILLED (R385). -/
def State.touchPa (s : State) (I : Issue) (rs : List (Nat × Xlate)) (acc : Access) (l va pva : Nat) :
    State × Except LaneOut Nat :=
  match s.ownBlock I.x I.T.gen pva (lineResult rs pva) with
  | .ok pa _ => (s, .ok pa)
  | .fault code => (s, .error (s.walkOut I.x l (acc.trap code pva)))
  | .proc block _ =>
    match s.procLeaf I.x block with
    | none => (s, .error { lane := l, trap := some (mkTrap fcPage acc.detail pva) })
    | some lf =>
      let r := s.meetBlock I.x I.T.gen block (s.fillState I.x lf) va
      (r.1, .error (match r.2 with
        | some t => { lane := l, trap := some t }
        | none => { lane := l, park := some (.fill block va) }))

/-! ## Stores and line requests -/

/-- The group's held stores that meet a range of memory are performed before it accesses the range otherwise (R120). -/
def State.drainFor (s : State) (core g pa n : Nat) : State := s.performHeld core g fun h => h.meets none pa n

/-- Every byte of a line is held for a non-temporal store. -/
def lineFull (held : List HeldStore) (ln : Nat) : Bool :=
  (List.range 128).all fun i => held.any fun h => h.nt && h.over none (ln + i)

/-- What the order of a store depends on: its class, the RELAX hint, and the object of its record (R121, R309). -/
structure StoreKind where
  nt    : Bool := false
  vol   : Bool := false
  relax : Bool := false
  sobj  : Nat := 0
  scope : Option Nat := none

/-- The class field k of R121. -/
def classKind (k : BitVec 3) (relax : Bool) (sobj : Nat) (scope : Option Nat) : StoreKind :=
  { nt := k == 1, vol := k == 2, relax := relax, sobj := sobj, scope := scope }

/-- A store of a group of a kind, begun now. -/
def State.storeOf (s : State) (I : Issue) (k : StoreKind) (scr : Option Scr) (a : Nat) (bs : List Byte) : HeldStore :=
  { since := s.coreCycle I.core, scr := scr, pa := a, bytes := bs, nt := k.nt, sobj := k.sobj, relax := k.relax, scope := k.scope }

/-- The store stays on its way after its issue: a non-temporal one always, a plain one as `State.stays` has it (R309-R311;
log entry 70). -/
def State.keeps (s : State) (k : StoreKind) : Bool := k.nt || (!k.vol && s.stays.headD false)

/-- The group holds a store. -/
def State.holdStore (s : State) (core g : Nat) (h : HeldStore) : State := s.modGroup core g fun G => { G with held := G.held ++ [h] }

/-- The choice of a plain store has been used. -/
def State.spendStay (s : State) (k : StoreKind) : State := if k.nt || k.vol then s else { s with stays := s.stays.drop 1 }

/-- A store to memory by a group (R121, R277). A non-temporal one is held until its line is full. A store to a far
target is not performed, and its request ends with an error. -/
def State.storeBytes (s : State) (I : Issue) (k : StoreKind) (pa : Nat) (bs : List Byte) : State :=
  let u := s.spendStay k
  match s.reach pa with
  | .ok =>
    if s.keeps k then
      let s1 := u.holdStore I.core I.g (s.storeOf I k none pa bs)
      let ln := lineOf pa
      match s1.group? I.core I.g with
      | some G => if k.nt && lineFull G.held ln then s1.performHeld I.core I.g fun h => h.nt && lineOf h.pa == ln else s1
      | none => s1
    else (u.drainFor I.core I.g pa bs.length).put I.x I.party (s.storeOf I k none pa bs)
  | .now => u.noteLine I.x (srcCore I.core) pa 1
  | .late => (u.openFar I [lineOf pa] true).1

/-- A store to a scratchpad by a group. -/
def State.storeScr (s : State) (I : Issue) (d : Scr) (a : Nat) (bs : List Byte) : State :=
  let k : StoreKind := { relax := I.hv.relax }
  let u := s.spendStay k
  if s.keeps k then
    u.holdStore I.core I.g (s.storeOf I k (some d) a bs)
  else (u.performHeld I.core I.g fun h => h.meets (some d) a bs.length).put I.x I.party (s.storeOf I k (some d) a bs)

/-- The region stack entries that a trace record gives. -/
def regionTop4 (rs : List (BitVec 16)) : List (BitVec 16) := rs.take 4

/-- Counting the line requests of an instruction, and sampling every 2^lgm-th (R423). Each request is the line's
virtual and its physical address; `eng` is the engine operation that carries them out. -/
def State.lineRequests (s : State) (I : Issue) (op : Nat) (eng : Option Nat) (lines : List (Nat × Nat)) : State :=
  let w := (s.ctx I.x).word 0x088
  if !bit w 7 then s
  else
    lines.foldl (fun u ln =>
      let k := tget (u.core I.core).lines I.x 0 + 1
      let u1 := u.modCore I.core fun C => { C with lines := tset C.lines I.x k }
      if k % 2 ^ bits w 8 4 == 0 then
        let tgt := match u1.target ln.2 with
          | .fabric _ => 1
          | .cxl _ => 2
          | _ => 0
        { u1 with nextOp := u1.nextOp + 1
                  lats := tset u1.lats u1.nextOp
                    { ctx := I.x, core := I.core, g := I.g, cycle := u1.coreCycle I.core, pc := I.pc, regions := regionTop4 I.G.regions,
                      op := op, target := tgt, va := ln.1, pa := ln.2, eng := eng, serial := u1.nextOp } }
      else u1) s

/-! ## The atomic step (R124) -/

/-- The smaller or larger of two values of `w` bytes. -/
def atomPick (w : Nat) (signed isMax : Bool) (a b : Nat) : Nat :=
  let v (x : Nat) : Int := if signed then sext (8 * w) x else x
  if (if isMax then v a < v b else v b < v a) then b else a

/-- The format of a float atomic. -/
def atomFmt (w : Nat) : Fmt := if w == 8 then fp64 else fp32

/-- FADD of R124: to nearest even, with no DAZ, no FTZ and no flag. -/
def atomFadd (w a b : Nat) : Nat :=
  let f := atomFmt w
  (f.add 0 false (f.decode false a) (f.decode false b)).1

/-- FMIN and FMAX of R124. -/
def atomFminmax (w : Nat) (isMax : Bool) (a b : Nat) : Nat :=
  let f := atomFmt w
  (f.minMax isMax false (f.decode false a) (f.decode false b)).1

/-- The new value of an atomic: the operation code of R38, the width in bytes, the old value and the data. -/
def atomStep (code w old data : Nat) : Nat :=
  match code with
  | 0 => (old + data) % 2 ^ (8 * w)
  | 1 => atomPick w true false old data
  | 2 => atomPick w false false old data
  | 3 => atomPick w true true old data
  | 4 => atomPick w false true old data
  | 5 => old &&& data
  | 6 => old ||| data
  | 7 => old ^^^ data
  | 8 => data
  | 9 => atomFadd w old data
  | 10 => atomFminmax w false old data
  | _ => atomFminmax w true old data

/-- The value of `w` bytes in the registers from `n` of a fibre. -/
def regValue (R : Group) (l n w : Nat) : Nat := if w == 8 then R.vpair l n else (R.v l n).toNat % 2 ^ (8 * w)

/-- The words of `w` bytes of memory, as a load writes them: a 2-byte load zero-extends. -/
def loadWords (w : Nat) (bs : List Byte) : List Word := bytesWords (max 1 (w / 4)) (sliceBytes bs 0 (max 4 w))

/-- The bytes that a store of `w` bytes takes from the registers from `n`. -/
def storeData (R : Group) (l n w : Nat) : List Byte :=
  (wordsBytes ((List.range (max 1 (w / 4))).map fun i => R.v l (n + i))).take w

end Sys2Proof.Machine
end

