-- ==== Sys2Proof/Machine/Service.lean ====
section
/-!
DEFINITION. Accesses of units that act for a context and wait for the service of a missing translation (R149, R211,
R245, R455), and the service of faults (R245, R286, R447): the steps PAGE_SERVICE and ENGINE_LINE_SERVICE.

While an entry of a unit in `State.faults` is not settled, the unit's step is not due. When the page has been mapped or
the fill has ended, the entry goes away and the unit tries again. When the fault is declared unresolvable, the entry
stays, marked, until the unit has done its step.
-/

namespace Sys2Proof.Machine

/-! ## Accesses -/

/-- How an access of a unit ends: the physical parts; a failure with the parts before it, its code, its address and a
generator's cause; or a wait for the service of a fault or for a far target, with the parts before it. -/
inductive Served where
  | ok (ps : List (Nat × Nat))
  | fail (ps : List (Nat × Nat)) (code va cause : Nat)
  | wait (ps : List (Nat × Nat))

/-- What stops the translation of a range: a fault, a procedural block, a line of a target that does not answer. -/
inductive Stop where
  | fault (code va : Nat)
  | block (block fs va : Nat)
  | far (va line : Nat)

/-- What a unit accesses of a line: its address and length, the access, and whether the unit has translated the line for
the operation before. -/
structure Want where
  va  : Nat
  n   : Nat
  acc : Access
  old : Bool := false

/-- A range of addresses cut at the borders of lines: address and length of each part. -/
def lineCuts (va : Nat) : Nat → Nat → List (Nat × Nat)
  | 0, _ => []
  | _, 0 => []
  | n, fuel + 1 =>
    let k := min n (128 - va % 128)
    (va, k) :: lineCuts (va + k) (n - k) fuel

/-- The parts of a range, line by line (R275). -/
def wants (acc : Access) (va n : Nat) : List Want :=
  (lineCuts va n (n / 128 + 2)).map fun p => { va := p.1, n := p.2, acc := acc }

/-- A translation by a die's engines, or by a fresh walk for a unit without a TLB. A line that the unit has translated
before is not counted again (R287). What Agate logs of a walk is logged (R281, R399). -/
def State.unitXlate (s : State) (d : Option Nat) (x : Nat) (w : Want) : State × Xlate :=
  match d with
  | some d =>
    match if w.old then (s.die d).tlb2.find? (·.covers x w.va) else none with
    | some e => (s, s.leafResult x e.leaf' w.va w.acc)
    | none => if w.old then (s, s.xlate x w.va w.acc) else s.xlateDie d x w.va w.acc
  | none =>
    match s.xlate x w.va w.acc with
    | .fault code => (s.noteWalk x w.va, .fault code)
    | r => (s, r)

/-- The physical address of what a unit accesses of a line, or what stops it. A block that the acting generator team
fills itself acts as FILLED (R385). -/
def State.unitOne (s : State) (d : Option Nat) (x : Nat) (gen : Option GenFill) (w : Want) : State × Except Stop Nat :=
  let r := s.unitXlate d x w
  match r.1.ownBlock x gen w.va r.2 with
  | .ok pa _ => (r.1, .ok pa)
  | .fault code =>
    match if code == fcPoison then r.1.lateAt x w.va else none with
    | some line => (r.1, .error (.far w.va line))
    | none => (r.1, .error (.fault code w.va))
  | .proc b fs => (r.1, .error (.block b fs w.va))

/-- The source of the errors that a unit reports (R252). -/
def State.unitSrc (s : State) : FaultWho → ErrSrc
  | .engine d _ => srcDie d
  | .interest d _ => srcDie d
  | .tile tid => srcDie (dieOf (s.team tid).core)
  | .posted kind src _ => { kind := kind, src := src }
  | _ => srcHdie 0

/-- The physical parts of an access up to the first line that cannot be reached, and what stops it there (R149, R277). -/
def State.unitParts (s : State) (who : FaultWho) (d : Option Nat) (x : Nat) (gen : Option GenFill) :
    List Want → State × List (Nat × Nat) × Option Stop
  | [] => (s, [], none)
  | w :: t =>
    match s.unitOne d x gen w with
    | (u, .error e) => (u, [], some e)
    | (u, .ok pa) =>
      match u.reach pa with
      | .ok =>
        let r := u.unitParts who d x gen t
        (r.1, (pa, w.n) :: r.2.1, r.2.2)
      | .now => (u.noteLine x (u.unitSrc who) pa w.n, [], some (.fault fcPoison w.va))
      | .late => (u, [], some (.far w.va (pa / 128 * 128)))

/-- A fault of a unit at an address has been declared unresolvable. -/
def State.denied (s : State) (w : FaultWho) (va : Nat) : Bool :=
  s.faults.any fun e => e.2.who = w && e.2.denied && e.2.met == va

/-- A fault of a unit at an address has been resolved since its step began. -/
def State.settledAt (s : State) (w : FaultWho) (va : Nat) : Bool :=
  s.faults.any fun e => e.2.who = w && e.2.settled && e.2.met == va

/-- The unit has done its step: its entries and its far requests go. -/
def State.clearFaults (s : State) (w : FaultWho) : State :=
  { s with faults := s.faults.filter fun e => !(e.2.who = w)
           remotes := s.remotes.filter fun e => !(e.2.who = some w) }

/-- The unit waits for an entry that is not settled or for a far target: its step is not due. -/
def State.pendingFault (s : State) (w : FaultWho) : Bool :=
  (s.faults.any fun e => e.2.who = w && !e.2.denied && !e.2.settled) || s.remotes.any fun e => e.2.who = some w && !e.2.ended

/-- A new entry for a unit: the address that is missing or the block that is filled, and the address that met it. -/
def State.addFault (s : State) (x va access : Nat) (w : FaultWho) (fill : Bool) (met : Nat) : State :=
  { s with nextTok := s.nextTok + 1
           faults := tset s.faults s.nextTok
             { ctx := x, va := va, access := access, who := w, forwarded := false, denied := false, fill := fill,
               settled := false, met := met } }

/-- Opening the far requests of a unit. -/
def State.openUnit (s : State) (x : Nat) (w : FaultWho) (lines : List Nat) : State :=
  { s with nextOp := s.nextOp + 1
           remotes := tset s.remotes s.nextOp { ctx := x, lines := lines, due := s.now + remoteLimit, core := 0, g := 64, tid := 0,
                                                store := false, who := some w, ended := false } }

/-- A far request of a unit for a line is outstanding. -/
def State.farAsked (s : State) (w : FaultWho) (line : Nat) : Bool :=
  s.remotes.any fun e => e.2.who = some w && !e.2.ended && e.2.lines.contains line

/-- The far request of a unit for a line has ended with an error (R277). -/
def State.farEnded (s : State) (w : FaultWho) (line : Nat) : Bool :=
  s.remotes.any fun e => e.2.who = some w && e.2.ended && e.2.lines.contains line

/-- The lines before the last one at which a fault has been resolved since the step began were translated before. -/
def State.oldWants (s : State) (w : FaultWho) (ws : List Want) : List Want :=
  let n := (((ws.zipIdx.filter fun e => s.settledAt w e.1.va).getLast?).map (·.2)).getD 0
  ws.mapIdx fun i e => if i < n then { e with old := true } else e

/-- What a unit does where its access stops: a missing translation and a fill become entries, unless they were declared
unresolvable, and a far target is waited for. -/
def State.stopUnit (s : State) (w : FaultWho) (x : Nat) (gen : Option GenFill) (ps : List (Nat × Nat)) : Stop → State × Served
  | .fault code a =>
    if code == fcPage && !s.denied w a && a < vaTop then (s.addFault x a 3 w false a, .wait ps) else (s, .fail ps code a 0)
  | .block b fs a =>
    match s.meetBlock x gen b fs a with
    | (u, some e) => (u, .fail ps e.code a e.detail)
    | (u, none) => (u.addFault x b 3 w true a, .wait ps)
  | .far a line => if s.farEnded w line then (s, .fail ps fcPoison a 0) else (s.openUnit x w [line], .wait ps)

/-- The access of a unit to the lines of an operation. -/
def State.served (s : State) (w : FaultWho) (d : Option Nat) (x : Nat) (gen : Option GenFill) (ws : List Want) :
    State × Served :=
  match s.unitParts w d x gen (s.oldWants w ws) with
  | (t, ps, none) => (t, .ok ps)
  | (t, ps, some e) => t.stopUnit w x gen ps e

/-- What a unit reads, or how its access ends otherwise. -/
inductive ServedBytes where
  | ok (bs : List Byte)
  | fail (code va cause : Nat)
  | wait

/-- The bytes that a unit reads from a range. -/
def State.servedRead (s : State) (w : FaultWho) (d : Option Nat) (x : Nat) (gen : Option GenFill) (va n : Nat) :
    State × ServedBytes :=
  match s.served w d x gen (wants .read va n) with
  | (t, .ok ps) =>
    match ps.zip (wants .read va n) |>.find? fun p => t.bad p.1.1 p.1.2 with
    | some p => (t.noteLine x (t.unitSrc w) p.1.1 p.1.2, .fail fcPoison p.2.va 0)
    | none => (t, .ok (ps.flatMap fun p => t.rd p.1 p.2))
  | (t, .fail _ c a k) => (t, .fail c a k)
  | (t, .wait _) => (t, .wait)

/-- What a unit without a TLB finds of a range at one instant: the bytes, a fault with its address, or a target that does
not answer, for which it waits (R277). -/
inductive FarRead where
  | ok (bs : List Byte)
  | fail (e : Nat × Nat)
  | wait

/-- Such a read: a fault is logged, and the end of a request to a target that does not answer is a fault (R277). -/
def State.farRead (s : State) (w : FaultWho) (src : ErrSrc) (x va n : Nat) : State × FarRead :=
  match s.vaRead x va n with
  | .ok bs => (s.clearFaults w, .ok bs)
  | .error e =>
    match if e.1 == fcPoison then s.lateAt x e.2 else none with
    | some line => if s.farEnded w line then (s.clearFaults w, .fail e) else (s.openUnit x w [line], .wait)
    | none => ((s.clearFaults w).noteFault x src e, .fail e)

/-! ## Service -/

/-- The translation of an address now ends otherwise than in a PAGE fault. -/
def State.resolved (s : State) (x va : Nat) : Bool :=
  match s.xlate x va .read with
  | .fault code => code != fcPage
  | _ => true

/-- A wait for a fill has ended. -/
def State.filledNow (s : State) (x block : Nat) : Bool :=
  match s.procLeaf x block with
  | some l => s.fillState x l != fsFilling
  | none => true

/-- The party of an entry goes on while its context is Frozen: an operation that has been started, and what the end of
one leads to (R253). -/
def FaultWho.started : FaultWho → Bool
  | .engine _ _ => true
  | .contribution _ => true
  | .interest _ _ => true
  | .tile _ => true
  | _ => false

/-- Whether an entry belongs to fibres. -/
def FaultWho.isFibres : FaultWho → Bool
  | .fibres _ _ => true
  | _ => false

/-- The step that settles an entry is due: a fill has ended, or a fault has not been forwarded; fibres also wait for it
when their fault has been settled or denied. A context that is Frozen or Lost keeps what it has, but for operations that
have been started (R253). -/
def FaultRec.due (F : FaultRec) (s : State) : Bool :=
  (F.who.started || !(s.ctx F.ctx).holdsTraps) &&
    if F.denied || F.settled then F.who.isFibres else !F.forwarded && (!F.fill || s.filledNow F.ctx F.va)

/-- A PAGE fault is forwarded to the host (R245, R441): with the token, the access, and the core of a fibre. -/
def State.forwardFault (s : State) (tok : Nat) (F : FaultRec) : State :=
  let core := match F.who with
    | .fibres c _ => c
    | _ => 0xFF
  ({ s with faults := tset s.faults tok { F with forwarded := true } }).event 6 F.ctx
    (leBytes 8 F.va ++ leBytes 8 tok ++ leBytes 4 F.access ++ leBytes 4 core)

/-- The fibres of a group that an entry holds, with their traps. -/
def Group.servedLanes (G : Group) (tok : Nat) : List (Nat × Trap) :=
  G.lanes.filterMap fun e =>
    match e.2.parked with
    | some (.service t k) => if k == tok then some (e.1, t) else none
    | _ => none

/-- Lanes by their PC, ascending. -/
def Group.byPc (G : Group) (ts : List (Nat × Trap)) : List (Nat × List (Nat × Trap)) :=
  (distinct (ts.map fun e => (G.lane e.1).pc)).map fun pc => (pc, ts.filter fun e => (G.lane e.1).pc == pc)

/-- Fibres that an entry holds replay from their reported PCs, those of one PC as one batch. -/
def Group.replay (G : Group) (tok : Nat) : Group :=
  (G.byPc (G.servedLanes tok)).foldl (fun H e => H.rejoin (e.2.map (·.1)) e.1) G

/-- An entry is settled with success: fibres replay, those of a Frozen context after its thaw (R253); a unit tries again. -/
def State.settleFault (s : State) (tok : Nat) (F : FaultRec) : State :=
  match F.who, (s.ctx F.ctx).holdsTraps with
  | .fibres c g, false => ({ s with faults := tdel s.faults tok } : State).modGroup c g fun G => G.replay tok
  | _, _ => { s with faults := tset s.faults tok { F with settled := true } }

/-- An entry is declared unresolvable: the traps of fibres are disposed of again from rule 4 of R244, those of a Frozen
context after its thaw. -/
def State.denyFault (s : State) (tok : Nat) (F : FaultRec) : State :=
  match F.who, (s.ctx F.ctx).holdsTraps with
  | .fibres c g, false =>
    let s1 : State := { s with faults := tdel s.faults tok }
    match s1.group? c g with
    | none => s1
    | some G =>
      (G.byPc (G.servedLanes tok)).foldl (fun u e =>
        (u.modGroup c g fun H => e.2.foldl (fun H f => H.modLane f.1 fun L => { L with parked := some (.trap f.2 4) }) H).disposeAll
          c g e.1 4 e.2) s1
  | _, _ => { s with faults := tset s.faults tok { F with denied := true } }

/-- Agate services an entry (R245, R286): it succeeds when the page tables now resolve the address; else Agate forwards
the fault to the host, or declares it unresolvable, as the context's fault policy says. -/
def State.serviceFault (s : State) (tok : Nat) (F : FaultRec) : State :=
  if !F.due s then s
  else if F.denied then s.denyFault tok F
  else if F.settled || F.fill || s.resolved F.ctx F.va then s.settleFault tok F
  else if bit ((s.ctx F.ctx).word 0x050) 1 then s.forwardFault tok F
  else s.denyFault tok F

/-- PAGE_SERVICE: the service of a fault of fibres. -/
def execPageService (token : Nat) (s : State) : Out :=
  .next (match tget? s.faults token with
    | some F => if F.who.isFibres then s.serviceFault token F else s
    | none => s)

/-- ENGINE_LINE_SERVICE: the service of a fault of an engine or of another unit. -/
def execEngineLineService (token : Nat) (s : State) : Out :=
  .next (match tget? s.faults token with
    | some F => if F.who.isFibres then s else s.serviceFault token F
    | none => s)

end Sys2Proof.Machine
end

