-- ==== Sys2Proof/Machine/Block.lean ====
section
/-!
DEFINITION. Launch blocks and render states as the sequencers read and check them (R209-R211, 06_execution.md; R228,
07_scheduling.md; R327-R329, 14_rendering.md).
-/

namespace Sys2Proof.Machine

/-! ## Launch blocks -/

/-- The first offset of a list that is marked. -/
def firstBad (l : List (Nat × Bool)) : Option Nat := minBy id ((l.filter (·.2)).map (·.1))

/-- The break of a field, or of a gap between fields, whose bytes are not all zero. A gap counts as one field: the spec
gives its bytes no field of their own (DESIGN CHOICE, log entry 82). -/
def zeroField (bs : List Byte) (o n : Nat) : Nat × Bool := (o, (sliceBytes bs o n).any (· != 0))

/-- The role descriptor at an offset of a launch block (R210). -/
def roleAt (bs : List Byte) (o : Nat) : RoleDesc :=
  let w := byteField bs (o + 4) 4
  { pcoff := byteField bs o 4, groups := bits w 0 6, fibres := bits w 8 5 + 1, budget := 8 * (bits w 16 4 + 1) }

/-- The breaks of the role descriptors, of which `n` are used (R210). -/
def roleChecks (bs : List Byte) (n : Nat) : List (Nat × Bool) :=
  (List.range 4).flatMap fun r =>
    let o := 128 + 16 * r
    let w := byteField bs (o + 4) 4
    let total := ((List.range (r + 1)).map fun k => (roleAt bs (128 + 16 * k)).groups).sum
    if n ≤ r then [zeroField bs o 4, zeroField bs (o + 4) 4, zeroField bs (o + 8) 8]
    else
      [(o, byteField bs o 4 % 4 != 0),
       (o + 4, bits w 0 6 == 0 || 32 < bits w 0 6 || bits w 6 2 != 0 || bits w 13 3 != 0 || bits w 20 12 != 0 || 32 < total),
       zeroField bs (o + 8) 8]

/-- The breaks of R209 and R210 that the block alone shows: each field's offset, and whether it breaks a rule. -/
def blockChecks (tsForce : Nat) (bs : List Byte) : List (Nat × Bool) :=
  let w (o : Nat) : Nat := byteField bs o 4
  let d (o : Nat) : Nat := byteField bs o 8
  let sized (o unit top : Nat) : Nat × Bool := (o, w o % unit != 0 || top < w o)
  [(0, bits (w 0) 0 8 != 1 || bits (w 0) 12 20 != 0), (4, w 4 == 0 || 2 ^ 32 ≤ w 4 * w 8 * w 12), (8, w 8 == 0),
   (12, w 12 == 0), (16, d 16 % 4 != 0 || vaTop ≤ d 16), (24, d 24 % 32 != 0), (32, bits (w 32) 16 16 != 0),
   (36, decide (16 ≤ w 36)), (40, d 40 % 4 != 0), sized 48 256 3276800, sized 52 256 (8 * 2 ^ 20),
   sized 56 256 ((40 - tsForce) * 2 ^ 20), sized 60 16 4096,
   (64, 32 < bits (w 64) 0 6 || bits (w 64) 6 2 != 0 || 64 < bits (w 64) 8 7 || bits (w 64) 15 17 != 0),
   zeroField bs 68 4, (72, d 72 % 4096 != 0), (80, !bit (w 0) 11 && d 80 != 0)] ++
  (List.range 4).map (fun i => (88 + 4 * i, decide (2 ^ 20 ≤ w (88 + 4 * i)))) ++
  [(104, d 104 % 4 != 0), (112, decide (2 ≤ w 112)), (116, decide (2 ^ 20 ≤ w 116)), zeroField bs 120 8] ++
  roleChecks bs (bits (w 0) 8 2 + 1) ++ [zeroField bs 192 64]

/-- The launch block that bytes hold, with the tables that were read. -/
def parseBlock (bs : List Byte) (recs : List (BitVec 256)) (stab : List Word) : Block :=
  let w (o : Nat) : Nat := byteField bs o 4
  let n := bits (w 0) 8 2 + 1
  { nroles := n, persist := bit (w 0) 10, tile := bit (w 0) 11, gx := w 4, gy := w 8, gz := w 12,
    cbase := byteField bs 16 8, rmask := w 32, fpmode := word (w 36), ubytes := w 48, cbytes := w 52, dbytes := w 56,
    lbytes := w 60, macros := bits (w 64) 0 6, acc := bits (w 64) 8 7, save := byteField bs 72 8,
    rstate := byteField bs 80 8, preds := (List.range 4).map fun i => w (88 + 4 * i),
    cond := byteField bs 104 8, csense := bit (w 112) 0, done := w 116,
    roles := (List.range n).map fun r => roleAt bs (128 + 16 * r), recs := recs, stab := stab }

/-- The number of teams of a grid. -/
def Block.teams (b : Block) : Nat := b.gx * b.gy * b.gz

/-- How the reading of a launch block ends: the block; a break with its offset, its offset within the render state and
the fault code of a read; or a wait. -/
inductive BlockRead where
  | ok (b : Block)
  | bad (off rs fcode : Nat)
  | wait

/-- The records of the record table that the mask names, in the order of the slots; the others are zero (R209). -/
def State.readRecords (s : State) (w : FaultWho) (x rtab rmask : Nat) :
    List Nat → List (BitVec 256) → State × Option (Option (List (BitVec 256)))
  | [], acc => (s, some (some acc))
  | j :: js, acc =>
    if bit rmask j then
      match s.servedRead w none x none (rtab + 32 * j) 32 with
      | (t, .wait) => (t, none)
      | (t, .fail _ _ _) => (t, some none)
      | (t, .ok bs) =>
        let r := BitVec.ofNat 256 (leNat bs)
        if recValid r then t.readRecords w x rtab rmask js (acc ++ [r]) else (t, some none)
    else s.readRecords w x rtab rmask js (acc ++ [0])

/-- The predecessors of a block name counters (R228): the offset of the first that does not. -/
def State.checkPreds (s : State) (w : FaultWho) (x : Nat) : List (Nat × Nat) → State × Option (Option Nat)
  | [] => (s, some none)
  | (o, k) :: t =>
    if k == 0 then s.checkPreds w x t
    else if (s.ctx x).objCount ≤ k then (s, some (some o))
    else
      match s.servedRead w none x none ((s.ctx x).objVa k) 64 with
      | (u, .wait) => (u, none)
      | (u, .fail _ _ _) => (u, some (some o))
      | (u, .ok bs) =>
        match parseObj bs with
        | some ob => if ob.kind == kCounter then u.checkPreds w x t else (u, some (some o))
        | none => (u, some (some o))

/-- Checking a block's bytes and reading its tables; the first offending field decides (R211). -/
def State.checkBlock (s : State) (w : FaultWho) (x : Nat) (bs : List Byte) : State × BlockRead :=
  let pure_ := firstBad (blockChecks s.tsForce bs)
  let upTo (o : Nat) : Bool := (pure_.map fun p => decide (o < p)).getD true
  let fail (u : State) (o : Nat) : State × BlockRead := (u, .bad o 0 0)
  let r := if upTo 24 then s.readRecords w x (byteField bs 24 8) (byteField bs 32 4) (List.range 16) []
    else (s, some (some []))
  match r with
  | (t, none) => (t, .wait)
  | (t, some none) => fail t 24
  | (t, some (some recs)) =>
    let q := if upTo 40 then t.servedRead w none x none (byteField bs 40 8) 252 else (t, .ok [])
    match q with
    | (u, .wait) => (u, .wait)
    | (u, .fail _ _ _) => fail u 40
    | (u, .ok st) =>
      let p := u.checkPreds w x (((List.range 4).map fun i => (88 + 4 * i, byteField bs (88 + 4 * i) 4)).filter fun e => upTo e.1)
      match p with
      | (v, none) => (v, .wait)
      | (v, some (some o)) => fail v o
      | (v, some none) =>
        match pure_ with
        | some o => fail v o
        | none => (v, .ok (parseBlock bs recs (bytesWords 63 st)))

/-! ## Render states -/

/-- A plane format of R175 or 0. -/
def planeFmtOk (f : Nat) : Bool := f ≤ 8

/-- The plane at an offset of a render state (R328). -/
def planeAt (bs : List Byte) (o : Nat) : Plane :=
  let w := byteField bs o 4
  let fmt := bits w 0 4
  { fmt := fmt, blend := bits w 4 3, cmp := bits w 7 3, dwrite := bit w 10, offset := byteField bs (o + 4) 4,
    clear := sliceBytes bs (o + 16) (planeSize fmt) }

/-- The render state that bytes hold (R327). -/
def parseRender (bs : List Byte) : RenderState :=
  let w (o : Nat) : Nat := byteField bs o 4
  let nb := bits (w 0) 16 16
  let ls := bits (w 32) 0 16
  { hsr := bit (w 0) 8, sdepth := bit (w 0) 9, frole := bits (w 0) 10 2, gqueue := bits (w 0) 12 4,
    nbatch := if nb == 0 then 1 else nb, width := bits (w 4) 0 16, height := bits (w 4) 16 16, fbase := byteField bs 8 8,
    fpitch := w 16, binmask := w 20, high := w 24, low := w 28, lsize := if ls == 0 then 2 ^ 24 else 65536 * ls,
    pspan := bits (w 36) 0 5, spill := byteField bs 40 8, planes := (List.range 8).map fun p => planeAt bs (64 + 32 * p) }

/-- The range of a plane in the unit allocation. -/
def Plane.span (p : Plane) : Nat × Nat := (p.offset, p.offset + 1024 * planeSize p.fmt)

/-- Two described planes overlap. -/
def Plane.meets (p q : Plane) : Bool := p.span.1 < q.span.2 && q.span.1 < p.span.2

/-- The breaks of a plane descriptor, the `k`-th of a render state (R328, R329). -/
def planeChecks (bs : List Byte) (rs : RenderState) (ubytes k : Nat) : List (Nat × Bool) :=
  let o := 64 + 32 * k
  let w := byteField bs o 4
  let p := planeAt bs o
  let lower := (rs.planes.take k).filter fun q => q.fmt != 0
  let depthTwice := p.fmt == 5 && lower.any fun q => q.fmt == 5
  let hsrBlend := rs.hsr && p.blend != 0
  [(o, !planeFmtOk p.fmt || 4 < p.blend || bits w 11 21 != 0 || depthTwice || (p.fmt != 5 && (p.cmp != 0 || p.dwrite)) ||
      (p.blend != 0 && !(1 ≤ p.fmt && p.fmt ≤ 3)) || hsrBlend),
   (o + 4, p.offset % 16 != 0 ||
      (p.fmt != 0 && (ubytes < p.span.2 || lower.any fun q => p.meets q))),
   zeroField bs (o + 8) 8, (o + 16, (zeroField bs (o + 16 + planeSize p.fmt) (16 - planeSize p.fmt)).2)]

/-- The breaks of a render state for a launch of a context (R327-R329). -/
def renderChecks (bs : List Byte) (b : Block) (gqmask : Nat) : List (Nat × Bool) :=
  let w (o : Nat) : Nat := byteField bs o 4
  let rs := parseRender bs
  let size (n : Nat) : Bool := n % 32 != 0 || n < 32 || 16384 < n
  let hsrBad := rs.hsr && (rs.sdepth || !(rs.depth.map (·.dwrite)).getD false)
  [(0, bits (w 0) 0 8 != 1 || b.nroles ≤ rs.frole || !bit gqmask rs.gqueue || hsrBad),
   (4, size rs.width || size rs.height || rs.ntiles != b.teams),
   (8, rs.fbase % 256 != 0 || vaTop ≤ rs.fbase), (16, rs.fpitch % 256 != 0), (20, rs.binmask == 0 || 256 ≤ rs.binmask),
   (24, rs.high == 0 || rs.high % 16 != 0), (28, rs.low % 16 != 0 || rs.high ≤ rs.low), (32, bits (w 32) 16 16 != 0),
   (36, bits (w 36) 5 27 != 0 || (rs.pspan != 0 && rs.pspan < 8)),
   (40, rs.spill % 4096 != 0 || vaTop ≤ rs.spill), zeroField bs 48 16] ++
  (List.range 8).flatMap (planeChecks bs rs b.ubytes)

end Sys2Proof.Machine
end

