-- ==== Sys2Proof/Machine/Barrier.lean ====
section
/-!
DEFINITION. The team barriers (R76-R80, 02_control_arith.md). The release of waiting groups in waves (R427) is the step
BARRIER_WAVE_RELEASE.
-/

namespace Sys2Proof.Machine

/-- A team's barrier. -/
def Team.bar (T : Team) (k : Nat) : Bar := tget T.bars k Bar.start

/-- The batch waits for its group's other fibres at barrier `k` and this address. -/
def Batch.gathers (B : Batch) (k pc : Nat) : Bool :=
  match B.wait with
  | some (.gather j a) => j == k && a == pc
  | _ => false

/-- The lanes of the group that have executed the instruction, the issuing batch's among them. -/
def Group.gathered (G : Group) (bi k pc : Nat) : BitVec 32 :=
  G.batches.zipIdx.foldl (fun m (B, i) => if i == bi || B.gathers k pc then m ||| B.lanes else m) 0

/-- A batch goes on behind the instruction at which it waited. -/
def Group.proceed (G : Group) (bi : Nat) : Group :=
  match G.batches[bi]? with
  | none => G
  | some B =>
    let pc := G.batchPc B
    let H := (lanesOf B.lanes).foldl (fun H l => H.modLane l fun L => { L with pc := pc + 4 }) G
    { H with batches := H.batches.modify bi fun _ => Batch.fresh B.lanes }

/-- Changing the other batches that wait for the group at barrier `k` and this address. -/
def Group.gatherDone (G : Group) (bi k pc : Nat) (f : Group → Nat → Group) : Group :=
  (List.range G.batches.length).foldl (fun H i =>
    if i != bi && ((H.batches[i]?).map (·.gathers k pc)).getD false then f H i else H) G

/-- The arrival of a group at barrier `k` (R77): the state, and the phase that the arrival belongs to. -/
def State.arriveBar (s : State) (I : Issue) (k cnt : Nat) : State × Nat :=
  let r := (I.T.bar k).arrive I.g cnt ((s.teamGroups I.tid).map (·.1))
  (s.modTeam I.tid fun T => { T with bars := tset T.bars k r.1 }, r.2)

/-- The release that an arrival makes (R79, R121): the group's stores to the core's tile memory are performed, and its
write-combining buffer drains. The other groups see those stores from then on (R314, log entry 8). -/
def State.releaseTile (s : State) (core g : Nat) : State :=
  (s.performHeld core g fun h => h.nt || h.scr = some (.unit core)).reveal fun e =>
    e.scr = some (.unit core) && e.by_.core == core && e.by_.g == g

/-- BAR and BARV up to the arrival of the group (R77): `arrived` says what follows, given the phase. The arrival is that
of the last fibre to execute the instruction, whose s[N] gives the count. Where the end of the last other fibre completes
it instead, the spec does not say which s[N] fixes the count: the model takes the one that a waiting batch read at its
issue (DESIGN CHOICE, log entry 68). -/
def barRun (k : BitVec 3) (n : BitVec 7) (arrived : State → Nat → Result) (I : Issue) (s : State) : Result :=
  let cnt := (I.R.s n.toNat).toNat
  let live := maskOf I.G.live
  if 32 < cnt then .go s (trapAll I (mkTrap fcOob 0 cnt))
  else if live &&& ~~~(I.G.gathered I.bi k.toNat I.pc) != 0 then .wait s (.gather k.toNat I.pc)
  else
    let r := (s.releaseTile I.core I.g).arriveBar I k.toNat cnt
    arrived r.1 r.2

/-- BAR: the group waits for the phase in which it arrived. -/
def execBar (k : BitVec 3) (n : BitVec 7) (z : BitVec 1) (c : BitVec 3) : State → Out :=
  issue { ins := .bar k n z c, c := c, ops := [os n], pred := false } fun I =>
    barRun k n (fun t ph =>
      let w := Wait.phase k.toNat ph none
      .wait (t.modGroup I.core I.g fun G => G.gatherDone I.bi k.toNat I.pc fun H i =>
        { H with batches := H.batches.modify i fun B => { B with wait := some w } }) w) I

/-- BARV: the group records the phase and goes on. -/
def execBarv (k : BitVec 3) (n : BitVec 7) (z : BitVec 1) (c : BitVec 3) : State → Out :=
  issue { ins := .barv k n z c, c := c, ops := [os n], pred := false } fun I =>
    barRun k n (fun t ph =>
      .go (t.modGroup I.core I.g fun G =>
        let H := G.gatherDone I.bi k.toNat I.pc Group.proceed
        { H with barv := tset H.barv k.toNat (ph, 0) }) []) I

/-- BARW: the group waits for the phase of its last BARV, or for the current one. A record that a BARW has served for
every live fibre stands no more (log entry 23). -/
def execBarw (k : BitVec 3) (z : BitVec 1) (c : BitVec 3) : State → Out :=
  issue { ins := .barw k z c, c := c, pred := false } fun I s =>
    let b := I.T.bar k.toNat
    let rec_ := tget? I.G.barv k.toNat
    let ph := (rec_.map (·.1)).getD b.phase
    let t := s.modGroup I.core I.g fun G =>
      match rec_ with
      | some (p, m) =>
        let m1 := m ||| I.B.lanes
        { G with barv := if maskOf G.live &&& ~~~m1 == 0 then tdel G.barv k.toNat else tset G.barv k.toNat (p, m1) }
      | none => G
    if ph < b.phase then .go t [] else .wait t (.phase k.toNat ph none)

end Sys2Proof.Machine
end

