-- ==== Sys2Proof/Decode.lean ====
section
/-!
DEFINITION. The decoder of the 32-bit instruction word (R12, R13, R32-R42, 01_word.md) and, after it, the encoder.

`decodeWord` is total on any number read as a word and rejects by name. It accepts exactly the words that some row of
spec/opcode_table.json matches, reserved values of a row's fields included: those are refused when the instruction is
checked (R43 step 2), by `Instr.wellFormed`. The decoder works major by major, since the major alone selects the
format (R13).
-/

namespace Sys2Proof

/-- Why a word is no instruction. -/
inductive Reject where
  /-- The major is one that R32 marks reserved. -/
  | reservedMajor
  /-- The major is assigned, and its minor, op, selector or a must-be-zero field is not. -/
  | reservedEncoding
  /-- A hint word of kind 7, or one with a nonzero unassigned payload bit (R22). -/
  | reservedHint
deriving DecidableEq, Repr

/-- What a word or a list of bytes decodes to. -/
inductive Decoded where
  /-- An instruction. -/
  | instr (i : Instr)
  /-- No instruction, by name. -/
  | reject (r : Reject)
deriving DecidableEq, Repr

/-- The field of `n` bits of the word `w` whose lowest bit is `lo`. -/
def fld (w lo n : Nat) : BitVec n := BitVec.ofNat n (w / 2 ^ lo)

/-- The bits `lo` to `lo + n - 1` of the word `w` hold `v`. -/
def has (w lo n v : Nat) : Bool := w / 2 ^ lo % 2 ^ n == v

/-- The rows of major 0x00. -/
def decodeMajor00 (w : Nat) : Decoded :=
  if has w 21 5 0 then .instr (.ill (fld w 0 21))
  else
  if has w 3 23 262144 then .instr (.nop (fld w 0 3))
  else
  if has w 18 8 16 && has w 3 1 0 then .instr (.trap (fld w 4 14) (fld w 0 3))
  else
  if has w 3 23 786432 then .instr (.eret (fld w 0 3))
  else
  if has w 18 8 32 then .instr (.mfs (fld w 11 7) (fld w 4 7) (fld w 3 1) (fld w 0 3))
  else
  if has w 18 8 33 then .instr (.mfsV (fld w 11 7) (fld w 4 7) (fld w 3 1) (fld w 0 3))
  else
  if has w 18 8 34 && has w 8 3 0 && has w 3 1 0 then .instr (.mfsB (fld w 11 7) (fld w 4 4) (fld w 0 3))
  else
  if has w 18 8 40 then .instr (.mts (fld w 11 7) (fld w 4 7) (fld w 3 1) (fld w 0 3))
  else
  if has w 18 8 41 then .instr (.mtsV (fld w 11 7) (fld w 4 7) (fld w 3 1) (fld w 0 3))
  else
  if has w 18 8 42 && has w 8 3 0 && has w 3 1 0 then .instr (.mtsB (fld w 11 7) (fld w 4 4) (fld w 0 3))
  else
  if has w 18 8 48 then .instr (.feat (fld w 11 7) (fld w 4 7) (fld w 3 1) (fld w 0 3))
  else
  if has w 18 8 56 && has w 3 8 0 then .instr (.clk (fld w 11 7) (fld w 0 3))
  else
  if has w 21 5 8 && has w 3 15 0 then .instr (.fence (fld w 18 3) (fld w 0 3))
  else
  if has w 21 5 8 && has w 3 15 256 then .instr (.fenceAx (fld w 18 3) (fld w 0 3))
  else
  if has w 18 8 72 && has w 3 8 0 then .instr (.sleep (fld w 11 7) (fld w 0 3))
  else
  if has w 18 8 73 && has w 3 8 0 then .instr (.sleepLv (fld w 11 7) (fld w 0 3))
  else
  if has w 18 8 80 && has w 3 1 0 then .instr (.bkpt (fld w 4 14) (fld w 0 3))
  else
  if has w 18 8 88 && has w 3 1 0 then .instr (.mark (fld w 11 7) (fld w 4 7) (fld w 0 3))
  else
  if has w 20 6 24 && has w 3 1 0 then .instr (.rege (fld w 4 16) (fld w 0 3))
  else
  if has w 3 23 3407872 then .instr (.regl (fld w 0 3))
  else
  if has w 18 8 112 && has w 3 1 0 then .instr (.csw (fld w 11 7) (fld w 4 7) (fld w 0 3))
  else .reject .reservedEncoding

/-- The rows of major 0x01. -/
def decodeMajor01 (w : Nat) : Decoded :=
  if has w 17 9 0 then .instr (.bra (fld w 3 14) (fld w 0 3))
  else
  if has w 22 4 1 then .instr (.brp (fld w 17 5) (fld w 3 14) (fld w 0 3))
  else
  if has w 22 4 2 then .instr (.brn (fld w 17 5) (fld w 3 14) (fld w 0 3))
  else
  if has w 22 4 3 then .instr (.brpAny (fld w 17 5) (fld w 3 14) (fld w 0 3))
  else
  if has w 22 4 4 then .instr (.brpAll (fld w 17 5) (fld w 3 14) (fld w 0 3))
  else .reject .reservedEncoding

/-- The rows of major 0x02. -/
def decodeMajor02 (w : Nat) : Decoded :=
  if has w 22 4 0 then .instr (.call (fld w 17 5) (fld w 3 14) (fld w 0 3))
  else
  if has w 22 4 1 && has w 3 9 0 then .instr (.calli (fld w 17 5) (fld w 12 5) (fld w 0 3))
  else
  if has w 22 4 2 && has w 3 14 0 then .instr (.ret (fld w 17 5) (fld w 0 3))
  else
  if has w 17 9 96 && has w 3 9 0 then .instr (.jmpi (fld w 12 5) (fld w 0 3))
  else
  if has w 17 9 128 then .instr (.brx (fld w 10 7) (fld w 3 7) (fld w 0 3))
  else .reject .reservedEncoding

/-- The rows of major 0x03. -/
def decodeMajor03 (w : Nat) : Decoded :=
  if has w 18 8 0 && has w 3 1 0 then .instr (.fork (fld w 11 7) (fld w 4 7) (fld w 0 3))
  else
  if has w 3 23 262144 then .instr (.fend (fld w 0 3))
  else
  if has w 3 23 524288 then .instr (.rcv (fld w 0 3))
  else
  if has w 18 8 24 && has w 3 1 0 then .instr (.spawn (fld w 11 7) (fld w 4 7) (fld w 0 3))
  else
  if has w 21 5 3 && has w 3 1 1 then .instr (.spawnT (fld w 18 3) (fld w 11 7) (fld w 4 7) (fld w 0 3))
  else
  if has w 3 23 1048576 then .instr (.yield (fld w 0 3))
  else .reject .reservedEncoding

/-- The rows of major 0x04. -/
def decodeMajor04 (w : Nat) : Decoded :=
  if has w 24 2 0 then .instr (.shfl (fld w 17 7) (fld w 10 7) (fld w 3 7) (fld w 0 3))
  else
  if has w 22 4 4 && has w 3 14 0 then .instr (.elect (fld w 17 5) (fld w 0 3))
  else
  if has w 22 4 8 && has w 15 2 0 && has w 3 7 0 then .instr (.voteAny (fld w 17 5) (fld w 10 5) (fld w 0 3))
  else
  if has w 22 4 8 && has w 15 2 0 && has w 3 7 1 then .instr (.voteAll (fld w 17 5) (fld w 10 5) (fld w 0 3))
  else
  if has w 24 2 2 && has w 15 2 0 && has w 3 7 2 then .instr (.voteBallot (fld w 17 7) (fld w 10 5) (fld w 0 3))
  else
  if has w 24 2 3 && has w 8 2 0 then .instr (.shflX (fld w 17 7) (fld w 10 7) (fld w 3 5) (fld w 0 3))
  else .reject .reservedEncoding

/-- The rows of major 0x05. -/
def decodeMajor05 (w : Nat) : Decoded :=
  if has w 21 5 0 && has w 10 1 0 && has w 3 1 0 then .instr (.qpop (fld w 18 3) (fld w 11 7) (fld w 4 6) (fld w 0 3))
  else
  if has w 21 5 0 && has w 10 1 0 && has w 3 1 1 then .instr (.qpopT (fld w 18 3) (fld w 11 7) (fld w 4 6) (fld w 0 3))
  else
  if has w 18 8 8 && has w 10 1 0 && has w 3 1 0 then .instr (.qpush (fld w 11 7) (fld w 4 6) (fld w 0 3))
  else
  if has w 17 9 32 && has w 10 1 0 && has w 3 1 0 then .instr (.qstatDepth (fld w 11 6) (fld w 4 6) (fld w 0 3))
  else
  if has w 17 9 34 && has w 10 1 0 && has w 3 1 0 then .instr (.qstatFree (fld w 11 6) (fld w 4 6) (fld w 0 3))
  else
  if has w 17 9 36 && has w 10 1 0 && has w 3 1 0 then .instr (.qstatFlags (fld w 11 6) (fld w 4 6) (fld w 0 3))
  else .reject .reservedEncoding

/-- The rows of major 0x06. -/
def decodeMajor06 (w : Nat) : Decoded :=
  if has w 21 5 0 && has w 4 7 0 then .instr (.bar (fld w 18 3) (fld w 11 7) (fld w 3 1) (fld w 0 3))
  else
  if has w 21 5 1 && has w 4 7 0 then .instr (.barv (fld w 18 3) (fld w 11 7) (fld w 3 1) (fld w 0 3))
  else
  if has w 21 5 2 && has w 4 14 0 then .instr (.barw (fld w 18 3) (fld w 3 1) (fld w 0 3))
  else .reject .reservedEncoding

/-- The rows of major 0x07. -/
def decodeMajor07 (w : Nat) : Decoded :=
  if has w 22 4 0 && has w 16 1 0 && has w 9 1 0 then .instr (.pand (fld w 17 5) (fld w 15 1) (fld w 10 5) (fld w 8 1) (fld w 3 5) (fld w 0 3))
  else
  if has w 22 4 4 && has w 16 1 0 && has w 9 1 0 then .instr (.por (fld w 17 5) (fld w 15 1) (fld w 10 5) (fld w 8 1) (fld w 3 5) (fld w 0 3))
  else
  if has w 22 4 8 && has w 16 1 0 && has w 9 1 0 then .instr (.pxor (fld w 17 5) (fld w 15 1) (fld w 10 5) (fld w 8 1) (fld w 3 5) (fld w 0 3))
  else
  if has w 22 4 12 && has w 16 1 0 && has w 3 7 0 then .instr (.pnot (fld w 17 5) (fld w 15 1) (fld w 10 5) (fld w 0 3))
  else
  if has w 22 4 12 && has w 3 7 1 then .instr (.pset (fld w 17 5) (fld w 10 7) (fld w 0 3))
  else .reject .reservedEncoding

/-- The rows of major 0x08. -/
def decodeMajor08 (w : Nat) : Decoded :=
  if has w 23 3 0 && has w 3 2 0 then .instr (.sadd (fld w 17 6) (fld w 11 6) (fld w 5 6) (fld w 0 3))
  else
  if has w 23 3 1 && has w 3 2 0 then .instr (.ssub (fld w 17 6) (fld w 11 6) (fld w 5 6) (fld w 0 3))
  else
  if has w 23 3 2 && has w 3 2 0 then .instr (.smul (fld w 17 6) (fld w 11 6) (fld w 5 6) (fld w 0 3))
  else
  if has w 23 3 3 && has w 4 1 0 then .instr (.smulh (fld w 17 6) (fld w 11 6) (fld w 5 6) (fld w 3 1) (fld w 0 3))
  else
  if has w 23 3 4 && has w 3 2 0 then .instr (.sand (fld w 17 6) (fld w 11 6) (fld w 5 6) (fld w 0 3))
  else
  if has w 23 3 5 && has w 3 2 0 then .instr (.sor (fld w 17 6) (fld w 11 6) (fld w 5 6) (fld w 0 3))
  else
  if has w 23 3 6 && has w 3 2 0 then .instr (.sxor (fld w 17 6) (fld w 11 6) (fld w 5 6) (fld w 0 3))
  else
  if has w 23 3 7 && has w 3 2 0 then .instr (.sshl (fld w 17 6) (fld w 11 6) (fld w 5 6) (fld w 0 3))
  else .reject .reservedEncoding

/-- The rows of major 0x09. -/
def decodeMajor09 (w : Nat) : Decoded :=
  if has w 23 3 0 && has w 3 2 0 then .instr (.sshr (fld w 17 6) (fld w 11 6) (fld w 5 6) (fld w 0 3))
  else
  if has w 23 3 1 && has w 3 2 0 then .instr (.ssra (fld w 17 6) (fld w 11 6) (fld w 5 6) (fld w 0 3))
  else
  if has w 23 3 2 && has w 4 1 0 then .instr (.smin (fld w 17 6) (fld w 11 6) (fld w 5 6) (fld w 3 1) (fld w 0 3))
  else
  if has w 23 3 3 && has w 4 1 0 then .instr (.smax (fld w 17 6) (fld w 11 6) (fld w 5 6) (fld w 3 1) (fld w 0 3))
  else
  if has w 23 3 4 then .instr (.scmp (fld w 17 6) (fld w 11 6) (fld w 5 6) (fld w 3 2) (fld w 0 3))
  else
  if has w 23 3 5 && has w 3 2 0 then .instr (.ssel (fld w 17 6) (fld w 11 6) (fld w 5 6) (fld w 0 3))
  else
  if has w 23 3 6 && has w 3 8 0 then .instr (.smov (fld w 17 6) (fld w 11 6) (fld w 0 3))
  else
  if has w 23 3 7 then .instr (.slea (fld w 17 6) (fld w 11 6) (fld w 5 6) (fld w 3 2) (fld w 0 3))
  else .reject .reservedEncoding

/-- The rows of major 0x0C. -/
def decodeMajor0C (w : Nat) : Decoded :=
  .instr (.saddi (fld w 20 6) (fld w 14 6) (fld w 3 11) (fld w 0 3))

/-- The rows of major 0x0D. -/
def decodeMajor0D (w : Nat) : Decoded :=
  .instr (.sxori (fld w 20 6) (fld w 14 6) (fld w 3 11) (fld w 0 3))

/-- The rows of major 0x0E. -/
def decodeMajor0E (w : Nat) : Decoded :=
  if has w 24 2 0 then .instr (.vadd (fld w 17 7) (fld w 10 7) (fld w 3 7) (fld w 0 3))
  else
  if has w 24 2 1 then .instr (.vsub (fld w 17 7) (fld w 10 7) (fld w 3 7) (fld w 0 3))
  else
  if has w 24 2 2 then .instr (.vmul (fld w 17 7) (fld w 10 7) (fld w 3 7) (fld w 0 3))
  else
  if has w 24 2 3 then .instr (.vmad (fld w 17 7) (fld w 10 7) (fld w 3 7) (fld w 0 3))
  else .reject .reservedEncoding

/-- The rows of major 0x0F. -/
def decodeMajor0F (w : Nat) : Decoded :=
  if has w 24 2 0 then .instr (.vmulhS (fld w 17 7) (fld w 10 7) (fld w 3 7) (fld w 0 3))
  else
  if has w 24 2 1 then .instr (.vmulhU (fld w 17 7) (fld w 10 7) (fld w 3 7) (fld w 0 3))
  else
  if has w 24 2 2 then .instr (.vaddc (fld w 17 7) (fld w 10 7) (fld w 3 7) (fld w 0 3))
  else
  if has w 24 2 3 && has w 3 7 0 then .instr (.vabs (fld w 17 7) (fld w 10 7) (fld w 0 3))
  else
  if has w 24 2 3 && has w 3 7 1 then .instr (.vclz (fld w 17 7) (fld w 10 7) (fld w 0 3))
  else
  if has w 24 2 3 && has w 3 7 2 then .instr (.vpopc (fld w 17 7) (fld w 10 7) (fld w 0 3))
  else
  if has w 24 2 3 && has w 3 7 3 then .instr (.vbrev (fld w 17 7) (fld w 10 7) (fld w 0 3))
  else
  if has w 24 2 3 && has w 3 7 4 then .instr (.vmov (fld w 17 7) (fld w 10 7) (fld w 0 3))
  else
  if has w 24 2 3 && has w 16 1 0 && has w 3 7 5 then .instr (.vmovs (fld w 17 7) (fld w 10 6) (fld w 0 3))
  else .reject .reservedEncoding

/-- The rows of major 0x10. -/
def decodeMajor10 (w : Nat) : Decoded :=
  if has w 24 2 0 then .instr (.vand (fld w 17 7) (fld w 10 7) (fld w 3 7) (fld w 0 3))
  else
  if has w 24 2 1 then .instr (.vor (fld w 17 7) (fld w 10 7) (fld w 3 7) (fld w 0 3))
  else
  if has w 24 2 2 then .instr (.vxor (fld w 17 7) (fld w 10 7) (fld w 3 7) (fld w 0 3))
  else
  if has w 24 2 3 then .instr (.vbfe (fld w 17 7) (fld w 10 7) (fld w 3 7) (fld w 0 3))
  else .reject .reservedEncoding

/-- The rows of major 0x11. -/
def decodeMajor11 (w : Nat) : Decoded :=
  if has w 24 2 0 then .instr (.vshl (fld w 17 7) (fld w 10 7) (fld w 3 7) (fld w 0 3))
  else
  if has w 24 2 1 then .instr (.vshr (fld w 17 7) (fld w 10 7) (fld w 3 7) (fld w 0 3))
  else
  if has w 24 2 2 then .instr (.vsra (fld w 17 7) (fld w 10 7) (fld w 3 7) (fld w 0 3))
  else
  if has w 24 2 3 then .instr (.vbfi (fld w 17 7) (fld w 10 7) (fld w 3 7) (fld w 0 3))
  else .reject .reservedEncoding

/-- The rows of major 0x12. -/
def decodeMajor12 (w : Nat) : Decoded :=
  if has w 24 2 0 then .instr (.vminS (fld w 17 7) (fld w 10 7) (fld w 3 7) (fld w 0 3))
  else
  if has w 24 2 1 then .instr (.vminU (fld w 17 7) (fld w 10 7) (fld w 3 7) (fld w 0 3))
  else
  if has w 24 2 2 then .instr (.vmaxS (fld w 17 7) (fld w 10 7) (fld w 3 7) (fld w 0 3))
  else
  if has w 24 2 3 then .instr (.vmaxU (fld w 17 7) (fld w 10 7) (fld w 3 7) (fld w 0 3))
  else .reject .reservedEncoding

/-- The rows of major 0x13. -/
def decodeMajor13 (w : Nat) : Decoded :=
  if has w 24 2 0 then .instr (.vdivS (fld w 17 7) (fld w 10 7) (fld w 3 7) (fld w 0 3))
  else
  if has w 24 2 1 then .instr (.vdivU (fld w 17 7) (fld w 10 7) (fld w 3 7) (fld w 0 3))
  else
  if has w 24 2 2 then .instr (.vremS (fld w 17 7) (fld w 10 7) (fld w 3 7) (fld w 0 3))
  else
  if has w 24 2 3 then .instr (.vremU (fld w 17 7) (fld w 10 7) (fld w 3 7) (fld w 0 3))
  else .reject .reservedEncoding

/-- The rows of major 0x14. -/
def decodeMajor14 (w : Nat) : Decoded :=
  .instr (.vcmp (fld w 24 2) (fld w 22 2) (fld w 17 5) (fld w 10 7) (fld w 3 7) (fld w 0 3))

/-- The rows of major 0x15. -/
def decodeMajor15 (w : Nat) : Decoded :=
  if has w 24 2 0 then .instr (.vsel (fld w 17 7) (fld w 10 7) (fld w 3 7) (fld w 0 3))
  else .reject .reservedEncoding

/-- The rows of major 0x16. -/
def decodeMajor16 (w : Nat) : Decoded :=
  .instr (.vaddi (fld w 19 7) (fld w 12 7) (fld w 3 9) (fld w 0 3))

/-- The rows of major 0x17. -/
def decodeMajor17 (w : Nat) : Decoded :=
  if has w 8 4 0 then .instr (.vshli (fld w 19 7) (fld w 12 7) (fld w 3 5) (fld w 0 3))
  else
  if has w 8 4 4 then .instr (.vshri (fld w 19 7) (fld w 12 7) (fld w 3 5) (fld w 0 3))
  else
  if has w 8 4 8 then .instr (.vsrai (fld w 19 7) (fld w 12 7) (fld w 3 5) (fld w 0 3))
  else .reject .reservedEncoding

/-- The rows of major 0x18. -/
def decodeMajor18 (w : Nat) : Decoded :=
  if has w 24 2 0 then .instr (.fadd (fld w 17 7) (fld w 10 7) (fld w 3 7) (fld w 0 3))
  else
  if has w 24 2 1 then .instr (.fsub (fld w 17 7) (fld w 10 7) (fld w 3 7) (fld w 0 3))
  else
  if has w 24 2 2 then .instr (.fmul (fld w 17 7) (fld w 10 7) (fld w 3 7) (fld w 0 3))
  else
  if has w 24 2 3 then .instr (.ffma (fld w 17 7) (fld w 10 7) (fld w 3 7) (fld w 0 3))
  else .reject .reservedEncoding

/-- The rows of major 0x19. -/
def decodeMajor19 (w : Nat) : Decoded :=
  if has w 24 2 0 then .instr (.ffms (fld w 17 7) (fld w 10 7) (fld w 3 7) (fld w 0 3))
  else
  if has w 24 2 1 then .instr (.fmin (fld w 17 7) (fld w 10 7) (fld w 3 7) (fld w 0 3))
  else
  if has w 24 2 2 then .instr (.fmax (fld w 17 7) (fld w 10 7) (fld w 3 7) (fld w 0 3))
  else
  if has w 24 2 3 then .instr (.fldexp (fld w 17 7) (fld w 10 7) (fld w 3 7) (fld w 0 3))
  else .reject .reservedEncoding

/-- The rows of major 0x1A. -/
def decodeMajor1A (w : Nat) : Decoded :=
  if has w 24 2 0 && has w 5 5 0 then .instr (.frnd (fld w 17 7) (fld w 10 7) (fld w 3 2) (fld w 0 3))
  else
  if has w 24 2 1 && has w 3 7 0 then .instr (.ffrac (fld w 17 7) (fld w 10 7) (fld w 0 3))
  else
  if has w 24 2 2 && has w 3 7 0 then .instr (.fclass (fld w 17 7) (fld w 10 7) (fld w 0 3))
  else
  if has w 24 2 3 && has w 3 7 0 then .instr (.fexpo (fld w 17 7) (fld w 10 7) (fld w 0 3))
  else .reject .reservedEncoding

/-- The rows of major 0x1B. -/
def decodeMajor1B (w : Nat) : Decoded :=
  if has w 24 2 0 then .instr (.hadd2 (fld w 17 7) (fld w 10 7) (fld w 3 7) (fld w 0 3))
  else
  if has w 24 2 1 then .instr (.hmul2 (fld w 17 7) (fld w 10 7) (fld w 3 7) (fld w 0 3))
  else
  if has w 24 2 2 then .instr (.hfma2 (fld w 17 7) (fld w 10 7) (fld w 3 7) (fld w 0 3))
  else
  if has w 24 2 3 then .instr (.bfma2 (fld w 17 7) (fld w 10 7) (fld w 3 7) (fld w 0 3))
  else .reject .reservedEncoding

/-- The rows of major 0x1C. -/
def decodeMajor1C (w : Nat) : Decoded :=
  .instr (.fcmp (fld w 24 2) (fld w 22 2) (fld w 17 5) (fld w 10 7) (fld w 3 7) (fld w 0 3))

/-- The rows of major 0x20. -/
def decodeMajor20 (w : Nat) : Decoded :=
  if has w 24 2 0 then .instr (.dadd (fld w 17 7) (fld w 10 7) (fld w 3 7) (fld w 0 3))
  else
  if has w 24 2 1 then .instr (.dmul (fld w 17 7) (fld w 10 7) (fld w 3 7) (fld w 0 3))
  else
  if has w 24 2 2 then .instr (.dfma (fld w 17 7) (fld w 10 7) (fld w 3 7) (fld w 0 3))
  else .reject .reservedEncoding

/-- The rows of major 0x21. -/
def decodeMajor21 (w : Nat) : Decoded :=
  .instr (.dcmp (fld w 24 2) (fld w 22 2) (fld w 17 5) (fld w 10 7) (fld w 3 7) (fld w 0 3))

/-- The rows of major 0x22. -/
def decodeMajor22 (w : Nat) : Decoded :=
  if has w 24 2 0 then .instr (.fdiv (fld w 17 7) (fld w 10 7) (fld w 3 7) (fld w 0 3))
  else
  if has w 24 2 1 && has w 3 7 0 then .instr (.frcp (fld w 17 7) (fld w 10 7) (fld w 0 3))
  else
  if has w 24 2 1 && has w 3 7 1 then .instr (.frsq (fld w 17 7) (fld w 10 7) (fld w 0 3))
  else
  if has w 24 2 1 && has w 3 7 2 then .instr (.fsqrt (fld w 17 7) (fld w 10 7) (fld w 0 3))
  else
  if has w 24 2 1 && has w 3 7 3 then .instr (.fexp2 (fld w 17 7) (fld w 10 7) (fld w 0 3))
  else
  if has w 24 2 1 && has w 3 7 4 then .instr (.flog2 (fld w 17 7) (fld w 10 7) (fld w 0 3))
  else
  if has w 24 2 1 && has w 3 7 5 then .instr (.fsin (fld w 17 7) (fld w 10 7) (fld w 0 3))
  else
  if has w 24 2 1 && has w 3 7 6 then .instr (.fcos (fld w 17 7) (fld w 10 7) (fld w 0 3))
  else .reject .reservedEncoding

/-- The rows of major 0x23. -/
def decodeMajor23 (w : Nat) : Decoded :=
  if has w 24 2 0 then .instr (.cvtf (fld w 17 7) (fld w 10 7) (fld w 9 1) (fld w 6 3) (fld w 3 3) (fld w 0 3))
  else
  if has w 24 2 1 then .instr (.cvti (fld w 17 7) (fld w 10 7) (fld w 9 1) (fld w 6 3) (fld w 3 3) (fld w 0 3))
  else
  if has w 24 2 2 then .instr (.cvtn (fld w 17 7) (fld w 10 7) (fld w 9 1) (fld w 6 3) (fld w 3 3) (fld w 0 3))
  else
  if has w 24 2 3 && has w 8 2 0 then .instr (.qnt (fld w 17 7) (fld w 10 7) (fld w 3 5) (fld w 0 3))
  else
  if has w 24 2 3 && has w 8 2 1 then .instr (.dqnt (fld w 17 7) (fld w 10 7) (fld w 3 5) (fld w 0 3))
  else
  if has w 24 2 3 && has w 6 4 8 then .instr (.pack2 (fld w 17 7) (fld w 10 7) (fld w 3 3) (fld w 0 3))
  else
  if has w 24 2 3 && has w 6 4 12 then .instr (.unpk (fld w 17 7) (fld w 10 7) (fld w 3 3) (fld w 0 3))
  else .reject .reservedEncoding

/-- The rows of major 0x24. -/
def decodeMajor24 (w : Nat) : Decoded :=
  .instr (.ldg (fld w 19 7) (fld w 12 7) (fld w 8 4) (fld w 6 2) (fld w 3 3) (fld w 0 3))

/-- The rows of major 0x25. -/
def decodeMajor25 (w : Nat) : Decoded :=
  .instr (.stg (fld w 19 7) (fld w 12 7) (fld w 8 4) (fld w 6 2) (fld w 3 3) (fld w 0 3))

/-- The rows of major 0x26. -/
def decodeMajor26 (w : Nat) : Decoded :=
  if has w 19 7 0 && has w 4 2 0 then .instr (.tch (fld w 12 7) (fld w 8 4) (fld w 6 2) (fld w 3 1) (fld w 0 3))
  else .reject .reservedEncoding

/-- The rows of major 0x27. -/
def decodeMajor27 (w : Nat) : Decoded :=
  .instr (.atg (fld w 19 7) (fld w 12 7) (fld w 8 4) (fld w 3 5) (fld w 0 3))

/-- The rows of major 0x28. -/
def decodeMajor28 (w : Nat) : Decoded :=
  if has w 6 2 0 then .instr (.atgc (fld w 19 7) (fld w 12 7) (fld w 8 4) (fld w 3 3) (fld w 0 3))
  else
  if has w 6 2 1 then .instr (.mcs (fld w 19 7) (fld w 12 7) (fld w 8 4) (fld w 3 3) (fld w 0 3))
  else
  if has w 6 2 2 then .instr (.rds (fld w 19 7) (fld w 12 7) (fld w 8 4) (fld w 3 3) (fld w 0 3))
  else
  if has w 6 2 3 then .instr (.rdsF (fld w 19 7) (fld w 12 7) (fld w 8 4) (fld w 3 3) (fld w 0 3))
  else .reject .reservedEncoding

/-- The rows of major 0x29. -/
def decodeMajor29 (w : Nat) : Decoded :=
  .instr (.ldx (fld w 19 7) (fld w 12 7) (fld w 10 2) (fld w 7 3) (fld w 5 2) (fld w 3 2) (fld w 0 3))

/-- The rows of major 0x2A. -/
def decodeMajor2A (w : Nat) : Decoded :=
  .instr (.stx (fld w 19 7) (fld w 12 7) (fld w 10 2) (fld w 7 3) (fld w 5 2) (fld w 3 2) (fld w 0 3))

/-- The rows of major 0x2B. -/
def decodeMajor2B (w : Nat) : Decoded :=
  if has w 6 1 0 then .instr (.atx (fld w 19 7) (fld w 12 7) (fld w 10 2) (fld w 7 3) (fld w 5 1) (fld w 3 2) (fld w 0 3))
  else .reject .reservedEncoding

/-- The rows of major 0x2C. -/
def decodeMajor2C (w : Nat) : Decoded :=
  if has w 7 5 0 then .instr (.ldl (fld w 19 7) (fld w 12 7) (fld w 5 2) (fld w 3 2) (fld w 0 3))
  else
  if has w 7 5 8 then .instr (.stl (fld w 19 7) (fld w 12 7) (fld w 5 2) (fld w 3 2) (fld w 0 3))
  else .reject .reservedEncoding

/-- The rows of major 0x2D. -/
def decodeMajor2D (w : Nat) : Decoded :=
  if has w 18 8 0 && has w 3 1 0 then .instr (.tmov (fld w 11 7) (fld w 4 7) (fld w 0 3))
  else
  if has w 18 8 0 && has w 3 1 1 then .instr (.tmovW (fld w 11 7) (fld w 4 7) (fld w 0 3))
  else .reject .reservedEncoding

/-- The rows of major 0x2E. -/
def decodeMajor2E (w : Nat) : Decoded :=
  if has w 21 5 0 && has w 11 7 0 && has w 3 1 0 then .instr (.acq (fld w 18 3) (fld w 4 7) (fld w 0 3))
  else
  if has w 21 5 1 && has w 11 7 0 && has w 3 1 0 then .instr (.rel (fld w 18 3) (fld w 4 7) (fld w 0 3))
  else
  if has w 21 5 2 && has w 3 1 0 then .instr (.arv (fld w 18 3) (fld w 11 7) (fld w 4 7) (fld w 0 3))
  else
  if has w 21 5 2 && has w 3 1 1 then .instr (.arvX (fld w 18 3) (fld w 11 7) (fld w 4 7) (fld w 0 3))
  else
  if has w 21 5 3 && has w 3 1 0 then .instr (.waitp (fld w 18 3) (fld w 11 7) (fld w 4 7) (fld w 0 3))
  else
  if has w 21 5 3 && has w 3 1 1 then .instr (.waitpNf (fld w 18 3) (fld w 11 7) (fld w 4 7) (fld w 0 3))
  else
  if has w 21 5 4 && has w 3 1 0 then .instr (.soflg (fld w 18 3) (fld w 11 7) (fld w 4 7) (fld w 0 3))
  else
  if has w 18 8 32 && has w 3 1 1 then .instr (.soflgFlagC (fld w 11 7) (fld w 4 7) (fld w 0 3))
  else .reject .reservedEncoding

/-- The rows of major 0x2F. -/
def decodeMajor2F (w : Nat) : Decoded :=
  if has w 21 5 0 && has w 3 1 0 then .instr (.rget (fld w 18 3) (fld w 11 7) (fld w 4 7) (fld w 0 3))
  else
  if has w 21 5 0 && has w 3 1 1 then .instr (.rgetT (fld w 18 3) (fld w 11 7) (fld w 4 7) (fld w 0 3))
  else
  if has w 21 5 1 && has w 3 1 0 then .instr (.rput (fld w 18 3) (fld w 11 7) (fld w 4 7) (fld w 0 3))
  else
  if has w 21 5 2 && has w 3 1 0 then .instr (.rclm (fld w 18 3) (fld w 11 7) (fld w 4 7) (fld w 0 3))
  else
  if has w 21 5 2 && has w 3 1 1 then .instr (.rclmT (fld w 18 3) (fld w 11 7) (fld w 4 7) (fld w 0 3))
  else
  if has w 21 5 3 && has w 3 1 0 then .instr (.rpub (fld w 18 3) (fld w 11 7) (fld w 4 7) (fld w 0 3))
  else .reject .reservedEncoding

/-- The rows of major 0x30. -/
def decodeMajor30 (w : Nat) : Decoded :=
  if has w 20 6 0 && has w 3 1 0 then .instr (.cpy (fld w 18 2) (fld w 11 7) (fld w 4 7) (fld w 0 3))
  else
  if has w 21 5 1 && has w 3 1 0 then .instr (.cpyb (fld w 18 3) (fld w 11 7) (fld w 4 7) (fld w 0 3))
  else .reject .reservedEncoding

/-- The rows of major 0x31. -/
def decodeMajor31 (w : Nat) : Decoded :=
  if has w 21 5 0 && has w 3 1 0 then .instr (.cpyd (fld w 18 3) (fld w 11 7) (fld w 4 7) (fld w 0 3))
  else
  if has w 18 8 8 && has w 3 8 0 then .instr (.ctab (fld w 11 7) (fld w 0 3))
  else .reject .reservedEncoding

/-- The rows of major 0x32. -/
def decodeMajor32 (w : Nat) : Decoded :=
  if has w 21 5 0 && has w 3 1 0 then .instr (.intr (fld w 18 3) (fld w 11 7) (fld w 4 7) (fld w 0 3))
  else
  if has w 21 5 1 && has w 3 1 0 then .instr (.annc (fld w 18 3) (fld w 11 7) (fld w 4 7) (fld w 0 3))
  else
  if has w 21 5 2 && has w 3 8 0 then .instr (.nret (fld w 18 3) (fld w 11 7) (fld w 0 3))
  else
  if has w 21 5 3 && has w 3 1 0 then .instr (.nprb (fld w 18 3) (fld w 11 7) (fld w 4 7) (fld w 0 3))
  else .reject .reservedEncoding

/-- The rows of major 0x33. -/
def decodeMajor33 (w : Nat) : Decoded :=
  if has w 18 8 0 && has w 3 1 0 then .instr (.greq (fld w 11 7) (fld w 4 7) (fld w 0 3))
  else
  if has w 3 23 262144 then .instr (.gdone (fld w 0 3))
  else
  if has w 18 8 16 && has w 3 8 0 then .instr (.gfail (fld w 11 7) (fld w 0 3))
  else .reject .reservedEncoding

/-- The rows of major 0x34. -/
def decodeMajor34 (w : Nat) : Decoded :=
  if has w 21 5 0 && has w 3 1 0 then .instr (.mbld (fld w 18 3) (fld w 11 7) (fld w 4 7) (fld w 0 3))
  else
  if has w 21 5 0 && has w 3 8 1 then .instr (.mbldW (fld w 18 3) (fld w 11 7) (fld w 0 3))
  else
  if has w 21 5 1 && has w 3 1 0 then .instr (.mmul (fld w 18 3) (fld w 11 7) (fld w 4 7) (fld w 0 3))
  else
  if has w 21 5 1 && has w 3 8 1 then .instr (.mmulW (fld w 18 3) (fld w 11 7) (fld w 0 3))
  else .reject .reservedEncoding

/-- The rows of major 0x35. -/
def decodeMajor35 (w : Nat) : Decoded :=
  if has w 21 5 0 && has w 3 1 0 then .instr (.mhad (fld w 18 3) (fld w 11 7) (fld w 4 7) (fld w 0 3))
  else
  if has w 21 5 0 && has w 3 8 1 then .instr (.mhadW (fld w 18 3) (fld w 11 7) (fld w 0 3))
  else
  if has w 21 5 1 && has w 3 1 0 then .instr (.msca (fld w 18 3) (fld w 11 7) (fld w 4 7) (fld w 0 3))
  else
  if has w 21 5 1 && has w 3 8 1 then .instr (.mscaW (fld w 18 3) (fld w 11 7) (fld w 0 3))
  else
  if has w 21 5 2 && has w 3 1 0 then .instr (.mqnt (fld w 18 3) (fld w 11 7) (fld w 4 7) (fld w 0 3))
  else
  if has w 21 5 2 && has w 3 8 1 then .instr (.mqntW (fld w 18 3) (fld w 11 7) (fld w 0 3))
  else .reject .reservedEncoding

/-- The rows of major 0x36. -/
def decodeMajor36 (w : Nat) : Decoded :=
  if has w 18 8 0 && has w 3 1 0 then .instr (.mout (fld w 11 7) (fld w 4 7) (fld w 0 3))
  else
  if has w 18 8 8 && has w 3 8 0 then .instr (.prim (fld w 11 7) (fld w 0 3))
  else .reject .reservedEncoding

/-- The rows of major 0x37. -/
def decodeMajor37 (w : Nat) : Decoded :=
  if has w 21 5 0 && has w 3 1 0 then .instr (.tld (fld w 18 3) (fld w 11 7) (fld w 4 7) (fld w 0 3))
  else
  if has w 21 5 1 && has w 3 1 0 then .instr (.tst (fld w 18 3) (fld w 11 7) (fld w 4 7) (fld w 0 3))
  else
  if has w 21 5 2 && has w 3 1 0 then .instr (.blnd (fld w 18 3) (fld w 11 7) (fld w 4 7) (fld w 0 3))
  else
  if has w 21 5 3 && has w 3 1 0 then .instr (.dpth (fld w 18 3) (fld w 11 7) (fld w 4 7) (fld w 0 3))
  else
  if has w 21 5 3 && has w 3 1 1 then .instr (.dpthT (fld w 18 3) (fld w 11 7) (fld w 4 7) (fld w 0 3))
  else
  if has w 3 23 1048576 then .instr (.disc (fld w 0 3))
  else
  if has w 18 8 40 && has w 3 8 0 then .instr (.tret (fld w 11 7) (fld w 0 3))
  else .reject .reservedEncoding

/-- The rows of major 0x38. -/
def decodeMajor38 (w : Nat) : Decoded :=
  if has w 21 5 0 then .instr (.ipol (fld w 18 3) (fld w 11 7) (fld w 4 7) (fld w 3 1) (fld w 0 3))
  else
  if has w 21 5 1 && has w 3 1 0 then .instr (.smpl (fld w 18 3) (fld w 11 7) (fld w 4 7) (fld w 0 3))
  else
  if has w 21 5 1 && has w 3 1 1 then .instr (.smplG (fld w 18 3) (fld w 11 7) (fld w 4 7) (fld w 0 3))
  else
  if has w 21 5 2 && has w 3 1 0 then .instr (.smpg (fld w 18 3) (fld w 11 7) (fld w 4 7) (fld w 0 3))
  else
  if has w 21 5 2 && has w 3 1 1 then .instr (.smpgG (fld w 18 3) (fld w 11 7) (fld w 4 7) (fld w 0 3))
  else .reject .reservedEncoding

/-- The rows of major 0x39. -/
def decodeMajor39 (w : Nat) : Decoded :=
  if has w 21 5 0 && has w 3 1 0 then .instr (.rayq (fld w 18 3) (fld w 11 7) (fld w 4 7) (fld w 0 3))
  else
  if has w 21 5 0 && has w 3 1 1 then .instr (.rayqO (fld w 18 3) (fld w 11 7) (fld w 4 7) (fld w 0 3))
  else
  if has w 18 8 8 && has w 3 8 0 then .instr (.rayc (fld w 11 7) (fld w 0 3))
  else
  if has w 18 8 16 && has w 3 8 0 then .instr (.raya (fld w 11 7) (fld w 0 3))
  else .reject .reservedEncoding

/-- The rows of major 0x3F. -/
def decodeMajor3F (w : Nat) : Decoded :=
  if has w 23 3 0 then .instr (.hntImm (fld w 0 23))
  else
  if has w 8 18 32768 then .instr (.hntGap (fld w 0 8))
  else
  if has w 6 20 262144 then .instr (.hntPred (fld w 5 1) (fld w 0 5))
  else
  if has w 2 24 6291456 then .instr (.hntRnd (fld w 0 2))
  else
  if has w 3 23 4194304 then .instr (.hntScope (fld w 0 3))
  else
  if has w 7 19 327680 then .instr (.hntMod (fld w 0 7))
  else
  if has w 0 26 50331648 then .instr (.hntRelax)
  else .reject .reservedHint

/-- The instruction that a 32-bit word stands for, or why it is none. -/
def decodeWord (w : Nat) : Decoded :=
  match w / 2 ^ 26 % 64 with
  | 0 => decodeMajor00 w
  | 1 => decodeMajor01 w
  | 2 => decodeMajor02 w
  | 3 => decodeMajor03 w
  | 4 => decodeMajor04 w
  | 5 => decodeMajor05 w
  | 6 => decodeMajor06 w
  | 7 => decodeMajor07 w
  | 8 => decodeMajor08 w
  | 9 => decodeMajor09 w
  | 12 => decodeMajor0C w
  | 13 => decodeMajor0D w
  | 14 => decodeMajor0E w
  | 15 => decodeMajor0F w
  | 16 => decodeMajor10 w
  | 17 => decodeMajor11 w
  | 18 => decodeMajor12 w
  | 19 => decodeMajor13 w
  | 20 => decodeMajor14 w
  | 21 => decodeMajor15 w
  | 22 => decodeMajor16 w
  | 23 => decodeMajor17 w
  | 24 => decodeMajor18 w
  | 25 => decodeMajor19 w
  | 26 => decodeMajor1A w
  | 27 => decodeMajor1B w
  | 28 => decodeMajor1C w
  | 32 => decodeMajor20 w
  | 33 => decodeMajor21 w
  | 34 => decodeMajor22 w
  | 35 => decodeMajor23 w
  | 36 => decodeMajor24 w
  | 37 => decodeMajor25 w
  | 38 => decodeMajor26 w
  | 39 => decodeMajor27 w
  | 40 => decodeMajor28 w
  | 41 => decodeMajor29 w
  | 42 => decodeMajor2A w
  | 43 => decodeMajor2B w
  | 44 => decodeMajor2C w
  | 45 => decodeMajor2D w
  | 46 => decodeMajor2E w
  | 47 => decodeMajor2F w
  | 48 => decodeMajor30 w
  | 49 => decodeMajor31 w
  | 50 => decodeMajor32 w
  | 51 => decodeMajor33 w
  | 52 => decodeMajor34 w
  | 53 => decodeMajor35 w
  | 54 => decodeMajor36 w
  | 55 => decodeMajor37 w
  | 56 => decodeMajor38 w
  | 57 => decodeMajor39 w
  | 63 => decodeMajor3F w
  | _ => .reject .reservedMajor

/-- The field `v` placed with its lowest bit at `lo`. -/
def place {n : Nat} (v : BitVec n) (lo : Nat) : Nat := v.toNat * 2 ^ lo

/-- The word with the fixed bits `m` and the placed fields `fs`. -/
def pack (m : Nat) : List Nat → Option Nat
  | [] => some m
  | f :: fs => pack (m + f) fs

/-- The 32-bit word of an instruction, from the fields of its row; the steps without bits have none. -/
def Instr.encode : Instr → Option Nat
  | .ill x => pack 0x00000000 [place x 0]
  | .nop c => pack 0x00200000 [place c 0]
  | .trap k c => pack 0x00400000 [place k 4, place c 0]
  | .eret c => pack 0x00600000 [place c 0]
  | .mfs d sf w c => pack 0x00800000 [place d 11, place sf 4, place w 3, place c 0]
  | .mfsV d sf w c => pack 0x00840000 [place d 11, place sf 4, place w 3, place c 0]
  | .mfsB d b c => pack 0x00880000 [place d 11, place b 4, place c 0]
  | .mts d sf w c => pack 0x00A00000 [place d 11, place sf 4, place w 3, place c 0]
  | .mtsV d sf w c => pack 0x00A40000 [place d 11, place sf 4, place w 3, place c 0]
  | .mtsB d b c => pack 0x00A80000 [place d 11, place b 4, place c 0]
  | .feat d n m c => pack 0x00C00000 [place d 11, place n 4, place m 3, place c 0]
  | .clk d c => pack 0x00E00000 [place d 11, place c 0]
  | .fence sf c => pack 0x01000000 [place sf 18, place c 0]
  | .fenceAx sf c => pack 0x01000800 [place sf 18, place c 0]
  | .sleep n c => pack 0x01200000 [place n 11, place c 0]
  | .sleepLv n c => pack 0x01240000 [place n 11, place c 0]
  | .bkpt k c => pack 0x01400000 [place k 4, place c 0]
  | .mark n k c => pack 0x01600000 [place n 11, place k 4, place c 0]
  | .rege im c => pack 0x01800000 [place im 4, place c 0]
  | .regl c => pack 0x01A00000 [place c 0]
  | .csw n d c => pack 0x01C00000 [place n 11, place d 4, place c 0]
  | .bra t c => pack 0x04000000 [place t 3, place c 0]
  | .brp p t c => pack 0x04400000 [place p 17, place t 3, place c 0]
  | .brn p t c => pack 0x04800000 [place p 17, place t 3, place c 0]
  | .brpAny p t c => pack 0x04C00000 [place p 17, place t 3, place c 0]
  | .brpAll p t c => pack 0x05000000 [place p 17, place t 3, place c 0]
  | .call l t c => pack 0x08000000 [place l 17, place t 3, place c 0]
  | .calli l t c => pack 0x08400000 [place l 17, place t 12, place c 0]
  | .ret p c => pack 0x08800000 [place p 17, place c 0]
  | .jmpi t c => pack 0x08C00000 [place t 12, place c 0]
  | .brx im n c => pack 0x09000000 [place im 10, place n 3, place c 0]
  | .fork d n c => pack 0x0C000000 [place d 11, place n 4, place c 0]
  | .fend c => pack 0x0C200000 [place c 0]
  | .rcv c => pack 0x0C400000 [place c 0]
  | .spawn a n c => pack 0x0C600000 [place a 11, place n 4, place c 0]
  | .spawnT k a n c => pack 0x0C600008 [place k 18, place a 11, place n 4, place c 0]
  | .yield c => pack 0x0C800000 [place c 0]
  | .shfl d a b c => pack 0x10000000 [place d 17, place a 10, place b 3, place c 0]
  | .elect k c => pack 0x11000000 [place k 17, place c 0]
  | .voteAny k j c => pack 0x12000000 [place k 17, place j 10, place c 0]
  | .voteAll k j c => pack 0x12000008 [place k 17, place j 10, place c 0]
  | .voteBallot d j c => pack 0x12000010 [place d 17, place j 10, place c 0]
  | .shflX d a m c => pack 0x13000000 [place d 17, place a 10, place m 3, place c 0]
  | .qpop k d q c => pack 0x14000000 [place k 18, place d 11, place q 4, place c 0]
  | .qpopT k d q c => pack 0x14000008 [place k 18, place d 11, place q 4, place c 0]
  | .qpush a q c => pack 0x14200000 [place a 11, place q 4, place c 0]
  | .qstatDepth d q c => pack 0x14400000 [place d 11, place q 4, place c 0]
  | .qstatFree d q c => pack 0x14440000 [place d 11, place q 4, place c 0]
  | .qstatFlags d q c => pack 0x14480000 [place d 11, place q 4, place c 0]
  | .bar k n z c => pack 0x18000000 [place k 18, place n 11, place z 3, place c 0]
  | .barv k n z c => pack 0x18200000 [place k 18, place n 11, place z 3, place c 0]
  | .barw k z c => pack 0x18400000 [place k 18, place z 3, place c 0]
  | .pand k m im n j c => pack 0x1C000000 [place k 17, place m 15, place im 10, place n 8, place j 3, place c 0]
  | .por k m im n j c => pack 0x1D000000 [place k 17, place m 15, place im 10, place n 8, place j 3, place c 0]
  | .pxor k m im n j c => pack 0x1E000000 [place k 17, place m 15, place im 10, place n 8, place j 3, place c 0]
  | .pnot k m im c => pack 0x1F000000 [place k 17, place m 15, place im 10, place c 0]
  | .pset k a c => pack 0x1F000008 [place k 17, place a 10, place c 0]
  | .sadd d a b c => pack 0x20000000 [place d 17, place a 11, place b 5, place c 0]
  | .ssub d a b c => pack 0x20800000 [place d 17, place a 11, place b 5, place c 0]
  | .smul d a b c => pack 0x21000000 [place d 17, place a 11, place b 5, place c 0]
  | .smulh d a b u c => pack 0x21800000 [place d 17, place a 11, place b 5, place u 3, place c 0]
  | .sand d a b c => pack 0x22000000 [place d 17, place a 11, place b 5, place c 0]
  | .sor d a b c => pack 0x22800000 [place d 17, place a 11, place b 5, place c 0]
  | .sxor d a b c => pack 0x23000000 [place d 17, place a 11, place b 5, place c 0]
  | .sshl d a b c => pack 0x23800000 [place d 17, place a 11, place b 5, place c 0]
  | .sshr d a b c => pack 0x24000000 [place d 17, place a 11, place b 5, place c 0]
  | .ssra d a b c => pack 0x24800000 [place d 17, place a 11, place b 5, place c 0]
  | .smin d a b u c => pack 0x25000000 [place d 17, place a 11, place b 5, place u 3, place c 0]
  | .smax d a b u c => pack 0x25800000 [place d 17, place a 11, place b 5, place u 3, place c 0]
  | .scmp d a b u c => pack 0x26000000 [place d 17, place a 11, place b 5, place u 3, place c 0]
  | .ssel d a b c => pack 0x26800000 [place d 17, place a 11, place b 5, place c 0]
  | .smov d a c => pack 0x27000000 [place d 17, place a 11, place c 0]
  | .slea d a b h c => pack 0x27800000 [place d 17, place a 11, place b 5, place h 3, place c 0]
  | .saddi d a im c => pack 0x30000000 [place d 20, place a 14, place im 3, place c 0]
  | .sxori d a im c => pack 0x34000000 [place d 20, place a 14, place im 3, place c 0]
  | .vadd d a b c => pack 0x38000000 [place d 17, place a 10, place b 3, place c 0]
  | .vsub d a b c => pack 0x39000000 [place d 17, place a 10, place b 3, place c 0]
  | .vmul d a b c => pack 0x3A000000 [place d 17, place a 10, place b 3, place c 0]
  | .vmad d a b c => pack 0x3B000000 [place d 17, place a 10, place b 3, place c 0]
  | .vmulhS d a b c => pack 0x3C000000 [place d 17, place a 10, place b 3, place c 0]
  | .vmulhU d a b c => pack 0x3D000000 [place d 17, place a 10, place b 3, place c 0]
  | .vaddc d a b c => pack 0x3E000000 [place d 17, place a 10, place b 3, place c 0]
  | .vabs d a c => pack 0x3F000000 [place d 17, place a 10, place c 0]
  | .vclz d a c => pack 0x3F000008 [place d 17, place a 10, place c 0]
  | .vpopc d a c => pack 0x3F000010 [place d 17, place a 10, place c 0]
  | .vbrev d a c => pack 0x3F000018 [place d 17, place a 10, place c 0]
  | .vmov d a c => pack 0x3F000020 [place d 17, place a 10, place c 0]
  | .vmovs d sf c => pack 0x3F000028 [place d 17, place sf 10, place c 0]
  | .vand d a b c => pack 0x40000000 [place d 17, place a 10, place b 3, place c 0]
  | .vor d a b c => pack 0x41000000 [place d 17, place a 10, place b 3, place c 0]
  | .vxor d a b c => pack 0x42000000 [place d 17, place a 10, place b 3, place c 0]
  | .vbfe d a b c => pack 0x43000000 [place d 17, place a 10, place b 3, place c 0]
  | .vshl d a b c => pack 0x44000000 [place d 17, place a 10, place b 3, place c 0]
  | .vshr d a b c => pack 0x45000000 [place d 17, place a 10, place b 3, place c 0]
  | .vsra d a b c => pack 0x46000000 [place d 17, place a 10, place b 3, place c 0]
  | .vbfi d a b c => pack 0x47000000 [place d 17, place a 10, place b 3, place c 0]
  | .vminS d a b c => pack 0x48000000 [place d 17, place a 10, place b 3, place c 0]
  | .vminU d a b c => pack 0x49000000 [place d 17, place a 10, place b 3, place c 0]
  | .vmaxS d a b c => pack 0x4A000000 [place d 17, place a 10, place b 3, place c 0]
  | .vmaxU d a b c => pack 0x4B000000 [place d 17, place a 10, place b 3, place c 0]
  | .vdivS d a b c => pack 0x4C000000 [place d 17, place a 10, place b 3, place c 0]
  | .vdivU d a b c => pack 0x4D000000 [place d 17, place a 10, place b 3, place c 0]
  | .vremS d a b c => pack 0x4E000000 [place d 17, place a 10, place b 3, place c 0]
  | .vremU d a b c => pack 0x4F000000 [place d 17, place a 10, place b 3, place c 0]
  | .vcmp n m k a b c => pack 0x50000000 [place n 24, place m 22, place k 17, place a 10, place b 3, place c 0]
  | .vsel d a b c => pack 0x54000000 [place d 17, place a 10, place b 3, place c 0]
  | .vaddi d a im c => pack 0x58000000 [place d 19, place a 12, place im 3, place c 0]
  | .vshli d a n c => pack 0x5C000000 [place d 19, place a 12, place n 3, place c 0]
  | .vshri d a n c => pack 0x5C000400 [place d 19, place a 12, place n 3, place c 0]
  | .vsrai d a n c => pack 0x5C000800 [place d 19, place a 12, place n 3, place c 0]
  | .fadd d a b c => pack 0x60000000 [place d 17, place a 10, place b 3, place c 0]
  | .fsub d a b c => pack 0x61000000 [place d 17, place a 10, place b 3, place c 0]
  | .fmul d a b c => pack 0x62000000 [place d 17, place a 10, place b 3, place c 0]
  | .ffma d a b c => pack 0x63000000 [place d 17, place a 10, place b 3, place c 0]
  | .ffms d a b c => pack 0x64000000 [place d 17, place a 10, place b 3, place c 0]
  | .fmin d a b c => pack 0x65000000 [place d 17, place a 10, place b 3, place c 0]
  | .fmax d a b c => pack 0x66000000 [place d 17, place a 10, place b 3, place c 0]
  | .fldexp d a b c => pack 0x67000000 [place d 17, place a 10, place b 3, place c 0]
  | .frnd d a m c => pack 0x68000000 [place d 17, place a 10, place m 3, place c 0]
  | .ffrac d a c => pack 0x69000000 [place d 17, place a 10, place c 0]
  | .fclass d a c => pack 0x6A000000 [place d 17, place a 10, place c 0]
  | .fexpo d a c => pack 0x6B000000 [place d 17, place a 10, place c 0]
  | .hadd2 d a b c => pack 0x6C000000 [place d 17, place a 10, place b 3, place c 0]
  | .hmul2 d a b c => pack 0x6D000000 [place d 17, place a 10, place b 3, place c 0]
  | .hfma2 d a b c => pack 0x6E000000 [place d 17, place a 10, place b 3, place c 0]
  | .bfma2 d a b c => pack 0x6F000000 [place d 17, place a 10, place b 3, place c 0]
  | .fcmp n m k a b c => pack 0x70000000 [place n 24, place m 22, place k 17, place a 10, place b 3, place c 0]
  | .dadd d a b c => pack 0x80000000 [place d 17, place a 10, place b 3, place c 0]
  | .dmul d a b c => pack 0x81000000 [place d 17, place a 10, place b 3, place c 0]
  | .dfma d a b c => pack 0x82000000 [place d 17, place a 10, place b 3, place c 0]
  | .dcmp n m k a b c => pack 0x84000000 [place n 24, place m 22, place k 17, place a 10, place b 3, place c 0]
  | .fdiv d a b c => pack 0x88000000 [place d 17, place a 10, place b 3, place c 0]
  | .frcp d a c => pack 0x89000000 [place d 17, place a 10, place c 0]
  | .frsq d a c => pack 0x89000008 [place d 17, place a 10, place c 0]
  | .fsqrt d a c => pack 0x89000010 [place d 17, place a 10, place c 0]
  | .fexp2 d a c => pack 0x89000018 [place d 17, place a 10, place c 0]
  | .flog2 d a c => pack 0x89000020 [place d 17, place a 10, place c 0]
  | .fsin d a c => pack 0x89000028 [place d 17, place a 10, place c 0]
  | .fcos d a c => pack 0x89000030 [place d 17, place a 10, place c 0]
  | .cvtf d a h sf t c => pack 0x8C000000 [place d 17, place a 10, place h 9, place sf 6, place t 3, place c 0]
  | .cvti d a h sf t c => pack 0x8D000000 [place d 17, place a 10, place h 9, place sf 6, place t 3, place c 0]
  | .cvtn d a h sf t c => pack 0x8E000000 [place d 17, place a 10, place h 9, place sf 6, place t 3, place c 0]
  | .qnt d a f c => pack 0x8F000000 [place d 17, place a 10, place f 3, place c 0]
  | .dqnt d a f c => pack 0x8F000100 [place d 17, place a 10, place f 3, place c 0]
  | .pack2 d a f c => pack 0x8F000200 [place d 17, place a 10, place f 3, place c 0]
  | .unpk d a f c => pack 0x8F000300 [place d 17, place a 10, place f 3, place c 0]
  | .ldg d a sf w k c => pack 0x90000000 [place d 19, place a 12, place sf 8, place w 6, place k 3, place c 0]
  | .stg d a sf w k c => pack 0x94000000 [place d 19, place a 12, place sf 8, place w 6, place k 3, place c 0]
  | .tch a sf w k c => pack 0x98000000 [place a 12, place sf 8, place w 6, place k 3, place c 0]
  | .atg d a sf o c => pack 0x9C000000 [place d 19, place a 12, place sf 8, place o 3, place c 0]
  | .atgc d a sf k c => pack 0xA0000000 [place d 19, place a 12, place sf 8, place k 3, place c 0]
  | .mcs d a m k c => pack 0xA0000040 [place d 19, place a 12, place m 8, place k 3, place c 0]
  | .rds d a m k c => pack 0xA0000080 [place d 19, place a 12, place m 8, place k 3, place c 0]
  | .rdsF d a m k c => pack 0xA00000C0 [place d 19, place a 12, place m 8, place k 3, place c 0]
  | .ldx d a l sf w o c => pack 0xA4000000 [place d 19, place a 12, place l 10, place sf 7, place w 5, place o 3, place c 0]
  | .stx d a l sf w o c => pack 0xA8000000 [place d 19, place a 12, place l 10, place sf 7, place w 5, place o 3, place c 0]
  | .atx d a l p w q c => pack 0xAC000000 [place d 19, place a 12, place l 10, place p 7, place w 5, place q 3, place c 0]
  | .ldl d a w o c => pack 0xB0000000 [place d 19, place a 12, place w 5, place o 3, place c 0]
  | .stl d a w o c => pack 0xB0000400 [place d 19, place a 12, place w 5, place o 3, place c 0]
  | .tmov n m c => pack 0xB4000000 [place n 11, place m 4, place c 0]
  | .tmovW n m c => pack 0xB4000008 [place n 11, place m 4, place c 0]
  | .acq sf o c => pack 0xB8000000 [place sf 18, place o 4, place c 0]
  | .rel sf o c => pack 0xB8200000 [place sf 18, place o 4, place c 0]
  | .arv sf n o c => pack 0xB8400000 [place sf 18, place n 11, place o 4, place c 0]
  | .arvX sf n o c => pack 0xB8400008 [place sf 18, place n 11, place o 4, place c 0]
  | .waitp sf p o c => pack 0xB8600000 [place sf 18, place p 11, place o 4, place c 0]
  | .waitpNf sf p o c => pack 0xB8600008 [place sf 18, place p 11, place o 4, place c 0]
  | .soflg l d o c => pack 0xB8800000 [place l 18, place d 11, place o 4, place c 0]
  | .soflgFlagC d o c => pack 0xB8800008 [place d 11, place o 4, place c 0]
  | .rget sf d r c => pack 0xBC000000 [place sf 18, place d 11, place r 4, place c 0]
  | .rgetT sf d r c => pack 0xBC000008 [place sf 18, place d 11, place r 4, place c 0]
  | .rput sf n r c => pack 0xBC200000 [place sf 18, place n 11, place r 4, place c 0]
  | .rclm sf d r c => pack 0xBC400000 [place sf 18, place d 11, place r 4, place c 0]
  | .rclmT sf d r c => pack 0xBC400008 [place sf 18, place d 11, place r 4, place c 0]
  | .rpub sf n r c => pack 0xBC600000 [place sf 18, place n 11, place r 4, place c 0]
  | .cpy w a n c => pack 0xC0000000 [place w 18, place a 11, place n 4, place c 0]
  | .cpyb sf n m c => pack 0xC0200000 [place sf 18, place n 11, place m 4, place c 0]
  | .cpyd sf n m c => pack 0xC4000000 [place sf 18, place n 11, place m 4, place c 0]
  | .ctab n c => pack 0xC4200000 [place n 11, place c 0]
  | .intr r n m c => pack 0xC8000000 [place r 18, place n 11, place m 4, place c 0]
  | .annc r n m c => pack 0xC8200000 [place r 18, place n 11, place m 4, place c 0]
  | .nret r n c => pack 0xC8400000 [place r 18, place n 11, place c 0]
  | .nprb r n d c => pack 0xC8600000 [place r 18, place n 11, place d 4, place c 0]
  | .greq n d c => pack 0xCC000000 [place n 11, place d 4, place c 0]
  | .gdone c => pack 0xCC200000 [place c 0]
  | .gfail k c => pack 0xCC400000 [place k 11, place c 0]
  | .mbld sf n o c => pack 0xD0000000 [place sf 18, place n 11, place o 4, place c 0]
  | .mbldW sf n c => pack 0xD0000008 [place sf 18, place n 11, place c 0]
  | .mmul sf n o c => pack 0xD0200000 [place sf 18, place n 11, place o 4, place c 0]
  | .mmulW sf n c => pack 0xD0200008 [place sf 18, place n 11, place c 0]
  | .mhad sf n o c => pack 0xD4000000 [place sf 18, place n 11, place o 4, place c 0]
  | .mhadW sf n c => pack 0xD4000008 [place sf 18, place n 11, place c 0]
  | .msca sf n o c => pack 0xD4200000 [place sf 18, place n 11, place o 4, place c 0]
  | .mscaW sf n c => pack 0xD4200008 [place sf 18, place n 11, place c 0]
  | .mqnt sf n o c => pack 0xD4400000 [place sf 18, place n 11, place o 4, place c 0]
  | .mqntW sf n c => pack 0xD4400008 [place sf 18, place n 11, place c 0]
  | .mout n d c => pack 0xD8000000 [place n 11, place d 4, place c 0]
  | .prim n c => pack 0xD8200000 [place n 11, place c 0]
  | .tld k d a c => pack 0xDC000000 [place k 18, place d 11, place a 4, place c 0]
  | .tst k d a c => pack 0xDC200000 [place k 18, place d 11, place a 4, place c 0]
  | .blnd k d a c => pack 0xDC400000 [place k 18, place d 11, place a 4, place c 0]
  | .dpth k d a c => pack 0xDC600000 [place k 18, place d 11, place a 4, place c 0]
  | .dpthT k d a c => pack 0xDC600008 [place k 18, place d 11, place a 4, place c 0]
  | .disc c => pack 0xDC800000 [place c 0]
  | .tret n c => pack 0xDCA00000 [place n 11, place c 0]
  | .ipol j d a h c => pack 0xE0000000 [place j 18, place d 11, place a 4, place h 3, place c 0]
  | .smpl t d a c => pack 0xE0200000 [place t 18, place d 11, place a 4, place c 0]
  | .smplG t d a c => pack 0xE0200008 [place t 18, place d 11, place a 4, place c 0]
  | .smpg t d a c => pack 0xE0400000 [place t 18, place d 11, place a 4, place c 0]
  | .smpgG t d a c => pack 0xE0400008 [place t 18, place d 11, place a 4, place c 0]
  | .rayq sf d a c => pack 0xE4000000 [place sf 18, place d 11, place a 4, place c 0]
  | .rayqO sf d a c => pack 0xE4000008 [place sf 18, place d 11, place a 4, place c 0]
  | .rayc d c => pack 0xE4200000 [place d 11, place c 0]
  | .raya d c => pack 0xE4400000 [place d 11, place c 0]
  | .hntImm p => pack 0xFC000000 [place p 0]
  | .hntGap g => pack 0xFC800000 [place g 0]
  | .hntPred o p => pack 0xFD000000 [place o 5, place p 0]
  | .hntRnd m => pack 0xFD800000 [place m 0]
  | .hntScope sf => pack 0xFE000000 [place sf 0]
  | .hntMod m => pack 0xFE800000 [place m 0]
  | .hntRelax => pack 0xFF000000 []
  | .launchHeadRead _ _ => none
  | .predecessorTest _ => none
  | .geometryBatchTake _ => none
  | .bindRecordWrite _ _ _ => none
  | .listStoreAlloc _ _ => none
  | .indexTake _ => none
  | .persistentGridStart _ => none
  | .launchCompletion _ => none
  | .balancerEvaluate _ => none
  | .partitionControlWrite _ _ => none
  | .migrationRequest _ => none
  | .migrationWithdraw _ => none
  | .trapDisposition _ _ => none
  | .pageService _ => none
  | .teamSave _ => none
  | .teamRestore _ _ => none
  | .deadlineExpiry _ => none
  | .pusherReschedule _ _ => none
  | .touchEntryExpiry _ _ => none
  | .wcBufferTimeout _ _ => none
  | .sleepEnd _ _ => none
  | .barrierWaveRelease _ => none
  | .engineTake _ _ => none
  | .engineLineService _ => none
  | .tableReady _ _ _ => none
  | .streamStatusWrite _ _ _ => none
  | .operationCompletion _ _ => none
  | .byteContribution _ => none
  | .matrixOpComplete _ => none
  | .tileExport _ => none
  | .tileSpill _ => none
  | .remoteTimeout _ => none
  | .binnerAppend _ _ => none
  | .linkFailed _ _ _ => none
  | .tileTaskAdmit _ _ _ => none
  | .fragmentCreate _ => none
  | .seqHang _ _ _ => none
  | .cswInstall _ _ => none
  | .onyxTranslate _ _ _ => none
  | .interestForward _ _ => none
  | .tileArrival _ => none
  | .interestWriteDone _ _ => none
  | .interestLifetimeEnd _ _ => none
  | .retirementApply _ => none
  | .generatorStart _ _ _ => none
  | .procEviction _ _ => none
  | .invalidationComplete _ => none
  | .latencyAccount _ => none
  | .sampleExpiry _ => none
  | .syncPacket _ => none
  | .clockPatternWrite _ _ => none
  | .currentSlopeWrite _ _ => none
  | .powerRegisterWrite _ _ => none
  | .ntEntry _ _ _ => none
  | .ntExit _ _ _ => none
  | .holdExpiry _ _ => none
  | .rampAdmit _ => none
  | .rampDone _ _ => none
  | .budgetLeaseEnd => none
  | .ageingReplan _ _ _ => none
  | .thermalThrottle _ _ => none
  | .thermalTrip => none
  | .deviceReset _ => none
  | .frameDiscard => none
  | .ptpMessage _ => none
  | .linkLoss _ => none
  | .linkRetrainDone _ _ => none
  | .cxlLinkDown _ => none
  | .hello _ _ _ => none
  | .featureRead _ _ => none
  | .featureAccept _ _ _ _ => none
  | .claim _ _ => none
  | .handover _ _ _ => none
  | .lease _ _ => none
  | .read _ _ _ _ _ _ => none
  | .write _ _ _ _ _ _ => none
  | .submit _ _ _ _ _ => none
  | .eventAck _ _ => none
  | .eventResend _ => none
  | .power _ _ _ => none
  | .sessionTimeout _ => none
  | .ownerLeaseEnd => none
  | .credentialExpiry _ => none
  | .create _ _ _ _ => none
  | .requestPreemption _ _ _ => none
  | .withdraw _ _ _ => none
  | .resume _ _ _ => none
  | .thaw _ _ _ => none
  | .reset _ _ _ => none
  | .clear _ _ _ => none
  | .invalidate _ _ _ _ _ => none
  | .evictBlock _ _ _ _ => none
  | .flushRegion _ _ _ => none
  | .tearDown _ _ _ => none
  | .retryFault _ _ _ _ => none
  | .declareUnresolvable _ _ _ _ => none
  | .sessionThaw _ _ _ => none
  | .trapControlWrite _ _ _ _ _ => none
  | .translationBlockWrite _ _ _ _ _ => none
  | .sampleBlockWrite _ _ _ _ _ => none
  | .traceControlWrite _ _ _ _ _ => none
  | .nameControlWrite _ _ _ _ _ => none
  | .telemetryControlWrite _ _ _ _ _ => none
  | .contextTablesWrite _ _ _ _ _ => none
  | .errorLogControlWrite _ _ _ _ _ => none
  | .samplingControlWrite _ _ _ _ => none
  | .tileStoreSizeWrite _ _ _ => none
  | .tileStoreSizeEffect => none
  | .packageIdWrite _ _ _ => none
  | .packageIdEffect => none
  | .powerFloorWrite _ _ _ => none
  | .firmwareImageWrite _ _ _ _ => none
  | .firmwareVerify _ _ _ => none
  | .reservedEncoding _ => none
  | .ptpLockLoss => none
  | .hostPortLinkChange _ _ => none
  | .dieFrequencyChange _ _ => none
  | .macsecKeyAgreement _ => none

/-- The bytes of an instruction word as they lie in memory, lowest address first (R12). -/
def wordBytes (w : Nat) : List (BitVec 8) :=
  [BitVec.ofNat 8 w, BitVec.ofNat 8 (w / 2 ^ 8), BitVec.ofNat 8 (w / 2 ^ 16), BitVec.ofNat 8 (w / 2 ^ 24)]

/-- The word that four bytes hold, lowest address first; a list of another length is read as far as it goes. -/
def bytesWord : List (BitVec 8) → Nat
  | [] => 0
  | b :: bs => b.toNat + 256 * bytesWord bs

/-- Decoding a list of bytes: what its first four bytes stand for, and the rest. -/
def decodeBytes (bs : List (BitVec 8)) : Decoded × List (BitVec 8) :=
  (decodeWord (bytesWord (bs.take 4)), bs.drop 4)

/-- What the decoder reads from an instruction whose bits are `w`, laid out as the hardware stores it; every
instruction of this part has 32 bits. -/
def decodeTableWord (_nbits w : Nat) : Option Instr :=
  match (decodeBytes (wordBytes w)).1 with
  | .instr i => some i
  | .reject _ => none

end Sys2Proof
end

