-- ==== Sys2Proof/Machine/Choice.lean ====
section
/-!
DEFINITION. Which batch of which group issues in a quadrant, and what its fetch gives (R54, R218, R219, R235,
07_scheduling.md; R275, 10_memory.md; R425-R431, 22_power.md).
-/

namespace Sys2Proof.Machine

/-- The issue clock of a core's cluster passes a pulse in the present cycle of its die (R425). -/
def State.pulse (s : State) (core : Nat) : Bool :=
  s.clocked core && (s.cluster (clusterOf core)).pattern.getLsbD (s.coreCycle core % 32)

/-- The islands of a quadrant. One that is not listed has been empty since reset: it entered Hold in the first cycle
(R428). -/
def State.quad (s : State) (core q : Nat) : Islands :=
  tget (s.core core).islands q (if s.now == 0 then Islands.start else { Islands.start with st := .hold 0 })

/-- Changing the islands of a quadrant. -/
def State.modQuad (s : State) (core q : Nat) (f : Islands → Islands) : State :=
  let I := f (s.quad core q)
  s.modCore core fun C => { C with islands := tset C.islands q I }

/-- An island in near-threshold mode begins to leave it: 0.25 µs later it is Nominal (R428, R430). -/
def Islands.leave (i : Islands) (now k : Nat) : Islands :=
  if i.nt.getD k false && (i.leaving.getD k none).isNone then { i with leaving := i.leaving.set k (some (now + 900)) } else i

/-- A group's sleep ends; at the end of a SLEEP.LV the islands of its fibres leave near-threshold mode (R195, R430). -/
def State.endSleep (s : State) (core g : Nat) : State :=
  match (s.group? core g).bind fun G => G.sleep.map fun e => (G, e.2) with
  | none => s
  | some (G, lv) =>
    let t := s.modGroup core g fun G => { G with sleep := none }
    if lv then t.modQuad core (g / 16) fun I => (G.live.map (· / 8)).eraseDups.foldl (fun J k => J.leave s.now k) I else t

/-- The islands of a quadrant let it issue: they are not in Hold, Off, Queued or Ramping (R428). -/
def Islands.up (i : Islands) : Bool := i.st == .nominal

/-- The active fibres of a batch, as its hints stand (R53). -/
def Group.activeMask (G : Group) (B : Batch) : BitVec 32 := maskOf (activeLanes G (lanesOf B.lanes) (hintView B.hints))

/-- Every island on which a batch has active fibres is neither in near-threshold mode nor leaving it (R430). -/
def Islands.allows (i : Islands) (lanes : BitVec 32) : Bool :=
  (List.range 4).all fun k =>
    bits lanes.toNat (8 * k) 8 == 0 || (!(i.nt.getD k false) && (i.leaving.getD k none).isNone)

/-- Byte offset 20 of a queue descriptor holds `over` in bit 23 (R215). A queue index past the table, or one whose
descriptor cannot be read, is not above its watermark. -/
def State.queueOver (s : State) (x q : Nat) : Bool :=
  let c := s.ctx x
  if q < c.word 0x188 then
    match s.vaRead x (c.dword 0x180 + 64 * q) 64 with
    | .ok d => bit (byteField d 20 4) 23
    | .error _ => false
  else false

/-- A consumer of a queue whose over is 1 is boosted (R217). -/
def State.boosted (s : State) (G : Group) : Bool :=
  match G.lastQueue with
  | some q => s.queueOver G.ctx q
  | none => false

/-- The islands of the group's quadrant aside, the group may issue: it is Resident, its context issues, its team has
begun, its gap has passed, it does not sleep, and its clock is not masked (R16, R195, R201, R206, R218, R255, R425). -/
def State.groupReady (s : State) (core : Nat) (G : Group) : Bool :=
  let T := s.team G.tid
  G.st == .resident && (s.ctx G.ctx).st.issues && T.begun && T.begunAt ≤ s.now && G.nextIssue ≤ s.coreCycle core &&
    G.sleep.isNone && s.pulse core

/-- The group may issue, its islands among the conditions. -/
def State.groupOpen (s : State) (core g : Nat) (G : Group) : Bool :=
  s.groupReady core G && (s.quad core (g / 16)).up

/-- The batch waits for nothing, or only for a line that has come into the instruction cache by a cycle. -/
def Batch.mayIssue (B : Batch) (now : Nat) : Bool :=
  match B.wait with
  | none => true
  | some (.code due) => due ≤ now
  | _ => false

/-- The ready batches of a group, by their places (R54). -/
def State.readyBatches (s : State) (core g : Nat) (G : Group) : List Nat :=
  if s.groupOpen core g G then
    let isl := s.quad core (g / 16)
    (List.range G.batches.length).filter fun i =>
      match G.batches[i]? with
      | some B => B.mayIssue (s.coreCycle core) && B.lanes != 0 && isl.allows (G.activeMask B)
      | none => false
  else []

/-- The batch that takes the group's issue: the oldest that has been passed over 64 times, else the youngest
(R54, R219). Batches stand oldest first. -/
def Group.pickBatch (G : Group) (ready : List Nat) : Option Nat :=
  match ready.find? fun i => 64 ≤ ((G.batches[i]?).map (·.passed)).getD 0 with
  | some i => some i
  | none => ready.getLast?

/-- Age order of groups (R235). -/
def older (a b : Nat × Nat) : Bool := a.1 < b.1 || (a.1 == b.1 && a.2 < b.2)

/-- The oldest of candidates. -/
def oldest : List (Nat × Group) → Option (Nat × Group)
  | [] => none
  | e :: es =>
    match oldest es with
    | none => some e
    | some f => if older f.2.age e.2.age then some f else some e

/-- The groups of a quadrant that are ready. -/
def State.readyGroups (s : State) (core q : Nat) : List (Nat × Group) :=
  (s.core core).groups.filter fun e => e.1 / 16 == q && !(s.readyBatches core e.1 e.2).isEmpty

/-- The candidates that satisfy a test go before the others. -/
def ahead (p : Nat × Group → Bool) (l : List (Nat × Group)) : List (Nat × Group) :=
  if l.any p then l.filter p else l

/-- A ready batch of the group has left the parked state 1,024 counted cycles ago and has not issued: so that it does within
2,048 (R220), its group goes before those that are not starved (log entry 21). -/
def State.replayDue (s : State) (core g : Nat) (G : Group) : Bool :=
  (s.readyBatches core g G).any fun i => ((G.batches[i]?).bind (·.replay)).any (1024 ≤ ·)

/-- The group that the quadrant issues from, and the groups whose give-way marks the choice clears: the rules of R235 in
their order, each among the groups that the rules before it leave (log entry 21). -/
def State.pickGroup (s : State) (core q : Nat) : Option (Nat × Group) × List Nat :=
  let cands := s.readyGroups core q
  let starved := cands.filter fun e => e.2.lastIssue + 4032 ≤ s.pulses core
  let replays := cands.filter fun e => s.replayDue core e.1 e.2
  if !starved.isEmpty then (oldest starved, [])
  else if !replays.isEmpty then (oldest replays, [])
  else
    let first := ahead (fun e => s.boosted e.2) cands
    (oldest (ahead (fun e => !e.2.giveWay) first),
      if first.any fun e => !e.2.giveWay then (first.filter fun e => e.2.giveWay).map (·.1) else [])

/-- The state in which a quadrant has chosen: marks cleared, the passed-over counts of the chosen group's batches
brought up to date, and the issuing party named. -/
def State.choose (s : State) (core q : Nat) : Option State :=
  match s.pickGroup core q with
  | (none, _) => none
  | (some (g, G), passed) =>
    let ready := s.readyBatches core g G
    match G.pickBatch ready with
    | none => none
    | some b =>
      let s1 := passed.foldl (fun u k => u.modGroup core k fun H => { H with giveWay := false }) s
      let s2 := s1.modGroup core g fun H =>
        { H with batches := H.batches.mapIdx fun i B =>
            { B with passed := if i != b && ready.contains i then B.passed + 1 else 0 }
                 shown := match H.batches[b]? with
                   | some B => ((B.hints.head?.map (·.pc)).getD (H.batchPc B), (lanesOf B.lanes).any fun l => (H.lane l).handler)
                   | none => H.shown }
      some { s2 with cur := { core := core, g := g, b := b } }

/-- What a fetch gives: the word, or the trap that the fetching fibres raise. -/
inductive Fetched where
  | word (w : Nat)
  | trap (t : Trap)
  /-- The page is an Onyx code page (R351): the physical address of the PC, and whether its leaf has R (R357). -/
  | onyx (pa : Nat) (readable : Bool)
  /-- The line comes into the instruction cache in some cycles (R2, R410). -/
  | miss (n : Nat)
  /-- The line lies in a package that does not answer: its physical address (R277). -/
  | far (line : Nat)
deriving DecidableEq, Repr

/-- The line of an instruction cache that holds the code at an address. -/
def Core.codeLine (C : Core) (x va pa : Nat) : Option CodeLine :=
  C.icache.find? fun l => l.ctx == x && l.va == va / 128 * 128 && l.pa == pa / 128 * 128

/-- The word of a line at an address. -/
def CodeLine.word (l : CodeLine) (va : Nat) : Nat := bytesWord (sliceBytes l.bytes (va % 128) 4)

/-- The lines of an instruction cache of 128 KiB (R2); the oldest one leaves a full cache (log entry 69). -/
def Core.fillCode (C : Core) (l : CodeLine) : Core :=
  { C with icache := (if C.icache.length < 1024 then C.icache else C.icache.drop 1) ++ [l] }

/-- Reading code at a physical address into the instruction cache of a core. A line is cached when all of it can be
read. -/
def State.readCode (s : State) (core x va pa : Nat) : State × Fetched :=
  let ln := pa / 128 * 128
  let bs := s.rd ln 128
  let w := bytesWord (sliceBytes bs (va % 128) 4)
  if s.reach ln == .late then (s, .far ln)
  else if s.reach ln != .ok || s.bad pa 4 then (s.noteLine x (srcCore core) pa 4, .trap (mkTrap fcPoison 0 va))
  else if s.bad ln 128 then (s, .word w)
  else (s.modCore core fun C => C.fillCode { ctx := x, va := va / 128 * 128, pa := ln, bytes := bs }, .word w)

/-- The leaf for an address of code. A fetch that has waited for its line has been translated and counted already (R275,
R287). -/
def State.codeLeaf (s : State) (core x va : Nat) (waited : Bool) : State × Option Leaf :=
  if waited then (s, s.peekLeaf core x va) else s.leafCore core x va

/-- How a fetch without a leaf ends: a trap, or the wait for a table entry in a package that does not answer (R277). -/
def State.noCode (s : State) (x va : Nat) : Fetched :=
  match if s.noLeaf x va == fcPoison then s.lateAt x va else none with
  | some line => .far line
  | none => .trap (Access.fetch.trap (s.noLeaf x va) va)

/-- The fetch of the instruction at a virtual address by a core (R275, R58, R122): from its instruction cache, or from
memory, which takes some cycles unless the fetch has waited for its line already. X is not checked on a page with O = 1
(R357). -/
def State.fetch (s : State) (core x va : Nat) (waited : Bool) : State × Fetched :=
  match s.codeLeaf core x va waited with
  | (t, none) => (t, s.noCode x va)
  | (t, some l) =>
    if bit l.flags 5 then (t, .onyx (l.pa + (va - l.va)) (bit l.flags 2))
    else
      match t.leafResult x l va .fetch with
      | .ok pa _ =>
        match (t.core core).codeLine x va pa with
        | some ln => (t, .word (ln.word va))
        | none =>
          if waited || t.delays.headD 0 == 0 then (t.spendDelay (!waited)).readCode core x va pa
          else (t.spendDelay true, .miss (t.delays.headD 0))
      | .fault code => (t, .trap (Access.fetch.trap code va))
      | .proc _ _ => (t, .trap (mkTrap fcPage 2 va))

/-- The issuing batch waits instead of issuing: its quadrant's issue slot stays free. -/
def State.park (s : State) (w : Wait) : State :=
  (s.modGroup s.cur.core s.cur.g fun G => { G with batches := G.batches.modify s.cur.b fun B => { B with wait := some w } }).freeSlot
    s.cur.core s.cur.g

/-- The batch waits for a line of code in a package that does not answer, and traps when the request ends (R277). -/
def State.fetchFar (s : State) (line : Nat) : State :=
  match s.issuer with
  | none => s
  | some I =>
    let n := s.nextOp
    ({ s with nextOp := n + 1
              remotes := tset s.remotes n { ctx := I.x, lines := [line], due := s.now + remoteLimit, core := I.core, g := I.g,
                                            tid := I.tid, store := false, who := none, ended := false } } : State).park
      (.codeFar n)

/-- The whole batch traps at its fetch. -/
def State.fetchTrap (s : State) (t : Trap) : Out :=
  match s.issuer with
  | none => .fault .noIssuer
  | some I => .next ((s.account I.core I.g 0 none).finish I none (I.lanes.map fun l => { lane := l, trap := some t }))

end Sys2Proof.Machine
end

