-- ==== Sys2Proof/Machine/Control.lean ====
section
/-!
DEFINITION. Branches and calls (R57-R59, R40; 02_control_arith.md).
-/

namespace Sys2Proof.Machine

/-- The target of a displacement: PC + 4 + Sext(disp14, 14) x 4. -/
def dispTarget (pc : Nat) (t : BitVec 14) : Nat := (((pc : Int) + 4 + sext 14 t.toNat * 4) % 2 ^ 64).toNat

/-- The target lies in an Onyx code page without R, which no transfer may enter (R357). -/
def State.barred (s : State) (core x t : Nat) : Bool :=
  ((s.peekLeaf core x t).map fun l => bit l.flags 5 && !bit l.flags 2).getD false

/-- The trap of a transfer to a target: a malformed one (R58), or an Onyx code page without R (R357). -/
def State.targetTrap (s : State) (core x t : Nat) : Option Trap :=
  (badTarget t).orElse fun _ => if s.barred core x t then some (mkTrap fcProt 0 t) else none

/-- A fibre goes to a target, or traps and changes nothing. -/
def goTo (s : State) (I : Issue) (l t : Nat) (ws : List (RegRef × Word)) : LaneOut :=
  match s.targetTrap I.core I.x t with
  | some tr => { lane := l, trap := some tr }
  | none => { lane := l, writes := ws, next := some t }

/-- A transfer of each fibre to a target of its own, with the registers that it writes; none where it falls through. -/
def transfer (f : Issue → Nat → Option (Nat × List (RegRef × Word))) (I : Issue) (s : State) : Result :=
  eachLane (fun I l =>
    match f I l with
    | some (t, ws) => goTo s I l t ws
    | none => { lane := l }) I s

/-- A branch to a displacement for the fibres that take it. -/
def branch (i : Instr) (c : BitVec 3) (ops : List Opnd) (t : BitVec 14) (taken : Issue → Nat → Bool)
    (peers : Group → List Nat → Nat → List (RegRef × Nat) := fun _ _ _ => []) : State → Out :=
  issue { ins := i, c := c, ops := ops, peers := peers }
    (transfer fun I l => if taken I l then some (dispTarget I.pc t, []) else none)

/-- BRA. -/
def execBra (t : BitVec 14) (c : BitVec 3) : State → Out := branch (.bra t c) c [] t fun _ _ => true
/-- BRP. -/
def execBrp (p : BitVec 5) (t : BitVec 14) (c : BitVec 3) : State → Out :=
  branch (.brp p t c) c [op p] t fun I l => I.R.p l p.toNat
/-- BRN. -/
def execBrn (p : BitVec 5) (t : BitVec 14) (c : BitVec 3) : State → Out :=
  branch (.brn p t c) c [op p] t fun I l => !I.R.p l p.toNat
/-- BRP.ANY. -/
def execBrpAny (p : BitVec 5) (t : BitVec 14) (c : BitVec 3) : State → Out :=
  branch (.brpAny p t c) c [op p] t (fun I _ => I.act.any fun l => I.R.p l p.toNat) (peerP p.toNat)
/-- BRP.ALL. -/
def execBrpAll (p : BitVec 5) (t : BitVec 14) (c : BitVec 3) : State → Out :=
  branch (.brpAll p t c) c [op p] t (fun I _ => I.act.all fun l => I.R.p l p.toNat) (peerP p.toNat)

/-- The writes of the return address to the pair 2L; its bits [63:52] are zero (R58). -/
def linkWrites (l : Nat) (r : BitVec 5) (pc : Nat) : List (RegRef × Word) := wpair l (2 * r.toNat) ((pc + 4) % vaTop)

/-- The vector pair that a 5-bit pair index names. -/
def pairOp (r : BitVec 5) : Opnd := .v (2 * r.toNat) 2 2

/-- CALL. -/
def execCall (r : BitVec 5) (t : BitVec 14) (c : BitVec 3) : State → Out :=
  issue { ins := .call r t c, c := c, ops := [pairOp r] }
    (transfer fun I l => some (dispTarget I.pc t, linkWrites l r I.pc))
/-- CALLI: the target is read before the return address is written. -/
def execCalli (r t : BitVec 5) (c : BitVec 3) : State → Out :=
  issue { ins := .calli r t c, c := c, ops := [pairOp r, pairOp t] }
    (transfer fun I l => some (I.R.vpair l (2 * t.toNat), linkWrites l r I.pc))
/-- RET. -/
def execRet (p : BitVec 5) (c : BitVec 3) : State → Out :=
  issue { ins := .ret p c, c := c, ops := [pairOp p] } (transfer fun I l => some (I.R.vpair l (2 * p.toNat), []))
/-- JMPI. -/
def execJmpi (t : BitVec 5) (c : BitVec 3) : State → Out :=
  issue { ins := .jmpi t c, c := c, ops := [pairOp t] } (transfer fun I l => some (I.R.vpair l (2 * t.toNat), []))

/-- BRX: an index above `n` selects the word behind the table. -/
def execBrx (im n : BitVec 7) (c : BitVec 3) : State → Out :=
  issue { ins := .brx im n c, c := c, ops := [ov im] }
    (transfer fun I l =>
      let k := min (I.R.v l im.toNat).toNat (n.toNat + 1)
      some (I.pc + 4 + 4 * k, []))

end Sys2Proof.Machine
end

