-- ==== Sys2Proof/Machine/System.lean ====
section
/-!
DEFINITION. The system instructions of major 0x00 (R27-R29, R42, 01_word.md; R189-R197,
04_matrix_graphics_system_instr.md; R360, 15_onyx.md; R418-R422, 21_observation.md).
-/

namespace Sys2Proof.Machine

/-! ## ILL, NOP, TRAP, BKPT, ERET -/

/-- ILL. -/
def execIll (x : BitVec 21) : State → Out :=
  issue { ins := .ill x, c := x.setWidth 3 } fun I s => .go s (trapAll I (mkTrap fcIllop 0 0))

/-- NOP. -/
def execNop (c : BitVec 3) : State → Out := issue { ins := .nop c, c := c } fun _ s => .go s []

/-- TRAP. -/
def execTrap (k : BitVec 14) (c : BitVec 3) : State → Out :=
  issue { ins := .trap k c, c := c } fun I s => .go s (trapAll I (mkTrap fcTrapi k.toNat 0))

/-- BKPT. -/
def execBkpt (k : BitVec 14) (c : BitVec 3) : State → Out :=
  issue { ins := .bkpt k c, c := c } fun I s => .go s (trapAll I (mkTrap fcBkpt k.toNat 0))

/-- What ERET does to one fibre (R191, R357). -/
def eretLane (s : State) (I : Issue) (l : Nat) : LaneOut := goTo s I l (I.G.lane l).trappc.toNat []

/-- ERET: the return from a trap. The fibres whose sr.trappc no transfer may take stay in handler mode and trap. -/
def execEret (c : BitVec 3) : State → Out :=
  issue { ins := .eret c, c := c, priv := true } fun I s =>
    let good := I.act.filter fun l => (s.targetTrap I.core I.x (I.G.lane l).trappc.toNat).isNone
    .go (s.modGroup I.core I.g fun G => good.foldl (fun H l => H.modLane l Lane.eret) G) (I.act.map (eretLane s I))

/-! ## Special registers -/

/-- Selectors of registers that each fibre holds (R192). -/
def srPerFibre (k : Nat) : Bool := k == 0x00 || (0x0D ≤ k && k ≤ 0x0F)

/-- sr.region (R27): the top identifier and the depth. -/
def Group.srRegion (G : Group) : Nat := ((G.regions.head?.map (·.toNat)).getD 0) + G.regions.length * 2 ^ 16

/-- The value of a special register for the fibre in lane `l` (R27). -/
def srValue (I : Issue) (s : State) (l k : Nat) : Nat :=
  let L := I.G.lane l
  match k with
  | 0x00 => l
  | 0x01 => I.g
  | 0x02 => I.T.index % 2 ^ 32
  | 0x03 => I.T.grid % 2 ^ 32
  | 0x04 => I.G.role
  | 0x05 => I.core
  | 0x06 => dieOf I.core
  | 0x07 => s.idForce.toNat % 1024
  | 0x08 => I.x
  | 0x09 => s.coreCycle I.core % 2 ^ 64
  | 0x0A => I.G.fpmode.toNat
  | 0x0B => I.G.fpflags.toNat
  | 0x0C => I.G.compat.toNat
  | 0x0D => L.trapcause.toNat
  | 0x0E => L.trappc.toNat
  | 0x0F => L.trapaddr.toNat
  | _ => I.G.srRegion

/-- A register whose reading needs handler mode (R27). -/
def srPrivRead (k : Nat) : Bool := 0x0D ≤ k && k ≤ 0x0F
/-- A register whose writing needs handler mode. -/
def srPrivWrite (k : Nat) : Bool := 0x0C ≤ k && k ≤ 0x0F

/-- MFS to a scalar register or pair. -/
def execMfs (d sf : BitVec 7) (w : BitVec 1) (c : BitVec 3) : State → Out :=
  issue { ins := .mfs d sf w c, c := c, ops := [osn (w.toNat + 1) d], lat := some 4, pred := false,
          priv := srPrivRead sf.toNat } fun I s =>
    let v := srValue I s I.low sf.toNat
    .go s (scalarOut I ((.s d.toNat, word v) ::
      (if w == 1 then [(.s (d.toNat + 1), word (v / 2 ^ 32))] else [])))

/-- MFS.V: each fibre's own value. -/
def execMfsV (d sf : BitVec 7) (w : BitVec 1) (c : BitVec 3) : State → Out :=
  issue { ins := .mfsV d sf w c, c := c, ops := [ovn (w.toNat + 1) d], lat := some 4, pred := false,
          priv := srPrivRead sf.toNat } fun I s =>
    .go s (I.act.map fun l =>
      let v := srValue I s l sf.toNat
      { lane := l, writes := if w == 1 then wpair l d.toNat v else [(.v l d.toNat, word v)] })

/-- MFS.B: a buffer record. -/
def execMfsB (d : BitVec 7) (b : BitVec 4) (c : BitVec 3) : State → Out :=
  issue { ins := .mfsB d b c, c := c, ops := [osn 8 d], lat := some 4, pred := false } fun I s =>
    let v := (tget I.T.recs b.toNat 0).toNat
    .go s (scalarOut I ((List.range 8).map fun i => (.s (d.toNat + i), word (v / 2 ^ (32 * i)))))

/-- The bits of sr.trapcause that are not reserved (R241). -/
def causeMask : Word := 0x03FFFFFF

/-- Writing a register that the group holds: sr.fpmode, sr.fpflags, sr.compat. -/
def Group.setSr (G : Group) (k : Nat) (v : Word) : Group :=
  match k with
  | 0x0A => { G with fpmode := v &&& 0xF }
  | 0x0B => { G with fpflags := v &&& flagsMask }
  | 0x0C => { G with compat := v &&& 0xFFFF }
  | _ => G

/-- Writing a register of a fibre: sr.trapcause, sr.trappc, sr.trapaddr. -/
def Lane.setSr (L : Lane) (k : Nat) (v : DWord) : Lane :=
  match k with
  | 0x0D => { L with trapcause := v.setWidth 32 &&& causeMask }
  | 0x0E => { L with trappc := v }
  | 0x0F => { L with trapaddr := v }
  | _ => L

/-- The 64-bit value that MTS writes: with alt = 0 the high word of a 64-bit register is a free value. -/
def mtsValue (s : State) (k : Nat) (w : BitVec 1) (v : Nat) : State × DWord :=
  if w == 1 || k < 0x0E then (s, BitVec.ofNat 64 v)
  else
    let (t, n) := s.draw
    (t, BitVec.ofNat 64 (v % 2 ^ 32) + (Config.freeWord n).zeroExtend 64 * 0x100000000)

/-- MTS: `val` gives the source of a lane (R192, R360). -/
def mtsRun (k : Nat) (w : BitVec 1) (val : Issue → Nat → Nat) (I : Issue) (s : State) : Result :=
  let low := val I I.low
  if k == 0x0C && !compatOk (low % 2 ^ 32) then .go s (trapAll I (mkTrap fcIllop 0 (low % 2 ^ 32)))
  else if srPerFibre k then
    .go (I.act.foldl (fun u l =>
      let r := mtsValue u k w (val I l)
      r.1.modGroup I.core I.g fun G => G.modLane l fun L => L.setSr k r.2) s) []
  else .go (s.modGroup I.core I.g fun G => G.setSr k (word low)) []

/-- MTS from a scalar register or pair. -/
def execMts (d sf : BitVec 7) (w : BitVec 1) (c : BitVec 3) : State → Out :=
  issue { ins := .mts d sf w c, c := c, ops := [osn (w.toNat + 1) d], pred := false, priv := srPrivWrite sf.toNat }
    (mtsRun sf.toNat w fun I _ => if w == 1 then I.R.spair d.toNat else (I.R.s d.toNat).toNat)

/-- MTS.V: each fibre's own value for a register of the fibre. -/
def execMtsV (d sf : BitVec 7) (w : BitVec 1) (c : BitVec 3) : State → Out :=
  issue { ins := .mtsV d sf w c, c := c, ops := [ovn (w.toNat + 1) d], pred := false, priv := srPrivWrite sf.toNat }
    (mtsRun sf.toNat w fun I l => if w == 1 then I.R.vpair l d.toNat else (I.R.v l d.toNat).toNat)

/-- The touch entries of a slot end for every group of a team (R116). -/
def State.endSlot (s : State) (tid slot : Nat) : State :=
  s.modCore (s.team tid).core fun C =>
    { C with groups := C.groups.map fun e =>
        (e.1, if e.2.tid == tid then { e.2 with touches := e.2.touches.filter (·.slot != slot) } else e.2) }

/-- The 256 bits of a scalar octet. -/
def octet (R : Group) (n : Nat) : BitVec 256 :=
  BitVec.ofNat 256 ((List.range 8).foldr (fun i a => (R.s (n + i)).toNat + 2 ^ 32 * a) 0)

/-- MTS.B: the record for the whole team, unless it holds a reserved value. -/
def execMtsB (d : BitVec 7) (b : BitVec 4) (c : BitVec 3) : State → Out :=
  issue { ins := .mtsB d b c, c := c, ops := [osn 8 d], pred := false } fun I s =>
    let v := octet I.R d.toNat
    if recValid v then
      .go ((s.modTeam I.tid fun T => { T with recs := tput T.recs b.toNat v 0 }).endSlot I.tid b.toNat) []
    else .go s (trapAll I (mkTrap fcIllop 0 0))

/-! ## FEAT, CLK -/

/-- FEAT. -/
def execFeat (d n : BitVec 7) (m : BitVec 1) (c : BitVec 3) : State → Out :=
  issue { ins := .feat d n m c, c := c, ops := [os d], pred := false } fun I s =>
    .go s (scalarOut I [(.s d.toNat, bword ((s.ctx I.x).hasFeature (n.toNat + 128 * m.toNat)))])

/-- CLK. -/
def execClk (d : BitVec 7) (c : BitVec 3) : State → Out :=
  issue { ins := .clk d c, c := c, ops := [osn 2 d], lat := some 4, pred := false } fun I s =>
    .go s (scalarOut I [(.s d.toNat, word (s.coreCycle I.core)), (.s (d.toNat + 1), word (s.coreCycle I.core / 2 ^ 32))])

/-! ## FENCE, SLEEP -/

/-- FENCE and FENCE.AX: every store of the group is performed, and the batch waits for its far stores (R194, R277). Every
other access of the fibres has been performed when it issued. It publishes the group's stores and makes the group see
those that were published to it (R310, R315; log entry 8). -/
def fenceRun (sf : BitVec 3) (I : Issue) (s : State) : Result :=
  let t := s.drainWc I.core I.g
  let k := I.scope sf.toNat
  if t.farStores I.core I.g then .wait t (.poll 15)
  else .go ((t.publish I.party none k fun _ => true).acquire I.party none k) []

/-- FENCE. -/
def execFence (sf c : BitVec 3) : State → Out := issue { ins := .fence sf c, c := c, scope := true } (fenceRun sf)
/-- FENCE.AX. -/
def execFenceAx (sf c : BitVec 3) : State → Out := issue { ins := .fenceAx sf c, c := c, scope := true } (fenceRun sf)

/-- SLEEP (R195): no pause for a count of 0, and none while a pre-emption request is pending. -/
def sleepRun (lv : Bool) (n : BitVec 7) (I : Issue) (s : State) : Result :=
  let k := (I.R.s n.toNat).toNat
  if k == 0 || s.drainSeen I.x I.tid then .go s []
  else .go (s.modGroup I.core I.g fun G => { G with sleep := some (s.pulses I.core + 1 + k, lv) }) []

/-- SLEEP. -/
def execSleep (n : BitVec 7) (c : BitVec 3) : State → Out :=
  issue { ins := .sleep n c, c := c, ops := [os n] } (sleepRun false n)
/-- SLEEP.LV. -/
def execSleepLv (n : BitVec 7) (c : BitVec 3) : State → Out :=
  issue { ins := .sleepLv n c, c := c, ops := [os n] } (sleepRun true n)

/-! ## MARK, REGE, REGL -/

/-- The header of a trace record (R412, R420). -/
def traceHeader (cycle core quad slot cls : Nat) : List Byte :=
  leBytes 6 (cycle % 2 ^ 48) ++ leBytes 1 core ++ leBytes 1 (quad % 4 + slot % 16 * 4 + cls % 4 * 64)

/-- Bytes 8 to 23 of a trace record of classes 1 and 3: the PC, bits [31:18] of bytes 12-15, and the top four
regions. -/
def tracePc (pc upper : Nat) (rs : List (BitVec 16)) : List Byte :=
  leBytes 4 (bits pc 2 32) ++ leBytes 4 (bits pc 34 16 + bits pc 50 2 * 2 ^ 16 + upper % 2 ^ 14 * 2 ^ 18) ++
    regionBytes 4 rs

/-- Writing a trace record; a fault is logged as TRACE_DROP (R419). -/
def State.putTrace (s : State) (w : TraceWait) : State :=
  match s.ringPut w.ctx traceRing (sliceBytes w.bytes 0 64) with
  | (t, true) => t.logError w.ctx 15 0 { kind := w.kind, src := w.src } w.cls 0 0
  | (t, false) => t

/-- An account of a die with an earlier cycle is still to be written to a context's trace ring (R419, R423). -/
def State.accountBefore (s : State) (x d cycle : Nat) : Bool :=
  s.lats.any fun e => e.2.ctx == x && dieOf e.2.core == d && e.2.cycle < cycle

/-- A trace record enters its ring, behind the records of its die with earlier cycles (R419; log entry 76). -/
def State.logTrace (s : State) (w : TraceWait) : State :=
  if s.accountBefore w.ctx w.die w.cycle then { s with traces := s.traces ++ [w] } else s.putTrace w

/-- The records of a die that wait for no account any more enter the ring. -/
def State.flushTraces (s : State) (x d : Nat) : State :=
  let go := s.traces.filter fun w => w.ctx == x && w.die == d && !s.accountBefore x d w.cycle
  go.foldl State.putTrace { s with traces := s.traces.filter fun w => !go.contains w }

/-- MARK (R196, R421). -/
def execMark (n k : BitVec 7) (c : BitVec 3) : State → Out :=
  issue { ins := .mark n k c, c := c, ops := [os n] } fun I s =>
    if bit ((s.ctx I.x).word 0x088) 5 then
      let bs := traceHeader (s.coreCycle I.core) I.core (I.g / 16) (I.g % 16) 1 ++ tracePc I.pc k.toNat I.G.regions ++
        leBytes 4 (I.R.s n.toNat).toNat ++ leBytes 4 (maskOf I.act).toNat
      let w : TraceWait := { ctx := I.x, die := dieOf I.core, cycle := s.coreCycle I.core, cls := 1, kind := 0, src := I.core, bytes := bs }
      .go (s.logTrace w) []
    else .go s []

/-- A region stop matches an identifier at an edge (R422). -/
def Ctx.stopsAt (c : Ctx) (enter : Bool) (id : BitVec 16) : Bool :=
  (List.range 4).any fun k =>
    let v := c.dword (0x080 + 32 + 8 * k)
    bit v (if enter then 32 else 33) && ((id.toNat ^^^ bits v 0 16) &&& bits v 16 16) == 0

/-- A region edge: the stack changes, and the context stops when a stop matches (R422). -/
def regionEdge (I : Issue) (s : State) (enter : Bool) (id : BitVec 16) (rs : List (BitVec 16)) : State :=
  let s1 := s.modGroup I.core I.g fun G => { G with regions := rs }
  let c := s.ctx I.x
  if c.st == .active && c.stopsAt enter id then
    let r := s1.trapRec I.core I.g { I.G with regions := rs } I.lanes (I.pc + 4) (mkTrap fcBkpt id.toNat I.pc) dispStopped
    ((s1.stopCtx I.x).logTrap I.x r).event 3 I.x (s.recDetail r 48)
  else s1

/-- An edge at which a stop matches waits until the variable-latency writes of its fibres' older instructions have landed, so
that the stopping point is precise (R242, R422). -/
def regionRun (I : Issue) (s : State) (enter : Bool) (id : BitVec 16) (rs : List (BitVec 16)) : Result :=
  let c := s.ctx I.x
  if c.st == .active && c.stopsAt enter id && I.G.owes I.lanes then .wait s (.poll 3) else .go (regionEdge I s enter id rs) []

/-- REGE. -/
def execRege (im : BitVec 16) (c : BitVec 3) : State → Out :=
  issue { ins := .rege im c, c := c } fun I s => regionRun I s true im ((im :: I.G.regions).take 16)

/-- REGL. -/
def execRegl (c : BitVec 3) : State → Out :=
  issue { ins := .regl c, c := c } fun I s =>
    match I.G.regions with
    | [] => .go s []
    | r :: rs => regionRun I s false r rs

/-! ## CSW -/

/-- CSW: the request goes to Agate, and the batch waits (R197). -/
def execCsw (n d : BitVec 7) (c : BitVec 3) : State → Out :=
  issue { ins := .csw n d c, c := c, ops := [os d, osn 4 n], pred := false, priv := true } fun I s =>
    let w := (I.R.s n.toNat).toNat
    if bits w 4 28 != 0 || 5 ≤ bits w 0 3 then .go s (trapAll I (mkTrap fcIllop 0 w))
    else
      .wait { s with csws := s.csws ++
        [{ core := I.core, g := I.g, ctx := I.x, kind := bits w 0 3, dflt := bit w 3,
           va := I.R.spair (n.toNat + 1), len := (I.R.s (n.toNat + 3)).toNat, dst := d.toNat, lanes := I.B.lanes }] } .csw

/-- The bytes of the signature at the end of an image (R452). -/
def imageSigned (bs : List Byte) : List Byte × List Byte := (bs.take (bs.length - 96), bs.drop (bs.length - 96))

/-- The status of an image (R197, R452). -/
def State.imageStatus (s : State) (x kind : Nat) (bs : List Byte) : Nat :=
  let (body, sig) := imageSigned bs
  let owner := Config.ecdsaVerify (BitVec.ofNat 384 (leNat (s.ownerKey.take 48))) body sig
  if bs.length < 96 || !(Config.ecdsaVerify Config.microcodeKey body sig || owner) then 1
  else if bs.length != 64 + 8 * 4096 + 96 || !Config.imageHeaderOk kind bs then 2
  else if !Config.ecdsaVerify Config.microcodeKey body sig && !bit ((s.ctx x).word 0x1EC) 0 then 4
  else 0

/-- CSW_INSTALL: Agate ends the oldest request of a group (R197): the image is installed, or the old one stays, and the
status is written. -/
def execCswInstall (core g : Nat) (s : State) : Out :=
  match s.csws.find? fun q => q.core == core && q.g == g with
  | none => .next s
  | some q =>
    if s.pendingFault (.csw core g) then .next s else
    match if q.dflt then (s, .ok []) else s.farRead (.csw core g) (srcHdie 0) q.ctx q.va q.len with
    | (t, .wait) => .next t
    | (s0, r) =>
    let (status, img) : Nat × Option Nat :=
      match r with
      | .ok bs => if q.dflt then (0, none) else (s0.imageStatus q.ctx q.kind bs, some (Config.sha384 bs).toNat)
      | _ => (3, none)
    let s1 := { s0 with csws := delFirst (fun q => q.core == core && q.g == g) s0.csws }
    let s2 := if status != 0 then s1
      else s1.modCtx q.ctx fun c => { c with images :=
        match img with
        | none => tdel c.images q.kind
        | some k => tset c.images q.kind k }
    .next (s2.modGroup core g fun G =>
      let H := G.writeVar [(.s q.dst, word status)]
      let bi := H.batches.findIdx fun B => B.wait == some .csw && B.lanes == q.lanes
      match H.batches[bi]? with
      | none => H
      | some B =>
        let pc := H.batchPc B
        let K := (lanesOf B.lanes).foldl (fun K l => K.modLane l fun L => { L with pc := pc + 4 }) H
        { K with batches := K.batches.modify bi fun _ => Batch.fresh B.lanes })

end Sys2Proof.Machine
end

