-- ==== Sys2Proof/Machine/Observe.lean ====
section
/-!
DEFINITION. Sampling, sync packets, latency accounts and the PTP clock (R407-R413, 20_program_sampling.md; R414-R424,
21_observation.md; R436, 23_host.md): the steps SAMPLE_EXPIRY, SYNC_PACKET, LATENCY_ACCOUNT, PTP_MESSAGE and
PTP_LOCK_LOSS.
-/

namespace Sys2Proof.Machine

/-! ## Stall reasons (R158, R410, R411) -/

/-- The stall reason of a wait (R410). -/
def Wait.reason : Wait → Nat
  | .poll r => r
  | .gather _ _ => 4
  | .phase _ _ _ => 4
  | .rcv _ _ => 9
  | .lock _ _ => 12
  | .object _ _ _ => 4
  | .push _ => 15
  | .op _ r => r
  | .remote _ _ => 3
  | .matrix _ => 6
  | .prim _ => 15
  | .order _ => 15
  | .csw => 15
  | .onyx _ _ => 11
  | .score => 3
  | .code _ => 11
  | .codeFar _ => 11

/-- The group issued in the present cycle: its next counted cycle lies behind the present one. -/
def State.issuedNow (s : State) (core : Nat) (G : Group) : Bool := G.lastIssue == s.pulses core + 1

/-- A fibre is parked on a block. -/
def onFill : Option Park → Bool
  | some (.fill _ _) => true
  | _ => false

/-- Every live fibre of the group is parked: 14 when all are parked on blocks, 8 when one is parked on a fault. -/
def Group.parkedReason (G : Group) : Option Nat :=
  let ps := (G.lanes.filter fun e => e.2.live).map fun e => e.2.parked
  if ps.isEmpty || ps.any Option.isNone then none
  else if ps.all onFill then some 14
  else some 8

/-- Some of the lanes lie on an island that leaves near-threshold mode (R430). -/
def Islands.leavingUnder (i : Islands) (lanes : BitVec 32) : Bool :=
  (List.range 4).any fun k => bits lanes.toNat (8 * k) 8 != 0 && (i.leaving.getD k none).isSome

/-- The chosen batch of a group (R411): the one that R54 and R219 would choose, or the youngest when none is ready. -/
def State.chosenBatch (s : State) (core g : Nat) (G : Group) : Option Batch :=
  match G.pickBatch (s.readyBatches core g G) with
  | some i => G.batches[i]?
  | none => G.batches.getLast?

/-- An island holds the batch back: it leaves near-threshold mode under an active fibre of it, or begins to because the group
would become ready (R430). -/
def State.islandHolds (s : State) (core g : Nat) (G : Group) (B : Batch) : Bool :=
  let isl := s.quad core (g / 16)
  isl.leavingUnder (G.activeMask B) ||
    (s.groupOpen core g G && B.mayIssue (s.coreCycle core) && !isl.allows (G.activeMask B))

/-- The reason of a sample (R411), none where no case applies. -/
def State.sampleReason (s : State) (core g : Nat) (G : Group) : Option Nat :=
  let B := s.chosenBatch core g G
  if s.issuedNow core G then some 0
  else if !s.pulse core || (B.map fun b => s.islandHolds core g G b).getD false then some 10
  else if !(s.readyBatches core g G).isEmpty then some 1
  else if s.coreCycle core < G.nextIssue && !(s.readyBatches core g { G with nextIssue := 0 }).isEmpty then some 2
  else if G.st != .resident then some 15
  else
    match G.parkedReason with
    | some r => some r
    | none => if G.sleep.isSome then some 15 else (B.bind (·.wait)).map Wait.reason

/-! ## Samples (R409-R413) -/

/-- The group is eligible for a sample (R409). -/
def State.sampled (s : State) (G : Group) : Bool :=
  (s.team G.tid).begun && (s.team G.tid).begunAt ≤ s.now && bit ((s.ctx G.ctx).word 0x068) 5

/-- The group of a group context that an expiry may sample: the resident one, or one that has issued its last instruction
in the expiry cycle (R409). -/
def State.sampleAt (s : State) (core g : Nat) : Option (Nat × Group) :=
  let C := s.core core
  (((tget? C.groups g).filter fun G => s.sampled G).orElse fun _ =>
    (tget? C.exited g).filter fun G => s.issuedNow core G && s.sampled G).map fun G => (g, G)

/-- The next eligible group, after the group context sampled last. -/
def State.nextSampled (s : State) (core : Nat) : Option (Nat × Group) :=
  let C := s.core core
  let es := (List.range 64).filterMap (s.sampleAt core)
  match C.lastSamp with
  | none => es.head?
  | some g => (es.find? fun e => g < e.1).orElse fun _ => es.head?

/-- The minor that a sample shows, by the format of the major (R13, R32, R412). -/
def sampleMinor (w : Nat) : Nat :=
  let m := bits w 26 6
  if m == 0x3F || (0x08 ≤ m && m ≤ 0x0B) then bits w 23 3
  else if m == 1 || m == 2 then bits w 22 4
  else if m == 0 || m == 3 || m == 5 || m == 6 || (0x2D ≤ m && m ≤ 0x39) then bits w 21 5
  else if m == 4 || m == 7 || (0x0E ≤ m && m ≤ 0x15) || (0x18 ≤ m && m ≤ 0x1C) || (0x20 ≤ m && m ≤ 0x23) then bits w 24 2
  else 0

/-- The instruction word at an address of a context that a core's instruction cache holds. -/
def Core.wordAt (C : Core) (x pc : Nat) : Option Word :=
  (C.icache.find? fun l => l.ctx == x && l.va == pc / 128 * 128).map fun l => word (l.word pc)

/-- Where a group stands that did not issue: the address that its chosen batch would issue next. A group in boundary
wait stands at its YIELD (R67), and one without a batch at the PC of its lowest fibre. -/
def State.standing (s : State) (core g : Nat) (G : Group) : Nat × Bool :=
  let low (l : Nat) : Nat × Bool :=
    ((G.lane l).pc - (if G.st == .boundary then 4 else 0), (G.lane l).handler)
  match (s.chosenBatch core g G).bind fun B => (lanesOf B.lanes).head? with
  | some l => low l
  | none => low (G.live.headD 0)

/-- The 32 bytes of a sample record (R412). -/
def sampleBytes (s : State) (core g : Nat) (G : Group) (reason pc : Nat) (hm : Bool) (seq dropped : Nat) : List Byte :=
  let w := if reason == 0 then G.shownWord else ((s.core core).wordAt G.ctx pc).filter fun _ => Config.cached core pc s.now
  let shownWord := (w.map fun w => bits w.toNat 26 6 + sampleMinor w.toNat * 64).getD 0xFFFFFFFF
  let flags := b2n hm * 2 ^ 20 + b2n G.gwStart * 2 ^ 21 + b2n (s.boosted G) * 2 ^ 22 + b2n (1 < G.batches.length) * 2 ^ 23
  traceHeader (s.coreCycle core) core (g / 16) (g % 16) 0 ++ leBytes 4 (bits pc 2 32) ++
    leBytes 4 (bits pc 34 16 + reason % 16 * 2 ^ 16 + flags + bits pc 50 2 * 2 ^ 24) ++ regionBytes 4 G.regions ++
    leBytes 4 shownWord ++ leBytes 2 dropped ++ leBytes 2 seq

/-- Taking a sample of a group: the record is written or dropped, and its number advances (R412, R413). A reason for
which R411 has no case is a free value. -/
def State.takeSample (s : State) (core g : Nat) (G : Group) : State :=
  let (s0, n) := s.draw
  let reason := (s.sampleReason core g G).getD ((Config.freeWord n).toNat % 16)
  let at_ := if reason == 0 then G.shown else s.standing core g G
  let (seq, dropped) := tget (s.core core).sampSeq G.ctx (0, 0)
  let wr := (s.ctx G.ctx).word sampleRing.wr
  let s1 := (s0.ringPut G.ctx sampleRing (sampleBytes s core g G reason at_.1 at_.2 seq dropped)).1
  let lost := (s1.ctx G.ctx).word sampleRing.wr == wr
  s1.modCore core fun C =>
    { C with lastSamp := some g
             sampSeq := tset C.sampSeq G.ctx ((seq + 1) % 2 ^ 16, if lost then min 0xFFFF (dropped + 1) else 0) }

/-- An expiry of a core's sampling period has come (R409). -/
def State.expiryDue (s : State) (core : Nat) : Bool :=
  s.clocked core && bit (s.core core).sampling.toNat 20 && (s.core core).expiry.any fun t => t ≤ s.coreCycle core

/-- SAMPLE_EXPIRY. -/
def execSampleExpiry (core : Nat) (s : State) : Out :=
  .next (
    if !s.expiryDue core then s
    else
      let s1 := s.modCore core fun C => { C with expiry := C.expiry.map fun t => t + bits C.sampling.toNat 0 20 }
      match s.nextSampled core with
      | some (g, G) => s1.takeSample core g G
      | none => s1)

/-! ## Sync packets (R415-R417) -/

/-- A sync packet is due on a die: in a cycle of its clock. -/
def State.syncDue (s : State) (d : Nat) : Bool := (s.die d).edge && ((s.die d).sync.1 || (s.die d).sync.2)

/-- The 64 bytes of a sync packet (R416); the PTP time counts in units of 2^-16 ns below the nanosecond. The bound on
its error is the servo's. -/
def State.syncBytes (s : State) (d n : Nat) : List Byte :=
  let D := s.die d
  let ns := s.ptp
  let frac := (s.now - s.ptpCycle) * 5 % 18 * 2 ^ 16 / 18
  let flags := b2n D.sync.1 + b2n D.sync.2 * 2 + b2n (!s.ptpLocked) * 4
  traceHeader (s.cycle d) (0xF0 + d) 0 0 2 ++ leBytes 8 (s.cycle d) ++ leBytes 8 0 ++ leBytes 6 (ns / 10 ^ 9) ++ leBytes 2 0 ++
    leBytes 4 (ns % 10 ^ 9) ++ leBytes 2 frac ++ leBytes 2 flags ++ leBytes 4 D.khz ++ leBytes 4 (Config.ptpError n).toNat

/-- SYNC_PACKET: to the trace ring of every context whose control block asks for it. -/
def execSyncPacket (die : Nat) (s : State) : Out :=
  .next (
    if !s.syncDue die then s
    else
      let (s1, n) := s.draw
      let bs := s.syncBytes die n
      ((tkeys s.ctxs).filter fun x => bit ((s.ctx x).word 0x088) 6).foldl (fun u x =>
          u.logTrace { ctx := x, die := die, cycle := s.cycle die, cls := 2, kind := 1, src := die, bytes := bs })
        (s1.modDie die fun D => { D with sync := (false, false) }))

/-! ## Latency accounts (R423, R424) -/

/-- The line of a request is still on its way: a far target has not answered, the engine operation that carries it out
has not ended, or the store that it makes is held. -/
def State.underWay (s : State) (L : LatReq) : Bool :=
  (s.remotes.any fun r => r.2.core == L.core && r.2.g == L.g && r.2.who.isNone && !r.2.ended && r.2.lines.contains L.pa) ||
    (L.eng.map fun o => (s.die (dieOf L.core)).ops.any fun e => e.id == o).getD false ||
    ((L.op == 1 || L.op == 3) && ((s.group? L.core L.g).map fun G => G.held.any fun h => h.meets none L.pa 128).getD false)

/-- A reply that has reached the coalescer by the end of a cycle came in that cycle, which is not that of its request
(R423, R424). -/
def State.noteReply (s : State) (L : LatReq) : LatReq :=
  if L.reply.isNone && L.cycle < s.coreCycle L.core && !s.underWay L then { L with reply := some (s.coreCycle L.core) } else L

/-- The account of a sampled request can be written: its reply has come, and the accounts of its die with earlier cycles
have been written (R419, R423). -/
def State.replyDue (s : State) (n : Nat) : Option LatReq :=
  (tget? s.lats n).filter fun L => L.reply.isSome && !s.accountBefore L.ctx (dieOf L.core) L.cycle

/-- The queue fields of an account: what each queue took, never more in all than the total. -/
def queueFields (serial : Nat) : List Nat → Nat → List Nat
  | [], _ => []
  | k :: ks, rest =>
    let q := min rest (Config.latencyFigure serial k).toNat
    q :: queueFields serial ks (rest - q)

/-- The 64 bytes of a latency account. Fabric and CXL queues belong to those targets alone. The memory, the fabric ports and
the CXL ports are on the H-dies (R2), so that every line crosses at least one UCIe link. -/
def State.latBytes (s : State) (L : LatReq) : List Byte :=
  let total := min (L.reply.getD (s.coreCycle L.core) - L.cycle) 0xFFFFFFFF
  let hops := 1 + (Config.latencyFigure L.serial 8).toNat % 4
  let qs := queueFields L.serial (([0, 1, 2, 3, 4] : List Nat) ++ (if L.target == 1 then [5] else []) ++ (if L.target == 2 then [6] else [])) total
  let q (k : Nat) : Nat := qs.getD k 0
  traceHeader L.cycle L.core (L.g / 16) (L.g % 16) 3 ++ tracePc L.pc (L.op % 8 + L.target % 4 * 8 + hops * 32) L.regions ++
    leBytes 8 L.va ++ leBytes 4 total ++ ((List.range 5).flatMap fun k => leBytes 4 (q k)) ++
    leBytes 4 (if L.target == 1 then q 5 else 0) ++ leBytes 4 (if L.target == 2 then q 5 else 0)

/-- LATENCY_ACCOUNT. -/
def execLatencyAccount (n : Nat) (s : State) : Out :=
  .next (match s.replyDue n with
    | none => s
    | some L =>
      (({ s with lats := tdel s.lats n } : State).putTrace
        { ctx := L.ctx, die := dieOf L.core, cycle := L.cycle, cls := 3, kind := 0, src := L.core, bytes := s.latBytes L }).flushTraces
        L.ctx (dieOf L.core))

/-! ## The PTP clock (R436) -/

/-- PTP_MESSAGE: the slave clock takes the master's time, in ns, and is locked. -/
def execPtpMessage (ns : Nat) (s : State) : Out :=
  .next { s with ptpBase := ns % 2 ^ 64, ptpCycle := s.now, ptpLocked := true }

/-- PTP_LOCK_LOSS: global time runs free from the last value. -/
def execPtpLockLoss (s : State) : Out := .next { s with ptpLocked := false }

end Sys2Proof.Machine
end

