-- ==== Sys2Proof/Machine/Power.lean ====
section
/-!
DEFINITION. Clock patterns, release waves, voltage islands, the in-rush arbiter, budgets, ageing and heat (R425-R435,
22_power.md).
-/

namespace Sys2Proof.Machine

/-- A register write of Agate that is ignored and logged (R425, R426, R429): the address in the entry is not given. -/
def State.ignoreWrite (s : State) (v : Nat) : State :=
  let (t, n) := s.draw
  t.firmwareFault none (Config.freeDWord n).toNat v

/-! ## Clock patterns (R425, R435) -/

/-- A pattern written to a cluster: in effect from the next cycle whose count is a multiple of 32. -/
def State.writePattern (s : State) (cl : Nat) (v : Word) : State := s.modCluster cl fun C => { C with next := some v }

/-- CLOCK_PATTERN_WRITE: a write of 0 is ignored. -/
def execClockPatternWrite (cluster : Nat) (v : BitVec 32) (s : State) : Out :=
  .next (if v == 0 then s.ignoreWrite 0 else s.writePattern cluster v)

/-- THERMAL_THROTTLE: Agate narrows the pattern of a hot cluster. -/
def execThermalThrottle (cluster : Nat) (v : BitVec 32) (s : State) : Out :=
  .next (if v != 0 && v &&& (s.cluster cluster).pattern == v then s.writePattern cluster v else s)

/-- The end of a cycle of its die for a cluster: a masked pulse is counted apart, and a pattern written comes into effect. -/
def Cluster.tick (C : Cluster) (cycle : Nat) : Cluster :=
  let C1 := if C.pattern.getLsbD (cycle % 32) then C else { C with masked := C.masked + 1 }
  if (cycle + 1) % 32 == 0 then
    match C1.next with
    | some v => { C1 with pattern := v, next := none }
    | none => C1
  else C1

/-! ## Release waves (R426, R427) -/

/-- CURRENT_SLOPE_WRITE: a reserved value is ignored, and what is written to Reserved bits (R6). -/
def execCurrentSlopeWrite (cluster : Nat) (v : BitVec 32) (s : State) : Out :=
  let n := v.toNat
  .next (if bits n 0 6 == 0 || bits n 8 8 == 0 then s.ignoreWrite n
    else s.modCluster cluster fun C => { C with slope := v &&& 0xFF3F })

/-- The state word of a sync object, as memory holds it. -/
def State.objState (s : State) (x k : Nat) : Option Nat :=
  (s.walkPa x ((s.ctx x).objVa k)).bind fun pa => (parseObj (s.rd pa 64)).map (·.state)

/-- The phase that a batch waits for is over, and no wave has been given to it. -/
def State.phaseOver (s : State) (G : Group) (B : Batch) : Bool :=
  match B.wait with
  | some (.phase k ph none) => ph < ((s.team G.tid).bar k).phase
  | some (.object k ph none) => (s.objState G.ctx k).all (· != ph)
  | _ => false

/-- Naming the cycle of the wave in which a batch goes on. -/
def Batch.setRelease (B : Batch) (t : Nat) : Batch :=
  match B.wait with
  | some (.phase k ph none) => { B with wait := some (.phase k ph (some t)) }
  | some (.object k ph none) => { B with wait := some (.object k ph (some t)) }
  | _ => B

/-- Groups in order of age, the oldest first. -/
def insertAge (e : Nat × Group) : List (Nat × Group) → List (Nat × Group)
  | [] => [e]
  | f :: fs => if older e.2.age f.2.age then e :: f :: fs else f :: insertAge e fs

/-- The groups that the phases completed in the present cycle free on a core get their waves (R427). -/
def State.setWaves (s : State) (core : Nat) : State :=
  let freed := (s.core core).groups.filter fun e => e.2.batches.any (s.phaseOver e.2)
  let slope := (s.cluster (clusterOf core)).slope.toNat
  (freed.foldl (fun acc e => insertAge e acc) []).zipIdx.foldl (fun u (e, j) =>
    let t := s.coreCycle core + 1 + j / bits slope 0 6 * bits slope 8 8
    u.modGroup core e.1 fun G =>
      { G with batches := G.batches.map fun B => if s.phaseOver e.2 B then B.setRelease t else B }) s

/-- The cycle of a batch's wave has come. -/
def Batch.released (now : Nat) (B : Batch) : Bool :=
  match B.wait with
  | some (.phase _ _ (some t)) => t ≤ now
  | some (.object _ _ (some t)) => t ≤ now
  | _ => false

/-- A released batch goes on: past a BAR or BARW, and to another test of a WAITP. -/
def Group.releaseBatch (G : Group) (i : Nat) : Group :=
  match (G.batches[i]?).bind (·.wait) with
  | some (.phase _ _ _) => G.proceed i
  | some (.object _ _ _) => { G with batches := G.batches.modify i fun B => { B with wait := some (.poll 4), tried := 0 } }
  | _ => G

/-- A group of a core has batches whose wave has come, in a context that issues. -/
def State.waveDue (s : State) (core : Nat) (G : Group) : Bool :=
  (s.ctx G.ctx).st.issues && G.batches.any (·.released (s.coreCycle core))

/-- BARRIER_WAVE_RELEASE: the waves of a core whose cycle has come. -/
def execBarrierWaveRelease (core : Nat) (s : State) : Out :=
  .next (((s.core core).groups.filter fun e => s.waveDue core e.2).foldl (fun u e =>
    u.modGroup core e.1 fun G =>
      ((List.range G.batches.length).filter fun i => ((G.batches[i]?).map (·.released (s.coreCycle core))).getD false).foldl
        Group.releaseBatch G) s)

/-! ## Near-threshold mode (R429, R430) -/

/-- POWER_REGISTER_WRITE: a reserved value is ignored, and what is written to Reserved bits (R6). -/
def execPowerRegisterWrite (die : Nat) (v : BitVec 32) (s : State) : Out :=
  let n := v.toNat
  .next (if bits n 0 16 < 256 then s.ignoreWrite n else s.modDie die fun D => { D with power := v &&& 0x1FFFF })

/-- The groups of a quadrant with a live fibre on an island. -/
def State.islandGroups (s : State) (core q k : Nat) : List (Nat × Group) :=
  (s.core core).groups.filter fun e => e.1 / 16 == q && e.2.live.any fun l => l / 8 == k

/-- A group sleeps under SLEEP.LV. -/
def Group.sleepsLv (G : Group) : Bool := (G.sleep.map (·.2)).getD false

/-- A group stalls on a wait of R158 other than reasons 2 and 10; a masked pulse changes nothing of that. -/
def State.stalls (s : State) (core g : Nat) (G : Group) : Bool :=
  match (s.modCluster (clusterOf core) fun C => { C with pattern := 0xFFFFFFFF }).sampleReason core g G with
  | some r => r != 0 && r != 1 && r != 2 && r != 10
  | none => false

/-- Every group with a live fibre on an island, and there is one, sleeps or stalls. -/
def State.islandStill (s : State) (core q k : Nat) : Bool :=
  let gs := s.islandGroups core q k
  !gs.isEmpty && gs.all fun e => e.2.sleepsLv || s.stalls core e.1 e.2

/-- An island may enter near-threshold mode. -/
def State.ntDue (s : State) (core q k : Nat) : Bool :=
  let I := s.quad core q
  let p := (s.die (dieOf core)).power.toNat
  let gs := s.islandGroups core q k
  I.up && !(I.nt.getD k false) && (I.leaving.getD k none).isNone && !gs.isEmpty &&
    (gs.all (·.2.sleepsLv) ||
      (bit p 16 && s.islandStill core q k && ((I.stalled.getD k none).map fun t => decide (t + bits p 0 16 ≤ s.coreCycle core)).getD false))

/-- NT_ENTRY. -/
def execNtEntry (core quad island : Nat) (s : State) : Out :=
  .next (if s.ntDue core quad island then s.modQuad core quad fun I => { I with nt := I.nt.set island true } else s)

/-- The exit of an island from near-threshold mode ends. -/
def State.ntEnds (s : State) (core q k : Nat) : Bool :=
  ((s.quad core q).leaving.getD k none).any fun t => decide (t ≤ s.now)

/-- NT_EXIT: the island is Nominal. -/
def execNtExit (core quad island : Nat) (s : State) : Out :=
  .next (if s.ntEnds core quad island then
      s.modQuad core quad fun I => { I with nt := I.nt.set island false, leaving := I.leaving.set island none }
    else s)

/-- A group with a live fibre on the island would be ready but for the islands (R218, R430). -/
def State.islandWanted (s : State) (core q k : Nat) : Bool :=
  (s.islandGroups core q k).any fun e => s.groupReady core e.2 && e.2.batches.any fun B =>
    B.mayIssue (s.coreCycle core) && B.lanes != 0

/-! ## Hold, Off, and the in-rush arbiter (R428, R431) -/

/-- The end of a cycle for the islands of a quadrant: a quadrant without a group enters Hold, which an island reaches from
Nominal alone (log entry 40); one with a group in Hold or Off wakes; a wake cause starts the exit from near-threshold
mode; and stalls are timed. -/
def State.islandsNext (s : State) (core q : Nat) : Islands :=
  let I := s.quad core q
  let empty := ((s.core core).groups.filter fun e => e.1 / 16 == q).isEmpty
  match I.st with
  | .nominal =>
    if empty && I.nt.all (!·) then { Islands.start with st := .hold s.now }
    else
      { (List.range 4).foldl (fun (J : Islands) k => if s.islandWanted core q k then J.leave s.now k else J) I with
        stalled := (List.range 4).map fun k =>
          if s.islandStill core q k then some ((I.stalled.getD k none).getD (s.coreCycle core)) else none }
  | .hold _ => if empty then I else { I with st := .waking (s.coreCycle core + 4) }
  | .waking t => if t ≤ s.coreCycle core + 1 then { I with st := .nominal } else I
  | .off => if empty then I else { I with st := .queued }
  | _ => I

/-- The end of a cycle for a quadrant. -/
def State.islandTick (s : State) (core q : Nat) : State :=
  let I := s.quad core q
  let J := s.islandsNext core q
  if J = I && s.now != 0 then s
  else
    let t := s.modQuad core q fun _ => J
    if J.st == .queued then t.modDie (dieOf core) fun D => { D with ramps := D.ramps ++ [(core, q, s.coreCycle core)] } else t

/-- A quadrant is Off, Queued or Ramping. -/
def Islands.down (i : Islands) : Bool :=
  match i.st with
  | .off => true
  | .queued => true
  | .ramping _ => true
  | _ => false

/-- The quadrants of a die that are Off, Queued or Ramping. -/
def State.downQuads (s : State) (d : Nat) : Nat :=
  ((s.cores.filter fun e => dieOf e.1 == d).map fun e => (e.2.islands.filter fun i => i.2.down).length).sum

/-- The Hold of a quadrant expires: 2 µs have passed, no group has come, and at most 8 islands of the die will be Off,
Queued or Ramping. -/
def State.holdDue (s : State) (core q : Nat) : Bool :=
  match (s.quad core q).st with
  | .hold t =>
    t + usCycles 2 ≤ s.now && ((s.core core).groups.filter fun e => e.1 / 16 == q).isEmpty &&
      s.downQuads (dieOf core) * 4 + 4 ≤ 8
  | _ => false

/-- HOLD_EXPIRY. -/
def execHoldExpiry (core quad : Nat) (s : State) : Out :=
  .next (if core < 192 && quad < 4 && s.holdDue core quad then s.modQuad core quad fun I => { I with st := .off } else s)

/-- A quadrant of a die is ramping. -/
def State.ramps (s : State) (d : Nat) : Bool :=
  (s.cores.filter fun e => dieOf e.1 == d).any fun e => e.2.islands.any fun i => match i.2.st with
    | .ramping _ => true
    | _ => false

/-- The request that the arbiter of a die admits: the oldest, 40 cycles after it was made, while no other quadrant
ramps. -/
def State.rampHead (s : State) (d : Nat) : Option (Nat × Nat) :=
  match (s.die d).ramps with
  | (c, q, t) :: _ => if t + 40 ≤ s.cycle d && !s.ramps d then some (c, q) else none
  | [] => none

/-- RAMP_ADMIT. -/
def execRampAdmit (die : Nat) (s : State) : Out :=
  .next (match s.rampHead die with
    | none => s
    | some (c, q) => (s.modQuad c q fun I => { I with st := .ramping s.now }).modDie die fun D => { D with ramps := D.ramps.drop 1 })

/-- The ramp of a quadrant has taken t_ramp = 1.2 µs. -/
def State.rampEnds (s : State) (core q : Nat) : Bool :=
  match (s.quad core q).st with
  | .ramping t => t + 4320 ≤ s.now
  | _ => false

/-- RAMP_DONE. -/
def execRampDone (core quad : Nat) (s : State) : Out :=
  .next (if s.rampEnds core quad then s.modQuad core quad fun I => { I with st := .nominal } else s)

/-! ## Rack power (R432, R433) -/

/-- A budget message that arrived at a PTP time takes effect when it is valid: its number is newer than the last accepted one,
and its lease, which is not 0, had not ended then. -/
def HostState.takeBudget (h : HostState) (ptp : Nat) (p : List Byte) : HostState :=
  let seq := byteField p 0 4
  let lease := byteField p 6 2
  let fin := byteField p 8 8 + lease * 1000000
  let newer := match h.powerSeq with
    | some q => 1 ≤ sub32 seq q && sub32 seq q < 2 ^ 31
    | none => true
  if newer && lease != 0 && ptp < fin then
    { h with powerSeq := some seq, budget := max 500 (min 2000 (byteField p 4 2)), budgetEnd := some fin }
  else h

/-- The lease of the budget has ended. -/
def HostState.budgetOver (h : HostState) (ptp : Nat) : Bool := (h.budgetEnd.map fun t => decide (t ≤ ptp)).getD false

/-- BUDGET_LEASE_END: the floor applies. -/
def execBudgetLeaseEnd (s : State) : Out :=
  .next (if s.host.budgetOver s.ptp then { s with host := { s.host with budget := s.host.floor, budgetEnd := none } } else s)

/-- A die's clock frequency changes, and a sync packet marks it (R415). -/
def Die.setKhz (D : Die) (khz : Nat) : Die := if khz == D.khz then D else { D with khz := khz, sync := (D.sync.1, true) }

/-- DIE_FREQUENCY_CHANGE: Agate keeps the power within the budget. No die runs above 3.6 GHz (R434). -/
def execDieFrequencyChange (die khz : Nat) (s : State) : Out :=
  .next (if khz == 0 || refKhz < khz then s else s.modDie die (Die.setKhz · khz))

/-! ## Ageing (R434) -/

/-- The frequency in kHz that a re-plan names in MHz: as many MHz lower as the number says. -/
def Die.planKhz (D : Die) (mhz : Nat) : Nat := D.khz - 1000 * (D.khz / 1000 - mhz)

/-- A re-plan raises the supply in 5 mV steps up to 540 mV, and lowers the frequency, in 100 MHz steps down to 2.4 GHz,
only at that supply. -/
def Die.planOk (D : Die) (mv mhz : Nat) : Bool :=
  let khz := D.planKhz mhz
  D.mv ≤ mv && mv ≤ 540 && (mv - D.mv) % 5 == 0 && mhz ≤ D.khz / 1000 &&
    (khz == D.khz || (mv == 540 && khz < D.khz && 2400000 ≤ khz && (D.khz - khz) % 100000 == 0))

/-- The plan that steps of supply and then of frequency make. -/
def Die.plan (D : Die) (n : Nat) : Nat × Nat :=
  let up := min n ((540 - D.mv) / 5)
  (D.mv + 5 * up, D.khz / 1000 - 100 * min (n - up) ((D.khz - 2400000) / 100000))

/-- Six hours in ns. -/
def replanNs : Nat := 21600000000000

/-- A re-plan of a die is due. -/
def State.replanDue (s : State) (die : Nat) : Bool := (s.die die).replan ≤ s.ptp

/-- The plan that Agate makes of a die's ageing monitors (R434). -/
def State.agedPlan (s : State) (die : Nat) : Nat × Nat := (s.die die).plan (Config.ageingSteps die s.ptp)

/-- AGEING_REPLAN: every 6 hours of global time; at the floor of the frequency AGEING is reported. The next one comes at the
next instant of that schedule. -/
def execAgeingReplan (die mv mhz : Nat) (s : State) : Out :=
  .next (
    let D := s.die die
    if !s.replanDue die || !D.planOk mv mhz then s
    else
      let khz := D.planKhz mhz
      let s1 := s.modDie die fun D =>
        { (D.setKhz khz) with mv := mv, replan := D.replan + replanNs * ((s.ptp - D.replan) / replanNs + 1) }
      if khz / 1000 == 2400 then s1.event 8 noCtx (leBytes 1 die ++ leBytes 3 0 ++ leBytes 4 mv ++ leBytes 4 mhz) else s1)

end Sys2Proof.Machine
end

