-- ==== Sys2Proof/Machine/Place.lean ====
section
/-!
DEFINITION. The placement of groups and of a team's allocations on a core (R202-R205, R236, R237, R268, R269, R407;
06_execution.md, 07_scheduling.md, 10_memory.md).
-/

namespace Sys2Proof.Machine

/-- The lowest base at a multiple of `align` where `n` places lie free below `top` (R203, R269). -/
def firstFit (used : List (Nat × Nat)) (n align top : Nat) : Option Nat :=
  if n == 0 then some 0
  else
    let cands := 0 :: used.map fun u => alignUp (u.1 + u.2) align
    minBy id (cands.filter fun b => b + n ≤ top && used.all fun u => u.2 == 0 || b + n ≤ u.1 || u.1 + u.2 ≤ b)

/-- The boundary of a core's partition control register (R236). -/
def Core.boundary (C : Core) : Nat := bits C.part.toNat 0 7

/-- The position of a group context (R236). -/
def ctxPosition (g : Nat) : Nat := g % 16 * 4 + g / 16

/-- The partition of a group context: 0 graphics, 1 compute (R236). -/
def Core.partOf (C : Core) (g : Nat) : Nat := if ctxPosition g < C.boundary then 0 else 1

/-- A context is withheld from admissions and spawns (R237). -/
def Core.withholds (C : Core) (g : Nat) : Bool := (C.withheld.map (·.1)) == some g

/-- The lowest free context of a partition in a quadrant (R205). -/
def Core.freeCtx (C : Core) (q part : Nat) : Option Nat :=
  ((List.range 16).map (16 * q + ·)).find? fun g =>
    (tget? C.groups g).isNone && C.partOf g == part && !C.withholds g

/-- The groups of a quadrant. -/
def Core.inQuad (C : Core) (q : Nat) : List Group := (C.groups.filter fun e => e.1 / 16 == q).map (·.2)

/-- The free vector registers of each lane of a quadrant (R202). -/
def Core.freeRegs (C : Core) (q : Nat) : Nat := 1024 - ((C.inQuad q).map (·.budget)).sum

/-- The lowest base of a window in a quadrant (R203). -/
def Core.window (C : Core) (q budget : Nat) : Option Nat :=
  firstFit ((C.inQuad q).map fun G => (G.wbase, G.budget)) budget 8 1024

/-- The lowest offset of a lane-slice allocation in a quadrant (R269). -/
def State.sliceBase (s : State) (core q n : Nat) : Option Nat :=
  firstFit (((s.core core).inQuad q).map fun G => (G.lbase, (s.team G.tid).lsize)) n 256 4096

/-- Quadrants in the order of R205: the most free registers first, ties to the lowest index. -/
def Core.bestQuad (C : Core) (qs : List Nat) : Option Nat := minBy (fun q => 1024 - C.freeRegs q) qs

/-- The quadrant of a group (R205): at admission any quadrant with a free context is a candidate; for SPAWN only one
where the window has room as well. -/
def Core.quadFor (C : Core) (part budget : Nat) (spawn : Bool) : Option Nat :=
  C.bestQuad ((List.range 4).filter fun q => (C.freeCtx q part).isSome && (!spawn || (C.window q budget).isSome))

/-- Placing one group on a core (R205): its context, its window and its lane slice, which reads zero (R207). Its age is
its place among all that the core has been given (R407). -/
def State.placeGroup (s : State) (core part lbytes : Nat) (spawn : Bool) (G : Group) : Option (State × Nat) :=
  let C := s.core core
  match C.quadFor part G.budget spawn with
  | none => none
  | some q =>
    match C.freeCtx q part, C.window q G.budget, s.sliceBase core q lbytes with
    | some g, some w, some l =>
      let H := { G with wbase := w, lbase := l, age := (s.now, C.placed), lastIssue := s.pulses core }
      let s1 := s.setCore core { C with groups := tset C.groups g H, placed := C.placed + 1 }
      some ((List.range 32).foldl (fun u k => u.scrClear (.slice core) (4096 * (32 * q + k) + l) lbytes) s1, g)
    | _, _, _ => none

/-- A group with one fibre in each of some lanes, as it stands at its start (R206). -/
def Group.start (tid ctx role budget : Nat) (lanes : Tbl Lane) : Group :=
  { tid := tid, ctx := ctx, role := role, budget := budget, wbase := 0, lbase := 0, lanes := lanes,
    batches := [Batch.fresh (maskOf (lanes.map (·.1)))], sregs := [], fpmode := 0, fpflags := 0, compat := 0,
    regions := [], touches := [], lastQueue := none, st := .resident, age := (0, 0), lastIssue := 0, nextIssue := 0,
    giveWay := false, gwStart := false, shown := (0, false), shownWord := none, inflight := [], pending := [], held := [], sleep := none, barv := [] }

/-- A fibre at a PC with all registers zero (R206). -/
def Lane.start (pc : Nat) : Lane := { Lane.empty with live := true, pc := pc }

/-- A fibre with words in its lowest registers. -/
def Lane.withRegs (L : Lane) (ws : List Word) : Lane :=
  { L with regs := ws.zipIdx.foldl (fun t e => tput t e.2 e.1 0) L.regs }

end Sys2Proof.Machine
end

