-- ==== Sys2Proof/Machine/Admit.lean ====
section
/-!
DEFINITION. The admission of a team to a core: its allocations and grants, and its groups (R204-R208,
06_execution.md; R268, R269, 10_memory.md).
-/

namespace Sys2Proof.Machine

/-- The ranges that teams use of a storage. -/
def State.usedBy (s : State) (on : Team → Bool) (f : Team → Nat × Nat) : List (Nat × Nat) :=
  (s.teams.filter fun e => on e.2).map fun e => f e.2

/-- A place for a count out of `top`, numbered from 0 without gaps between grants (R204). -/
def grantFit (used : List (Nat × Nat)) (n top : Nat) : Option Nat :=
  if top < (used.map (·.2)).sum + n then none else firstFit used n 1 (64 * top)

/-- The team with its allocations and grants on a core, when all of them fit (R204, R269). -/
def State.grantTeam (s : State) (core : Nat) (T : Team) : Option Team :=
  let on : Team → Bool := fun U => U.core == core
  match firstFit (s.usedBy on fun U => (U.ubase, U.usize)) T.usize 256 3276800,
      firstFit (s.usedBy (fun U => clusterOf U.core == clusterOf core) fun U => (U.cbase, U.csize)) T.csize 256 (8 * 2 ^ 20),
      firstFit (s.usedBy (fun U => dieOf U.core == dieOf core) fun U => (U.dbase, U.dsize)) T.dsize 256
        ((40 - s.tsForce) * 2 ^ 20),
      grantFit (s.usedBy on fun U => (U.mbase, U.macros)) T.macros 32,
      grantFit (s.usedBy on fun U => (U.abase, U.accs)) T.accs 64 with
  | some u, some c, some d, some m, some a =>
    some { T with core := core, ubase := u, cbase := c, dbase := d, mbase := m, abase := a }
  | _, _, _, _, _ => none

/-- The storages of a team beside its lane slices: its three allocations, the macro and the accumulator grant. -/
def Team.storages (T : Team) : List (Scr × Nat × Nat) :=
  [T.level 0, T.level 1, T.level 2, (.garnet T.core, 4096 * T.mbase, 4096 * T.macros),
   (.accum T.core, 4096 * T.abase, 4096 * T.accs)]

/-- Placing groups in turn: the state, and the group contexts they received. -/
def State.placeGroups (s : State) (core part lbytes : Nat) : List Group → Option (State × List Nat)
  | [] => some (s, [])
  | G :: gs =>
    match s.placeGroup core part lbytes false G with
    | none => none
    | some (t, g) => (t.placeGroups core part lbytes gs).map fun r => (r.1, g :: r.2)

/-- The admission of a team to a core: all of it or nothing (R204), its storages reading zero (R207). -/
def State.admitTeam (s : State) (core part tid : Nat) (T : Team) (gs : List Group) : Option (State × List Nat) :=
  match s.grantTeam core T with
  | none => none
  | some U =>
    let s1 := { s with teams := tset s.teams tid U }
    let s2 := U.storages.foldl (fun u e => u.scrClear e.1 e.2.1 e.2.2) s1
    s2.placeGroups core part U.lsize gs

/-- The team of a grid that a launch block describes (R206, R209, R213). -/
def Block.team (b : Block) (lid ctx grid index now ptp : Nat) (begun : Bool) : Team :=
  { Team.none with
    lid := lid, ctx := ctx, grid := grid, index := index, nroles := b.nroles, begun := begun, begunAt := now,
    recs := b.recs.zipIdx.foldl (fun t e => tput t e.2 e.1 0) [], usize := b.ubytes, csize := b.cbytes,
    dsize := b.dbytes, lsize := b.lbytes, macros := b.macros, accs := b.acc, placedAt := ptp, ended := false }

/-- The groups of a team in the order of their placement (R205, R206). Those of the role `frag` start with no live fibre
(R321). -/
def Block.groups (b : Block) (tid ctx : Nat) (compat : Word) (frag : Option Nat) : List Group :=
  b.roles.zipIdx.flatMap fun (r, i) =>
    let n := if frag == some i then 0 else r.fibres
    let G := Group.start tid ctx i r.budget ((List.range n).map fun l => (l, Lane.start (b.cbase + r.pcoff)))
    List.replicate r.groups
      { G with batches := if n == 0 then [] else G.batches
               sregs := b.stab.zipIdx.foldl (fun t e => tput t e.2 e.1 0) [], fpmode := b.fpmode, compat := compat }

/-- A core whose period count waits for the next team admitted starts it in the cycle in which that team begins (R408). A
team that is restored is not one. -/
def State.settleArmed (s : State) (core : Nat) : State :=
  match (s.core core).armed with
  | none => s
  | some n =>
    match s.teams.find? fun e => e.2.core == core && n ≤ e.1 && (!e.2.begun || e.2.begunAt == s.now) with
    | none => s
    | some e =>
      if e.2.begun then s.modCore core fun C =>
        { C with armed := none, expiry := some (s.coreCycle core + bits C.sampling.toNat 0 20) }
      else s

/-- Admitting team `index` of a grid to a core (R204, R206): the state with the new team, `f` changing the team before. -/
def State.admitGrid (s : State) (core part lid ctx grid index : Nat) (b : Block) (begun : Bool) (frag : Option Nat)
    (f : Team → Team) : Option State :=
  let T := f (b.team lid ctx grid index s.now s.ptp begun)
  let gs := b.groups s.nextTid ctx (word ((s.ctx ctx).word 0x1DC)) frag
  (s.admitTeam core part s.nextTid { T with part := part } gs).map fun r =>
    ({ r.1 with nextTid := s.nextTid + 1 } : State).settleArmed core

end Sys2Proof.Machine
end

