-- ==== Sys2Proof/Machine/Contrib.lean ====
section
/-!
DEFINITION. The steps on sync objects that operations and launches make, and the freeze of a context by a unit that acts
for it (R148, R455, 03_memory_instr.md; R230, 07_scheduling.md; R252, R253, 08_traps.md).
-/

namespace Sys2Proof.Machine

/-- What an engine finds of a 64-byte structure on which it acts atomically: its physical address, or the failure. -/
inductive Served64 where
  | ok (pa : Nat)
  /-- `page` tells that the page lacks a permission. -/
  | fail (f : OpFail) (page : Bool)
  | wait

/-- Reaching a 64-byte structure (R301, R455). One outside local LPDDR6 gives PROT, reachable or not. A walk that meets an
entry which cannot be read gives PAGE: R455 names no other code for a structure that is not reached, and one in a POISONED block
gives POISON when the block has a cause and PAGE when the cause is 0 (DESIGN CHOICE, log entry 73). -/
def State.served64 (s : State) (w : FaultWho) (d : Option Nat) (x : Nat) (va : Nat) : State × Served64 :=
  match s.unitOne d x none { va := va, n := 64, acc := .atomic, old := s.settledAt w va } with
  | (t, .ok pa) =>
    if t.target (t.ownAddr pa) != .loc then (t, .fail { code := fcProt, addr := va, cause := 0, detail := 1 } false) else (t, .ok pa)
  | (t, .error e) =>
    match t.stopUnit w x none [] e with
    | (u, .fail _ c a k) =>
      (u, .fail { code := if c == fcPoison && k == 0 then fcPage else c, addr := a, cause := k, detail := 1 } (c == fcProt))
    | (u, _) => (u, .wait)

/-- A PROT met by a unit that acts for a context freezes it (R253): the record describes the instruction that started the
operation, or is zero where none did. One that follows the disposition of a trap of its cycle freezes the context at the
start of the next (R261; log entry 75). -/
def State.freezeUnit (s : State) (x : Nat) (o : Origin) (addr detail : Nat) : State :=
  let t := mkTrap fcProt detail addr
  let r : TrapRec :=
    { cause := t.cause, lanes := o.lanes, pc := o.pc, addr := addr, core := o.core, group := o.group, role := o.role,
      disp := dispFrozen, team := o.team, grid := o.grid, regions := [], onyx := none }
  if (s.ctx x).holdsTraps then s
  else if (s.ctx x).disposed == some s.now then s.modCtx x fun c => { c with freezes := c.freezes ++ [(o, addr, detail)] }
  else ((s.freezeCtx x).logTrap x r).event 4 x (leBytes 4 0 ++ leBytes 4 0 ++ s.recDetail r 40)

/-- The entry of a failed step in the error log: OP_FAILED, or DONE_LOST for a done action that is not made (R252). -/
def State.logStep (s : State) (c : Contribution) (code addr : Nat) : State :=
  let src : ErrSrc := { kind := c.srckind, src := c.src }
  match c.done with
  | some (q, b) => s.logError c.ctx 18 code src q b c.obj
  | none => s.logError c.ctx 5 code src (c.major + c.op * 64) addr (c.obj + c.gcause % 65536 * 2 ^ 48)

/-- The object after a step: the fault, the flag bits, then the contribution or the done action (R148, R230). -/
def Contribution.apply (c : Contribution) (o : Obj) : Obj :=
  let o1 := match c.fcode with
    | some k => o.fault k
    | none => o
  let o2 := o1.flag c.flags
  if c.done.isSome then o2.done else o2.contribute c.bytes

/-- The step is over: it is listed no more, and the interest that ends with it is free. -/
def State.endStep (s : State) (n : Nat) (c : Contribution) : State :=
  let s1 := { s.clearFaults (.contribution n) with contribs := tdel s.contribs n }
  match c.interest with
  | some (d, e) => s1.freeInterest d e
  | none => s1

/-- A step on an object (R455): a failed operation is logged; where the object cannot be reached, the step is not made,
and that is logged. A page that lacks R or W freezes the context. A structure that is not reached for another reason, its block
POISONED or the line in an entry that cannot be read, gives PAGE: R455 names no other code for it (log entry 73). The rule says nothing of a line that returns uncorrectable
data: the step is made on the bytes as they stand, and what it writes is no longer uncorrectable (DESIGN CHOICE, log
entry 73). -/
def State.makeStep (s : State) (n : Nat) (c : Contribution) : State :=
  let logged (t : State) : State :=
    match c.fcode, c.done with
    | some k, none => if c.silent then t else t.logStep c k c.addr
    | _, _ => t
  let lost (t : State) (code addr detail : Nat) (frozen : Bool) : State :=
    let u := ((logged t).logStep c code addr).endStep n c
    if frozen then u.freezeUnit c.ctx c.origin addr detail else u
  if c.obj == 0 then (logged s).endStep n c
  else if (s.ctx c.ctx).objCount ≤ c.obj then lost s fcOob c.obj 0 false
  else
    match s.served64 (.contribution n) (if c.srckind == 1 then some c.src else none) c.ctx ((s.ctx c.ctx).objVa c.obj) with
    | (t, .wait) => t
    | (t, .fail f page) => lost t (if f.code == fcProt then fcProt else fcPage) f.addr f.detail page
    | (t, .ok pa) =>
      match parseObj (t.rd pa 64) with
      | none => lost t fcOob c.obj 0 false
      | some o => ((logged t).putObj pa (c.apply o)).endStep n c

end Sys2Proof.Machine
end

