-- ==== Sys2Proof/Machine/Launch.lean ====
section
/-!
DEFINITION. The steps of the launch sequencers, of Agate's binding and of the dies' index takes (R209-R214,
06_execution.md; R223-R239, 07_scheduling.md; R326, R333, 14_rendering.md).
-/

namespace Sys2Proof.Machine

/-! ## Done actions and the end of a launch -/

/-- A step that no instruction started (R253). -/
def Origin.zero : Origin := { core := 0, group := 0, role := 0, team := 0, grid := 0, pc := 0, lanes := 0 }

/-- The done action of a launch (R230), with the code that it sets with FAULT. -/
def doneStep (x q index obj : Nat) (fcode : Option Nat) : Contribution :=
  { ctx := x, obj := obj, bytes := 0, done := some (q, index), fcode := fcode, flags := 0, origin := Origin.zero,
    srckind := 2, src := q % 2, major := 0, op := 0, addr := 0, gcause := 0, interest := none }

/-- The done action of a launch that names an object. It is made at once, unless it waits for a service (R455). -/
def State.addDone (s : State) (x q index obj : Nat) (fcode : Option Nat) : State :=
  let c := doneStep x q index obj fcode
  if obj == 0 then s else (s.addContribution c).makeStep s.nextCon c

/-! ## Bind records (R231) -/

/-- A bind record. -/
structure BindRec where
  grid   : Nat
  ctx    : Nat
  part   : Nat
  prio   : Nat
  weight : Nat
  valid  : Bool
  cmask  : Nat
  rsv    : Nat

/-- The fields of a record. -/
def parseBind (v : BitVec 128) : BindRec :=
  let n := v.toNat
  { grid := bits n 0 32, ctx := bits n 32 12, part := bits n 44 1, prio := bits n 45 3, weight := bits n 48 8,
    valid := bit n 63, cmask := bits n 64 24, rsv := bits n 56 7 + bits n 88 40 }

/-- The launch that a grid of a context names, in Pending bind or Running. -/
def State.bound? (s : State) (x grid : Nat) : Option (Nat × Launch) :=
  s.launches.find? fun e => e.2.ctx == x && e.2.grid == grid && (e.2.st == .pendingBind || e.2.st == .running)

/-- The dispatch hardware heeds a record. -/
def State.heeds (s : State) (r : BindRec) : Bool :=
  r.valid && r.weight != 0 && r.rsv == 0 && (s.bound? r.ctx r.grid).isSome

/-- A tile of a pass that has no entry yet. -/
def TileRec.start : TileRec :=
  { st := .idle, entries := [], cuts := [], served := 0, freed := 0, spilled := false, planes := [], bad := none }

/-- The pass closes to binning: a tile without an outstanding cut is queued for its final task (R336). -/
def TileRec.close (r : TileRec) : TileRec := { r with st := if r.st == .idle then .finalQueued else r.st }

/-- The pass after a batch has completed: it closes with the last of them (R326). -/
def Pass.batchDone (P : Pass) : Pass :=
  let last := !P.closed && P.rs.nbatch ≤ P.complete + 1
  { P with complete := P.complete + 1, closed := P.closed || last
           tiles := if last then P.tiles.map fun e => (e.1, e.2.close) else P.tiles }

/-- The records of a die that bind: slot, record, teams admitted, launch. -/
def State.bindings (s : State) (d : Nat) : List (Nat × BindRec × Nat × Nat × Launch) :=
  (s.die d).slots.filterMap fun e =>
    let r := parseBind e.2.record
    if s.heeds r then (s.bound? r.ctx r.grid).map fun L => (e.1, r, e.2.admitted, L.1, L.2) else none

/-- The cores that the records of a launch name, with the partition. -/
def State.boundCores (s : State) (lid : Nat) : List (Nat × Nat) :=
  (List.range 8).flatMap fun d =>
    (s.bindings d).flatMap fun (_, r, _, l, _) =>
      if l == lid then ((List.range 24).filter (bit r.cmask)).map fun k => (24 * d + k, r.part) else []

/-- Clearing the records that satisfy a test in every slot table. -/
def State.clearBinds (s : State) (p : BindRec → Bool) : State :=
  { s with dies := s.dies.map fun e => (e.1, { e.2 with slots := e.2.slots.filter fun q => !p (parseBind q.2.record) }) }

/-- A launch leaves the machine: its records are cleared (R230), its pass loses a batch or ends (R324, R326). -/
def State.dropLaunch (s : State) (lid : Nat) (L : Launch) : State :=
  let s1 := s.clearBinds fun r => r.ctx == L.ctx && r.grid == L.grid
  let s2 : State := { s1 with launches := tdel s1.launches lid, passes := tdel s1.passes lid }
  match L.batchOf with
  | none => s2
  | some (p, _) => { s2 with passes := tmod s2.passes p Pass.batchDone }

/-- The launches whose completion has been performed are gone, and with them their records (R227, R230). In a Frozen
context a launch stays Completing (R253). -/
def State.sweepCompleting (s : State) : State :=
  (s.launches.filter fun e => e.2.st == .completing && !(s.ctx e.2.ctx).holdsTraps && !s.contribs.any fun c =>
      c.2.ctx == e.2.ctx && c.2.done == some (e.2.queue, e.2.index)).foldl (fun u e => u.dropLaunch e.1 e.2) s

/-- A launch that does not run comes to its end: it is Completing, and a batch among them has no teams (R230, R324). -/
def State.unrun (s : State) (lid : Nat) (L : Launch) : State :=
  let t : State := { s with launches := tset s.launches lid { L with st := .completing } }
  match L.batchOf with
  | none => t
  | some (p, b) => { t with passes := tmod t.passes p fun P => { P with sizes := P.sizes.set b 0 } }

/-- A launch is Invalid (R211): logged, its done object faulted, and complete for its successors. -/
def State.invalidLaunch (s : State) (x q index obj off rs fcode : Nat) : State :=
  (s.logError x 1 fcode (srcHdie (q % 2)) q index (off + rs * 2 ^ 16)).addDone x q index obj (some fcIllop)

/-! ## Head, Waiting, Evaluated (R226-R229) -/

/-- Launches of the context may change state (R253, R255). -/
def Ctx.moves (c : Ctx) : Bool := !c.holdsTraps

/-- The test of a predecessor (R228): satisfied or not; none for an object that is no counter. -/
def State.predTest (s : State) (x k : Nat) : Option Bool :=
  if k == 0 then some true
  else if (s.ctx x).objCount ≤ k then none
  else
    match s.vaRead x ((s.ctx x).objVa k) 64 with
    | .ok bs =>
      match parseObj bs with
      | some o => if o.kind == kCounter then some (o.state != 0) else none
      | none => none
    | .error _ => some false

/-- The faults of the predecessors that cannot be read. -/
def State.predFaults (s : State) (L : Launch) : List (Nat × Nat) :=
  (L.block.preds.filter fun k => k != 0 && k < (s.ctx L.ctx).objCount).filterMap fun k =>
    match s.vaRead L.ctx ((s.ctx L.ctx).objVa k) 64 with
    | .ok _ => none
    | .error e => some e

/-- Every predecessor of a launch is satisfied. -/
def State.predsDone (s : State) (L : Launch) : Bool := L.block.preds.all fun k => s.predTest L.ctx k == some true

/-- The offset in the launch block of the first predecessor that names no counter any more. -/
def State.predBad (s : State) (L : Launch) : Option Nat :=
  (L.block.preds.zipIdx.find? fun e => (s.predTest L.ctx e.1).isNone).map fun e => 88 + 4 * e.2

/-- The identifier of a new launch (R213): a value that the spec leaves open, but no live launch of the context holds. -/
def State.freeGrid (s : State) (x : Nat) : State × Nat :=
  let (t, n) := s.draw
  let base := (Config.freeWord n).toNat
  let used := ((t.launches.filter fun e => e.2.ctx == x).map fun e => e.2.grid) ++
    (t.teams.filter fun e => e.2.ctx == x).map fun e => e.2.grid
  (t, ((List.range (used.length + 1)).map fun k => (base + k) % 2 ^ 32).find? (fun k => !used.contains k) |>.getD base)

/-- A launch leaves Evaluated for Pending bind (R227). -/
def State.toPending (s : State) (lid : Nat) (L : Launch) : State :=
  let r := s.freeGrid L.ctx
  { r.1.advanceHead L.ctx L.queue with launches := tset r.1.launches lid { L with st := .pendingBind, grid := r.2 } }

/-- How the reading of a launch's condition ends: its value, a word that cannot be read, or a wait for a target that does
not answer (R229, R277). -/
inductive CondRead where
  | ok (b : Bool)
  | bad
  | wait

/-- The condition of a launch whose predecessors are satisfied (R229). -/
def State.condition (s : State) (L : Launch) : State × CondRead :=
  if L.block.cond == 0 then (s, .ok true)
  else
    match s.farRead (.launch L.ctx L.queue) (srcHdie (L.queue % 2)) L.ctx L.block.cond 4 with
    | (t, .ok bs) => (t, .ok ((leNat bs != 0) != L.block.csense))
    | (t, .fail _) => (t, .bad)
    | (t, .wait) => (t, .wait)

/-- A launch at the head of its queue is gone, and head advances. -/
def State.leaveHead (s : State) (lid : Nat) (L : Launch) : State :=
  { s.advanceHead L.ctx L.queue with launches := tdel s.launches lid }

/-- A launch whose predecessors are satisfied is evaluated: it is Invalid, Skipped, or goes on; a launch of a
geometry-source queue stays Evaluated (R326). -/
def State.evaluate (s : State) (lid : Nat) (L : Launch) : State :=
  match s.condition L with
  | (t, .wait) => t
  | (t, .bad) => (t.leaveHead lid L).invalidLaunch L.ctx L.queue L.index L.block.done 104 0 0
  | (t, .ok false) => (t.leaveHead lid L).addDone L.ctx L.queue L.index L.block.done none
  | (t, .ok true) =>
    if bit ((t.ctx L.ctx).word 0x1F0) L.queue then
      { t with launches := tset t.launches lid { L with st := .evaluated } }
    else t.toPending lid L

/-- The queue whose head block the sequencer reads next, when it may (R223, R226). -/
def State.headQueue (s : State) (x q : Nat) : Option LaunchQueue :=
  if (s.ctx x).moves && q < 16 && (s.atHead x q).isNone && !s.pendingFault (.launch x q) then
    (s.launchQueue x q).filter fun k => k.enabled && !k.stopped && k.valid && k.waiting != 0
  else none

/-- LAUNCH_HEAD_READ: the block at the head of a queue is read and checked (R211, R227). -/
def execLaunchHeadRead (ctx q : Nat) (s : State) : Out :=
  .next (match s.headQueue ctx q with
    | none => s
    | some Q =>
      let w := FaultWho.launch ctx q
      match s.servedRead w none ctx none (Q.block Q.head) 256 with
      | (t, .wait) => t
      | (t, .fail code _ _) => ((t.clearFaults w).advanceHead ctx q).invalidLaunch ctx q Q.head 0 0xFFFF 0 code
      | (t, .ok bs) =>
        match t.checkBlock w ctx bs with
        | (u, .wait) => u
        | (u, .bad off rs code) =>
          let obj := byteField bs 116 4
          ((u.clearFaults w).advanceHead ctx q).invalidLaunch ctx q Q.head (if obj < 2 ^ 20 then obj else 0) off rs code
        | (u, .ok b) =>
          let L : Launch :=
            { ctx := ctx, queue := q, index := Q.head, st := .waiting, block := b, grid := 0, tickets := [],
              gated := false, failed := none, batchOf := none, stores := [] }
          let v : State := { u.clearFaults w with nextLid := u.nextLid + 1, launches := tset u.launches u.nextLid L }
          if v.predsDone L then v.evaluate u.nextLid L else v)

/-- A waiting launch goes on when it is tested: it can be evaluated, a predecessor is no counter any more (R228), or one
cannot be read, which is logged once (R277, R281). -/
def State.predsDue (s : State) (L : Launch) : Bool :=
  L.st == .waiting && (s.ctx L.ctx).moves && !s.pendingFault (.launch L.ctx L.queue) &&
    (s.predsDone L || (s.predBad L).isSome || (!L.noted && !(s.predFaults L).isEmpty))

/-- PREDECESSOR_TEST: a waiting launch is tested again (R228). -/
def execPredecessorTest (lid : Nat) (s : State) : Out :=
  .next (match tget? s.launches lid with
    | some L =>
      if s.predsDue L then
        match s.predBad L with
        | some o => (s.leaveHead lid L).invalidLaunch L.ctx L.queue L.index L.block.done o 0 0
        | none =>
          if s.predsDone L then s.evaluate lid L
          else
            (s.predFaults L).foldl (fun u e => u.noteFault L.ctx (srcHdie (L.queue % 2)) e)
              { s with launches := tset s.launches lid { L with noted := true } }
      else s
    | none => s)

/-- The open pass of a context that can take the next batch of a queue (R326). -/
def State.passFor (s : State) (x q : Nat) : Option (Nat × Pass) :=
  s.passes.find? fun e => e.2.ctx == x && e.2.rs.gqueue == q && e.2.taken < e.2.rs.nbatch &&
    (tget? s.launches e.1).any fun L => L.st == .running

/-- GEOMETRY_BATCH_TAKE (R326). -/
def execGeometryBatchTake (lid : Nat) (s : State) : Out :=
  .next (match tget? s.launches lid with
    | none => s
    | some L =>
      if L.st == .evaluated && (s.ctx L.ctx).moves then
        match s.passFor L.ctx L.queue with
        | none => s
        | some (p, P) =>
          let P1 : Pass :=
            { P with taken := P.taken + 1, batches := P.batches ++ [(P.taken, lid)], sizes := P.sizes ++ [L.block.teams] }
          let s1 : State := { s with passes := tset s.passes p P1 }
          s1.toPending lid { L with batchOf := some (p, P.taken) }
      else s)

/-! ## Running (R214, R233, R234) -/

/-- An empty core of which all group contexts are in one partition. -/
def emptyMachine (s : State) (part : Nat) : State :=
  { State.reset with tsForce := s.tsForce, cores := [(0, { Core.start with part := if part == 0 then 64 else 0 })] }

/-- The teams of a grid that fit on one empty core, at most `n`. -/
def fitCount (b : Block) (part : Nat) : Nat → State → Nat
  | 0, _ => 0
  | n + 1, s =>
    match s.admitGrid 0 part 0 0 0 0 b true none id with
    | some t => fitCount b part n t + 1
    | none => 0

/-- A persistent grid exceeds the cores to which it is bound (R214). -/
def State.tooLarge (s : State) (lid : Nat) (L : Launch) : Bool :=
  let cs := s.boundCores lid
  L.block.persist &&
    cs.eraseDups.length * fitCount L.block ((cs.head?.map (·.2)).getD 1) 64 (emptyMachine s ((cs.head?.map (·.2)).getD 1)) <
      L.block.teams

/-- The ticket counters of a grid of `n` teams (R233). -/
def ticketLoad (n : Nat) : List (Nat × Nat) := (List.range 8).map fun d => (n * d / 8, n * (d + 1) / 8)

/-- A tile launch may be bound: its pass stands, and no other open pass of the context names its queue (R326). -/
def State.passReady (s : State) (lid : Nat) (L : Launch) : Bool :=
  match tget? s.passes lid with
  | none => false
  | some P => !s.passes.any fun e => e.1 != lid && e.2.ctx == L.ctx && e.2.rs.gqueue == P.rs.gqueue &&
      (tget? s.launches e.1).any fun M => M.st == .running

/-- A valid record binds the launch, to whatever cores (R227). -/
def State.isBound (s : State) (lid : Nat) : Bool :=
  (List.range 8).any fun d => (s.bindings d).any fun (_, _, _, l, _) => l == lid

/-- A launch in Pending bind with a valid record becomes Running (R227), or is discarded as too large (R234). A pass
opens with the images then installed (R349). -/
def State.tryRun (s : State) (lid : Nat) : State :=
  match tget? s.launches lid with
  | none => s
  | some L =>
    if L.st == .pendingBind && (s.ctx L.ctx).moves && s.isBound lid && (!L.block.tile || s.passReady lid L) then
      if s.tooLarge lid L then
        (((s.unrun lid L).logError L.ctx 3 0 (srcHdie (L.queue % 2)) L.queue L.index L.block.teams).addDone L.ctx L.queue
          L.index L.block.done (some fcOob)).sweepCompleting
      else
        { s with launches := tset s.launches lid
                   { L with st := .running, gated := L.block.persist
                            tickets := if L.block.tile then [] else ticketLoad L.block.teams }
                 passes := tmod s.passes lid fun P => { P with images := (s.ctx L.ctx).images } }
    else s

/-- Every launch in Pending bind that can run becomes Running. -/
def State.runLaunches (s : State) : State := (tkeys s.launches).foldl State.tryRun s

/-- BIND_RECORD_WRITE (R231, R232): a record that the hardware ignores is logged as a firmware fault, at an address that
the spec does not give. -/
def execBindRecordWrite (die slot : Nat) (rec_ : BitVec 128) (s : State) : Out :=
  if 8 ≤ die || 64 ≤ slot then .next s
  else
    let r := parseBind rec_
    let old := (tget? (s.die die).slots slot).map fun u => (parseBind u.record, u.admitted)
    let kept := match old with
      | some (o, n) => if o.valid && r.valid && o.grid == r.grid && o.ctx == r.ctx then n else 0
      | none => 0
    let s1 := s.modDie die fun D =>
      { D with slots := if rec_ == 0 then tdel D.slots slot else tset D.slots slot { record := rec_, admitted := kept } }
    if r.valid && !s.heeds r then
      let (t, n) := s1.draw
      .next (t.firmwareFault (some r.ctx) (Config.freeDWord n).toNat (rec_.toNat % 2 ^ 64))
    else .next s1.runLaunches

/-! ## The opening of a pass (R326, R329, R333) -/

/-- The ranges of a context's list pool that open passes use. -/
def State.poolUsed (s : State) (x : Nat) : List (Nat × Nat) :=
  s.launches.flatMap fun e => if e.2.ctx == x then
      match tget? s.passes e.1 with
      | some P => e.2.stores.map fun b => (b.2, P.rs.lsize)
      | none => []
    else []

/-- Bases lie in the list pool, apart from one another and from the stores in use (R333, R446). -/
def State.basesOk (s : State) (x size : Nat) (bases : List Nat) : Bool :=
  let c := s.ctx x
  let lo := c.dword 0x1E0
  let hi := lo + c.word 0x1E8 * 2 ^ 20
  let apart (a b : Nat × Nat) : Bool := a.1 + a.2 ≤ b.1 || b.1 + b.2 ≤ a.1
  bases.all (fun b => lo ≤ b && b + size ≤ hi && (s.poolUsed x).all (apart (b, size))) &&
    (bases.zipIdx.all fun (a, i) => (bases.drop (i + 1)).all fun b => apart (a, size) (b, size))

/-- A pass as it opens. -/
def Pass.start (x : Nat) (rs : RenderState) : Pass :=
  { ctx := x, rs := rs, ntiles := rs.ntiles, taken := 0, batches := [], complete := 0, sizes := [], closed := false,
    binners := [], tiles := [], failed := none, images := [] }

/-- A tile launch that is bound waits for its list stores. -/
def State.needsStores (s : State) (lid : Nat) (L : Launch) : Bool :=
  L.st == .pendingBind && L.block.tile && s.isBound lid && (tget? s.passes lid).isNone && (s.ctx L.ctx).moves &&
    !s.pendingFault (.pass lid)

/-- A tile launch whose render state cannot be used is Invalid (R329). -/
def State.badRender (s : State) (lid : Nat) (L : Launch) (rs : Nat) : State :=
  ((s.unrun lid L).invalidLaunch L.ctx L.queue L.index L.block.done 80 rs 0).sweepCompleting

/-- LIST_STORE_ALLOC: the pass of a launch that is bound opens; its render state is read once, Agate allocates a list store
on each binning die at bases of its choice within the pool, and the launch is Running (R326, R333). Bases that do not fit
change nothing; nor does an opening while another open pass names the queue. -/
def execListStoreAlloc (lid : Nat) (bases : List Nat) (s : State) : Out :=
  .next (match tget? s.launches lid with
    | none => s
    | some L =>
      if !s.needsStores lid L then s
      else if L.block.rstate % 64 != 0 then s.badRender lid L 0xFFFFFFFF
      else
        match s.servedRead (.pass lid) none L.ctx none L.block.rstate 320 with
        | (t, .wait) => t
        | (t, .fail _ _ _) => (t.clearFaults (.pass lid)).badRender lid L 0xFFFFFFFF
        | (t, .ok bs) =>
          match firstBad (renderChecks bs L.block ((t.ctx L.ctx).word 0x1F0)) with
          | some o => t.badRender lid L o
          | none =>
            let rs := parseRender bs
            let ds := (List.range 8).filter (bit rs.binmask)
            let u : State := { t.clearFaults (.pass lid) with
              passes := tset t.passes lid (Pass.start L.ctx rs)
              launches := tset t.launches lid { L with stores := ds.zip bases } }
            if bases.length == ds.length && t.basesOk L.ctx rs.lsize bases && u.passReady lid L then u.tryRun lid else s)

/-! ## Persistent grids (R214) -/

/-- The teams of a launch that are on cores. -/
def State.launchTeams (s : State) (lid : Nat) : List (Nat × Team) := s.teams.filter fun e => e.2.lid == lid

/-- A persistent grid is whole: all its teams are admitted (R214). -/
def State.gridWhole (s : State) (lid : Nat) (L : Launch) : Bool :=
  L.gated && L.st == .running && ((s.launchTeams lid).map (·.2.index)).eraseDups.length == L.block.teams

/-- PERSISTENT_GRID_START. -/
def execPersistentGridStart (lid : Nat) (s : State) : Out :=
  .next (match tget? s.launches lid with
    | none => s
    | some L =>
      if s.gridWhole lid L then
        ((s.launchTeams lid).map (·.2.core)).foldl (fun u c => u.settleArmed c)
          { s with launches := tset s.launches lid { L with gated := false }
                   teams := s.teams.map fun e => (e.1, if e.2.lid == lid then { e.2 with begun := true, begunAt := s.now } else e.2) }
      else s)

/-! ## Completion (R230) -/

/-- Indices are left in the counters of a launch. -/
def Launch.left (L : Launch) : Bool := L.tickets.any fun t => t.1 < t.2

/-- Every tile of a pass has been retired (R320). -/
def Pass.allRetired (P : Pass) : Bool :=
  (List.range P.ntiles).all fun t => (tget? P.tiles t).any fun r => r.st == .retired

/-- What the fibres of a grid have started is not done: an engine operation or a step on an object of one, an announcement,
or a store on its way to a far target (R230, R314). -/
def State.gridBusy (s : State) (x grid : Nat) : Bool :=
  (s.contribs.any fun e => e.2.ctx == x && e.2.done.isNone && e.2.origin.grid == grid) ||
  (s.flights.any fun f => f.up && f.ctx == x && f.origin.grid == grid) ||
  (s.dies.any fun e => e.2.ops.any fun o => o.ctx == x && o.origin.grid == grid) ||
  s.remotes.any fun e => e.2.store && e.2.ctx == x && e.2.grid == grid

/-- The launch's teams have ended, saved ones included, and what they started has been done (R208, R230). -/
def State.launchEnded (s : State) (lid : Nat) (L : Launch) : Bool :=
  L.st == .running && (s.ctx L.ctx).moves && (s.launchTeams lid).isEmpty &&
    !(s.ctx L.ctx).saved.any (fun e => e.2.team.lid == lid) &&
    !s.gridBusy L.ctx L.grid &&
    (if L.block.tile then (tget? s.passes lid).any (·.allRetired) else !L.left)

/-- LAUNCH_COMPLETION: the launch acts on its done object and is then gone; it stays Completing while the action waits for a
service. -/
def execLaunchCompletion (lid : Nat) (s : State) : Out :=
  .next (match tget? s.launches lid with
    | none => s
    | some L =>
      if s.launchEnded lid L then
        (({ s with launches := tset s.launches lid { L with st := .completing } } : State).addDone L.ctx L.queue L.index L.block.done
          none).sweepCompleting
      else s)

/-! ## Teardown (R239) -/

/-- Every launch of a context that has not become Running is Discarded, and its records are cleared (R239). Those that
run end with their teams. -/
def State.discardLaunches (s : State) (x : Nat) : State :=
  let mine := s.launches.filter fun e => e.2.ctx == x
  let s1 := (List.range 16).foldl (fun u q => u.discardQueue x q) s
  let s2 := mine.foldl (fun u e =>
    if e.2.st == .running || e.2.st == .completing then u else u.logError x 2 0 (srcHdie (e.2.queue % 2)) e.2.queue e.2.index 0) s1
  let s3 : State := { s2 with launches := s2.launches.filter fun e => e.2.ctx != x
                              passes := s2.passes.filter fun e => e.2.ctx != x }
  s3.clearBinds fun r => r.ctx == x

end Sys2Proof.Machine
end

