-- ==== Sys2Proof/Machine/Queue.lean ====
section
/-!
DEFINITION. The queues of a context (R71-R75, 02_control_arith.md; R198, R199, 05_program_sssp.md; R215-R217,
06_execution.md).
-/

namespace Sys2Proof.Machine

/-- A queue descriptor (R215). -/
structure QueueDesc where
  base : Nat
  cap  : Nat
  high : Nat
  low  : Nat
  word : Nat
  head : Nat
  tail : Nat

/-- The number of entries. -/
def QueueDesc.depth (q : QueueDesc) : Nat := sub32 q.tail q.head
/-- The free space in entries. -/
def QueueDesc.free (q : QueueDesc) : Nat := q.cap - q.depth
/-- The above-high state. -/
def QueueDesc.overs (q : QueueDesc) : Bool := bit q.word 23
/-- The address of entry `n`. -/
def QueueDesc.entry (q : QueueDesc) (n : Nat) : Nat := q.base + 32 * (n % 2 ^ 32 % q.cap)
/-- The descriptor's word at 20-23 with the above-high state set to a value. -/
def QueueDesc.overWord (q : QueueDesc) (b : Bool) : Nat := q.word - b2n q.overs * 2 ^ 23 + b2n b * 2 ^ 23

/-- The descriptor that bytes hold, none when it breaks R215. -/
def parseQueue (d : List Byte) : Option QueueDesc :=
  let q : QueueDesc := { base := byteField d 0 8, cap := byteField d 8 4, high := byteField d 12 4,
                         low := byteField d 16 4, word := byteField d 20 4, head := byteField d 24 4,
                         tail := byteField d 28 4 }
  if q.base % 32 == 0 && q.base < vaTop && 1 ≤ q.cap && q.cap ≤ 65536 && 1 ≤ q.high && q.high ≤ q.cap &&
      q.low < q.high && bits q.word 0 20 != 0 && bits q.word 20 3 ≤ 5 && bits q.word 24 8 == 0 &&
      (d.drop 32).all (· == 0) && q.depth ≤ q.cap then some q
  else none

/-- The address of the descriptor of queue `k`. -/
def State.queueVa (s : State) (x k : Nat) : Nat := (s.ctx x).dword 0x180 + 64 * k

/-- Reading the descriptor that an instruction names (R75, R215). -/
def State.queueDesc (s : State) (I : Issue) (acc : Access) (k : Nat) : State × Except CoreErr QueueDesc :=
  let oob := CoreErr.trap (mkTrap fcOob 0 k)
  if (s.ctx I.x).word 0x188 ≤ k then (s, .error oob)
  else
    match s.coreRead I acc (s.queueVa I.x k) 64 with
    | (t, .error e) => (t, .error e)
    | (t, .ok d) =>
      match parseQueue d with
      | some q => (t, .ok q)
      | none => (t, .error oob)

/-- The queue index of an instruction. -/
def queueIdx (I : Issue) (q : BitVec 6) : Nat := (I.R.s q.toNat).toNat

/-- The group was descheduled by a push to the queue (any queue of the context for none), and is to stay so. -/
def Group.parkedPush (G : Group) (x : Nat) (q : Option Nat) : Bool :=
  match G.st with
  | .descheduled k _ none => G.ctx == x && (q.isNone || q == some k)
  | _ => false

/-- The Descheduled pushers of a queue, or of all queues of a context, are to be Resident again within 64 counted cycles
(R217 steps 4 and 5, R220). -/
def State.freePushers (s : State) (x : Nat) (q : Option Nat) : State :=
  s.allGroups.foldl (fun u (c, g, G) =>
    if G.parkedPush x q then
      u.modGroup c g fun G =>
        match G.st with
        | .descheduled k o none => { G with st := .descheduled k o (some (s.pulses c + 64)) }
        | _ => G
    else u) s

/-- A pop of `n` entries as the queue takes it (R72, R217): `head` moves, and with a depth below `low` the above-high state ends
and the pushers are freed. The spec does not say what follows when a push set that state while the depth was below `low`
already; the model ends it at the next QPOP or QPOP.T, with or without an entry (log entry 81). -/
def State.takeEntries (s : State) (I : Issue) (k : Nat) (q : QueueDesc) (n : Nat) : State :=
  let overs := q.overs && q.low ≤ q.depth - n
  let w := if n == 0 && overs == q.overs then s
    else s.corePut I (s.queueVa I.x k + 20) (leBytes 4 (q.overWord overs) ++ leBytes 4 ((q.head + n) % 2 ^ 32))
  if q.overs && !overs then w.freePushers I.x (some k) else w

/-- QPOP and QPOP.T (R72): an acquire of the queue's object when an entry is received (R307). -/
def qpopRun (wait : Bool) (k : BitVec 3) (d : BitVec 7) (qr : BitVec 6) (I : Issue) (s : State) : Result :=
  let k0 := queueIdx I qr
  match s.queueDesc I .atomic k0 with
  | (t, .error e) => e.stop I t
  | (t, .ok q) =>
    let drain := t.drainSeen I.x I.tid
    let n := if drain then 0 else min q.depth I.act.length
    match t.coreReads I .read 32 ((List.range n).map fun i => q.entry (q.head + i)) with
    | (u, .error e) => e.stop I u
    | (u, .ok es) =>
      let v := (u.modGroup I.core I.g fun G => { G with lastQueue := some k0 }).takeEntries I k0 q n
      if wait && !drain && q.depth == 0 then .wait v (.poll 7)
      else
        .go (if n == 0 then v else v.acquire I.party (some (bits q.word 0 20)) (bits q.word 20 3)) (I.act.zipIdx.map fun (l, i) =>
          let got := match es[i]? with
            | some e => wregs l d.toNat (bytesWords 8 e) ++ [wpred l k.toNat false]
            | none => [wpred l k.toNat true]
          { lane := l, writes := got ++ [wpred l (k.toNat + 8) drain] })

/-- QPOP. -/
def execQpop (k : BitVec 3) (d : BitVec 7) (q : BitVec 6) (c : BitVec 3) : State → Out :=
  issue { ins := .qpop k d q c, c := c, ops := [op k, ovn 8 d, os q, .p (k.toNat + 8)] } (qpopRun true k d q)
/-- QPOP.T. -/
def execQpopT (k : BitVec 3) (d : BitVec 7) (q : BitVec 6) (c : BitVec 3) : State → Out :=
  issue { ins := .qpopT k d q c, c := c, ops := [op k, ovn 8 d, os q, .p (k.toNat + 8)] } (qpopRun false k d q)

/-- The push tests `high` no more (R217 step 4): it was descheduled, and its fibres may have met a fault since. -/
def Issue.retested (I : Issue) : Bool := I.act.any fun l => (I.G.lane l).retested == some I.pc

/-- A push of the fibres is over: the next one tests `high`. -/
def Group.pushed (G : Group) (ls : List Nat) : Group :=
  if ls.any fun l => (G.lane l).retested.isSome then ls.foldl (fun H l => H.modLane l fun L => { L with retested := none }) G else G

/-- The entries' places accept a write, or the error of the first that does not; a place that holds uncorrectable data is
written over (R122). -/
def State.corePlaces (s : State) (I : Issue) : List Nat → State × Option CoreErr
  | [] => (s, none)
  | va :: t =>
    match s.coreParts I .write (rangeParts va 32) with
    | (s1, .error e) => (s1, some e)
    | (s1, .ok _) => s1.corePlaces I t

/-- A push looks at the ranges of the queue's object (R303, R309): what is logged when it cannot be read. -/
def State.noteObj (s : State) (I : Issue) (k : Nat) : State :=
  if k == 0 || (s.ctx I.x).objCount ≤ k then s
  else
    match s.vaRead I.x ((s.ctx I.x).objVa k + 32) 16 with
    | .ok _ => s
    | .error e => s.noteFault I.x (srcCore I.core) e

/-- Appending the entries of a batch (R73): a release of the queue's object at the descriptor's scope (R75, R314). -/
def qpushAppend (I : Issue) (s : State) (a : BitVec 7) (k0 : Nat) (q : QueueDesc) : Result :=
  let es := I.act.zipIdx.map fun (l, i) =>
    (q.entry (q.tail + i), wordsBytes ((List.range 8).map fun j => I.R.v l (a.toNat + j)))
  match s.corePlaces I (es.map (·.1)) with
  | (t, some e) => e.stop I t
  | (t, none) =>
    if t.farStores I.core I.g then .wait t (.poll 15)
    else
      let u := es.foldl (fun u e => u.corePut I e.1 e.2)
        ((t.noteObj I (bits q.word 0 20)).release I.core I.g I.x I.T I.tid (bits q.word 0 20) (bits q.word 20 3))
      .go ((u.corePut I (u.queueVa I.x k0 + 28) (leBytes 4 ((q.tail + I.act.length) % 2 ^ 32))).modGroup I.core I.g
        (·.pushed I.act)) []

/-- QPUSH (R73, R217). -/
def execQpush (a : BitVec 7) (qr : BitVec 6) (c : BitVec 3) : State → Out :=
  issue { ins := .qpush a qr c, c := c, ops := [ovn 8 a, os qr] } fun I s =>
    let k0 := queueIdx I qr
    let n := I.act.length
    match s.queueDesc I .atomic k0 with
    | (t, .error e) => e.stop I t
    | (t, .ok q) =>
      if I.retested then (if n ≤ q.free then qpushAppend I t a k0 q else .wait t (.poll 15))
      else if q.depth + n ≤ q.high then qpushAppend I t a k0 q
      else
        let u := t.corePut I (t.queueVa I.x k0 + 20) (leBytes 4 (q.overWord true))
        let due := if u.draining I.x then some (u.pulses I.core + 64) else none
        .wait { u.modGroup I.core I.g fun G => { G with st := .descheduled k0 u.nextOp due } with nextOp := u.nextOp + 1 }
          (.push k0)

/-- QSTAT: `f` gives the value from the drain flag and the descriptor (R74). -/
def qstat (i : Instr) (f : Bool → QueueDesc → Nat) (d q : BitVec 6) (c : BitVec 3) : State → Out :=
  issue { ins := i, c := c, ops := [os d, os q] } fun I s =>
    match s.queueDesc I .read (queueIdx I q) with
    | (t, .error e) => e.stop I t
    | (t, .ok desc) => .go t (scalarOut I [(.s d.toNat, word (f (t.drainSeen I.x I.tid) desc))])

/-- QSTAT.DEPTH. -/
def execQstatDepth (d q : BitVec 6) (c : BitVec 3) : State → Out := qstat (.qstatDepth d q c) (fun _ q => q.depth) d q c
/-- QSTAT.FREE. -/
def execQstatFree (d q : BitVec 6) (c : BitVec 3) : State → Out := qstat (.qstatFree d q c) (fun _ q => q.free) d q c
/-- QSTAT.FLAGS. -/
def execQstatFlags (d q : BitVec 6) (c : BitVec 3) : State → Out :=
  qstat (.qstatFlags d q c) (fun drain q => b2n drain + 2 * b2n q.overs) d q c

end Sys2Proof.Machine
end

