-- ==== Sys2Proof/Machine/Context.lean ====
section
/-!
DEFINITION. The operations on a whole context: pre-emption and its withdrawal, resume, thaw, reset, teardown, clear
(R239, 07_scheduling.md; R253-R261, 08_traps.md; R448, 23_host.md), and the steps DEADLINE_EXPIRY and TRAP_DISPOSITION.
-/

namespace Sys2Proof.Machine

/-! ## Pre-emption (R259) -/

/-- The deadline of a context in µs (R248). -/
def Ctx.deadlineUs (c : Ctx) : Nat := if c.word 0x01C == 0 then 2000 else c.word 0x01C

/-- The sleeps of a context's groups end when the pre-emption request comes (R195); a generator team stands outside
pre-emption (R401). -/
def State.wakeSleepers (s : State) (x : Nat) : State :=
  (s.allGroups.filter fun e => e.2.2.ctx == x && (s.team e.2.2.tid).gen.isNone).foldl (fun u e => u.endSleep e.1 e.2.1) s

/-- A pre-emption request, accepted while the context is Active (R259, R260): the deadline counts global time, and
Descheduled pushers come back (R217). -/
def State.preempt (s : State) (x : Nat) : State :=
  if (s.ctx x).st == .active then
    ((s.modCtx x fun c =>
      { c with st := .draining, deadline := some (s.ptp + 1000 * c.deadlineUs), remains := none }).wakeSleepers x).freePushers x none
  else s

/-- A group in boundary wait goes on behind its YIELD (R259). -/
def Group.release (G : Group) : Group :=
  match G.st with
  | .boundary => { G with st := .resident }
  | _ => G

/-- The withdrawal of a request, accepted while the context is Draining (R259). -/
def State.withdraw (s : State) (x : Nat) : State :=
  if (s.ctx x).st == .draining then
    (s.modCtx x fun c => { c with st := .active, deadline := none, remains := none }).mapGroups x fun G =>
      if (s.team G.tid).migrate.isSome then G else G.release
  else s

/-! ## Resume and thaw (R254, R255) -/

/-- A parked trap that waits for a resume is disposed of from rule 5, its stopmask bits ignored. -/
def Lane.resumed (L : Lane) : Lane :=
  match L.parked with
  | some (.trap t 6) => { L with parked := some (.trap t 5) }
  | _ => L

/-- The resume of a Stopped context (R255). -/
def State.resume (s : State) (x : Nat) : State :=
  if (s.ctx x).st == .stopped then
    (s.modCtx x fun c => ({ c with st := c.back }).resumeDeadline s.ptp).mapGroups x fun G =>
      { G with lanes := G.lanes.map fun e => (e.1, e.2.resumed) }
  else s

/-- The thaw of a Frozen context (R254): the state before the freeze. Fibres whose block has been filled in the meantime
replay. -/
def State.thaw (s : State) (x : Nat) : State :=
  if (s.ctx x).st == .frozen then
    (s.modCtx x fun c =>
      ({ c with st := c.back, back := if c.back == CtxState.stopped then c.back2 else c.back }).resumeDeadline s.ptp).wakeFills x
  else s

/-! ## Reset, teardown, clear -/

/-- The fills of a context end: its FILLING blocks return to UNFILLED (R260, R400). Evictions go on. -/
def State.dropFills (s : State) (x : Nat) : State :=
  ((s.ctx x).fills.filter fun f => !f.evicting).foldl (fun u f => u.endFill x f.block fsUnfilled) s

/-- Whether a fault entry belongs to a context. -/
def State.dropCtxFaults (s : State) (x : Nat) : State := { s with faults := s.faults.filter fun e => e.2.ctx != x }

/-- What the engines and routers hold for a context is discarded and contributes nothing (R260). -/
def State.dropCtxOps (s : State) (x : Nat) : State :=
  let s1 : State := { s with
    dies := s.dies.map fun e => (e.1, { e.2 with
      ops := e.2.ops.filter fun o => o.ctx != x
      interests := e.2.interests.filter fun i => i.2.ctx != x
      streams := e.2.streams.filter fun t => t.1 / 16 != x
      copies := e.2.copies.filter fun k => k.ctx != x })
    cores := s.cores.map fun e => (e.1, e.2.keepMatrix fun m => m.ctx != x)
    hdies := s.hdies.map fun e => (e.1, { e.2 with
      requests := e.2.requests.filter fun r => r.ctx != x
      copies := e.2.copies.filter fun k => k.ctx != x })
    flights := s.flights.filter fun f => f.ctx != x
    retires := s.retires.filter fun r => r.ctx != x
    contribs := s.contribs.filter fun e => e.2.ctx != x
    lats := s.lats.filter fun e => e.2.ctx != x
    traces := s.traces.filter fun w => w.ctx != x
    remotes := s.remotes.filter fun e => e.2.ctx != x || e.2.who.all FaultWho.isPosted }
  s1.dropCtxFaults x

/-- The copy status area of a context reads zero after a reset (R299); nothing is written while it cannot be. -/
def State.zeroStatus (s : State) (x : Nat) : State :=
  let base := (s.ctx x).dword 0x1B0
  if base == 0 then s
  else
    match s.vaWrite x base (List.replicate 4096 0) with
    | .ok t => t
    | .error e => s.noteFault x (srcHdie 0) e

/-- The teams of a context. -/
def State.ctxTeams (s : State) (x : Nat) : List (Nat × Team) := s.teams.filter fun e => e.2.ctx == x

/-- The forced reset of a context, or its teardown (R239, R254, R260): launches are discarded, teams killed with a code,
operations dropped; the context is Lost, and its feature set is unlocked (R448). -/
def State.resetCtx (s : State) (x code : Nat) : State :=
  let s1 := s.discardLaunches x
  let s2 := (s1.ctxTeams x).foldl (fun u e => u.killGroups e.1 (mkTrap code 0 0)) s1
  let s3 := ((s2.dropFills x).dropCtxOps x).zeroStatus x
  s3.modCtx x fun c =>
    { c with st := .lost, deadline := none, remains := none, features := none, saved := [], gdone := [], evictq := [],
             freezes := [], doomed := false }

/-- The owner clears a Lost context: an empty Active one (R255). -/
def State.clear (s : State) (x : Nat) : State :=
  if (s.ctx x).st == .lost then
    s.modCtx x fun c => { c with st := .active, back := .active, back2 := .active, fills := c.fills.filter (·.evicting), queues := [] }
  else s

/-- The deadline of a Draining context has come, or a team of it could not be saved or restored (R260). -/
def State.expired (s : State) (x : Nat) : Bool :=
  (s.ctx x).doomed || ((s.ctx x).st == .draining && ((s.ctx x).deadline.map fun d => decide (d ≤ s.ptp)).getD false)

/-- A team could not be saved or restored: its context is reset at the start of the next cycle (R239, R260, R261). -/
def State.doom (s : State) (x : Nat) : State := s.modCtx x fun c => { c with doomed := true }

/-- The forced reset at the deadline, with the TIMEOUT event: the deadline in µs and the teams killed (R260, R441). -/
def State.timeOut (s : State) (x : Nat) : State :=
  let n := ((s.ctxTeams x).filter fun e => !(s.teamGroups e.1).isEmpty).length
  (s.resetCtx x fcTimeout).event 5 x (leBytes 4 (s.ctx x).deadlineUs ++ leBytes 4 n)

/-- DEADLINE_EXPIRY. -/
def execDeadlineExpiry (ctx : Nat) (s : State) : Out := .next (if s.expired ctx then s.timeOut ctx else s)

/-- A Draining context whose teams have all been saved or have ended is Saved, before its deadline (R255, R260, R401). -/
def State.drained (s : State) (x : Nat) : State :=
  if (s.ctx x).st == .draining && (s.ctxTeams x).all (fun e => e.2.ended) && !s.expired x then
    s.modCtx x fun c => { c with st := .saved, deadline := none, remains := none }
  else s

/-! ## Trap disposition (R244) -/

/-- The fibres of a group with a trap to dispose of: lane, PC, rule and trap. One whose older instructions have writes
pending is not among them yet (R242). -/
def Group.undisposed (G : Group) : List (Nat × Nat × Nat × Trap) :=
  G.lanes.filterMap fun e =>
    match e.2.parked with
    | some (.trap t r) => if r ≤ 5 && !G.owes [e.1] then some (e.1, e.2.pc, r, t) else none
    | _ => none

/-- The trap of a fibre freezes its context, from the rule by which it is to be disposed of. -/
def freezing (u : Nat × Nat × Nat × Trap) : Bool := u.2.2.1 ≤ 2 && u.2.2.2.freezes

/-- Traps of a group are disposed of, those of one instruction and one rule together. -/
def State.disposeEach (s : State) (core g : Nat) (us : List (Nat × Nat × Nat × Trap)) : State :=
  (us.map fun u => (u.2.1, u.2.2.1)).eraseDups.foldl (fun t (k : Nat × Nat) =>
    t.disposeAll core g k.1 k.2 ((us.filter fun u => (u.2.1, u.2.2.1) == k).map fun u => (u.1, u.2.2.2))) s

/-- TRAP_DISPOSITION: the parked traps of a group are disposed of, those that freeze the context first (R261). While the
context is Frozen or Lost they stay (rule 1). -/
def execTrapDisposition (core g : Nat) (s : State) : Out :=
  .next (match s.group? core g with
    | none => s
    | some G =>
      if (s.ctx G.ctx).holdsTraps then s
      else
        let us := G.undisposed
        (s.disposeEach core g (us.filter freezing)).disposeEach core g (us.filter fun u => !freezing u))

/-- A group has a trap whose disposition is due: one that freezes the context is, unless a trap has been disposed of in the
cycle (R261). -/
def State.trapDue (s : State) (G : Group) : Bool :=
  let c := s.ctx G.ctx
  !c.holdsTraps && G.undisposed.any fun u => !(freezing u && c.disposed == some s.now)

end Sys2Proof.Machine
end

