-- ==== Sys2Proof/Machine/Global.lean ====
section
/-!
DEFINITION. Touches, global loads, stores and atomics, and multi-destination stores (R114-R127, 03_memory_instr.md).
-/

namespace Sys2Proof.Machine

/-! ## TCH -/

/-- A touch entry is live for 256 counted cycles from its issue (R116). -/
def Touch.live (t : Touch) (pulses : Nat) : Bool := pulses ≤ t.issued + 256

/-- Recording a touch entry: at most eight live ones, the oldest replaced (R116). -/
def Group.record (G : Group) (pulses : Nat) (t : Touch) : Group :=
  let l := G.touches.filter (·.live pulses)
  { G with touches := l.drop (l.length - 7) ++ [t] }

/-- What a touch gives for one fibre: its share of the entry, or its trap or park. -/
def State.touchLane (s : State) (I : Issue) (rs : List (Nat × Xlate)) (acc : Access) (l va pva : Nat) :
    State × (Option TouchShare × LaneOut) :=
  match s.touchPa I rs acc l va pva with
  | (t, .ok pa) => (t, (some { lane := l, dropped := false, va := pva, pa := pa }, { lane := l }))
  | (t, .error o) => (t, (none, o))

/-- TCH: `a` is the index register, `sf` the record slot, `w` the width code and `k` the kind. -/
def execTch (a : BitVec 7) (sf : BitVec 4) (w : BitVec 2) (k : BitVec 1) (c : BitVec 3) : State → Out :=
  issue { ins := .tch a sf w k c, c := c, ops := [ov a], scope := true } fun I s =>
    let width := 4 * 2 ^ w.toNat
    let acc := if k == 1 then Access.write else Access.read
    let rec_ := I.T.rec_ sf.toNat
    let at_ (l : Nat) := rec_.addr (I.R.v l a.toNat).toNat width (k == 0) (k == 1)
    let lines := I.act.filterMap fun l =>
      match at_ l with
      | .ok (some (_, pva)) => some (lineOf pva)
      | _ => none
    let (s1, rs) := s.xlateLines I.core I.x acc lines
    let r := I.act.foldl (fun (u : State × List (Option TouchShare × LaneOut)) l =>
      match at_ l with
      | .error t => (u.1, u.2 ++ [(none, { lane := l, trap := some t })])
      | .ok none => (u.1, u.2 ++ [(some { lane := l, dropped := true, va := 0, pa := 0 }, { lane := l })])
      | .ok (some (va, pva)) =>
        let q := u.1.touchLane I rs acc l va pva
        (q.1, u.2 ++ [q.2])) (s1, [])
    let shares := r.2.filterMap (·.1)
    let p := s.pulses I.core
    let s2 := if shares.isEmpty then r.1
      else r.1.modGroup I.core I.g fun G =>
        G.record p { slot := sf.toNat, write := k == 1, width := width, issued := p, shares := shares }
    farWait I (s2, r.2.map (·.2))

/-! ## Covered accesses -/

/-- The share of a fibre in the newest live entry that covers an access (R117): `pva` is the access's address, none when
the fibre is dropped; `width` is the width that the entry must have, when one is asked for (R124). The answer is the
physical address, none for a dropped fibre. -/
def Group.cover (G : Group) (pulses slot l w : Nat) (write : Bool) (width : Option Nat) (pva : Option Nat) :
    Option (Option Nat) :=
  G.touches.reverse.findSome? fun t =>
    if t.live pulses && t.slot == slot && (!write || t.write) && (width.isNone || width == some t.width) then
      match t.shares.find? fun x => x.lane == l with
      | none => none
      | some x =>
        match pva with
        | none => if x.dropped then some none else none
        | some a =>
          if !x.dropped && x.va ≤ a && a + w ≤ x.va + t.width then some (some (x.pa + (a - x.va))) else none
    else none

/-- What a global access finds for one fibre. -/
inductive Cover where
  | trap (t : Trap)
  | dropped
  | hit (pva pa : Nat)

/-- The address and the cover of an access (R114, R117): an uncovered access raises WINDOW with its virtual address. -/
def accessLane (I : Issue) (pulses slot l idx w : Nat) (write : Bool) (width : Option Nat) : Cover :=
  let rec_ := I.T.rec_ slot
  match rec_.place idx w with
  | .error t => .trap t
  | .ok none =>
    match I.G.cover pulses slot l w write width none with
    | some _ => .dropped
    | none => .trap (mkTrap fcWindow 0 (rec_.base + idx * rec_.stride))
  | .ok (some (va, pva)) =>
    match I.G.cover pulses slot l w write width (some pva) with
    | some (some pa) => .hit pva pa
    | _ => .trap (mkTrap fcWindow 0 va)

/-- The accesses of the active fibres of an instruction. -/
def accessAll (I : Issue) (s : State) (slot : Nat) (a : BitVec 7) (w : Nat) (write : Bool) (width : Option Nat) :
    List (Nat × Cover) :=
  I.act.map fun l => (l, accessLane I (s.pulses I.core) slot l (I.R.v l a.toNat).toNat w write width)

/-- The lines of an instruction's covered accesses, by their virtual and physical addresses, one for each fibre. -/
def accessLines (s : State) (cs : List (Nat × Cover)) : List (Nat × Nat) :=
  cs.filterMap fun e =>
    match e.2 with
    | .hit pva pa => some (lineOf pva, s.ownAddr (lineOf pa))
    | _ => none

/-- The requests that an instruction sends for its lines: each line is translated once (R275, R287), and requested once,
or for each access apart when it is volatile (R121, R423). -/
def State.request (s : State) (I : Issue) (op : Nat) (vol : Bool) (lines : List (Nat × Nat)) : State :=
  (s.serveLines I.core I.x (lines.map (·.1)).eraseDups).lineRequests I op none (if vol then lines else lines.eraseDups)

/-- A load or an atomic that returns data: `step` performs it for one fibre. Fibres whose target does not answer wait
for the end of the request and raise POISON (R122, R277). -/
def loadRun (op : Nat) (vol : Bool) (d nwords : Nat) (cs : List (Nat × Cover))
    (step : State → Nat → Nat → Nat → State × LaneOut) (I : Issue) (s : State) : Result :=
  let s0 := s.request I op vol (accessLines s cs)
  farWait I (cs.foldl (fun (u : State × List LaneOut) e =>
    let l := e.1
    let out (o : LaneOut) := (u.1, u.2 ++ [o])
    match e.2 with
    | .trap t => out { lane := l, trap := some t }
    | .dropped => out { lane := l, writes := wregs l d (List.replicate nwords 0) }
    | .hit pva pa =>
      match u.1.reach pa with
      | .late => out { lane := l, far := some (pva, lineOf pa) }
      | .now => (u.1.noteLine I.x (srcCore I.core) pa 1, u.2 ++ [{ lane := l, trap := some (mkTrap fcPoison 0 pva) }])
      | .ok =>
        let q := step u.1 l pva pa
        (q.1, u.2 ++ [q.2])) (s0, []))

/-- LDG. -/
def execLdg (d a : BitVec 7) (sf : BitVec 4) (w : BitVec 2) (k c : BitVec 3) : State → Out :=
  issue { ins := .ldg d a sf w k c, c := c, ops := [ovn (2 ^ w.toNat) d, ov a], scope := true, relax := true } fun I s =>
    let width := 4 * 2 ^ w.toNat
    loadRun 0 (k == 2) d.toNat (2 ^ w.toNat) (accessAll I s sf.toNat a width false none)
      (fun u l pva pa =>
        if u.badUnder I.G.held pa width then
          (u.noteLine I.x (srcCore I.core) pa width, { lane := l, trap := some (mkTrap fcPoison 0 pva) })
        else
          let r := u.readSeen I.party (k == 2) none pa width
          (r.1, { lane := l, writes := wregs l d.toNat (loadWords width (overlay I.G.held none pa r.2)) }))
      I s

/-- STG. -/
def execStg (d a : BitVec 7) (sf : BitVec 4) (w : BitVec 2) (k c : BitVec 3) : State → Out :=
  issue { ins := .stg d a sf w k c, c := c, ops := [ovn (2 ^ w.toNat) d, ov a], scope := true, relax := true } fun I s =>
    let width := 4 * 2 ^ w.toNat
    let cs := accessAll I s sf.toNat a width true none
    let kind := classKind k I.hv.relax (I.T.rec_ sf.toNat).sobj I.hv.scope
    .go (cs.foldl (fun u e =>
        match e.2 with
        | .hit _ pa => u.storeBytes I kind pa (storeData I.R e.1 d.toNat width)
        | _ => u) (s.request I 1 (k == 2) (accessLines s cs)))
      (cs.filterMap fun e =>
        match e.2 with
        | .trap t => some { lane := e.1, trap := some t }
        | _ => none)

/-! ## Atomics -/

/-- The record that an instruction of the issuing team names. -/
def State.issuerRec (s : State) (slot : Nat) : Rec :=
  match s.issuer with
  | some I => I.T.rec_ slot
  | none => parseRec 0

/-- A register operand that does not fit its width: misaligned, or past the budget (R124, R125). -/
def misfit (I : Issue) (d n : Nat) : Bool := d % n != 0 || I.G.budget < d + n

/-- One atomic step on memory by a fibre: the new value from the old one. -/
def atomRun (d w : Nat) (I : Issue) (f : Nat → Nat → Nat) (s : State) (l pva pa : Nat) : State × LaneOut :=
  let s1 := s.drainFor I.core I.g pa w
  if s1.bad pa w then (s1.noteLine I.x (srcCore I.core) pa w, { lane := l, trap := some (mkTrap fcPoison 0 pva) })
  else
    let old := s1.rdNat pa w
    let new := f l old
    let s2 := s1.seen I.party [(pa, w)]
    (if new == old then s2 else s2.wr pa (leBytes w new),
      { lane := l, writes := wregs l d (loadWords w (leBytes w old)) })

/-- ATG. -/
def execAtg (d a : BitVec 7) (sf : BitVec 4) (o : BitVec 5) (c : BitVec 3) (s : State) : Out :=
  let w := (s.issuerRec sf.toNat).atomWidth
  issue { ins := .atg d a sf o c, c := c, ops := [.v d.toNat (w / 4) 1, ov a], scope := true, relax := true } (fun I s =>
      if misfit I d.toNat (w / 4) then .go s (trapAll I (mkTrap fcIllop 0 0))
      else loadRun 2 false d.toNat (w / 4) (accessAll I s sf.toNat a w true (some w))
        (atomRun d.toNat w I fun l old => atomStep o.toNat w old (regValue I.R l d.toNat w)) I s) s

/-- ATGC: compare and exchange. An atomic is performed at once: .nt has no effect on it (DESIGN CHOICE, log entry 71). -/
def execAtgc (d a : BitVec 7) (sf : BitVec 4) (k c : BitVec 3) (s : State) : Out :=
  let w := (s.issuerRec sf.toNat).atomWidth
  issue { ins := .atgc d a sf k c, c := c, ops := [.v d.toNat (w / 2) 1, ov a], scope := true } (fun I s =>
      if misfit I d.toNat (w / 2) then .go s (trapAll I (mkTrap fcIllop 0 0))
      else loadRun 2 (k == 2) d.toNat (w / 4) (accessAll I s sf.toNat a w true none)
        (atomRun d.toNat w I fun l old =>
          if old == regValue I.R l d.toNat w then regValue I.R l (d.toNat + w / 4) w else old) I s) s

/-! ## Multi-destination stores -/

/-- The slots of a mask, ascending. -/
def slotsOf (m : Nat) : List Nat := (List.range 16).filter fun j => bit m j

/-- What the checks of R127 find for one fibre: the slots skipped are absent. -/
structure Dests where
  trap : Option Trap
  /-- A block that is not FILLED, with the address touched. -/
  fill : Option (Nat × Nat × Nat)
  /-- The slot, the virtual and the physical address of each destination. -/
  hits : List (Nat × Nat × Nat)

/-- The checks of R127 for one fibre, in their order: bounds, alignment, translation, permission. A destination that is
read as well needs R and W of its record and of its page (R114, R279). -/
def checkDests (I : Issue) (rs : List (Nat × Xlate)) (slots : List Nat) (idx w : Nat) (reads : Bool) : Dests :=
  let ps := slots.map fun j => (j, (I.T.rec_ j).place idx w)
  let fault (code : Nat) := ps.findSome? fun e =>
    match e.2 with
    | .error t => if t.code == code then some t else none
    | _ => none
  let ok := ps.filterMap fun e =>
    match e.2 with
    | .ok (some (va, pva)) => some (e.1, va, pva, lineResult rs pva)
    | _ => none
  let page := ok.findSome? fun (_, _, pva, r) =>
    match r with
    | .fault code => if code == fcProt then none else some (Access.write.trap code pva)
    | _ => none
  let fill := ok.findSome? fun (_, va, _, r) =>
    match r with
    | .proc b fs => some (b, fs, va)
    | _ => none
  let bad := (ok.filter fun (j, _, _, r) => !(I.T.rec_ j).w || (reads && !(I.T.rec_ j).r) || r == .fault fcProt).map (·.1)
  let t1 := ((fault fcOob).orElse fun _ => fault fcAlign).orElse fun _ => page
  { trap := t1.orElse fun _ =>
      if bad.isEmpty || fill.isSome then none
      else some (mkTrap fcMultidest 0 (bad.foldl (fun m j => m ||| 2 ^ j) 0))
    fill := if t1.isSome then none else fill
    hits := ok.filterMap fun (j, _, pva, r) =>
      match r with
      | .ok pa _ => some (j, pva, pa)
      | _ => none }

/-- The width of MCS and RDS: that of the lowest record in the mask (R126). -/
def multiWidth (T : Team) (mask : Nat) : Nat :=
  match slotsOf mask with
  | [] => 4
  | j :: _ => (T.rec_ j).atomWidth

/-- The width of MCS and RDS for the issuing batch. -/
def State.multiWidth (s : State) (m : BitVec 4) : Nat :=
  match s.issuer with
  | some I => Sys2Proof.Machine.multiWidth I.T (I.R.s m.toNat).toNat
  | none => 4

/-- The form of MCS and RDS, whose data register is a pair at 8 bytes (R126). -/
def multiForm (i : Instr) (d a : BitVec 7) (m : BitVec 4) (w : Nat) (c : BitVec 3) : Form :=
  { ins := i, c := c, ops := [.v d.toNat (w / 4) 1, os m, ov a], scope := true, feat := 6 }

/-- MCS and RDS: `put` performs one destination of a slot, and `reads` tells that the destinations are read. Equal lines
of an instruction are one request for every class: R121 gives .vol its effect on LDG and STG, and R126 gives it on MCS and
RDS no effect of its own (DESIGN CHOICE, log entry 71). A destination in the block that the issuing generator team itself
fills acts as in a FILLED one; a fill that is started here for a block of the team's own chain raises FILL with 0xFFFD as
at a touch (R402; log entries 29, 30). -/
def multiRun (m : BitVec 4) (a d : BitVec 7) (reads : Bool) (put : State → Issue → Nat → Nat → Nat → Nat → State)
    (I : Issue) (s : State) : Result :=
  let mask := (I.R.s m.toNat).toNat
  if 2 ^ 16 ≤ mask then .go s (trapAll I (mkTrap fcIllop 0 mask))
  else
    match slotsOf mask with
    | [] => .go s []
    | j0 :: js =>
      let w := (I.T.rec_ j0).atomWidth
      if misfit I d.toNat (w / 4) then .go s (trapAll I (mkTrap fcIllop 0 0))
      else
        let idx (l : Nat) := (I.R.v l a.toNat).toNat
        let lines := I.act.flatMap fun l => (j0 :: js).filterMap fun j =>
          match (I.T.rec_ j).place (idx l) w with
          | .ok (some (_, pva)) => some (lineOf pva)
          | _ => none
        let (s1, rs0) := s.xlateLines I.core I.x (if reads then .atomic else .write) lines
        let rs := rs0.map fun e => (e.1, s1.ownBlock I.x I.T.gen e.1 e.2)
        let r := I.act.foldl (fun (u : State × List LaneOut × List (Nat × List (Nat × Nat × Nat))) l =>
          let D := checkDests I rs (j0 :: js) (idx l) w reads
          match D.trap, D.fill with
          | some t, _ => (u.1, u.2.1 ++ [u.1.walkOut I.x l t], u.2.2)
          | none, some (b, _, va) =>
            let fs := match u.1.procLeaf I.x b with
              | some lf => u.1.fillState I.x lf
              | none => fsUnfilled
            let q := u.1.meetBlock I.x I.T.gen b fs va
            (q.1, u.2.1 ++ [match q.2 with
              | some t => { lane := l, trap := some t }
              | none => { lane := l, park := some (.fill b va) }], u.2.2)
          | none, none =>
            match D.hits.find? fun h => reads && (u.1.reach h.2.2 != .ok || u.1.bad h.2.2 w) with
            | some (_, pva, pa) =>
              match u.1.reach pa with
              | .late => (u.1, u.2.1 ++ [{ lane := l, far := some (pva, lineOf pa) }], u.2.2)
              | _ =>
                (u.1.noteLine I.x (srcCore I.core) pa w, u.2.1 ++ [{ lane := l, trap := some (mkTrap fcPoison 0 pva) }], u.2.2)
            | none => (u.1, u.2.1, u.2.2 ++ [(l, D.hits)])) (s1, [], [])
        let sent := I.act.flatMap fun l =>
          let D := checkDests I rs (j0 :: js) (idx l) w reads
          if D.trap.isSome || D.fill.isSome then [] else D.hits.map fun h => (lineOf h.2.1, s.ownAddr (lineOf h.2.2))
        let s2 := r.1.lineRequests I 3 none sent.eraseDups
        farWait I (r.2.2.foldl (fun u e => e.2.foldl (fun v h => put v I e.1 h.1 h.2.2 w) u) s2, r.2.1)

/-- MCS. -/
def execMcs (d a : BitVec 7) (m : BitVec 4) (k c : BitVec 3) (s : State) : Out :=
  issue (multiForm (.mcs d a m k c) d a m (s.multiWidth m) c)
    (multiRun m a d false fun s I l j pa w =>
      s.storeBytes I (classKind k false (I.T.rec_ j).sobj I.hv.scope) pa (storeData I.R l d.toNat w)) s

/-- An RDS destination: an atomic addition of the data, performed at once whatever the class (DESIGN CHOICE, log
entry 71). -/
def rdsPut (code : Nat) (d : BitVec 7) (s : State) (I : Issue) (l _j pa w : Nat) : State :=
  let s1 := s.drainFor I.core I.g pa w
  s1.wr pa (leBytes w (atomStep code w (s1.rdNat pa w) (regValue I.R l d.toNat w)))

/-- RDS. -/
def execRds (d a : BitVec 7) (m : BitVec 4) (k c : BitVec 3) (s : State) : Out :=
  issue (multiForm (.rds d a m k c) d a m (s.multiWidth m) c) (multiRun m a d true (rdsPut 0 d)) s
/-- RDS.F. -/
def execRdsF (d a : BitVec 7) (m : BitVec 4) (k c : BitVec 3) (s : State) : Out :=
  issue (multiForm (.rdsF d a m k c) d a m (s.multiWidth m) c) (multiRun m a d true (rdsPut 9 d)) s

end Sys2Proof.Machine
end

