-- ==== Sys2Proof/Machine/Fill.lean ====
section
/-!
DEFINITION. The steps of Agate on procedural ranges and on invalidations (R285, 10_memory.md; R385, 18_program_names.md;
R398-R406, 19_names_procedural.md).
-/

namespace Sys2Proof.Machine

/-! ## Generators -/

/-- The fill that Agate starts next for a block: neither started nor an eviction, in a context that issues (R401). -/
def State.fillToStart (s : State) (x block : Nat) : Option FillRec :=
  if (s.ctx x).st.issues && !s.pendingFault (.generator x block) then
    (s.ctx x).fills.find? fun f => f.block == block && !f.evicting && !f.started
  else none

/-- The fill cannot start (R401): the block is POISONED with cause 0xFFFC, and LAUNCH_INVALID is logged. -/
def State.badGenerator (s : State) (x : Nat) (f : FillRec) (gen off fcode : Nat) : State :=
  (s.logError x 1 fcode (srcHdie 0) (0x100 + f.range) gen off).poisonBlock x f.block 0xFFFC

/-- The conditions that a generator's launch block meets beside R211 (R401). -/
def generatorChecks (bs : List Byte) : List (Nat × Bool) :=
  let w (o : Nat) : Nat := byteField bs o 4
  [(0, bit (w 0) 10 || bit (w 0) 11), (4, w 4 != 1), (8, w 8 != 1), (12, w 12 != 1)] ++
  ((List.range 4).map fun i => (88 + 4 * i, w (88 + 4 * i) != 0)) ++ [(104, byteField bs 104 8 != 0), (116, w 116 != 0)]

/-- The record of the block in slot b15 of its generator team (R385). -/
def blockRecord (va size : Nat) : BitVec 256 :=
  BitVec.ofNat 256 (va + size * 2 ^ 64 + 4 * 2 ^ 128 + 0x70 * 2 ^ 192)

/-- A generator's launch block with the values that Agate sets (R385): the record of the block, and its index. -/
def Block.forFill (b : Block) (va size index : Nat) : Block :=
  { b with recs := b.recs.set 15 (blockRecord va size), stab := b.stab.set 62 (word index) }

/-- The team that fills a block starts on a core (R385, R401): none while the core cannot admit it. -/
def State.startFill (s : State) (x core : Nat) (f : FillRec) (r : RangeDesc) (b : Block) : Option State :=
  let (t, grid) := s.freeGrid x
  let g : GenFill := { block := f.block, range := f.range, depth := f.depth, fill := f.id, chain := f.chain, verdict := none, decided := false }
  (t.admitGrid core 1 0 x grid 0 (b.forFill f.block r.bsize ((f.block - r.base) / r.bsize)) true none
      fun T => { T with gen := some g }).map fun u =>
    u.modCtx x fun c => { c with fills := modFirst (fun e => e.block == f.block) (fun e => { e with started := true }) c.fills }

/-- What Agate finds of a generator's launch block. -/
def State.readGenerator (s : State) (x : Nat) (f : FillRec) (gen : Nat) : State × BlockRead :=
  let w := FaultWho.generator x f.block
  if gen % 256 != 0 then (s, .bad 0xFFFF 0 0)
  else
    match s.servedRead w none x none gen 256 with
    | (t, .wait) => (t, .wait)
    | (t, .fail code _ _) => (t, .bad 0xFFFF 0 code)
    | (t, .ok bs) =>
      let own := firstBad (generatorChecks bs)
      match t.checkBlock w x bs with
      | (u, .wait) => (u, .wait)
      | (u, .bad off _ fc) => (u, .bad (min off (own.getD off)) 0 fc)
      | (u, .ok b) =>
        match own with
        | some o => (u, .bad o 0 0)
        | none => (u, .ok b)

/-- GENERATOR_START: on a core of Agate's choice, in the compute partition. -/
def execGeneratorStart (ctx va core : Nat) (s : State) : Out :=
  .next (match s.fillToStart ctx va with
    | none => s
    | some f =>
      match s.rangeDesc ctx f.range with
      | none => s.badGenerator ctx f 0 0xFFFF 0
      | some r =>
        match s.readGenerator ctx f r.gen with
        | (t, .wait) => t
        | (t, .bad off _ fc) => (t.clearFaults (.generator ctx va)).badGenerator ctx f r.gen off fc
        | (t, .ok b) =>
          if 192 ≤ core then s else ((t.clearFaults (.generator ctx va)).startFill ctx core f r b).getD s)

/-! ## Invalidations (R285) -/

/-- The Onyx translations of the granules behind a range are dead (R359): those entered by an address of the range, and
those to which the page tables map one. -/
def State.killOnyx (s : State) (x : Nat) (range : Option (Nat × Nat)) : State :=
  let hit (t : OnyxTr) : Bool :=
    match range with
    | none => true
    | some (a, n) =>
      let lo := a
      let hi := a + n
      (lo ≤ t.va && t.va < hi) || (List.range ((hi - lo) / 4096)).any fun k =>
        match s.walk x (lo + 4096 * k) with
        | .leaf l => (l.pa + (lo + 4096 * k - l.va)) / 4096 * 4096 == t.pa
        | _ => false
  s.modCtx x fun c => { c with onyx := c.onyx.map fun t => if hit t then { t with dead := true } else t }

/-- A range with every page that holds a byte of it, as the TLBs and the page tables have them (R447). -/
def State.wholePages (s : State) (x a n : Nat) : Nat × Nat :=
  let cached := (s.cores.flatMap (·.2.tlb) ++ s.dies.flatMap (·.2.tlb2)).filter fun e => e.ctx == x && meetsRange e.va e.size (some (a, n))
  let walked := [a, a + n - 1].filterMap fun va =>
    match s.walk x va with
    | .leaf l => some (l.va, l.size)
    | _ => none
  let pages := (cached.map fun e => (e.va, e.size)) ++ walked
  let lo := (pages.map (·.1)).foldl min (a / 4096 * 4096)
  (lo, (pages.map fun p => p.1 + p.2).foldl max (alignUp (a + n) 4096) - lo)

/-- Starting an invalidation of the pages of a range: its entries leave every TLB at once (steps 1 and 2). -/
def State.startInval (s : State) (x : Nat) (range : Option (Nat × Nat)) (cmd : Option (Nat × Nat × Nat))
    (evict : Option (Nat × Nat)) : State :=
  let r := range.map fun e => s.wholePages x e.1 e.2
  let s1 : State := { s with nextOp := s.nextOp + 1
                             invals := s.invals ++ [{ id := s.nextOp, ctx := x, range := r, cmd := cmd, evict := evict }] }
  (s1.killOnyx x r).purgeTlbs x r

/-- A line lies in a page that an invalidation covers. -/
def Inval.covers (i : Inval) (va : Nat) : Bool := meetsRange (va / 128 * 128) 128 i.range

/-- A live touch entry, or an operation in a queue with lines translated at its issue, still holds a covered line
(step 3; R118, R143). -/
def State.holdsLine (s : State) (i : Inval) : Bool :=
  (s.allGroups.any fun (c, _, G) => G.ctx == i.ctx && G.touches.any fun t =>
      t.live (s.pulses c) && t.shares.any fun h => !h.dropped && i.covers h.va) ||
  s.dies.any fun e => e.2.ops.any fun o => o.ctx == i.ctx && (match o.kind with
    | .cpy _ _ _ ts => ts.any fun t => i.covers t.va
    | _ => false)

/-- The write-combining buffers of a context's groups drain, so that no store uses an old translation. -/
def State.drainCtx (s : State) (x : Nat) : State :=
  s.allGroups.foldl (fun u (c, g, G) => if G.ctx == x then u.drainWc c g else u) s

/-- Steps 3 and 4 of an eviction (R404): the block is UNFILLED, `filled` falls when the block counts, and the parked
touches replay. -/
def State.endEvict (s : State) (x block range : Nat) : State :=
  let counted := (s.ctx x).filled.any fun e => e.1 == block
  let s1 := (s.endFill x block fsUnfilled).modCtx x fun c => { c with filled := c.filled.filter fun e => e.1 != block }
  let va := (s1.ctx x).rangeVa range + 20
  let s2 := if !counted then s1 else match s1.walkPa x va with
    | some pa => s1.wr pa (leBytes 4 (s1.rdNat pa 4 - 1))
    | none => s1.noteTable x (srcHdie 0) va
  s2.wakeFill x block

/-- The completion of a command is reported to the owner (R441, R447). -/
def State.cmdDone (s : State) (x op status seq : Nat) : State :=
  s.event 2 x (leBytes 4 op ++ leBytes 4 status ++ leBytes 4 seq)

/-- INVALIDATION_COMPLETE: `n` names the invalidation. -/
def execInvalidationComplete (n : Nat) (s : State) : Out :=
  .next (match s.invals.find? fun i => i.id == n with
    | none => s
    | some i =>
      if s.holdsLine i then s
      else
        let s1 : State := { s.drainCtx i.ctx with invals := s.invals.filter fun j => j.id != n }
        let s2 := match i.evict with
          | some (b, r) => s1.endEvict i.ctx b r
          | none => s1
        match i.cmd with
        | some (op, st, seq) => s2.cmdDone i.ctx op st seq
        | none => s2)

/-! ## Evictions (R404) -/

/-- Marking a block as evicting and starting the invalidation of its page (steps 1 and 2). -/
def State.startEvict (s : State) (x block range size : Nat) (cmd : Option (Nat × Nat × Nat)) : State :=
  (s.modCtx x fun c => { c with fills := c.fills ++
      [{ id := s.nextOp, block := block, range := range, depth := 0, chain := [], evicting := true, started := true }] }).startInval x
    (some (block, size)) cmd (some (block, range))

/-- A block may be evicted for a range's budget: of the range as it is now registered, FILLED by GDONE, not pinned, and not
the block just filled. -/
def State.evictable (s : State) (x : Nat) (r : RangeDesc) (just : Nat) (e : Nat × Nat × Nat) : Bool :=
  let k := (e.1 - r.base) / r.bsize
  e.2.1 == r.idx && r.base ≤ e.1 && k < r.nblk && e.1 != just && !(r.pinlo ≤ k && k < r.pinhi) &&
    (s.procLeaf x e.1).any fun l => s.fillState x l == fsFilled

/-- The eligible block whose FILLED transition is oldest, ties to the lower index. -/
def State.victim (s : State) (x : Nat) (r : RangeDesc) (just : Nat) : Option Nat :=
  let es := (s.ctx x).filled.filter (s.evictable x r just)
  match minBy (fun e => e.2.2) es with
  | none => none
  | some e => minBy id ((es.filter fun f => f.2.2 == e.2.2).map (·.1))

/-- An eviction of the range is in progress. -/
def Ctx.evicts (c : Ctx) (range : Nat) : Bool := c.fills.any fun f => f.evicting && f.range == range

/-- An eviction that the owner asked for begins, when its block is still FILLED; else it ends as INVALID (R404, R447). -/
def State.startAsked (s : State) (x : Nat) (e : Nat × Nat × Nat × Nat) : State :=
  let s1 := s.modCtx x fun c => { c with evictq := delFirst (· = e) c.evictq }
  if (s.procLeaf x e.1).any fun l => s.fillState x l == fsFilled then s1.startEvict x e.1 e.2.1 e.2.2.1 (some (9, 0, e.2.2.2))
  else s1.cmdDone x 9 4 e.2.2.2

/-- PROC_EVICTION: an eviction that the owner asked for; else, after a GDONE, Agate looks at the budget of the range and
evicts one block. Evictions of one range go one at a time. -/
def execProcEviction (ctx range : Nat) (s : State) : Out :=
  let c := s.ctx ctx
  .next (
    if c.evicts range || c.holdsTraps then s
    else
      match c.evictq.find? fun e => e.2.1 == range with
      | some e => s.startAsked ctx e
      | none =>
        match c.gdone.find? fun e => e.1 == range with
        | none => s
        | some (_, just) =>
          let s1 := s.modCtx ctx fun c => { c with gdone := delFirst (fun e => e.1 == range) c.gdone }
          match s.rangeDesc ctx range with
          | none => s1
          | some r =>
            if r.budget != 0 && r.budget < r.filled then
              match s.victim ctx r just with
              | some b => s1.startEvict ctx b range r.bsize none
              | none => s1
            else s1)

end Sys2Proof.Machine
end

