-- ==== Sys2Proof/Machine/Engine.lean ====
section
/-!
DEFINITION. The entry of an operation into a die's copy queue, and the issue checks that the copy and name instructions
share (R112, R114, R144, R148, 03_memory_instr.md; R291, 11_copies.md).
-/

namespace Sys2Proof.Machine

/-- A trap when a condition holds. -/
def trapIf (b : Bool) (code detail addr : Nat) : Option Trap := if b then some (mkTrap code detail addr) else none

/-- ILLOP with the offending control value, when a condition holds (R112). -/
def illopIf (b : Bool) (v : Nat) : Option Trap := trapIf b fcIllop 0 v

/-- The first trap of a list of checks. -/
def firstTrap (l : List (Option Trap)) : Option Trap := l.findSome? id

/-- The words of consecutive scalar registers. -/
def sregs (I : Issue) {w : Nat} (n : BitVec w) (cnt : Nat) : List Nat :=
  (List.range cnt).map fun i => (I.R.s (n.toNat + i)).toNat

/-- The instruction as a freeze record describes it (R253). -/
def Issue.origin (I : Issue) : Origin :=
  { core := I.core, group := I.g, role := I.G.role, team := I.T.index, grid := I.T.grid, pc := I.pc,
    lanes := maskOf I.act }

/-- The storage of a level of the team that a core holds: 1 unit, 2 cluster, 3 die (R144). -/
def spaceScr (core space : Nat) : Scr :=
  match space with
  | 1 => .unit core
  | 2 => .cluster (clusterOf core)
  | _ => .die (dieOf core)

/-- A side of an operation as an instruction names it: the space, the record slot, the swizzle for a scratchpad, the
offset and the length. -/
structure SideArg where
  space : Nat
  slot  : Nat
  swz   : Nat
  off   : Nat
  len   : Nat

/-- The range lies outside the record's extent or the allocation (R144). -/
def SideArg.oob (a : SideArg) (I : Issue) : Option Trap :=
  let size := if a.space == 0 then (I.T.rec_ a.slot).extent else (I.T.level (a.space - 1)).2.2
  trapIf (size < a.off + a.len) fcOob 0 a.off

/-- The record lacks a permission (R144). -/
def SideArg.prot (a : SideArg) (I : Issue) (write : Bool) : Option Trap :=
  let r := I.T.rec_ a.slot
  trapIf (a.space == 0 && !(if write then r.w else r.r)) fcProt (b2n write) (r.base + a.off)

/-- The side of the operation. -/
def SideArg.side (a : SideArg) (I : Issue) : Side :=
  if a.space == 0 then
    let r := I.T.rec_ a.slot
    { space := 0, base := r.base + a.off, swizzle := r.swz }
  else { space := a.space, base := (I.T.level (a.space - 1)).2.1 + a.off, swizzle := a.swz }

/-- Entries of a context in a die's queue, and of all contexts (R291). -/
def Die.entries (D : Die) (x : Option Nat) : Nat :=
  ((D.ops.filter fun o => match x with | none => true | some y => o.ctx == y).map fun o => o.size - o.begun).sum

/-- The queue has room for an operation of `size` entries (R291). -/
def State.queueRoom (s : State) (d x size : Nat) : Bool :=
  (s.die d).entries none + size ≤ 1024 && (s.die d).entries (some x) + size ≤ 128

/-- An operation enters its die's queue. The group's held stores go to memory first, since the operation's reads are
ordered after every earlier store of the issuing fibres (R145). A ticket of 0 names no waiter. -/
def State.enqueue (s : State) (I : Issue) (major op : Nat) (kind : OpKind) (obj scope size : Nat) (waits : Bool) :
    State :=
  let s1 := s.drainWc I.core I.g
  let n := s1.nextOp
  let e : EngineOp :=
    { id := n, ctx := I.x, tid := I.tid, core := I.core, origin := I.origin, major := major, op := op, kind := kind,
      obj := obj, scope := scope, size := size, begun := 0, slot := none, failed := none,
      pos := 0, flags := 0, finished := false,
      ticket := if waits then n else 0 }
  { s1 with nextOp := n + 1 }.modDie (dieOf I.core) fun D => { D with ops := D.ops ++ [e] }

/-- Checking the object and the ring that a copy-start instruction names (R266, R302): `slot` is the byte count that
the ring's slot must hold. -/
def State.checkNames (s : State) (I : Issue) (obj ring : Nat) (slot : Option Nat) : State × Option CoreErr :=
  match s.checkObj I obj with
  | (t, some e) => (t, some e)
  | (t, none) =>
    if ring == 0 then (t, none)
    else
      match t.ringFor I ring with
      | (u, .error e) => (u, some e)
      | (u, .ok (_, r)) =>
        match slot with
        | some n => (u, (trapIf (r.ssize < n) fcOob 0 n).map .trap)
        | none => (u, none)

/-- The operation enters the queue, or the batch waits for room (R291). -/
def startOp (I : Issue) (s : State) (major op : Nat) (kind : OpKind) (obj scope : Nat) : Result :=
  if s.queueRoom (dieOf I.core) I.x 1 then .go (s.enqueue I major op kind obj scope 1 false) [] else .wait s (.poll 15)

end Sys2Proof.Machine
end

