-- ==== Sys2Proof/Machine/Names.lean ====
section
/-!
DEFINITION. The name instructions, and the tables that the routers share with them (R150-R154, 03_memory_instr.md;
R386-R397, 18_program_names.md and 19_names_procedural.md).
-/

namespace Sys2Proof.Machine

/-! ## Names, marks and stores -/

/-- The iteration of a name. -/
def nameIter (n : Nat) : Nat := bits n 0 16

/-- The name's fields of the name control block (R389). -/
def Ctx.ntens (c : Ctx) : Nat := bits (c.word 0x0C8) 0 21
/-- Names of the context may route across the fabric. -/
def Ctx.fabric (c : Ctx) : Bool := bit (c.word 0x0CC) 12
/-- The name space. -/
def Ctx.nspace (c : Ctx) : Nat := bits (c.word 0x0CC) 0 12

/-- The physical address of a tensor's retirement entry (R397). -/
def Ctx.retireAt (c : Ctx) (t : Nat) : Nat := bits (c.dword 0x0C0) 0 52 + 32 * t

/-- An iteration is at or behind a mark (R397). -/
def behind (m i : Nat) : Bool := (m + 65536 - i % 65536) % 65536 < 32768

/-- The router's mark covers an iteration: a die router by dmark, a package router (8, 9) by pmark (R397). Chapter 19 names
no fault for an entry whose Reserved bits are not zero (R6): the model reads the marks of such an entry as those of any
other (DESIGN CHOICE, log entry 83). -/
def State.retiredAt (s : State) (x router t i : Nat) : Bool :=
  let a := (s.ctx x).retireAt t
  let valid := s.rdNat (a + 18) 2
  if router < 8 then bit valid router && behind (s.rdNat (a + 2 * router) 2) i
  else bit valid 8 && behind (s.rdNat (a + 16) 2) i

/-- A router sets its mark unless it is at `i` or ahead of it (R153, R397). -/
def State.setMark (s : State) (x router t i : Nat) : State :=
  if s.retiredAt x router t i then s
  else
    let a := (s.ctx x).retireAt t
    let at_ := if router < 8 then a + 2 * router else a + 16
    let v := s.rdNat (a + 18) 2 ||| 2 ^ min router 8
    (s.wr at_ (leBytes 2 i)).wr (a + 18) (leBytes 2 v)

/-- Two contexts are one, or belong to one name space: a tile of one meets an interest of the other at a router that both
visit (R390, R396). Within a package those routers are the die home and the package home, which is the fabric home too
where the home table names this package. -/
def State.shareNames (s : State) (x y : Nat) : Bool :=
  x == y || ((s.ctx x).fabric && (s.ctx y).fabric && (s.ctx x).nspace == (s.ctx y).nspace)

/-- The stored copies of a router: a die's tile store, or an H-die's. -/
def State.copies (s : State) (router : Nat) : List TileCopy :=
  if router < 8 then (s.die router).copies else (s.hdie (router - 8)).copies

/-- The state with a router's stored copies changed. -/
def State.setCopies (s : State) (router : Nat) (l : List TileCopy) : State :=
  if router < 8 then s.modDie router fun D => { D with copies := l } else s.modHdie (router - 8) fun H => { H with copies := l }

/-- The stored copy that a router holds for a name. -/
def State.findCopy (s : State) (router x name : Nat) : Option TileCopy :=
  (s.copies router).find? fun c => c.name == name && s.shareNames x c.ctx

/-- The capacity of a router's store in bytes (R394). -/
def State.storeSize (s : State) (router : Nat) : Nat := 1048576 * (if router < 8 then s.tsForce else 32)

/-- A stored copy of a router is being delivered: to an interest of its die that is being written, or on its way down from
a package router (R394). -/
def State.delivering (s : State) (router : Nat) (c : TileCopy) : Bool :=
  if router < 8 then
    (s.die router).interests.any fun e =>
      match e.2.st with
      | .writing b _ => e.2.name == c.name && s.shareNames e.2.ctx c.ctx && b == c.bytes
      | _ => false
  else s.flights.any fun f => !f.up && f.name == c.name && s.shareNames f.ctx c.ctx

/-- Evicting the copies least recently delivered or stored until `n` bytes fit; copies that satisfy `busy` stay (R394). -/
def evictCopies (busy : TileCopy → Bool) (cap n : Nat) : Nat → List TileCopy → List TileCopy
  | 0, l => l
  | fuel + 1, l =>
    if (l.map (·.bytes.length)).sum + n ≤ cap then l
    else
      match minBy (·.stamp) (l.filter fun c => !busy c) with
      | none => l
      | some c => evictCopies busy cap n fuel (l.erase c)

/-- Storing a copy at a router; a tile that finds no room even after the evictions is not stored (R394). -/
def State.storeCopy (s : State) (router : Nat) (f : Flight) : State :=
  let cap := s.storeSize router
  let n := f.bytes.length
  let all := s.copies router
  let l := evictCopies (s.delivering router) cap n all.length all
  let c : TileCopy := { ctx := f.ctx, name := f.name, reach := f.reach, bytes := f.bytes, stamp := s.nextOp }
  if cap < (l.map (·.bytes.length)).sum + n then s.setCopies router l
  else { s.setCopies router (l ++ [c]) with nextOp := s.nextOp + 1 }

/-- A stored copy has been delivered: it is the most recent one. -/
def State.touchCopy (s : State) (router : Nat) (c : TileCopy) : State :=
  { s.setCopies router ((s.copies router).map fun k => if k = c then { k with stamp := s.nextOp } else k) with
      nextOp := s.nextOp + 1 }

/-- An interest's outcome is final (R151, R392): its contribution is listed, and the entry stays until it is made. A team
that has ended may wait for it alone (R208). -/
def State.endInterest (s : State) (d e code addr cause : Nat) : State :=
  match tget? (s.die d).interests e with
  | none => s
  | some i =>
    ((s.modDie d fun D => { D with interests := tset D.interests e { i with st := .ending code } }).addContribution
      { ctx := i.ctx, obj := i.obj, bytes := i.cap, done := none, fcode := if code == 0 then none else some code, flags := 0,
        origin := i.origin, srckind := 1, src := d, major := 0x32, op := 0, addr := addr, gcause := cause,
        interest := some (d, e) }).reapTeam i.tid

/-- A Waiting interest meets a tile, unless its lifetime has ended: it is to be written, or to fail with OOB when it is too
large (R151, R387, R392). -/
def State.meetTile (s : State) (d e : Nat) (b : List Byte) : State :=
  match tget? (s.die d).interests e with
  | none => s
  | some i =>
    if i.st ≠ .waiting then s
    else if i.expires ≤ s.ptp then s.endInterest d e fcNever i.name 0
    else s.modDie d fun D => { D with interests := tset D.interests e { i with st := .writing b s.now } }

/-! ## The instructions -/

/-- The checks that every name instruction makes first (R150, R389). -/
def nameChecks (c : Ctx) (name reach : Nat) : Option Trap :=
  firstTrap [illopIf (reach < 2 || 4 < reach) 0, illopIf (reach == 4 && !c.fabric) 0,
    trapIf (c.ntens ≤ nameTensor name) fcOob 0 name]

/-- A global destination is translated as a write touch (R151): a trap or a park for every fibre of the batch. -/
def State.touchRange (s : State) (I : Issue) (D : Side) (len : Nat) : State × Option LaneOut :=
  if D.space != 0 then (s, none)
  else
    let lines := (List.range (len / 128 + 2)).map fun k => lineOf D.base + 128 * k
    (lines.filter fun ln => ln < D.base + len).foldl (fun (a : State × Option LaneOut) ln =>
      match a.2 with
      | some _ => a
      | none =>
        let r := a.1.xlateCore I.core I.x ln .write
        match r.1.ownBlock I.x I.T.gen ln r.2 with
        | .ok _ _ => (r.1, none)
        | .fault code => (r.1, some (r.1.walkOut I.x 0 (Access.write.trap code (max ln D.base))))
        | .proc b fs =>
          let q := r.1.meetBlock I.x I.T.gen b fs (max ln D.base)
          (q.1, some (match q.2 with
            | some t => { lane := 0, trap := some t }
            | none => { lane := 0, park := some (.fill b (max ln D.base)) }))) (s, none)

/-- A new interest at its die router (R151, R386): it may end at once, or be served from the die's store at once. -/
def State.addInterest (s : State) (d : Nat) (e : Nat) (i : Interest) (life : Nat) : State :=
  let t := s.modDie d fun D => { D with interests := tset D.interests e i }
  if life == 0 || s.retiredAt i.ctx d (nameTensor i.name) (nameIter i.name) then t.endInterest d e fcNever i.name 0
  else
    match t.findCopy d i.ctx i.name with
    | some c => (t.meetTile d e c.bytes).touchCopy d c
    | none => t

/-- INTR. -/
def execIntr (r : BitVec 3) (n m : BitVec 7) (c : BitVec 3) : State → Out :=
  issue { ins := .intr r n m c, c := c, ops := [osn 2 n, osn 4 m], scope := true, feat := 3 } fun I s =>
    match sregs I m 4 with
    | [ctl, off, cap, ob] =>
      let name := I.R.spair n.toNat
      let reach := I.scope r.toNat
      let D : SideArg := { space := bits ctl 4 2, slot := bits ctl 0 4, swz := bits ctl 6 3, off := off, len := cap }
      match firstTrap
          [nameChecks (s.ctx I.x) name reach,
           illopIf (bits ctl 9 7 != 0 || (D.space == 0 && D.swz != 0)) ctl, illopIf (cap < 4 || 65536 < cap) cap,
           illopIf (ob == 0 || 2 ^ 20 ≤ ob) ob, D.oob I, trapIf (off % 4 != 0) fcAlign 0 off,
           trapIf (cap % 4 != 0) fcAlign 0 cap, D.prot I true] with
      | some t => .go s (trapAll I t)
      | none =>
        match s.checkObj I ob with
        | (t, some e) => e.stop I t
        | (s1, none) =>
          match s1.touchRange I (D.side I) cap with
          | (t, some o) => farWait I (t, I.act.map fun l => { o with lane := l })
          | (s2, none) =>
            let d := dieOf I.core
            match tfree (s2.die d).interests 0 4096 with
            | none => .wait s (.poll 13)
            | some e =>
              .go (s2.addInterest d e
                { ctx := I.x, tid := I.tid, name := name, reach := reach, dst := D.side I, cap := cap, obj := ob,
                  scope := reach, core := I.core, expires := s2.ptp + 1000 * bits ctl 16 16, st := .waiting,
                  sent := false, origin := I.origin } (bits ctl 16 16)) []
    | _ => .go s []

/-- ANNC: the read of the source enters the die's queue (R152). -/
def execAnnc (r : BitVec 3) (n m : BitVec 7) (c : BitVec 3) : State → Out :=
  issue { ins := .annc r n m c, c := c, ops := [osn 2 n, osn 4 m], scope := true, feat := 3 } fun I s =>
    match sregs I m 4 with
    | [ctl, off, size, ob] =>
      let name := I.R.spair n.toNat
      let reach := I.scope r.toNat
      let S : SideArg := { space := bits ctl 4 2, slot := bits ctl 0 4, swz := bits ctl 6 3, off := off, len := size }
      match firstTrap
          [nameChecks (s.ctx I.x) name reach,
           illopIf (bits ctl 9 23 != 0 || (S.space == 0 && S.swz != 0)) ctl, illopIf (size < 4 || 65536 < size) size,
           illopIf (2 ^ 20 ≤ ob) ob, S.oob I, trapIf (off % 4 != 0) fcAlign 0 off,
           trapIf (size % 4 != 0) fcAlign 0 size, S.prot I false] with
      | some t => .go s (trapAll I t)
      | none =>
        match s.checkObj I ob with
        | (t, some e) => e.stop I t
        | (t, none) => startOp I t 0x32 1 (.announce (S.side I) size reach name) ob reach
    | _ => .go s []

/-- The routers of a reach: the issuing die, or every router of the package. -/
def reachRouters (reach d : Nat) : List Nat := if reach == 2 then [d] else List.range 10

/-- The contexts whose marks a retirement sets (R397). -/
def State.retireCtxs (s : State) (x reach : Nat) : List Nat :=
  if reach == 4 then (x :: (tkeys s.ctxs).filter fun y => y != x && s.shareNames x y) else [x]

/-- A retirement is still on its way, or an interest that it failed has not made its contribution (R153, R388). -/
def State.retiring (s : State) (ticket x reach t i : Nat) : Bool :=
  s.retires.any (fun r => r.ticket == ticket) ||
    s.dies.any fun e => e.2.interests.any fun j => (s.retireCtxs x reach).contains j.2.ctx && nameTensor j.2.name == t &&
      j.2.st = .ending fcNever && s.retiredAt j.2.ctx e.1 t (nameIter j.2.name) && behind i (nameIter j.2.name)

/-- NRET: a release (R314); it waits until every router of the reach has applied the retirement. -/
def execNret (r : BitVec 3) (n : BitVec 7) (c : BitVec 3) : State → Out :=
  issue { ins := .nret r n c, c := c, ops := [osn 2 n], scope := true, feat := 3 } fun I s =>
    let name := I.R.spair n.toNat
    let reach := I.scope r.toNat
    let t := nameTensor name
    let i := nameIter name
    match I.B.wait with
    | some (.op k w) => if s.retiring k I.x reach t i then .wait s (.op k w) else .go s []
    | _ =>
      match nameChecks (s.ctx I.x) name reach with
      | some tr => .go s (trapAll I tr)
      | none =>
        if s.farStores I.core I.g then .wait s (.poll 15)
        else
        let k := s.nextOp
        let s1 := { s.drainWc I.core I.g with nextOp := k + 1 }
        let s2 := (s1.retireCtxs I.x reach).foldl (fun u y => (reachRouters reach (dieOf I.core)).foldl (fun v q =>
          { v with nextOp := v.nextOp + 1, retires := v.retires ++
              [{ id := v.nextOp, ctx := y, tensor := t, iter := i, router := q, ticket := k, since := s.now }] }) u) s1
        .wait s2 (.op k 15)

/-- NPRB: a snapshot of the routers and stores within the reach (R154). A SCOPE hint has no effect (R113). The spec does not
say whether an interest whose tile is being written still counts as pending: the model counts Waiting entries alone (DESIGN
CHOICE, log entry 74). -/
def execNprb (r : BitVec 3) (n d : BitVec 7) (c : BitVec 3) : State → Out :=
  issue { ins := .nprb r n d c, c := c, ops := [os d, osn 2 n], scope := true, feat := 3 } fun I s =>
    let name := I.R.spair n.toNat
    match nameChecks (s.ctx I.x) name r.toNat with
    | some t => .go s (trapAll I t)
    | none =>
      let qs := reachRouters r.toNat (dieOf I.core)
      let held := qs.any fun q => (s.findCopy q I.x name).isSome
      let ret := qs.any fun q => s.retiredAt I.x q (nameTensor name) (nameIter name)
      let pend := (qs.filter (· < 8)).any fun q => (s.die q).interests.any fun e =>
        s.shareNames I.x e.2.ctx && e.2.name == name && e.2.st = .waiting
      .go s (scalarOut I [(.s d.toNat, word (b2n held + 2 * b2n ret + 4 * b2n pend))])

end Sys2Proof.Machine
end

