-- ==== Sys2Proof/Machine/Space.lean ====
section
/-!
DEFINITION. The control space of a context and the device control space, as the owner writes them, and the commands
(R248, R251, 08_traps.md; R286, 10_memory.md; R381, R382, 17_numbers_matrix.md; R389, R394, 19_names_procedural.md;
R408, R412, R413, 20_program_sampling.md; R418, 21_observation.md; R446-R448, 23_host.md).
-/

namespace Sys2Proof.Machine

/-! ## Status codes (R437) -/

/-- OK. -/
def stOk : Nat := 0
/-- NOTOWNER. -/
def stNotOwner : Nat := 1
/-- FROZEN. -/
def stFrozen : Nat := 2
/-- PAGE. -/
def stPage : Nat := 3
/-- INVALID. -/
def stInvalid : Nat := 4
/-- LOCKED. -/
def stLocked : Nat := 5
/-- LOST. -/
def stLost : Nat := 6

/-! ## The fields of a control space -/

/-- The bits of a word of the control space that a write changes; the others are reserved, but for the counts that the
device keeps (R248, R251, R286, R381, R389, R413, R418, R446). -/
def ctlMask (o : Nat) : Nat :=
  let full := 2 ^ 32 - 1
  let va := 2 ^ 20 - 1
  if o < 0x040 then
    match o with
    | 0x008 => 0x3FFFE
    | 0x00C => 0x3FFFE
    | 0x018 => 0x7F
    | _ => if o < 0x008 || (0x010 ≤ o && o < 0x018) || o == 0x01C || o == 0x028 then full else 0
  else if o < 0x060 then
    match o with
    | 0x040 => full
    | 0x044 => va
    | 0x048 => full
    | 0x04C => va
    | 0x050 => 3
    | _ => 0
  else if o < 0x080 then
    match o with
    | 0x060 => full
    | 0x064 => va
    | 0x068 => 0x3F
    | 0x074 => full
    | _ => 0
  else if o < 0x0C0 then
    match o with
    | 0x080 => full
    | 0x084 => va
    | 0x088 => 0xFFF
    | 0x094 => full
    | _ => if 0x0A0 ≤ o then (if o % 8 == 0 then full else 3) else 0
  else if o < 0x100 then
    match o with
    | 0x0C0 => full
    | 0x0C4 => va
    | 0x0C8 => 0x1FFFFF
    | 0x0CC => 0x1FFF
    | 0x0D0 => full
    | 0x0D4 => va
    | 0x0D8 => full
    | 0x0DC => va
    | 0x0E0 => 0xF1FF
    | _ => 0
  else if o < 0x180 then
    match o with
    | 0x100 => full
    | 0x104 => full
    | 0x108 => 0x1F
    | 0x114 => full
    | _ => if 0x140 ≤ o && o < 0x17C then 0x7F else 0
  else if o < 0x200 then
    match o with
    | 0x180 => full
    | 0x184 => va
    | 0x188 => 0x1FFF
    | 0x190 => full
    | 0x194 => va
    | 0x198 => full
    | 0x19C => va
    | 0x1A0 => 0x1FFFFF
    | 0x1A4 => 0x1FFF
    | 0x1A8 => full
    | 0x1AC => va
    | 0x1B0 => full
    | 0x1B4 => va
    | 0x1B8 => full
    | 0x1BC => va
    | 0x1C0 => 0xFFFFF
    | 0x1C4 => 0xFFFFF
    | 0x1C8 => full
    | 0x1CC => va
    | 0x1D0 => full
    | 0x1D4 => va
    | 0x1D8 => 0xFFFF
    | 0x1DC => 0xFFFF
    | 0x1E0 => full
    | 0x1E4 => va
    | 0x1E8 => 0xFFFFF
    | 0x1EC => 1
    | 0x1F0 => 0xFFFF
    | _ => 0
  else
    match o with
    | 0x240 => full
    | 0x244 => va
    | 0x248 => 0x1F
    | 0x254 => full
    | _ => 0

/-- The counts that the device keeps: a write leaves them as they are. -/
def ctlCount (o : Nat) : Bool :=
  [0x020, 0x024, 0x06C, 0x070, 0x08C, 0x090, 0x10C, 0x110, 0x24C, 0x250].contains o

/-- The size of a ring or log is in range. -/
def ringSizeOk (w : Nat) : Bool := 4 ≤ bits w 0 5 && bits w 0 5 ≤ 16

/-- A physical range lies in local LPDDR6. -/
def inLocal (a n : Nat) : Bool := a + n ≤ localTop

/-- The block of the control space that holds an offset, by its own offset (R446). -/
def ctlBlock (o : Nat) : Nat :=
  if o < 0x040 then 0x000 else if o < 0x060 then 0x040 else if o < 0x080 then 0x060 else if o < 0x0C0 then 0x080
  else if o < 0x100 then 0x0C0 else if o < 0x180 then 0x100 else if o < 0x200 then 0x180 else if o < 0x240 then 0x200
  else 0x240

/-- The fields of a block are in their ranges. -/
def Ctx.blockOk (c : Ctx) (b : Nat) : Bool :=
  match b with
  | 0x000 =>
    let d := c.word 0x01C
    c.dword 0x000 % 4 == 0 && c.dword 0x010 % 64 == 0 && ringSizeOk (c.word 0x018) &&
      (d == 0 || (100 ≤ d && d ≤ 1000000))
  | 0x040 => c.dword 0x040 % 8192 == 0 && c.dword 0x048 % 4096 == 0
  | 0x060 => c.dword 0x060 % 32 == 0 && ringSizeOk (c.word 0x068)
  | 0x080 => c.dword 0x080 % 64 == 0 && ringSizeOk (c.word 0x088)
  | 0x0C0 =>
    c.dword 0x0C0 % 4096 == 0 && inLocal (c.dword 0x0C0) (32 * c.word 0x0C8) && c.dword 0x0C0 < localTop &&
      c.word 0x0C8 ≤ 2 ^ 20 && c.dword 0x0D0 % 512 == 0 && inLocal (c.dword 0x0D0) 512 && c.dword 0x0D8 % 64 == 0 &&
      bits (c.word 0x0E0) 0 9 ≤ 256 && bits (c.word 0x0E0) 12 4 ≤ 8
  | 0x100 =>
    c.dword 0x100 % 32 == 0 && ringSizeOk (c.word 0x108) && (List.range 15).all fun k =>
      let n := bits (c.word (0x140 + 4 * k)) 1 5
      n == 0 || (4 ≤ n && n ≤ 16)
  | 0x180 =>
    c.dword 0x180 % 64 == 0 && c.word 0x188 ≤ 4096 && c.dword 0x190 % 512 == 0 && c.dword 0x198 % 4096 == 0 &&
      c.word 0x1A0 ≤ 2 ^ 20 && c.word 0x1A4 ≤ 4096 && c.dword 0x1A8 % 64 == 0 && c.dword 0x1B0 % 4096 == 0 &&
      c.dword 0x1B8 % 64 == 0 && c.dword 0x1C8 % 32 == 0 && c.dword 0x1D0 % 4096 == 0 && compatOk (c.word 0x1DC) &&
      c.dword 0x1E0 % 65536 == 0 && c.dword 0x1E0 < localTop && inLocal (c.dword 0x1E0) (c.word 0x1E8 * 2 ^ 20)
  | 0x240 => c.dword 0x240 % 64 == 0 && ringSizeOk (c.word 0x248)
  | _ => true

/-- The context holds no resident or saved team. -/
def State.noTeams (s : State) (x : Nat) : Bool := (s.ctxTeams x).isEmpty && (s.ctx x).saved.isEmpty

/-- A block stands at the head of a launch queue that is served (R227). -/
def State.headWaits (s : State) (x : Nat) : Bool :=
  (List.range 16).any fun q => (s.launchQueue x q).any fun k => k.enabled && !k.stopped && k.waiting != 0

/-- A launch of the context stands beyond Submitted: its head has been read, or is still to be. -/
def State.hasLaunches (s : State) (x : Nat) : Bool :=
  (s.launches.any fun e => e.2.ctx == x) || ((s.ctx x).st != .lost && s.headWaits x)

/-- A block may be changed now (R389, R446). -/
def State.blockFree (s : State) (x b : Nat) : Bool :=
  match b with
  | 0x0C0 => s.noTeams x
  | 0x180 => s.noTeams x && !s.hasLaunches x
  | _ => true

/-- The words of a write, with their offsets. -/
def offsetWords (addr : Nat) (data : List Byte) : List (Nat × Nat) :=
  (bytesWords (data.length / 4) data).zipIdx.map fun (w, i) => (addr + 4 * i, w.toNat)

/-- The control space with words written. What is written to reserved bits is ignored (R6), but a nonzero reserved bit of
the trap control block makes the write fail (R248). -/
def Ctx.putWords (c : Ctx) : List (Nat × Nat) → Option Ctx
  | [] => some c
  | (o, v) :: ws =>
    if ctlCount o then c.putWords ws
    else if o < 0x040 && v &&& ctlMask o != v then none
    else (if ctlMask o == 0 then c else c.setWord o (v &&& ctlMask o)).putWords ws

/-- Creation of a context and a write of a telemetry channel set its counts to 0 (R382). -/
def State.clearCounts (s : State) (x : Nat) (channels : List Nat) : State :=
  { s with cores := s.cores.map fun e => (e.1, { e.2 with
      mscas := e.2.mscas.filter fun m => !(m.1 / 16 == x && channels.contains (m.1 % 16)) }) }

/-- Setting a context's sample numbers to 0 (R412). -/
def State.clearSeqs (s : State) (x : Nat) : State :=
  { s with cores := s.cores.map fun e => (e.1, { e.2 with sampSeq := tdel e.2.sampSeq x }) }

/-- A write to the blocks of a control space, the command block aside (R446): checked and applied whole. -/
def State.writeSpace (s : State) (x addr : Nat) (data : List Byte) : Option State :=
  let ws := offsetWords addr data
  let blocks := (ws.map fun w => ctlBlock w.1).eraseDups
  let c := s.ctx x
  match c.putWords ws with
  | none => none
  | some d =>
    if blocks.all fun b => d.blockOk b && s.blockFree x b then
      let s1 := s.modCtx x fun _ => d
      let s2 := if !bit (c.word 0x068) 5 && bit (d.word 0x068) 5 then s1.clearSeqs x else s1
      let chans := ws.filterMap fun w => if 0x140 ≤ w.1 && w.1 < 0x17C then some ((w.1 - 0x140) / 4 + 1) else none
      some (if chans.isEmpty then s2 else s2.clearCounts x chans)
    else none

/-! ## Features (R448) -/

/-- The offered set: bits 0 to 9. -/
def offered : BitVec 256 := 0x3FF

/-- Accepting a feature set for a context: once. -/
def State.acceptFeatures (s : State) (x : Nat) (f : BitVec 256) : State × Nat :=
  if (s.ctx x).features.isSome then (s, stLocked)
  else if !f.getLsbD 0 || f &&& offered != f then (s, stInvalid)
  else (s.modCtx x fun c => { c with features := some f }, stOk)

/-! ## Commands (R447) -/

/-- A command: its op and its argument bytes 8 to 63. -/
structure Command where
  op   : Nat
  args : List Byte

/-- The command that 64 bytes hold: bytes 4-7 are zero. -/
def parseCommand (bs : List Byte) : Option Command :=
  if bs.length == 64 && byteField bs 4 4 == 0 then some { op := byteField bs 0 4, args := bs.drop 8 } else none

/-- The argument bytes that an op uses. -/
def commandArgs (op : Nat) : Nat :=
  match op with
  | 1 => 32
  | 8 => 16
  | 9 => 8
  | 12 => 8
  | 13 => 8
  | _ => 0

/-- A command that takes effect at once, with its completion event; otherwise it is refused. -/
def State.cmdIf (s : State) (ok : Bool) (x op seq : Nat) (t : State) : State × Nat :=
  if ok then (t.cmdDone x op stOk seq, stOk) else (s, stInvalid)

/-- The invalidation command (R285). -/
def State.cmdInvalidate (s : State) (x va len seq : Nat) : State × Nat :=
  if vaTop ≤ va || vaTop < len || vaTop < va + len || (len == 0 && va != 0) then (s, stInvalid)
  else (s.startInval x (if len == 0 then none else some (va, len)) (some (8, stOk, seq)) none, stOk)

/-- The eviction of a block (R400): a P leaf of an enabled range, FILLED. It waits for another eviction of its range
(R404). -/
def State.cmdEvict (s : State) (x va seq : Nat) : State × Nat :=
  if vaTop ≤ va then (s, stInvalid)
  else
    match s.procLeaf x va, s.rangeOf x va with
    | some l, some r =>
      if s.registered x l && s.fillState x l == fsFilled && !(s.ctx x).fills.any fun f => f.block == l.va then
        if (s.ctx x).evicts r.idx then (s.modCtx x fun c => { c with evictq := c.evictq ++ [(l.va, r.idx, r.bsize, seq)] }, stOk)
        else (s.startEvict x l.va r.idx r.bsize (some (9, stOk, seq)), stOk)
      else (s, stInvalid)
    | _, _ => (s, stInvalid)

/-- A token of the context that was issued and is not settled. -/
def State.openToken (s : State) (x tok : Nat) : Option FaultRec :=
  (tget? s.faults tok).filter fun F => F.ctx == x && F.forwarded && !F.denied && !F.settled

/-- Performing a command: the state, and the status of the reply. -/
def State.command (s : State) (x seq : Nat) (k : Command) : State × Nat :=
  let n := commandArgs k.op
  if (k.args.drop n).any (· != 0) then (s, stInvalid)
  else
    let a := byteField k.args 0 8
    let st := (s.ctx x).st
    match k.op with
    | 1 =>
      match s.acceptFeatures x (BitVec.ofNat 256 (byteField k.args 0 32)) with
      | (t, 0) => ((t.clearCounts x (List.range 16)).cmdDone x 1 stOk seq, stOk)
      | r => r
    | 2 => s.cmdIf (st == .active) x 2 seq (s.preempt x)
    | 3 => s.cmdIf (st == .draining) x 3 seq (s.withdraw x)
    | 4 => s.cmdIf (st == .stopped) x 4 seq (s.resume x)
    | 5 => s.cmdIf (st == .frozen) x 5 seq (s.thaw x)
    | 6 => s.cmdIf true x 6 seq (s.resetCtx x 0)
    | 7 => s.cmdIf (st == .lost) x 7 seq (s.clear x)
    | 8 => s.cmdInvalidate x a (byteField k.args 8 8) seq
    | 9 => s.cmdEvict x a seq
    | 10 => s.cmdIf true x 10 seq (s.modCtx x fun c => { c with onyx := [], onyxUsed := 0 })
    | 11 => s.cmdIf true x 11 seq (s.resetCtx x 0)
    | 12 =>
      match s.openToken x a with
      | some F => s.cmdIf true x 12 seq (s.settleFault a F)
      | none => (s, stInvalid)
    | 13 =>
      match s.openToken x a with
      | some F => s.cmdIf true x 13 seq (s.denyFault a F)
      | none => (s, stInvalid)
    | _ => (s, stInvalid)

/-- The 64 bytes of a command (R447). -/
def commandBytes (op : Nat) (args : List Byte) : List Byte := sliceBytes (leBytes 4 op ++ leBytes 4 0 ++ args) 0 64

/-- A WRITE of space 1: a command, or a write to the other blocks. Offsets that no block holds are reserved. -/
def State.writeCtl (s : State) (x seq addr : Nat) (data : List Byte) : State × Nat :=
  let n := data.length
  if addr % 4 != 0 || n % 4 != 0 || 4096 < addr + n then (s, stInvalid)
  else if addr == 0x200 && n == 64 then
    match parseCommand data with
    | some k => s.command x seq k
    | none => (s, stInvalid)
  else if addr < 0x240 && 0x200 < addr + n then (s, stInvalid)
  else
    match s.writeSpace x addr data with
    | some t => (t, stOk)
    | none => (s, stInvalid)

/-- A READ of space 1. -/
def Ctx.readCtl (c : Ctx) (addr n : Nat) : List Byte :=
  (List.range (n / 4)).flatMap fun i => leBytes 4 (c.word (addr + 4 * i))

/-! ## The device control space (R447) -/

/-- A write of a core's sampling control register (R408): the period starts at the write, or with the next team; the
sample numbers of the core start again. -/
def State.writeSampling (s : State) (core v : Nat) : State :=
  let en := bit v 20
  s.modCore core fun C =>
    { C with sampling := word (v % 2 ^ 22)
             armed := if en && bit v 21 then some s.nextTid else none
             expiry := if en && !bit v 21 then some (s.coreCycle core + bits v 0 20) else none
             lastSamp := none
             sampSeq := if en then [] else C.sampSeq }

/-- The value that a word of the device control space may take: what is written to reserved words and bits is ignored (R6).
The session command is no register. -/
def deviceWordOk (o v : Nat) : Bool :=
  if o == 0x000 then v ≤ 16
  else if o == 0x004 then 500 ≤ v && v ≤ 2000
  else if o == 0x008 then v < 1024
  else if 0x040 ≤ o && o < 0x070 then true
  else if 0x100 ≤ o && o < 0x400 then !bit v 20 || 16 ≤ bits v 0 20
  else !(0x080 ≤ o && o < 0x088)

/-- The owner sets the power floor (R433): it governs while no budget's lease runs. -/
def HostState.setFloor (h : HostState) (v : Nat) : HostState :=
  { h with floor := v, budget := if h.budgetEnd.isSome then h.budget else v }

/-- Writing one word of the device control space. -/
def State.putDevice (s : State) (o v : Nat) : State :=
  if o == 0x000 then { s with tsWritten := v }
  else if o == 0x004 then { s with host := s.host.setFloor v }
  else if o == 0x008 then { s with idWritten := word v }
  else if 0x040 ≤ o && o < 0x070 then
    { s with ownerKey := spliceBytes (sliceBytes s.ownerKey 0 48) (o - 0x040) (leBytes 4 v) }
  else if 0x100 ≤ o && o < 0x400 then s.writeSampling ((o - 0x100) / 4) v
  else s

/-- The session command at 0x080 (R450): op 1 thaws a frozen session. -/
def State.sessionCommand (s : State) (data : List Byte) : State × Nat :=
  let id := byteField data 4 4
  match tget? s.host.sessions id with
  | some S =>
    if byteField data 0 4 == 1 && S.frozen then
      ({ s with host := { s.host with sessions := tset s.host.sessions id { S with frozen := false } } }, stOk)
    else (s, stInvalid)
  | none => (s, stInvalid)

/-- A WRITE of space 2. -/
def State.writeDevice (s : State) (addr : Nat) (data : List Byte) : State × Nat :=
  let n := data.length
  if addr % 4 != 0 || n % 4 != 0 || 0x400 < addr + n then (s, stInvalid)
  else if addr == 0x080 && n == 8 then s.sessionCommand data
  else
    let ws := offsetWords addr data
    if ws.all fun w => deviceWordOk w.1 w.2 then (ws.foldl (fun u w => u.putDevice w.1 w.2) s, stOk) else (s, stInvalid)

/-- A byte of the device control space: the session command reads as zero. -/
def State.deviceWord (s : State) (o : Nat) : List Byte :=
  if o == 0x000 then leBytes 4 s.tsWritten
  else if o == 0x004 then leBytes 4 s.host.floor
  else if o == 0x008 then leBytes 4 s.idWritten.toNat
  else if 0x040 ≤ o && o < 0x070 then sliceBytes s.ownerKey (o - 0x040) 4
  else if 0x100 ≤ o && o < 0x400 then leBytes 4 (s.core ((o - 0x100) / 4)).sampling.toNat
  else if 0x400 ≤ o && o < 0x4C1 + 3 then
    (List.range 4).map fun i => if o - 0x400 + i < 193 then Config.identityByte (o - 0x400 + i) else 0
  else leBytes 4 0

/-- A READ of space 2: its 0x500 bytes. -/
def State.readDevice (s : State) (addr n : Nat) : List Byte :=
  (List.range (n / 4)).flatMap fun i => s.deviceWord (addr + 4 * i)

/-! ## Settings that take effect later (R394, R454) -/

/-- No context holds a resident or saved team, and no launch stands between Head and Completing. -/
def State.quiet (s : State) : Bool :=
  s.teams.isEmpty && s.launches.isEmpty && s.ctxs.all fun e => e.2.saved.isEmpty && (e.2.st == .lost || !s.headWaits e.1)

/-- The written tile-store size takes effect. -/
def State.sizeDue (s : State) : Bool := s.tsWritten != s.tsForce && s.quiet

/-- TILE_STORE_SIZE_EFFECT: a smaller store evicts the copies that it cannot hold. -/
def execTileStoreSizeEffect (s : State) : Out :=
  .next (if s.sizeDue then
      { s with tsForce := s.tsWritten
               dies := s.dies.map fun e => (e.1, { e.2 with
                 copies := evictCopies (s.delivering e.1) (1048576 * s.tsWritten) 0 e.2.copies.length e.2.copies }) }
    else s)

/-- The written package identifier takes effect. -/
def State.idDue (s : State) : Bool := s.idWritten != s.idForce && s.quiet

/-- PACKAGE_ID_EFFECT. -/
def execPackageIdEffect (s : State) : Out := .next (if s.idDue then { s with idForce := s.idWritten } else s)

end Sys2Proof.Machine
end

