-- ==== Sys2Proof/Machine/HostLink.lean ====
section
/-!
DEFINITION. The host link: sessions, requests in order, ownership, reads and writes, submissions, events, and the
attestation report (R436-R445, R448-R450, R453, 23_host.md).

The replies to the last message stand in `HostState.sent`, and each session keeps the replies to its last 64 requests
(R438).
-/

namespace Sys2Proof.Machine

/-! ## Times -/

/-- A lease and a live claim last 500 ms, in ns (R443, R444). -/
def leaseNs : Nat := 500000000
/-- A silent session is closed after 10 s (R438). -/
def silenceNs : Nat := 10000000000
/-- An event is resent every 10 ms, in cycles (R449; log entry 7). -/
def resendCycles : Nat := usCycles 10000

/-! ## Sessions -/

/-- The state with the host link changed. -/
def State.modHost (s : State) (f : HostState → HostState) : State := { s with host := f s.host }

/-- The state with a session changed. -/
def State.modSession (s : State) (k : Nat) (f : Session → Session) : State :=
  s.modHost fun h => { h with sessions := tmod h.sessions k f }

/-- The credential is valid still: its expiry lies in the future (R442). -/
def Session.valid (S : Session) (ptp : Nat) : Bool := decide (ptp < S.expiry)

/-- The session's claim is live (R443). -/
def Session.live (S : Session) (ptp : Nat) : Bool := (S.claim.map fun t => decide (ptp < t)).getD false

/-- The session may win an election or be handed ownership (R443). -/
def Session.candidate (S : Session) (ptp : Nat) : Bool := S.live ptp && !S.frozen && S.valid ptp

/-! ## Ownership (R443, R444) -/

/-- A session becomes owner, and every session hears of it: cause 0 election, 1 handover. -/
def State.setOwner (s : State) (k cause : Nat) : State :=
  let prio := ((tget? s.host.sessions k).map (·.priority)).getD 0
  (s.modHost fun h => { h with owner := some k, leaseEnd := s.ptp + leaseNs }).event 1 noCtx
    (leBytes 4 k ++ leBytes 4 prio ++ leBytes 4 cause)

/-- The rank of a candidate: higher priority first, then the lower session identifier. -/
def electRank (e : Nat × Session) : Nat := (255 - min 255 e.2.priority) * 2 ^ 32 + e.1

/-- The election. -/
def State.elect (s : State) : State :=
  match minBy electRank (s.host.sessions.filter fun e => e.2.candidate s.ptp) with
  | some e => s.setOwner e.1 0
  | none => (s.modHost fun h => { h with owner := none }).event 1 noCtx (leBytes 4 0 ++ leBytes 4 0 ++ leBytes 4 2)

/-- The owner's lease has ended. -/
def State.leaseDue (s : State) : Bool := s.host.owner.isSome && s.host.leaseEnd ≤ s.ptp

/-- OWNER_LEASE_END. -/
def execOwnerLeaseEnd (s : State) : Out := .next (if s.leaseDue then s.elect else s)

/-- The owner's credential has expired. -/
def State.credentialDue (s : State) (k : Nat) : Bool :=
  s.host.owner == some k && ((tget? s.host.sessions k).map fun S => !S.valid s.ptp).getD false

/-- CREDENTIAL_EXPIRY. -/
def execCredentialExpiry (sess : Nat) (s : State) : Out := .next (if s.credentialDue sess then s.elect else s)

/-- A session has been silent for 10 s. -/
def State.silent (s : State) (k : Nat) : Bool :=
  ((tget? s.host.sessions k).map fun S => decide (S.heard + silenceNs ≤ s.ptp)).getD false

/-- SESSION_TIMEOUT. -/
def execSessionTimeout (sess : Nat) (s : State) : Out :=
  .next (if s.silent sess then (s.clearFaults (.host sess)).modHost fun h => { h with sessions := tdel h.sessions sess } else s)

/-! ## Answers -/

/-- The type of a request in the message header (R437). -/
def HostReq.type : HostReq → Nat
  | .featureRead => 2
  | .featureAccept _ _ => 2
  | .claim => 3
  | .handover _ => 4
  | .lease => 5
  | .read _ _ _ _ => 6
  | .write _ _ _ _ => 7
  | .submit _ _ _ => 8
  | .power _ => 10
  | .malformed t => t

/-- What performing a request gives: the state, the status, and the payload of an OK reply; or the request waits for targets
that do not answer (R277). -/
structure Answer where
  state   : State
  status  : Nat
  payload : List Byte
  waits   : Bool := false

/-- A refusal that changes nothing. -/
def refuse (s : State) (status : Nat) : Answer := { state := s, status := status, payload := [] }

/-- An answer without payload. -/
def answered (r : State × Nat) : Answer := { state := r.1, status := r.2, payload := [] }

/-! ## Freezing a session (R450) -/

/-- A protection violation freezes the session and the owner hears of it; the message changes nothing. -/
def State.freezeSession (s : State) (k : Nat) : Answer :=
  refuse ((s.modSession k fun S => { S with frozen := true }).event 4 noCtx (leBytes 4 1 ++ leBytes 4 k)) stFrozen

/-! ## READ and WRITE (R439, R440) -/

/-- The most bytes of an access. -/
def accessMax : Nat := 8192

/-- The context number fits the space. -/
def ctxOk (space x : Nat) : Bool := if space < 2 then x < 4096 else x == 0

/-- What an access finds of one line: its physical address, a fault, a target that has not answered yet, or one from which
nothing comes (R277, R290). -/
inductive HostLine where
  | at_ (pa : Nat)
  | fault (code : Nat)
  | late (line : Nat)
  | dead

/-- A line that cannot be reached now. -/
def State.hostLost (s : State) (k x va : Nat) : HostLine :=
  match s.lateAt x va with
  | some line => if s.farEnded (.host k) line then .dead else .late line
  | none => .dead

/-- One line of an access of session `k`. -/
def State.hostLine (s : State) (k x : Nat) (acc : Access) (va : Nat) : HostLine :=
  match s.xlate x va acc with
  | .ok pa _ => if s.reach pa == .ok then .at_ pa else s.hostLost k x va
  | .fault code => if code == fcPoison then s.hostLost k x va else .fault code
  | .proc _ _ => .fault fcPage

/-- The lines of an access: virtual address, bytes, and what is found. -/
def State.hostLines (s : State) (k x : Nat) (acc : Access) (cuts : List (Nat × Nat)) : List (Nat × Nat × HostLine) :=
  cuts.map fun p => (p.1, p.2, s.hostLine k x acc p.1)

/-- How the lines of an access are found together: the first fault decides, then the targets that are waited for. -/
inductive HostAcc where
  | fault (code va : Nat)
  | wait (lines : List Nat)
  | go

/-- The verdict over the lines of an access. -/
def hostVerdict (ls : List (Nat × Nat × HostLine)) : HostAcc :=
  match ls.findSome? (fun e => match e.2.2 with
      | .fault code => some (code, e.1)
      | _ => none) with
  | some (code, va) => .fault code va
  | none =>
    match ls.filterMap (fun e => match e.2.2 with
      | .late line => some line
      | _ => none) with
    | [] => .go
    | ws => .wait ws

/-- What is logged of the lines that an access did not reach, or found uncorrectable in a pooled device (R277, R290). -/
def State.noteLines (s : State) (x : Nat) (ls : List (Nat × Nat × HostLine)) : State :=
  ls.foldl (fun u e =>
    match e.2.2 with
    | .at_ pa => u.noteLine x (srcHdie 0) pa e.2.1
    | _ => if (u.lateAt x e.1).isSome then u else u.noteFault x (srcHdie 0) (fcPoison, e.1)) s

/-- The bytes that a READ finds of a line; none for one that is uncorrectable or not reached. -/
def State.lineBytes (s : State) (e : Nat × Nat × HostLine) : List (Option Byte) :=
  (List.range e.2.1).map fun i =>
    match e.2.2 with
    | .at_ pa => if s.bad (pa + i) 1 then none else some (s.rd8 (pa + i))
    | _ => none

/-- Writing the lines that are reached, with their bytes in turn. -/
def State.wrLines (s : State) : List (Nat × Nat × HostLine) → List Byte → State
  | [], _ => s
  | (_, n, .at_ pa) :: t, bs => (s.wr pa (bs.take n)).wrLines t (bs.drop n)
  | (_, n, _) :: t, bs => s.wrLines t (bs.drop n)

/-- The request waits for lines of targets that do not answer. -/
def State.waitHost (s : State) (k x : Nat) (lines : List Nat) : Answer :=
  { state := s.openUnit x (.host k) lines.eraseDups, status := stOk, payload := [], waits := true }

/-- A fault of an access: a page that forbids it freezes the session (R450), another gives PAGE and changes nothing. -/
def State.refuseFault (s : State) (k x code va : Nat) : Answer :=
  if code == fcProt then s.freezeSession k else refuse (s.noteFault x (srcHdie 0) (code, va)) stPage

/-- The lines of a range of addresses. -/
def hostCuts (va n : Nat) : List (Nat × Nat) := lineCuts va n (n / 128 + 2)

/-- READ of space 0. Bytes that are uncorrectable or do not come are open, each by itself. -/
def State.readMem (s : State) (k x va n : Nat) : Answer :=
  if vaTop < va + n then refuse s stPage
  else
    match s.vaRead x va n with
    | .ok bs => { state := s, status := stOk, payload := bs }
    | .error _ =>
      let ls := s.hostLines k x .read (hostCuts va n)
      match hostVerdict ls with
      | .fault code a => s.refuseFault k x code a
      | .wait ws => s.waitHost k x ws
      | .go =>
        let (t, i) := (s.noteLines x ls).draw
        { state := t, status := stOk
          payload := (ls.flatMap s.lineBytes).zipIdx.map fun b => b.1.getD (Config.readByte i b.2) }

/-- READ. -/
def State.hostRead (s : State) (k space x addr n : Nat) : Answer :=
  if 3 < space || !ctxOk space x || n == 0 || accessMax < n then refuse s stInvalid
  else
    let fits (top : Nat) : Bool := addr % 4 == 0 && n % 4 == 0 && addr + n ≤ top
    match space with
    | 0 => s.readMem k x addr n
    | 1 => if fits 4096 then { state := s, status := stOk, payload := (s.ctx x).readCtl addr n } else refuse s stInvalid
    | 2 => if fits 0x500 then { state := s, status := stOk, payload := s.readDevice addr n } else refuse s stInvalid
    | _ => refuse s stInvalid

/-- WRITE of space 0. A line whose target does not answer may or may not be written; the model takes it as not written
(R277; log entry 61). -/
def State.writeMem (s : State) (k x va : Nat) (data : List Byte) : Answer :=
  if vaTop < va + data.length then refuse s stPage
  else
    match s.vaWrite x va data with
    | .ok t => answered (t, stOk)
    | .error _ =>
      let ls := s.hostLines k x .write (hostCuts va data.length)
      match hostVerdict ls with
      | .fault code a => s.refuseFault k x code a
      | .wait ws => s.waitHost k x ws
      | .go => answered ((s.noteLines x ls).wrLines ls data, stOk)

/-- Bytes of a firmware image: below 64 MiB. -/
def imageTop : Nat := 67108864

/-- Verification of a firmware image (R452): the boot status it gives. -/
def bootStatus (image : List Byte) : Nat :=
  if !Config.firmwareSigned image then 1 else if Config.firmwareVersion image < Config.rollback.toNat then 2 else 0

/-- The image placed in recovery is verified; when it verifies, Agate restarts from it (R440, R452). -/
def HostState.verify (h : HostState) : HostState :=
  let bs := Memory.readList h.image 0 h.imageSize
  let b := bootStatus bs
  if b == 0 then { h with boot := 0, firmware := some (Config.sha384 bs), image := [], imageSize := 0 } else { h with boot := b }

/-- WRITE of space 3, in recovery. -/
def State.writeImage (s : State) (addr : Nat) (data : List Byte) : Answer :=
  if data.isEmpty then
    (if addr == s.host.imageSize then answered (s.modHost HostState.verify, stOk) else refuse s stInvalid)
  else if imageTop < addr + data.length then refuse s stInvalid
  else
    answered (s.modHost fun h => { h with image := Memory.writeList h.image addr data
                                          imageSize := max h.imageSize (addr + data.length) }, stOk)

/-- WRITE. -/
def State.hostWrite (s : State) (k seq space x addr : Nat) (data : List Byte) : Answer :=
  let n := data.length
  if 3 < space || !ctxOk space x || accessMax < n || (n == 0 && space != 3) then refuse s stInvalid
  else
    match space with
    | 0 => s.writeMem k x addr data
    | 1 => answered (s.writeCtl x seq addr data)
    | 2 => answered (s.writeDevice addr data)
    | _ => if s.host.boot == 0 then refuse s stInvalid else s.writeImage addr data

/-! ## SUBMIT (R224, R440) -/

/-- Writing blocks to rising positions of a queue. -/
def State.putBlocks (s : State) (x : Nat) (q : LaunchQueue) : Nat → List (List Byte) → Except (Nat × Nat) State
  | _, [] => .ok s
  | pos, b :: bs =>
    match s.vaWrite x (q.block pos) b with
    | .ok t => t.putBlocks x q (pos + 1) bs
    | .error e => .error e

/-- The descriptor of a queue that a SUBMIT names cannot be read: the request waits for its table entry, or is refused. -/
def State.noQueue (s : State) (k x q : Nat) : Answer :=
  let va := (s.ctx x).dword 0x190 + 32 * q
  match s.hostLost k x va with
  | .late line => s.waitHost k x [line]
  | _ => refuse (if (s.lateAt x va).isSome then s else s.noteTable x (srcHdie 0) va) stPage

/-- SUBMIT: the blocks, then tail (R224). A block whose page forbids the write is refused with INVALID, for which R440 names
no status; a line whose target does not answer is not written (log entry 61). -/
def State.hostSubmit (s : State) (k x q : Nat) (blocks : List (List Byte)) : Answer :=
  let n := blocks.length
  if 4096 ≤ x || 16 ≤ q || n == 0 || 32 < n || blocks.any (fun b => b.length != 256) then refuse s stInvalid
  else if (s.ctx x).st == .lost then refuse s stLost
  else
    match s.launchQueue x q with
    | none => s.noQueue k x q
    | some Q =>
      let moved (t : State) : Answer :=
        { state := t.wr (Q.pa + 12) (leBytes 4 ((Q.tail + n) % 2 ^ 32)), status := stOk, payload := leBytes 4 Q.tail }
      if !Q.enabled || Q.stopped || Q.cap < Q.waiting + n then refuse s stInvalid
      else
        match s.putBlocks x Q Q.tail blocks with
        | .ok t => moved t
        | .error _ =>
          let ls := s.hostLines k x .write ((List.range n).flatMap fun i => hostCuts (Q.block (Q.tail + i)) 256)
          match hostVerdict ls with
          | .fault code a => refuse (s.noteFault x (srcHdie 0) (code, a)) (if code == fcPage then stPage else stInvalid)
          | .wait ws => s.waitHost k x ws
          | .go => moved ((s.noteLines x ls).wrLines ls blocks.flatten)

/-! ## Performing a request -/

/-- The request needs ownership (R439, R445). -/
def HostReq.needsOwner : HostReq → Bool
  | .featureRead => false
  | .featureAccept _ _ => true
  | .claim => false
  | .handover _ => true
  | .lease => true
  | .read _ _ _ _ => false
  | .write _ _ _ _ => true
  | .submit _ _ _ => true
  | .power _ => false
  | .malformed _ => false

/-- The request is accepted while Agate is in recovery (R440, R452): a WRITE of the firmware image, and what makes a
session the owner that may send it. -/
def HostReq.inRecovery : HostReq → Bool
  | .featureRead => false
  | .featureAccept _ _ => false
  | .claim => true
  | .handover _ => false
  | .lease => true
  | .read _ _ _ _ => false
  | .write space _ _ _ => space == 3
  | .submit _ _ _ => false
  | .power _ => false
  | .malformed _ => false

/-- CLAIM, that arrived at a PTP time: the claim is live for 500 ms after it (R443). -/
def State.hostClaim (s : State) (k at_ : Nat) : Answer :=
  let s1 := s.modSession k fun S => { S with claim := some (at_ + leaseNs) }
  let s2 := if s.host.owner.isNone then s1.setOwner k 0 else s1
  { state := s2, status := stOk, payload := leBytes 4 (b2n (s2.host.owner == some k)) }

/-- HANDOVER. -/
def State.hostHandover (s : State) (to_ : Nat) : Answer :=
  if ((tget? s.host.sessions to_).map fun S => S.candidate s.ptp).getD false then answered (s.setOwner to_ 1, stOk)
  else refuse s stInvalid

/-- LEASE, that arrived at a PTP time: the lease ends 500 ms after it, or later (R444). -/
def State.hostLease (s : State) (at_ : Nat) : Answer :=
  let t := max s.host.leaseEnd (at_ + leaseNs)
  { state := s.modHost fun h => { h with leaseEnd := t }, status := stOk, payload := leBytes 8 t }

/-- POWER, that arrived at a PTP time: the credential's right, and the 16 bytes of R432. -/
def State.hostPower (s : State) (S : Session) (at_ : Nat) (p : List Byte) : Answer :=
  if !S.power then refuse s stNotOwner
  else if p.length != 16 then refuse s stInvalid
  else answered (s.modHost fun h => h.takeBudget at_ p, stOk)

/-- A request of a session that is neither expired nor frozen, from a session that may make it; `at_` is the PTP time of its
arrival. -/
def State.serve (s : State) (k seq at_ : Nat) (S : Session) : HostReq → Answer
  | .featureRead => { state := s, status := stOk, payload := leBytes 32 offered.toNat }
  | .featureAccept x f => if x < 4096 then answered (s.acceptFeatures x f) else refuse s stInvalid
  | .claim => s.hostClaim k at_
  | .handover to_ => s.hostHandover to_
  | .lease => s.hostLease at_
  | .read space x addr n => s.hostRead k space x addr n
  | .write space x addr data => s.hostWrite k seq space x addr data
  | .submit x q blocks => s.hostSubmit k x q blocks
  | .power p => s.hostPower S at_ p
  | .malformed _ => refuse s stInvalid

/-- Performing a request (R439, R440, R442, R445, R450, R452). -/
def State.performReq (s : State) (k seq at_ : Nat) (S : Session) (r : HostReq) : Answer :=
  if !S.valid s.ptp then refuse s stNotOwner
  else if S.frozen then refuse s stFrozen
  else if s.host.boot != 0 && !r.inRecovery then refuse s stInvalid
  else if r.needsOwner && s.host.owner != some k then refuse s stNotOwner
  else s.serve k seq at_ S r

/-- The replies that a session keeps: the last 64 (R438). -/
def keepReply (l : List Reply) (r : Reply) : List Reply := (l ++ [r]).drop (l.length + 1 - 64)

/-- The device sends a reply to a session (R440). -/
def State.sendReply (s : State) (k : Nat) (r : Reply) : State := s.modHost fun h => { h with sent := h.sent ++ [(k, r)] }

/-- Performing the request that a session expects next, sending its reply and keeping it. One that waits for a target that
does not answer is held, in its turn still (R277, R438). -/
def State.performNext (s : State) (k seq at_ : Nat) (r : HostReq) : State :=
  match tget? s.host.sessions k with
  | none => s
  | some S =>
    let a := s.performReq k seq at_ S r
    if a.waits then
      a.state.modSession k fun S => { S with ahead := { seq := seq, at_ := at_, req := r } :: S.ahead }
    else
      let payload := if a.status == stOk then a.payload else []
      let reply : Reply := { seq := seq, type := r.type, status := a.status, payload := payload }
      (a.state.modSession k fun S => { S with next := (seq + 1) % 2 ^ 32, kept := keepReply S.kept reply }).sendReply k reply

/-- A held request whose turn has come, and for which no target is waited for. -/
def State.heldNext (s : State) (p : HostReq → Bool) : Option (Nat × HeldReq) :=
  s.host.sessions.findSome? fun e =>
    if s.pendingFault (.host e.1) then none
    else (e.2.ahead.find? fun r => r.seq == e.2.next && p r.req).map fun r => (e.1, r)

/-- Performing a held request. -/
def State.performHeldReq (s : State) (k : Nat) (r : HeldReq) : State :=
  let t := (s.modSession k fun S => { S with ahead := S.ahead.filter fun a => a.seq != r.seq }).performNext k r.seq r.at_ r.req
  if t.pendingFault (.host k) then t else t.clearFaults (.host k)

/-- A message of a session has arrived; nothing has been sent in answer to it yet. -/
def State.hear (s : State) (k : Nat) : State :=
  (s.modSession k fun S => { S with heard := s.ptp }).modHost fun h => { h with sent := [] }

/-- The session was opened and is closed (R438). -/
def State.closedSession (s : State) (k : Nat) : Bool :=
  k != 0 && k < s.host.nextSess && (tget? s.host.sessions k).isNone

/-- Messages come through: the host port is up, and frames can be protected, which needs an agreed key (R436). -/
def HostState.hears (h : HostState) : Bool := h.portUp && !h.keys.isEmpty

/-- A frame at the port is discarded and counted (R436). -/
def State.discardFrame (s : State) : State := s.modHost fun h => { h with discards := h.discards + 1 }

/-- A message comes in a frame: while no key is agreed the frame is not protected, and is discarded (R436). -/
def State.arrive (s : State) (k : State → State) : State :=
  if s.host.hears then k s else if s.host.portUp then s.discardFrame else s

/-- A request of a session has come (R438): performed in its turn, held ahead of it, answered from the kept replies, or,
where it names a closed session, answered with NOTOWNER. -/
def State.takeRequest (s : State) (k seq : Nat) (r : HostReq) : State :=
  match tget? s.host.sessions k with
  | none =>
    if s.closedSession k then
      (s.hear k).sendReply k { seq := seq % 2 ^ 32, type := r.type, status := stNotOwner, payload := [] }
    else s.hear k
  | some S =>
    let s1 := s.hear k
    let d := sub32 seq S.next
    if S.ahead.any fun e => e.seq == seq % 2 ^ 32 then s1
    else if d == 0 then s1.performNext k (seq % 2 ^ 32) s.ptp r
    else if d < 2 ^ 31 && S.ahead.length < 64 then
      s1.modSession k fun S => { S with ahead := S.ahead ++ [{ seq := seq % 2 ^ 32, at_ := s.ptp, req := r }] }
    else
      match S.kept.find? fun e => e.seq == seq % 2 ^ 32 with
      | some e => s1.sendReply k e
      | none => s1

/-- A request arrives. -/
def State.receive (s : State) (k seq : Nat) (r : HostReq) : State := s.arrive fun t => t.takeRequest k seq r

/-! ## HELLO (R438, R440, R442, R453) -/

/-- The digests of the installed images, each once: the five default ones, then those of contexts, with their kinds. -/
def State.installed (s : State) : List (Nat × Nat) :=
  (((List.range 5).map fun k => (k, (Config.defaultImageDigest k).toNat)) ++
    s.ctxs.flatMap fun e => e.2.images.map fun i => (i.1, i.2)).eraseDups.take 128

/-- The attestation report (R453). -/
def State.report (s : State) (nonce : List Byte) : List Byte :=
  let l := s.installed
  let body := sliceBytes nonce 0 32 ++ leBytes 16 Config.serial.toNat ++ leBytes 48 Config.bootDigest.toNat ++
    leBytes 48 (s.host.firmware.getD Config.firmwareDigest).toNat ++ leBytes 4 Config.rollback.toNat ++
    leBytes 32 offered.toNat ++ leBytes 4 l.length ++ l.flatMap fun i => leBytes 4 i.1 ++ leBytes 48 i.2
  body ++ sliceBytes (Config.identitySign body) 0 96

/-- The credential holds no nonzero byte where R442 requires zero: its priority is 0-255, and its only right is power. -/
def credentialFits (cred : List Byte) : Bool := cred.length == 160 && byteField cred 0 4 ≤ 255 && byteField cred 4 4 < 2

/-- The credential is valid (R442). -/
def credentialOk (cred : List Byte) (ptp : Nat) : Bool :=
  credentialFits cred && ptp < byteField cred 8 8 &&
    Config.ecdsaVerify Config.authorityKey (cred.take 64) (cred.drop 64)

/-- The session that a HELLO opens. -/
def State.newSession (s : State) (seq : Nat) (cred : List Byte) : Session :=
  { priority := byteField cred 0 4, power := byteField cred 4 4 == 1, expiry := byteField cred 8 8,
    next := (seq + 1) % 2 ^ 32, ahead := [], kept := [], heard := s.ptp, claim := none, frozen := false }

/-- The reply to the HELLO that opens session `id` (R440). -/
def State.helloReply (s : State) (id seq : Nat) (nonce : List Byte) : Reply :=
  { seq := seq % 2 ^ 32, type := 1, status := stOk,
    payload := leBytes 4 id ++ leBytes 4 s.host.boot ++ leBytes 4 s.host.eventNum ++ s.report nonce }

/-- A HELLO whose payload does not fit receives INVALID; one with a valid credential opens a session and is answered, as a
reply to session 0; any other is not answered (log entry 61). -/
def State.hello (s : State) (seq : Nat) (cred nonce : List Byte) : State :=
  let quiet := s.modHost fun h => { h with sent := [] }
  if !credentialFits cred || nonce.length != 32 then
    quiet.sendReply 0 { seq := seq % 2 ^ 32, type := 1, status := stInvalid, payload := [] }
  else if !credentialOk cred s.ptp then quiet
  else
    let id := s.host.nextSess
    s.modHost fun h =>
      { h with sessions := tset h.sessions id (s.newSession seq cred), nextSess := id + 1, sent := [(0, s.helloReply id seq nonce)] }

/-- HELLO. -/
def execHello (seq : Nat) (cred nonce : List (BitVec 8)) (s : State) : Out := .next (s.arrive fun t => t.hello seq cred nonce)

/-! ## The rows of requests -/

/-- FEATURE_READ. -/
def execFeatureRead (sess seq : Nat) (s : State) : Out := .next (s.receive sess seq .featureRead)
/-- FEATURE_ACCEPT. -/
def execFeatureAccept (sess seq ctx : Nat) (feats : BitVec 256) (s : State) : Out :=
  .next (s.receive sess seq (.featureAccept ctx feats))
/-- CLAIM. -/
def execClaim (sess seq : Nat) (s : State) : Out := .next (s.receive sess seq .claim)
/-- HANDOVER. -/
def execHandover (sess seq to_ : Nat) (s : State) : Out := .next (s.receive sess seq (.handover to_))
/-- LEASE. -/
def execLease (sess seq : Nat) (s : State) : Out := .next (s.receive sess seq .lease)
/-- READ. -/
def execRead (sess seq space ctx addr len : Nat) (s : State) : Out := .next (s.receive sess seq (.read space ctx addr len))
/-- WRITE. -/
def execWrite (sess seq space ctx addr : Nat) (data : List (BitVec 8)) (s : State) : Out :=
  .next (s.receive sess seq (.write space ctx addr data))
/-- SUBMIT. -/
def execSubmit (sess seq ctx q : Nat) (blocks : List (List (BitVec 8))) (s : State) : Out :=
  .next (s.receive sess seq (.submit ctx q blocks))
/-- POWER. -/
def execPower (sess seq : Nat) (payload : List (BitVec 8)) (s : State) : Out := .next (s.receive sess seq (.power payload))

/-- A WRITE of the command block (R447). -/
def State.sendCommand (s : State) (sess seq ctx op : Nat) (args : List Byte) : State :=
  s.receive sess seq (.write 1 ctx 0x200 (commandBytes op args))

/-- CREATE. -/
def execCreate (sess seq ctx : Nat) (feats : BitVec 256) (s : State) : Out :=
  .next (s.sendCommand sess seq ctx 1 (leBytes 32 feats.toNat))
/-- REQUEST_PREEMPTION: command 2, or, with session 0, a request by the policy of Agate (R259). -/
def execRequestPreemption (sess seq ctx : Nat) (s : State) : Out :=
  .next (if sess == 0 then (if (s.ctx ctx).st == .active then s.preempt ctx else s) else s.sendCommand sess seq ctx 2 [])
/-- WITHDRAW. -/
def execWithdraw (sess seq ctx : Nat) (s : State) : Out := .next (s.sendCommand sess seq ctx 3 [])
/-- RESUME. -/
def execResume (sess seq ctx : Nat) (s : State) : Out := .next (s.sendCommand sess seq ctx 4 [])
/-- THAW. -/
def execThaw (sess seq ctx : Nat) (s : State) : Out := .next (s.sendCommand sess seq ctx 5 [])
/-- RESET. -/
def execReset (sess seq ctx : Nat) (s : State) : Out := .next (s.sendCommand sess seq ctx 6 [])
/-- CLEAR. -/
def execClear (sess seq ctx : Nat) (s : State) : Out := .next (s.sendCommand sess seq ctx 7 [])
/-- INVALIDATE. -/
def execInvalidate (sess seq ctx va len : Nat) (s : State) : Out :=
  .next (s.sendCommand sess seq ctx 8 (leBytes 8 va ++ leBytes 8 len))
/-- EVICT_BLOCK. -/
def execEvictBlock (sess seq ctx va : Nat) (s : State) : Out := .next (s.sendCommand sess seq ctx 9 (leBytes 8 va))
/-- FLUSH_REGION. -/
def execFlushRegion (sess seq ctx : Nat) (s : State) : Out := .next (s.sendCommand sess seq ctx 10 [])
/-- TEAR_DOWN. -/
def execTearDown (sess seq ctx : Nat) (s : State) : Out := .next (s.sendCommand sess seq ctx 11 [])
/-- RETRY_FAULT. -/
def execRetryFault (sess seq ctx token : Nat) (s : State) : Out := .next (s.sendCommand sess seq ctx 12 (leBytes 8 token))
/-- DECLARE_UNRESOLVABLE. -/
def execDeclareUnresolvable (sess seq ctx token : Nat) (s : State) : Out :=
  .next (s.sendCommand sess seq ctx 13 (leBytes 8 token))

/-- A WRITE of bytes at an offset of a block of a context's control space. -/
def State.sendBlock (s : State) (sess seq ctx base off : Nat) (data : List Byte) : State :=
  s.receive sess seq (.write 1 ctx (base + off) data)

/-- TRAP_CONTROL_WRITE. -/
def execTrapControlWrite (sess seq ctx off : Nat) (data : List (BitVec 8)) (s : State) : Out :=
  .next (s.sendBlock sess seq ctx 0x000 off data)
/-- TRANSLATION_BLOCK_WRITE. -/
def execTranslationBlockWrite (sess seq ctx off : Nat) (data : List (BitVec 8)) (s : State) : Out :=
  .next (s.sendBlock sess seq ctx 0x040 off data)
/-- SAMPLE_BLOCK_WRITE. -/
def execSampleBlockWrite (sess seq ctx off : Nat) (data : List (BitVec 8)) (s : State) : Out :=
  .next (s.sendBlock sess seq ctx 0x060 off data)
/-- TRACE_CONTROL_WRITE. -/
def execTraceControlWrite (sess seq ctx off : Nat) (data : List (BitVec 8)) (s : State) : Out :=
  .next (s.sendBlock sess seq ctx 0x080 off data)
/-- NAME_CONTROL_WRITE. -/
def execNameControlWrite (sess seq ctx off : Nat) (data : List (BitVec 8)) (s : State) : Out :=
  .next (s.sendBlock sess seq ctx 0x0C0 off data)
/-- TELEMETRY_CONTROL_WRITE. -/
def execTelemetryControlWrite (sess seq ctx off : Nat) (data : List (BitVec 8)) (s : State) : Out :=
  .next (s.sendBlock sess seq ctx 0x100 off data)
/-- CONTEXT_TABLES_WRITE. -/
def execContextTablesWrite (sess seq ctx off : Nat) (data : List (BitVec 8)) (s : State) : Out :=
  .next (s.sendBlock sess seq ctx 0x180 off data)
/-- ERROR_LOG_CONTROL_WRITE. -/
def execErrorLogControlWrite (sess seq ctx off : Nat) (data : List (BitVec 8)) (s : State) : Out :=
  .next (s.sendBlock sess seq ctx 0x240 off data)

/-- A WRITE of the device control space. -/
def State.sendDevice (s : State) (sess seq addr : Nat) (data : List Byte) : State :=
  s.receive sess seq (.write 2 0 addr data)

/-- SESSION_THAW. -/
def execSessionThaw (sess seq target : Nat) (s : State) : Out :=
  .next (s.sendDevice sess seq 0x080 (leBytes 4 1 ++ leBytes 4 target))
/-- SAMPLING_CONTROL_WRITE. -/
def execSamplingControlWrite (sess seq core : Nat) (v : BitVec 32) (s : State) : Out :=
  .next (s.sendDevice sess seq (0x100 + 4 * core) (leBytes 4 v.toNat))
/-- TILE_STORE_SIZE_WRITE. -/
def execTileStoreSizeWrite (sess seq mib : Nat) (s : State) : Out := .next (s.sendDevice sess seq 0x000 (leBytes 4 mib))
/-- PACKAGE_ID_WRITE. -/
def execPackageIdWrite (sess seq : Nat) (id : BitVec 32) (s : State) : Out :=
  .next (s.sendDevice sess seq 0x008 (leBytes 4 id.toNat))
/-- POWER_FLOOR_WRITE. -/
def execPowerFloorWrite (sess seq watts : Nat) (s : State) : Out := .next (s.sendDevice sess seq 0x004 (leBytes 4 watts))
/-- FIRMWARE_IMAGE_WRITE. -/
def execFirmwareImageWrite (sess seq addr : Nat) (data : List (BitVec 8)) (s : State) : Out :=
  .next (s.receive sess seq (.write 3 0 addr data))
/-- FIRMWARE_VERIFY. -/
def execFirmwareVerify (sess seq addr : Nat) (s : State) : Out := .next (s.receive sess seq (.write 3 0 addr []))

/-! ## Events (R441, R449) -/

/-- The host acknowledges an event of the session. -/
def State.takeAck (s : State) (sess num : Nat) : State :=
  (s.hear sess).modHost fun h => { h with events := h.events.filter fun e => !(e.num == num && e.session == sess) }

/-- EVENT_ACK. -/
def execEventAck (sess num : Nat) (s : State) : Out := .next (s.arrive fun t => t.takeAck sess num)

/-- An unacknowledged event is to be sent again, or given up after 50 times. -/
def State.resendDue (s : State) (num : Nat) : Bool :=
  s.host.events.any fun e => e.num == num && e.sent + resendCycles ≤ s.now

/-- Sending an event again: once sent 51 times it is given up. -/
def EventRec.resent (e : EventRec) (now : Nat) : List EventRec :=
  if 51 ≤ e.times then [] else [{ e with sent := now, times := e.times + 1 }]

/-- EVENT_RESEND. -/
def execEventResend (num : Nat) (s : State) : Out :=
  .next (
    if s.resendDue num then
      s.modHost fun h => { h with events := h.events.flatMap fun e =>
        if e.num == num && e.sent + resendCycles ≤ s.now then e.resent s.now else [e] }
    else s)

/-! ## The port (R436) -/

/-- FRAME_DISCARD: the frame is dropped and counted. -/
def execFrameDiscard (s : State) : Out := .next s.discardFrame

/-- MACSEC_KEY_AGREEMENT: a key that frames are checked with. -/
def execMacsecKeyAgreement (key : BitVec 384) (s : State) : Out :=
  .next (s.modHost fun h => if h.keys.contains key then h else { h with keys := h.keys ++ [key] })

/-! ## Messages (R437, R440) -/

/-- The request that a message of a type makes by its payload; `malformed` where the type names none, or the payload does
not fit it (R439, R440). -/
def parseRequest (type : Nat) (p : List Byte) : HostReq :=
  let w (o : Nat) : Nat := byteField p o 4
  let n := p.length
  if type == 2 && n == 0 then .featureRead
  else if type == 2 && n == 36 then .featureAccept (w 0) (BitVec.ofNat 256 (byteField p 4 32))
  else if type == 3 && n == 0 then .claim
  else if type == 4 && n == 4 then .handover (w 0)
  else if type == 5 && n == 0 then .lease
  else if type == 6 && n == 20 then .read (w 0) (w 4) (byteField p 8 8) (w 16)
  else if type == 7 && 20 ≤ n && w 16 == n - 20 then .write (w 0) (w 4) (byteField p 8 8) (p.drop 20)
  else if type == 8 && 12 ≤ n && n == 12 + 256 * w 8 then
    .submit (w 0) (w 4) ((List.range (w 8)).map fun i => sliceBytes p (12 + 256 * i) 256)
  else if type == 10 && n == 16 then .power p
  else .malformed type

/-- The greatest payload of a message. -/
def payloadMax : Nat := 8224

/-- A message (R437): one of another version is discarded, and so is one too short to hold a header (log entry 61). A nonzero
status, a length that is not that of the payload and a reserved type make a request malformed. -/
def State.message (s : State) (m : List Byte) : State :=
  let p := m.drop 16
  let type := byteField m 1 1
  let k := byteField m 4 4
  let seq := byteField m 8 4
  let fits := byteField m 2 2 == 0 && byteField m 12 4 == p.length && p.length ≤ payloadMax
  if m.length < 16 || byteField m 0 1 != 1 then s
  else if type == 1 then
    (if fits && k == 0 && p.length == 192 then s.hello seq (p.take 160) (p.drop 160) else s.hello seq [] [])
  else if type == 9 then (if fits && p.isEmpty then s.takeAck k seq else s)
  else s.takeRequest k seq (if fits then parseRequest type p else .malformed type)

/-- A frame arrives at the host port (R436): one that is not protected under an agreed key, or fails its check, is discarded
and counted; the message that it carries is taken. -/
def State.takeFrame (s : State) (f : List Byte) : State :=
  if !s.host.portUp then s
  else if !Config.macsecOk s.host.keys f then s.discardFrame
  else
    match Config.frameMessage f with
    | some m => s.message m
    | none => s

/-! ## Requests that have a place of their own in a cycle (R239, R261) -/

/-- The op of a command that a request gives (R447). -/
def HostReq.commandOp : HostReq → Option Nat
  | .write space _ addr data => if space == 1 && addr == 0x200 && data.length == 64 then some (byteField data 0 4) else none
  | .featureRead => none
  | .featureAccept _ _ => none
  | .claim => none
  | .handover _ => none
  | .lease => none
  | .read _ _ _ _ => none
  | .submit _ _ _ => none
  | .power _ => none
  | .malformed _ => none

/-- The request resets a context or tears it down. -/
def HostReq.ends (r : HostReq) : Bool := r.commandOp == some 6 || r.commandOp == some 11

/-- The request asks for a pre-emption. -/
def HostReq.drains (r : HostReq) : Bool := r.commandOp == some 2

end Sys2Proof.Machine
end

