-- ==== Sys2Proof/Machine/Device.lean ====
section
/-!
DEFINITION. Reset of the device, the thermal trip, and the links of its ports (R290, 10_memory.md; R435, 22_power.md;
R441, R449, R451, R452, 23_host.md).
-/

namespace Sys2Proof.Machine

/-! ## Reset -/

/-- The capacity that a CXL port maps at most, which is its window (R276, R289). -/
def cxlSpan : Nat := 2 ^ 49

/-- The range of the window of H-die `h` in which Agate places the capacity of the port's devices (R289). -/
def cxlRange (h n : Nat) : Nat × Nat :=
  let m := min n cxlSpan / 4096 * 4096
  (0x4000000000000 + h * cxlSpan + Config.cxlPlace h % ((cxlSpan - m) / 4096 + 1) * 4096, m)

/-- Agate enumerates the CXL ports at boot, programs their decoders and publishes the ranges (R289). -/
def State.enumerate (s : State) : State :=
  { s with cxl := ((List.range 2).filter fun h => 4096 ≤ (s.hdie h).devices).map fun h => cxlRange h (s.hdie h).devices }

/-- The machine after a reset, with what is not the device's own: the steps that come from outside, the choices of order,
the count of free values, and the memory devices behind the CXL ports. -/
def State.afterReset (s : State) : State :=
  { State.reset with
    inbox := s.inbox.map fun e => (e.1 - s.now, e.2)
    sched := s.sched
    delays := s.delays
    stays := s.stays
    backs := s.backs
    fresh := s.fresh
    hdies := s.hdies.map fun e => (e.1, { HDie.start with devices := e.2.devices }) }

/-- DEVICE_RESET: the boot ROM verifies the image; without a valid one Agate stays in recovery (R452). The boot enumerates
the CXL ports (R289). -/
def execDeviceReset (image : List (BitVec 8)) (s : State) : Out :=
  let b := bootStatus image
  .next (s.afterReset.enumerate.modHost fun h =>
    { h with boot := b, firmware := if b == 0 then some (Config.sha384 image) else none })

/-- THERMAL_TRIP: the device enters reset with every context Lost (R435), and boots again. -/
def execThermalTrip (s : State) : Out :=
  let t : State := s.afterReset.enumerate.modHost fun h => { h with boot := s.host.boot, firmware := s.host.firmware }
  .next { t with ctxs := (List.range 4096).map fun x => (x, { Ctx.start with st := .lost }) }

/-! ## Links -/

/-- A LINK event: the port, its state (0 down, 1 up, 2 retrain complete) and the retrain time (R441). -/
def State.linkEvent (s : State) (port st ns : Nat) : State :=
  s.event 7 noCtx (leBytes 2 port ++ leBytes 2 st ++ leBytes 4 ns)

/-- A fabric port is up. -/
def State.fabricUp (s : State) (port : Nat) : Bool := tget s.host.ports port true

/-- The state with a fabric port up or down. -/
def State.setFabric (s : State) (port : Nat) (up : Bool) : State :=
  s.modHost fun h => { h with ports := tput h.ports port up true }

/-- LINK_LOSS: a fabric port that is up goes down. -/
def execLinkLoss (port : Nat) (s : State) : Out :=
  .next (if port < 96 && s.fabricUp port then (s.setFabric port false).linkEvent port 0 0 else s)

/-- LINK_RETRAIN_DONE: a fabric port, or the CXL port 0x100 + h, that is down comes up; the retrain and the port up are
reported (R451). -/
def execLinkRetrainDone (port ns : Nat) (s : State) : Out :=
  .next (
    if port < 96 then (if s.fabricUp port then s else ((s.setFabric port true).linkEvent port 2 ns).linkEvent port 1 0)
    else if (port == 0x100 || port == 0x101) && !(s.hdie (port - 0x100)).cxlUp then
      (s.modHdie (port - 0x100) fun D => { D with cxlUp := true }).linkEvent port 2 ns |>.linkEvent port 1 0
    else s)

/-- CXL_LINK_DOWN: from now on the port ends each request at once; the model holds no request to a port that is up beyond
the step that makes it. -/
def execCxlLinkDown (hdie : Nat) (s : State) : Out :=
  .next (if hdie < 2 && (s.hdie hdie).cxlUp then
    (s.modHdie hdie fun D => { D with cxlUp := false }).linkEvent (0x100 + hdie) 0 0 else s)

/-- HOST_PORT_LINK_CHANGE. -/
def execHostPortLinkChange (up : Bool) (ns : Nat) (s : State) : Out :=
  .next (if s.host.portUp == up then s
    else (s.modHost fun h => { h with portUp := up }).linkEvent 0x200 (b2n up) (if up then ns else 0))

end Sys2Proof.Machine
end

