-- ==== Sys2Proof/Machine/Quant.lean ====
section
/-!
DEFINITION. Conversions between number formats and the shared-exponent block formats (R102-R110, 02_control_arith.md).
-/

namespace Sys2Proof.Machine

/-! ## Integer and float conversions -/

/-- The width of an integer code and whether it is signed (R35). -/
def intSigned (k : Nat) : Bool := k % 2 == 0

/-- The value of an integer operand. -/
def intValue (k w v : Nat) : Int := if intSigned k then sext w v else (v % 2 ^ w : Nat)

/-- The range of an integer code. -/
def intRange (k w : Nat) : Int × Int :=
  if intSigned k then (-(2 ^ (w - 1) : Nat), (2 ^ (w - 1) : Nat) - 1) else (0, (2 ^ w : Nat) - 1)

/-- CVTF: an integer to a float (R103). -/
def cvtfVal (E : FEnv) (f : Fmt) (x : Int) : Nat × Nat := f.ofInt E.mode E.ftz false x 0

/-- CVTI: a float to an integer of code `k` and width `w` (R104). -/
def cvtiVal (E : FEnv) (f : Fmt) (k w v : Nat) : Nat × Nat :=
  let (lo, hi) := intRange k w
  let enc (x : Int) : Nat := (x % (2 ^ w : Nat)).toNat
  match f.decode E.daz v with
  | .nan _ => (0, fNV)
  | .inf n => (enc (if n then lo else hi), fNV ||| fSAT)
  | .fin n m e =>
    let (r, inexact) := roundInt E.mode n m e
    let x : Int := if n then -(r : Int) else r
    if x < lo then (enc lo, fNV ||| fSAT)
    else if hi < x then (enc hi, fNV ||| fSAT)
    else (enc x, flagIf inexact fNX)

/-- CVTN: a float to a float (R105). -/
def cvtnVal (E : FEnv) (f g : Fmt) (v : Nat) : Nat × Nat :=
  let x := f.decode E.daz v
  let r := g.ofNum E.mode E.ftz x
  (r.1, r.2 ||| snanFlag [x])

/-! ## Block formats -/

/-- Floor(Log2 |x|) of a finite nonzero value. -/
def Num.expo : Num → Option Int
  | .fin _ m e => if m == 0 then none else some (e + Nat.log2 m)
  | _ => none

/-- The greatest exponent of a block's values: that of amax; none for a block of zeros. -/
def maxExpo (xs : List Num) : Option Int :=
  xs.foldl (fun a x =>
    match a, x.expo with
    | none, e => e
    | some a, some e => some (max a e)
    | some a, none => some a) none

/-- A block holds a NaN or an infinity. -/
def badBlock (xs : List Num) : Bool := xs.any fun x => x.isNan || x.isInf

/-- NV of a bad block: a signalling NaN or an infinity (R107). -/
def badFlag (xs : List Num) : Nat := flagIf (xs.any fun x => x.isSnan || x.isInf) fNV

/-- A shared exponent clamped to a byte's defined values. -/
def clampExp (x : Int) : Nat := (max 0 (min x 254)).toNat

/-- A value as a multiple of 2^q, rounded and clamped to m bits: the mantissa and the flags SAT, ALOSS and NX
(R107). -/
def quantElem (mode : Mode) (m : Nat) (q : Int) (x : Num) : Int × Nat :=
  match x with
  | .fin n k e =>
    let (r, inexact) := quantise mode n k e q false
    let t : Int := if n then -(r : Int) else r
    let hi : Int := (2 ^ (m - 1) : Nat) - 1
    let lo : Int := -(2 ^ (m - 1) : Nat)
    let u := if hi < t then hi else if t < lo then lo else t
    (u, flagIf (u != t) fSAT ||| flagIf (u == 0 && k != 0) fALOSS ||| flagIf (inexact || u != t) fNX)
  | _ => (0, 0)

/-- QNT into KBF with mantissas of `m` bits (R107): the shared exponent byte, the mantissas and the flags. -/
def quantBlock (mode : Mode) (m : Nat) (xs : List Num) : Nat × List Int × Nat :=
  if badBlock xs then (0xFF, xs.map fun _ => 0, badFlag xs)
  else
    let ex : Nat := match maxExpo xs with
      | none => 0
      | some e => clampExp (e + 127)
    let q : Int := (ex : Int) - 127 - (m - 2 : Int)
    let rs := xs.map (quantElem mode m q)
    (ex, rs.map (·.1), rs.foldl (fun a r => a ||| r.2) 0)

/-- The element formats of MX (R108). -/
def mxFmt : Nat → Fmt
  | 0 => e4m3
  | 1 => e5m2
  | 2 => e3m2
  | 3 => e2m3
  | _ => e2m1

/-- The largest exponent of an element format. -/
def Fmt.emax (f : Fmt) : Int := (f.topExp : Int) - f.bias

/-- One MX element: the encoding and the flags SAT, ALOSS and NX (R108). -/
def mxElem (mode : Mode) (f : Fmt) (scale : Nat) (x : Num) : Nat × Nat :=
  match x with
  | .fin n k e =>
    let r := f.round mode false n k (e + 127 - scale) false
    let zero := r.1 % 2 ^ (f.ew + f.mw) == 0
    (r.1, (r.2 &&& (fSAT ||| fNX)) ||| flagIf (zero && k != 0) fALOSS)
  | _ => (0, 0)

/-- QNT into an MX format (R108). -/
def mxBlock (mode : Mode) (f : Fmt) (xs : List Num) : Nat × List Nat × Nat :=
  if badBlock xs then (0xFF, xs.map fun _ => 0, badFlag xs)
  else
    let scale : Nat := match maxExpo xs with
      | none => 0
      | some e => clampExp (e - f.emax + 127)
    let rs := xs.map (mxElem mode f scale)
    (scale, rs.map (·.1), rs.foldl (fun a r => a ||| r.2) 0)

/-- A block of a format code of R35 (bits [1:0] the size code, bits [4:2] the rest): the shared byte, the low eight
bits of each element, and the flags. -/
def qntBlock (mode : Mode) (fmt : Nat) (xs : List Num) : Nat × List Nat × Nat :=
  if fmt % 4 == 3 then mxBlock mode (mxFmt (fmt / 4)) xs
  else
    let r := quantBlock mode (fmt / 4 + 2) xs
    (r.1, r.2.1.map fun t => (t % 256).toNat, r.2.2)

/-- DQNT of one block register (R109). A KBF element M = -2^(m-1) with E = 254 has the value -2^128, which is no FP32 value;
the spec states no result for it, and the model rounds it as any value beyond the range (R92; DESIGN CHOICE, log
entry 84). -/
def dqntVal (E : FEnv) (fmt v : Nat) : Nat × Nat :=
  let el := v % 256
  let ex := bits v 8 8
  if ex == 0xFF then (fp32.nan, 0)
  else if fmt % 4 == 3 then
    match (mxFmt (fmt / 4)).decode false (el % 2 ^ (mxFmt (fmt / 4)).width) with
    | .nan _ => (fp32.nan, 0)
    | .inf n => (fp32.inf n, 0)
    | .fin n m e => fp32.round E.mode E.ftz n m (e + ex - 127) false
  else
    let m := fmt / 4 + 2
    fp32.ofInt E.mode E.ftz false (sext m el) ((ex : Int) - 127 - (m - 2 : Int))

end Sys2Proof.Machine
end

