-- ==== Sys2Proof/Machine/Trans.lean ====
section
/-!
DEFINITION. The correctly rounded functions of FP32 (R100, R101, 02_control_arith.md): FRCP, FRSQ, FSQRT, FEXP2, FLOG2,
FSIN and FCOS.

Square roots and quotients are exact integers with a remainder. For the transcendental functions the value is bounded
in fixed point at 2^-720, far finer than any result of an FP32 argument can lie beside a rounding boundary (log entry
13); the arguments with an exact result are taken apart before.
-/

namespace Sys2Proof.Machine

/-! ## Square roots -/

/-- One digit of the integer square root: `r` grows by 2^k when its square still fits. -/
def sqrtStep (x : Nat) (r k : Nat) : Nat := if (r + 2 ^ k) * (r + 2 ^ k) ≤ x then r + 2 ^ k else r

/-- The largest natural whose square is at most `x`, for roots below 2^k. -/
def isqrt (x : Nat) : Nat → Nat → Nat
  | 0, r => r
  | k + 1, r => isqrt x k (sqrtStep x r k)

/-- The integer square root. -/
def natSqrt (x : Nat) : Nat := isqrt x (Nat.log2 x / 2 + 1) 0

/-- Round(√(m * 2^e)), m not zero. -/
def sqrtRound (E : FEnv) (m : Nat) (e : Int) : Nat × Nat :=
  let e1 := if e % 2 == 0 then e else e - 1
  let m1 := if e % 2 == 0 then m else 2 * m
  let x := m1 * 2 ^ 128
  let r := natSqrt x
  fp32.round E.mode E.ftz false r (e1 / 2 - 64) (r * r != x)

/-- Round(1/√(m * 2^e)), m not zero. -/
def rsqrtRound (E : FEnv) (m : Nat) (e : Int) : Nat × Nat :=
  let e1 := if e % 2 == 0 then e else e - 1
  let m1 := if e % 2 == 0 then m else 2 * m
  let r := natSqrt (2 ^ 256 / m1)
  fp32.round E.mode E.ftz false r (-(e1 / 2) - 128) (r * r * m1 != 2 ^ 256)

/-! ## Fixed point -/

/-- Fraction bits of the fixed point. -/
def fxBits : Nat := 720

/-- 1 in fixed point. -/
def fxOne : Int := 2 ^ 720

/-- A product in fixed point. -/
def fxMul (a b : Int) : Int := a * b / fxOne

/-- m * 2^e in fixed point, rounded down. -/
def fxOf (neg : Bool) (m : Nat) (e : Int) : Int :=
  let x : Int := if 0 ≤ e + fxBits then (m * 2 ^ (e + fxBits).toNat : Nat) else (m / 2 ^ (-(e + fxBits)).toNat : Nat)
  if neg then -x else x

/-- The sum of `t + t·y/(d(d+1)) + ...`: each term is the last times `y` over the next two numbers, alternating when
`y` is negative. -/
def seriesFact (y : Int) : Nat → Nat → Int → Int → Int
  | 0, _, _, acc => acc
  | n + 1, d, t, acc =>
    let t' := fxMul t y / (d * (d + 1) : Nat)
    seriesFact y n (d + 2) t' (acc + t')

/-- The sum of `t/1 + t·y/3 + t·y²/5 + ...`, from the odd number `d` on. -/
def seriesOdd (y : Int) : Nat → Nat → Int → Int → Int
  | 0, _, _, acc => acc
  | n + 1, d, t, acc => seriesOdd y n (d + 2) (fxMul t y) (acc + t / (d : Nat))

/-- The sum of `t + t·y/1 + t·y²/2 + ...`: the exponential series from its first term on. -/
def seriesExp (y : Int) : Nat → Nat → Int → Int → Int
  | 0, _, _, acc => acc
  | n + 1, d, t, acc =>
    let t' := fxMul t y / (d : Nat)
    seriesExp y n (d + 1) t' (acc + t')

/-- 2·atanh(p/q) in fixed point, for p/q at most 1/3. -/
def fxAtanh2 (x : Int) : Int := 2 * seriesOdd (fxMul x x) 240 1 x 0

/-- The natural logarithm of 2. -/
def fxLn2 : Int := fxAtanh2 (fxOne / 3)

/-- Fraction bits of the fixed point in which π is taken, which serves arguments up to 2^128. -/
def piBits : Nat := 900

/-- atan(1/k) at 2^-900: the sum of (-1)^i / ((2i+1) k^(2i+1)). -/
def atanInv (k : Nat) : Nat → Nat → Nat → Bool → Int → Int
  | 0, _, _, _, acc => acc
  | n + 1, d, t, plus, acc =>
    atanInv k n (d + 2) (t / (k * k)) (!plus) (if plus then acc + (t / d : Nat) else acc - (t / d : Nat))

/-- π at 2^-900, by Machin's formula π/4 = 4·atan(1/5) - atan(1/239). -/
def piFx : Int := 4 * (4 * atanInv 5 200 1 (2 ^ 900 / 5) true 0 - atanInv 239 60 1 (2 ^ 900 / 239) true 0)

/-- Rounding a value bounded in fixed point, never exact: its last 60 bits hold the error of the bound. -/
def fxRound (E : FEnv) (v : Int) : Nat × Nat :=
  fp32.round E.mode E.ftz (v < 0) (v.natAbs / 2 ^ 60) (60 - fxBits) true

/-! ## The functions -/

/-- 2^f in fixed point, for a fraction 0 ≤ f < 1. -/
def fxExp2 (f : Int) : Int := seriesExp (fxMul f fxLn2) 180 1 fxOne fxOne

/-- FEXP2 of a finite value. -/
def exp2Round (E : FEnv) (n : Bool) (m : Nat) (e : Int) : Nat × Nat :=
  -- beyond these bounds every result overflows or lies below half the smallest subnormal
  let big := 0 < m && 9 ≤ e + Nat.log2 m
  if m == 0 then (0x3F800000, 0)
  else if big then
    fp32.round E.mode E.ftz false 4 (if n then -500 else 500) (!(0 ≤ e || m % 2 ^ (-e).toNat == 0))
  else
    let x := fxOf n m e
    let k := x / fxOne
    let f := x % fxOne
    if (0 ≤ e || m % 2 ^ (-e).toNat == 0) then fp32.round E.mode E.ftz false 1 k false
    else fp32.round E.mode E.ftz false ((fxExp2 f).natAbs / 2 ^ 60) (k + 60 - fxBits) true

/-- log2 of f in fixed point, for 1 ≤ f < 2. -/
def fxLog2 (f : Int) : Int := fxAtanh2 ((f - fxOne) * fxOne / (f + fxOne)) * fxOne / fxLn2

/-- FLOG2 of a positive finite value. -/
def log2Round (E : FEnv) (m : Nat) (e : Int) : Nat × Nat :=
  let k := Nat.log2 m
  let top := e + k
  if m == 2 ^ k then fp32.ofInt E.mode E.ftz false top 0
  else fxRound E (top * fxOne + fxLog2 (fxOf false m (-(k : Int))))

/-- sin r in fixed point. -/
def fxSin (r : Int) : Int := seriesFact (-(fxMul r r)) 90 2 r r

/-- cos r in fixed point. -/
def fxCos (r : Int) : Int := seriesFact (-(fxMul r r)) 90 1 fxOne fxOne

/-- sin (or cos) of m * 2^e, m not zero, with the exact reduction by π/2. -/
def sinRound (E : FEnv) (cosine n : Bool) (m : Nat) (e : Int) : Nat × Nat :=
  let x : Int := if 0 ≤ e + piBits then (m * 2 ^ (e + piBits).toNat : Nat) else 0
  let half := piFx / 2
  let k := (x + half / 2) / half
  let r := (x - k * half) / 2 ^ (piBits - fxBits)
  let q := (k + (if cosine then 1 else 0)) % 4
  let v := if q == 0 then fxSin r else if q == 1 then fxCos r else if q == 2 then -(fxSin r) else -(fxCos r)
  fxRound E (if n && !cosine then -v else v)

/-- The unary float operations of major 0x22 (R34). -/
inductive UnFn where
  | rcp
  | rsq
  | sqrt
  | exp2
  | log2
  | sin
  | cos
deriving DecidableEq, Repr

/-- A unary operation with its special inputs (R101). -/
def unaryFn (E : FEnv) (o : UnFn) (a : Nat) : Nat × Nat :=
  match E.input fp32 0 a with
  | .nan s => (fp32.nan, flagIf s fNV)
  | .inf n =>
    match o with
    | .rcp => (fp32.signBit n, 0)
    | .rsq => if n then (fp32.nan, fNV) else (0, 0)
    | .sqrt => if n then (fp32.nan, fNV) else (fp32.inf false, 0)
    | .exp2 => if n then (0, 0) else (fp32.inf false, 0)
    | .log2 => if n then (fp32.nan, fNV) else (fp32.inf false, 0)
    | .sin => (fp32.nan, fNV)
    | .cos => (fp32.nan, fNV)
  | .fin n m e =>
    if m == 0 then
      match o with
      | .rcp => (fp32.inf n, fDZ)
      | .rsq => (fp32.inf n, fDZ)
      | .sqrt => (fp32.signBit n, 0)
      | .exp2 => (0x3F800000, 0)
      | .log2 => (fp32.inf true, fDZ)
      | .sin => (fp32.signBit n, 0)
      | .cos => (0x3F800000, 0)
    else
      match o with
      | .rcp => fp32.ofRatio E.mode E.ftz n 1 m (-e)
      | .rsq => if n then (fp32.nan, fNV) else rsqrtRound E m e
      | .sqrt => if n then (fp32.nan, fNV) else sqrtRound E m e
      | .exp2 => exp2Round E n m e
      | .log2 => if n then (fp32.nan, fNV) else log2Round E m e
      | .sin => sinRound E false n m e
      | .cos => sinRound E true n m e

end Sys2Proof.Machine
end

