-- ==== Sys2Proof/Machine/Scalar.lean ====
section
/-!
DEFINITION. The scalar integer instructions (R82-R84, 02_control_arith.md): performed once per issue on the group's
scalar file, latency 4 (R17, R53). A PRED hint does not apply to them (R23).
-/

namespace Sys2Proof.Machine

/-- Left shift by up to 255 (R83). -/
def shl (a : Word) (n : Nat) : Word := if 32 ≤ n then 0 else a <<< n

/-- Right shift with zeros in (R83). -/
def shr (a : Word) (n : Nat) : Word := if 32 ≤ n then 0 else a >>> n

/-- Right shift that replicates bit 31 (R83). -/
def sra (a : Word) (n : Nat) : Word := if 32 ≤ n then (if a.msb then 0xFFFFFFFF else 0) else a.sshiftRight n

/-- The shift count of a register (R82, R83). -/
def shiftCount (b : Word) : Nat := b.toNat % 256

/-- The smaller of two words, signed. -/
def minS (a b : Word) : Word := if s32 a ≤ s32 b then a else b
/-- The smaller of two words, unsigned. -/
def minU (a b : Word) : Word := if a.toNat ≤ b.toNat then a else b
/-- The larger of two words, signed. -/
def maxS (a b : Word) : Word := if s32 a ≤ s32 b then b else a
/-- The larger of two words, unsigned. -/
def maxU (a b : Word) : Word := if a.toNat ≤ b.toNat then b else a

/-- The high half of the signed product. -/
def mulhS (a b : Word) : Word := high32 (s32 a * s32 b)
/-- The high half of the unsigned product. -/
def mulhU (a b : Word) : Word := word (a.toNat * b.toNat / 2 ^ 32)

/-- A scalar instruction with destination `d` and two sources: `f` receives s[a], s[b] and the old s[d]. -/
def scalar3 (i : Instr) (f : Word → Word → Word → Word) (d a b : BitVec 6) (c : BitVec 3) : State → Out :=
  issue { ins := i, c := c, ops := [os d, os a, os b], lat := some 4, pred := false }
    fun I s => .go s (scalarOut I [(.s d.toNat, f (I.R.s a.toNat) (I.R.s b.toNat) (I.R.s d.toNat))])

/-- SADD. -/
def execSadd (d a b : BitVec 6) (c : BitVec 3) : State → Out := scalar3 (.sadd d a b c) (fun x y _ => x + y) d a b c
/-- SSUB. -/
def execSsub (d a b : BitVec 6) (c : BitVec 3) : State → Out := scalar3 (.ssub d a b c) (fun x y _ => x - y) d a b c
/-- SMUL. -/
def execSmul (d a b : BitVec 6) (c : BitVec 3) : State → Out :=
  scalar3 (.smul d a b c) (fun x y _ => low32 (s32 x * s32 y)) d a b c
/-- SMULH. -/
def execSmulh (d a b : BitVec 6) (u : BitVec 1) (c : BitVec 3) : State → Out :=
  scalar3 (.smulh d a b u c) (fun x y _ => if u == 0 then mulhS x y else mulhU x y) d a b c
/-- SAND. -/
def execSand (d a b : BitVec 6) (c : BitVec 3) : State → Out := scalar3 (.sand d a b c) (fun x y _ => x &&& y) d a b c
/-- SOR. -/
def execSor (d a b : BitVec 6) (c : BitVec 3) : State → Out := scalar3 (.sor d a b c) (fun x y _ => x ||| y) d a b c
/-- SXOR. -/
def execSxor (d a b : BitVec 6) (c : BitVec 3) : State → Out := scalar3 (.sxor d a b c) (fun x y _ => x ^^^ y) d a b c
/-- SSHL. -/
def execSshl (d a b : BitVec 6) (c : BitVec 3) : State → Out :=
  scalar3 (.sshl d a b c) (fun x y _ => shl x (shiftCount y)) d a b c
/-- SSHR. -/
def execSshr (d a b : BitVec 6) (c : BitVec 3) : State → Out :=
  scalar3 (.sshr d a b c) (fun x y _ => shr x (shiftCount y)) d a b c
/-- SSRA. -/
def execSsra (d a b : BitVec 6) (c : BitVec 3) : State → Out :=
  scalar3 (.ssra d a b c) (fun x y _ => sra x (shiftCount y)) d a b c
/-- SMIN. -/
def execSmin (d a b : BitVec 6) (u : BitVec 1) (c : BitVec 3) : State → Out :=
  scalar3 (.smin d a b u c) (fun x y _ => if u == 0 then minS x y else minU x y) d a b c
/-- SMAX. -/
def execSmax (d a b : BitVec 6) (u : BitVec 1) (c : BitVec 3) : State → Out :=
  scalar3 (.smax d a b u c) (fun x y _ => if u == 0 then maxS x y else maxU x y) d a b c

/-- The conditions of SCMP (R36, R82). -/
def scmpCond (u : BitVec 2) (x y : Word) : Bool :=
  match u.toNat with
  | 0 => x == y
  | 1 => x != y
  | 2 => s32 x < s32 y
  | _ => x.toNat < y.toNat

/-- SCMP. -/
def execScmp (d a b : BitVec 6) (u : BitVec 2) (c : BitVec 3) : State → Out :=
  scalar3 (.scmp d a b u c) (fun x y _ => bword (scmpCond u x y)) d a b c
/-- SSEL: a if the old s[d] is not zero, else b. -/
def execSsel (d a b : BitVec 6) (c : BitVec 3) : State → Out :=
  scalar3 (.ssel d a b c) (fun x y o => if o != 0 then x else y) d a b c
/-- SLEA. -/
def execSlea (d a b : BitVec 6) (h : BitVec 2) (c : BitVec 3) : State → Out :=
  scalar3 (.slea d a b h c) (fun x y _ => x + (y <<< h.toNat)) d a b c

/-- A scalar instruction with one source. -/
def scalar2 (i : Instr) (imm : Bool) (f : Issue → Word → Word) (d a : BitVec 6) (c : BitVec 3) : State → Out :=
  issue { ins := i, c := c, ops := [os d, os a], lat := some 4, pred := false, imm := imm }
    fun I s => .go s (scalarOut I [(.s d.toNat, f I (I.R.s a.toNat))])

/-- SMOV. -/
def execSmov (d a : BitVec 6) (c : BitVec 3) : State → Out := scalar2 (.smov d a c) false (fun _ x => x) d a c

/-- The immediate of SADDI and SXORI: sign-extended, or the 32-bit value of an IMM hint (R22, R37, R84). -/
def imm11 (I : Issue) (v : BitVec 11) : Word :=
  match I.hv.imm with
  | some p => word (p * 512 + v.toNat % 512)
  | none => low32 (sext 11 v.toNat)

/-- An IMM hint applies to SADDI and SXORI only when imm11[10:9] is zero (R23). -/
def imm11Hint (v : BitVec 11) : Bool := v.toNat < 512

/-- SADDI. -/
def execSaddi (d a : BitVec 6) (im : BitVec 11) (c : BitVec 3) : State → Out :=
  scalar2 (.saddi d a im c) (imm11Hint im) (fun I x => x + imm11 I im) d a c
/-- SXORI. -/
def execSxori (d a : BitVec 6) (im : BitVec 11) (c : BitVec 3) : State → Out :=
  scalar2 (.sxori d a im c) (imm11Hint im) (fun I x => x ^^^ imm11 I im) d a c

end Sys2Proof.Machine
end

