-- ==== Sys2Proof/Machine/VecInt.lean ====
section
/-!
DEFINITION. The vector integer instructions (R85-R90, 02_control_arith.md): fibre by fibre, latency 4, but for VDIV and
VREM, whose latency is 12 (R17).
-/

namespace Sys2Proof.Machine

/-- The MOD hint's bit 6 is set. -/
def Issue.sat (I : Issue) : Bool := bit (I.hv.mods.getD 0) 6

/-- A fibre writes one vector register, with flags. -/
def vout (l : Nat) (d : BitVec 7) (r : Word × Nat) : LaneOut := { lane := l, writes := [(.v l d.toNat, r.1)], flags := r.2 }

/-- A vector instruction with two sources: `f` receives the issue, v[a], v[b] and the old v[d]. -/
def vec3 (i : Instr) (lat : Nat) (mods : Option Nat) (f : Issue → Word → Word → Word → Word × Nat)
    (d a b : BitVec 7) (c : BitVec 3) : State → Out :=
  issue { ins := i, c := c, ops := [ov d, ov a, ov b], lat := some lat, mods := mods }
    (eachLane fun I l => vout l d (f I (I.R.v l a.toNat) (I.R.v l b.toNat) (I.R.v l d.toNat)))

/-- A vector instruction of latency 4 without flags. -/
def vecPlain (i : Instr) (f : Word → Word → Word → Word) (d a b : BitVec 7) (c : BitVec 3) : State → Out :=
  vec3 i 4 none (fun _ x y o => (f x y o, 0)) d a b c

/-- VADD. -/
def execVadd (d a b : BitVec 7) (c : BitVec 3) : State → Out :=
  vec3 (.vadd d a b c) 4 (some 0x40) (fun I x y _ => wrapOrSat I.sat (s32 x + s32 y)) d a b c
/-- VSUB. -/
def execVsub (d a b : BitVec 7) (c : BitVec 3) : State → Out :=
  vec3 (.vsub d a b c) 4 (some 0x40) (fun I x y _ => wrapOrSat I.sat (s32 x - s32 y)) d a b c
/-- VMUL. -/
def execVmul (d a b : BitVec 7) (c : BitVec 3) : State → Out :=
  vecPlain (.vmul d a b c) (fun x y _ => low32 (s32 x * s32 y)) d a b c
/-- VMAD: the old v[d] is the accumulator. -/
def execVmad (d a b : BitVec 7) (c : BitVec 3) : State → Out :=
  vec3 (.vmad d a b c) 4 (some 0x40) (fun I x y o => wrapOrSat I.sat (s32 x * s32 y + s32 o)) d a b c
/-- VMULH.S. -/
def execVmulhS (d a b : BitVec 7) (c : BitVec 3) : State → Out :=
  vecPlain (.vmulhS d a b c) (fun x y _ => mulhS x y) d a b c
/-- VMULH.U. -/
def execVmulhU (d a b : BitVec 7) (c : BitVec 3) : State → Out :=
  vecPlain (.vmulhU d a b c) (fun x y _ => mulhU x y) d a b c

/-- VADDC: the carry comes from p30 and goes to p30, an implicit operand (R19, R33, R85). -/
def execVaddc (d a b : BitVec 7) (c : BitVec 3) : State → Out :=
  issue { ins := .vaddc d a b c, c := c, ops := [ov d, ov a, ov b, .p 30], lat := some 4 }
    (eachLane fun I l =>
      let t := (I.R.v l a.toNat).toNat + (I.R.v l b.toNat).toNat + b2n (I.R.p l 30)
      { lane := l, writes := [(.v l d.toNat, word t), wpred l 30 (carryOut t)] })

/-- VAND. -/
def execVand (d a b : BitVec 7) (c : BitVec 3) : State → Out := vecPlain (.vand d a b c) (fun x y _ => x &&& y) d a b c
/-- VOR. -/
def execVor (d a b : BitVec 7) (c : BitVec 3) : State → Out := vecPlain (.vor d a b c) (fun x y _ => x ||| y) d a b c
/-- VXOR. -/
def execVxor (d a b : BitVec 7) (c : BitVec 3) : State → Out := vecPlain (.vxor d a b c) (fun x y _ => x ^^^ y) d a b c
/-- VSHL. -/
def execVshl (d a b : BitVec 7) (c : BitVec 3) : State → Out :=
  vecPlain (.vshl d a b c) (fun x y _ => shl x (shiftCount y)) d a b c
/-- VSHR. -/
def execVshr (d a b : BitVec 7) (c : BitVec 3) : State → Out :=
  vecPlain (.vshr d a b c) (fun x y _ => shr x (shiftCount y)) d a b c
/-- VSRA. -/
def execVsra (d a b : BitVec 7) (c : BitVec 3) : State → Out :=
  vecPlain (.vsra d a b c) (fun x y _ => sra x (shiftCount y)) d a b c
/-- VMIN.S. -/
def execVminS (d a b : BitVec 7) (c : BitVec 3) : State → Out := vecPlain (.vminS d a b c) (fun x y _ => minS x y) d a b c
/-- VMIN.U. -/
def execVminU (d a b : BitVec 7) (c : BitVec 3) : State → Out := vecPlain (.vminU d a b c) (fun x y _ => minU x y) d a b c
/-- VMAX.S. -/
def execVmaxS (d a b : BitVec 7) (c : BitVec 3) : State → Out := vecPlain (.vmaxS d a b c) (fun x y _ => maxS x y) d a b c
/-- VMAX.U. -/
def execVmaxU (d a b : BitVec 7) (c : BitVec 3) : State → Out := vecPlain (.vmaxU d a b c) (fun x y _ => maxU x y) d a b c

/-- The position and the width of a bit field (R86). -/
def fieldPos (b : Word) : Nat := b.toNat % 32
/-- The width of the field, cut at bit 31. -/
def fieldWidth (b : Word) : Nat := min (min (bits b.toNat 8 6) 32) (32 - fieldPos b)

/-- The result of VBFE. -/
def extractField (a b : Word) : Word :=
  let w := fieldWidth b
  let x := bits a.toNat (fieldPos b) w
  if w == 0 then 0 else if bit b.toNat 16 then low32 (sext w x) else word x

/-- The result of VBFI on the old destination. -/
def insertField (a b d : Word) : Word :=
  let w := fieldWidth b
  let p := fieldPos b
  word (d.toNat % 2 ^ p + bits a.toNat 0 w * 2 ^ p + d.toNat / 2 ^ (p + w) * 2 ^ (p + w))

/-- VBFE. -/
def execVbfe (d a b : BitVec 7) (c : BitVec 3) : State → Out :=
  vecPlain (.vbfe d a b c) (fun x y _ => extractField x y) d a b c
/-- VBFI. -/
def execVbfi (d a b : BitVec 7) (c : BitVec 3) : State → Out :=
  vecPlain (.vbfi d a b c) (fun x y o => insertField x y o) d a b c

/-- The quotients and remainders of R88, truncated toward zero. -/
def divS (a b : Word) : Word := if b == 0 then 0xFFFFFFFF else low32 ((s32 a).tdiv (s32 b))
/-- The unsigned quotient. -/
def divU (a b : Word) : Word := if b == 0 then 0xFFFFFFFF else word (a.toNat / b.toNat)
/-- The signed remainder. -/
def remS (a b : Word) : Word := if b == 0 then a else low32 ((s32 a).tmod (s32 b))
/-- The unsigned remainder. -/
def remU (a b : Word) : Word := if b == 0 then a else word (a.toNat % b.toNat)

/-- A division: latency 12. -/
def vecDiv (i : Instr) (f : Word → Word → Word) (d a b : BitVec 7) (c : BitVec 3) : State → Out :=
  vec3 i 12 none (fun _ x y _ => (f x y, 0)) d a b c

/-- VDIV.S. -/
def execVdivS (d a b : BitVec 7) (c : BitVec 3) : State → Out := vecDiv (.vdivS d a b c) divS d a b c
/-- VDIV.U. -/
def execVdivU (d a b : BitVec 7) (c : BitVec 3) : State → Out := vecDiv (.vdivU d a b c) divU d a b c
/-- VREM.S. -/
def execVremS (d a b : BitVec 7) (c : BitVec 3) : State → Out := vecDiv (.vremS d a b c) remS d a b c
/-- VREM.U. -/
def execVremU (d a b : BitVec 7) (c : BitVec 3) : State → Out := vecDiv (.vremU d a b c) remU d a b c

/-- The integer conditions of R31; the reserved codes are refused before. -/
def intCond (cond : Nat) (a b : Word) : Bool :=
  match cond with
  | 0 => a == b
  | 1 => a != b
  | 2 => s32 a < s32 b
  | 3 => s32 a ≤ s32 b
  | 4 => s32 b < s32 a
  | 5 => s32 b ≤ s32 a
  | 6 => a.toNat < b.toNat
  | 7 => a.toNat ≤ b.toNat
  | 8 => b.toNat < a.toNat
  | _ => b.toNat ≤ a.toNat

/-- The condition that a minor and d[6:5] form (R31). -/
def condOf (n m : BitVec 2) : Nat := n.toNat * 4 + m.toNat

/-- VCMP. -/
def execVcmp (n m : BitVec 2) (k : BitVec 5) (a b : BitVec 7) (c : BitVec 3) : State → Out :=
  issue { ins := .vcmp n m k a b c, c := c, ops := [op k, ov a, ov b], lat := some 4 }
    (eachLane fun I l =>
      { lane := l, writes := [wpred l k.toNat (intCond (condOf n m) (I.R.v l a.toNat) (I.R.v l b.toNat))] })

/-- VSEL: a if the old v[d] is not zero, else b. -/
def execVsel (d a b : BitVec 7) (c : BitVec 3) : State → Out :=
  vecPlain (.vsel d a b c) (fun x y o => if o != 0 then x else y) d a b c

/-- A vector instruction with one source. -/
def vec2 (i : Instr) (imm : Bool) (f : Issue → Word → Word) (d a : BitVec 7) (c : BitVec 3) : State → Out :=
  issue { ins := i, c := c, ops := [ov d, ov a], lat := some 4, imm := imm }
    (eachLane fun I l => vout l d (f I (I.R.v l a.toNat), 0))

/-- |S32(a)| as 32 bits (R87). -/
def absW (a : Word) : Word := if a.msb then -a else a
/-- Leading zero bits (R87). -/
def clz (a : Word) : Word := if a == 0 then 32 else word (31 - Nat.log2 a.toNat)
/-- One bits (R87). -/
def popc (a : Word) : Nat := (lanesOf a).length
/-- Bit i of the result is bit 31 - i of a (R87). -/
def brev (a : Word) : Word := maskOf ((lanesOf a).map fun i => 31 - i)

/-- VABS. -/
def execVabs (d a : BitVec 7) (c : BitVec 3) : State → Out := vec2 (.vabs d a c) false (fun _ x => absW x) d a c
/-- VCLZ. -/
def execVclz (d a : BitVec 7) (c : BitVec 3) : State → Out := vec2 (.vclz d a c) false (fun _ x => clz x) d a c
/-- VPOPC. -/
def execVpopc (d a : BitVec 7) (c : BitVec 3) : State → Out := vec2 (.vpopc d a c) false (fun _ x => word (popc x)) d a c
/-- VBREV. -/
def execVbrev (d a : BitVec 7) (c : BitVec 3) : State → Out := vec2 (.vbrev d a c) false (fun _ x => brev x) d a c
/-- VMOV. -/
def execVmov (d a : BitVec 7) (c : BitVec 3) : State → Out := vec2 (.vmov d a c) false (fun _ x => x) d a c

/-- VMOVS: s[A] in every active fibre (R87). -/
def execVmovs (d : BitVec 7) (sf : BitVec 6) (c : BitVec 3) : State → Out :=
  issue { ins := .vmovs d sf c, c := c, ops := [ov d, os sf], lat := some 4 }
    (eachLane fun I l => vout l d (I.R.s sf.toNat, 0))

/-- VADDI, with the 32-bit value of an IMM hint where one applies (R22, R90). -/
def execVaddi (d a : BitVec 7) (im : BitVec 9) (c : BitVec 3) : State → Out :=
  vec2 (.vaddi d a im c) true (fun I x => x +
    (match I.hv.imm with
     | some p => word (p * 512 + im.toNat)
     | none => low32 (sext 9 im.toNat))) d a c

/-- VSHLI. -/
def execVshli (d a : BitVec 7) (n : BitVec 5) (c : BitVec 3) : State → Out :=
  vec2 (.vshli d a n c) false (fun _ x => shl x n.toNat) d a c
/-- VSHRI. -/
def execVshri (d a : BitVec 7) (n : BitVec 5) (c : BitVec 3) : State → Out :=
  vec2 (.vshri d a n c) false (fun _ x => shr x n.toNat) d a c
/-- VSRAI. -/
def execVsrai (d a : BitVec 7) (n : BitVec 5) (c : BitVec 3) : State → Out :=
  vec2 (.vsrai d a n c) false (fun _ x => sra x n.toNat) d a c

end Sys2Proof.Machine
end

