-- ==== Sys2Proof/Machine/VecFloat.lean ====
section
/-!
DEFINITION. The floating-point instructions of majors 0x18 to 0x22 (R91-R101, 02_control_arith.md).
-/

namespace Sys2Proof.Machine

/-- The arithmetic environment of an issue: the RND hint or RM, FTZ, DAZ, and the MOD hint (R28, R91, R92). -/
def Issue.fenv (I : Issue) : FEnv :=
  let m := I.R.fpmode.toNat
  { mode := I.hv.rnd.getD (m % 4), ftz := bit m 2, daz := bit m 3, mods := I.hv.mods.getD 0 }

/-- Every bit of the MOD hint is allowed (R23). -/
def allMods : Option Nat := some 0x7F

/-- A result of 32 bits with its flags. -/
def res32 (r : Nat × Nat) : Word × Nat := (word r.1, r.2)

/-- A float instruction on 32-bit registers, of latency 4: `f` receives the environment, v[a], v[b] and the old v[d]. -/
def float3 (i : Instr) (mods : Option Nat) (f : FEnv → Word → Word → Word → Word × Nat) (d a b : BitVec 7)
    (c : BitVec 3) : State → Out :=
  issue { ins := i, c := c, ops := [ov d, ov a, ov b], lat := some 4, rnd := true, mods := mods }
    (eachLane fun I l => vout l d (f I.fenv (I.R.v l a.toNat) (I.R.v l b.toNat) (I.R.v l d.toNat)))

/-- An FP32 operation with two inputs. -/
def float2 (i : Instr) (o : FOp) (d a b : BitVec 7) (c : BitVec 3) : State → Out :=
  float3 i allMods (fun E x y _ => res32 (E.bin fp32 o x.toNat y.toNat)) d a b c

/-- FADD. -/
def execFadd (d a b : BitVec 7) (c : BitVec 3) : State → Out := float2 (.fadd d a b c) .add d a b c
/-- FSUB. -/
def execFsub (d a b : BitVec 7) (c : BitVec 3) : State → Out := float2 (.fsub d a b c) .sub d a b c
/-- FMUL. -/
def execFmul (d a b : BitVec 7) (c : BitVec 3) : State → Out := float2 (.fmul d a b c) .mul d a b c
/-- FMIN. -/
def execFmin (d a b : BitVec 7) (c : BitVec 3) : State → Out := float2 (.fmin d a b c) .min d a b c
/-- FMAX. -/
def execFmax (d a b : BitVec 7) (c : BitVec 3) : State → Out := float2 (.fmax d a b c) .max d a b c

/-- FFMA. -/
def execFfma (d a b : BitVec 7) (c : BitVec 3) : State → Out :=
  float3 (.ffma d a b c) allMods (fun E x y o => res32 (E.fmaOp fp32 false x.toNat y.toNat o.toNat)) d a b c
/-- FFMS. -/
def execFfms (d a b : BitVec 7) (c : BitVec 3) : State → Out :=
  float3 (.ffms d a b c) allMods (fun E x y o => res32 (E.fmaOp fp32 true x.toNat y.toNat o.toNat)) d a b c

/-- FLDEXP: MOD bits 2 and 3 do not apply (R23). -/
def execFldexp (d a b : BitVec 7) (c : BitVec 3) : State → Out :=
  float3 (.fldexp d a b c) (some 0x73) (fun E x y _ => res32 (E.output fp32 false (fldexp E x.toNat (s32 y)))) d a b c

/-- A float instruction with one source. -/
def float1 (i : Instr) (lat : Nat) (mods : Option Nat) (f : FEnv → Word → Word × Nat) (d a : BitVec 7) (c : BitVec 3) :
    State → Out :=
  issue { ins := i, c := c, ops := [ov d, ov a], lat := some lat, rnd := true, mods := mods }
    (eachLane fun I l => vout l d (f I.fenv (I.R.v l a.toNat)))

/-- FRND: the mode is in the word; RM and the RND hint are ignored. -/
def execFrnd (d a : BitVec 7) (m : BitVec 2) (c : BitVec 3) : State → Out :=
  float1 (.frnd d a m c) 4 (some 0x73) (fun E x => res32 (E.output fp32 false (frnd E m.toNat x.toNat))) d a c
/-- FFRAC. -/
def execFfrac (d a : BitVec 7) (c : BitVec 3) : State → Out :=
  float1 (.ffrac d a c) 4 (some 0x73) (fun E x => res32 (E.output fp32 false (ffrac E x.toNat))) d a c
/-- FCLASS. -/
def execFclass (d a : BitVec 7) (c : BitVec 3) : State → Out :=
  float1 (.fclass d a c) 4 (some 0x03) (fun _ x => (fclass x.toNat, 0)) d a c
/-- FEXPO. -/
def execFexpo (d a : BitVec 7) (c : BitVec 3) : State → Out :=
  float1 (.fexpo d a c) 4 (some 0x03) (fun E x => (fexpo E x.toNat, 0)) d a c

/-- HADD2. -/
def execHadd2 (d a b : BitVec 7) (c : BitVec 3) : State → Out :=
  float3 (.hadd2 d a b c) allMods (fun E x y o => halves (fun p q _ => E.bin fp16 .add p q) x y o) d a b c
/-- HMUL2. -/
def execHmul2 (d a b : BitVec 7) (c : BitVec 3) : State → Out :=
  float3 (.hmul2 d a b c) allMods (fun E x y o => halves (fun p q _ => E.bin fp16 .mul p q) x y o) d a b c
/-- HFMA2. -/
def execHfma2 (d a b : BitVec 7) (c : BitVec 3) : State → Out :=
  float3 (.hfma2 d a b c) allMods (fun E x y o => halves (fun p q r => E.fmaOp fp16 false p q r) x y o) d a b c
/-- BFMA2. -/
def execBfma2 (d a b : BitVec 7) (c : BitVec 3) : State → Out :=
  float3 (.bfma2 d a b c) allMods (fun E x y o => halves (fun p q r => E.fmaOp bf16 false p q r) x y o) d a b c

/-- FCMP: MOD bits 0 to 3 only; no RND hint (R23, R97). -/
def execFcmp (n m : BitVec 2) (k : BitVec 5) (a b : BitVec 7) (c : BitVec 3) : State → Out :=
  issue { ins := .fcmp n m k a b c, c := c, ops := [op k, ov a, ov b], lat := some 4, mods := some 0x0F }
    (eachLane fun I l =>
      let r := I.fenv.cmp fp32 (condOf n m) (I.R.v l a.toNat).toNat (I.R.v l b.toNat).toNat
      { lane := l, writes := [wpred l k.toNat r.1], flags := r.2 })

/-- An FP64 instruction: even pairs, latency 16, feature bit 1 (R44, R99). -/
def double3 (i : Instr) (f : FEnv → Nat → Nat → Nat → Nat × Nat) (d a b : BitVec 7) (c : BitVec 3) : State → Out :=
  issue { ins := i, c := c, ops := [ovn 2 d, ovn 2 a, ovn 2 b], lat := some 16, rnd := true, mods := allMods, feat := 1 }
    (eachLane fun I l =>
      let r := f I.fenv (I.R.vpair l a.toNat) (I.R.vpair l b.toNat) (I.R.vpair l d.toNat)
      { lane := l, writes := wpair l d.toNat r.1, flags := r.2 })

/-- DADD. -/
def execDadd (d a b : BitVec 7) (c : BitVec 3) : State → Out :=
  double3 (.dadd d a b c) (fun E x y _ => E.bin fp64 .add x y) d a b c
/-- DMUL. -/
def execDmul (d a b : BitVec 7) (c : BitVec 3) : State → Out :=
  double3 (.dmul d a b c) (fun E x y _ => E.bin fp64 .mul x y) d a b c
/-- DFMA. -/
def execDfma (d a b : BitVec 7) (c : BitVec 3) : State → Out :=
  double3 (.dfma d a b c) (fun E x y o => E.fmaOp fp64 false x y o) d a b c

/-- DCMP. -/
def execDcmp (n m : BitVec 2) (k : BitVec 5) (a b : BitVec 7) (c : BitVec 3) : State → Out :=
  issue { ins := .dcmp n m k a b c, c := c, ops := [op k, ovn 2 a, ovn 2 b], lat := some 16, mods := some 0x0F, feat := 1 }
    (eachLane fun I l =>
      let r := I.fenv.cmp fp64 (condOf n m) (I.R.vpair l a.toNat) (I.R.vpair l b.toNat)
      { lane := l, writes := [wpred l k.toNat r.1], flags := r.2 })

/-- FDIV: latency 12; a MOD hint does not apply to major 0x22 (R23). -/
def execFdiv (d a b : BitVec 7) (c : BitVec 3) : State → Out :=
  issue { ins := .fdiv d a b c, c := c, ops := [ov d, ov a, ov b], lat := some 12, rnd := true }
    (eachLane fun I l => vout l d (res32 (fdiv I.fenv (I.R.v l a.toNat).toNat (I.R.v l b.toNat).toNat)))

/-- A unary function of major 0x22. -/
def floatFn (i : Instr) (o : UnFn) (d a : BitVec 7) (c : BitVec 3) : State → Out :=
  float1 i 12 none (fun E x => res32 (unaryFn E o x.toNat)) d a c

/-- FRCP. -/
def execFrcp (d a : BitVec 7) (c : BitVec 3) : State → Out := floatFn (.frcp d a c) .rcp d a c
/-- FRSQ. -/
def execFrsq (d a : BitVec 7) (c : BitVec 3) : State → Out := floatFn (.frsq d a c) .rsq d a c
/-- FSQRT. -/
def execFsqrt (d a : BitVec 7) (c : BitVec 3) : State → Out := floatFn (.fsqrt d a c) .sqrt d a c
/-- FEXP2. -/
def execFexp2 (d a : BitVec 7) (c : BitVec 3) : State → Out := floatFn (.fexp2 d a c) .exp2 d a c
/-- FLOG2. -/
def execFlog2 (d a : BitVec 7) (c : BitVec 3) : State → Out := floatFn (.flog2 d a c) .log2 d a c
/-- FSIN. -/
def execFsin (d a : BitVec 7) (c : BitVec 3) : State → Out := floatFn (.fsin d a c) .sin d a c
/-- FCOS. -/
def execFcos (d a : BitVec 7) (c : BitVec 3) : State → Out := floatFn (.fcos d a c) .cos d a c

end Sys2Proof.Machine
end

