-- ==== Sys2Proof/Machine/Convert.lean ====
section
/-!
DEFINITION. The conversion instructions of major 0x23 (R102-R110, 02_control_arith.md): latency 6.
-/

namespace Sys2Proof.Machine

/-- The lowest bit of an operand of `w` bits under H (R102). -/
def halfPos (h : BitVec 1) (w : Nat) : Nat := if w ≤ 16 then h.toNat * w else 0

/-- Reading an operand of `w` bits. -/
def cvtRead (G : Group) (l n : Nat) (h : BitVec 1) (w : Nat) : Nat :=
  if w == 64 then G.vpair l n else bits (G.v l n).toNat (halfPos h w) w

/-- Writing an operand of `w` bits; a narrow one changes its own bits alone (R102). -/
def cvtWrite (l n : Nat) (h : BitVec 1) (w r : Nat) : List (RegRef × Word) :=
  if w == 64 then wpair l n r
  else if w == 32 then [(.v l n, word r)]
  else [(.vbits l n (halfPos h w) w, word r)]

/-- An operand of `w` bits: an even pair for 64 (R102). -/
def cvtOp (r : BitVec 7) (w : Nat) : Opnd := if w == 64 then ovn 2 r else ov r

/-- A conversion of an operand of `sw` bits to one of `dw` bits. -/
def convert (i : Instr) (feat : Nat) (sw dw : Nat) (f : FEnv → Nat → Nat × Nat) (d a : BitVec 7) (h : BitVec 1)
    (c : BitVec 3) : State → Out :=
  issue { ins := i, c := c, ops := [cvtOp d dw, cvtOp a sw], lat := some 6, rnd := true, feat := feat }
    (eachLane fun I l =>
      let r := f I.fenv (cvtRead I.R l a.toNat h sw)
      { lane := l, writes := cvtWrite l d.toNat h dw r.1, flags := r.2 })

/-- FP64 operands and 64-bit integers belong to feature bit 1 (R44). -/
def wideFeature (x : Bool) : Nat := b2n x

/-- CVTF: integer code `sf` to float code `t`. -/
def execCvtf (d a : BitVec 7) (h : BitVec 1) (sf t c : BitVec 3) : State → Out :=
  let sw := intWidth sf.toNat
  convert (.cvtf d a h sf t c) (wideFeature (sw == 64 || t == 3)) sw (floatWidth t.toNat)
    (fun E v => cvtfVal E (floatFmt t.toNat) (intValue sf.toNat sw v)) d a h c

/-- CVTI: float code `sf` to integer code `t`. -/
def execCvti (d a : BitVec 7) (h : BitVec 1) (sf t c : BitVec 3) : State → Out :=
  let dw := intWidth t.toNat
  convert (.cvti d a h sf t c) (wideFeature (dw == 64 || sf == 3)) (floatWidth sf.toNat) dw
    (fun E v => cvtiVal E (floatFmt sf.toNat) t.toNat dw v) d a h c

/-- CVTN: float code `sf` to float code `t`. -/
def execCvtn (d a : BitVec 7) (h : BitVec 1) (sf t c : BitVec 3) : State → Out :=
  convert (.cvtn d a h sf t c) (wideFeature (sf == 3 || t == 3)) (floatWidth sf.toNat) (floatWidth t.toNat)
    (fun E v => cvtnVal E (floatFmt sf.toNat) (floatFmt t.toNat) v) d a h c

/-- Lanes of each block of a block size code: two of 16, one of 32, or the group with two elements a lane (R106). -/
def blockLanes (fmt : Nat) : List (List Nat) :=
  if fmt % 4 == 0 then [List.range 16, (List.range 16).map (· + 16)] else [List.range 32]

/-- Registers a lane holds of a block: two for blocks of 64. -/
def blockRegs (fmt : Nat) : Nat := if fmt % 4 == 2 then 2 else 1

/-- An operand of a block conversion. -/
def blockOp (r : BitVec 7) (fmt : Nat) : Opnd := if fmt % 4 == 2 then ovn 2 r else ov r

/-- The elements of a block, as lane and register offset. -/
def blockElems (fmt : Nat) (ls : List Nat) : List (Nat × Nat) :=
  ls.flatMap fun l => (List.range (blockRegs fmt)).map fun k => (l, k)

/-- QNT (R106-R108): rounding to nearest even unless a RND hint is present; inactive lanes enter as +0.0. -/
def execQnt (d a : BitVec 7) (f : BitVec 5) (c : BitVec 3) : State → Out :=
  let fmt := f.toNat
  issue { ins := .qnt d a f c, c := c, ops := [blockOp d fmt, blockOp a fmt], lat := some 6, rnd := true
          peers := peerBlock (blockLanes fmt) a.toNat (blockRegs fmt) }
    fun I s =>
      let mode := I.hv.rnd.getD 0
      let outs := (blockLanes fmt).flatMap fun ls =>
        let es := blockElems fmt ls
        let xs := es.map fun e =>
          if I.act.contains e.1 then fp32.decode I.fenv.daz (I.R.v e.1 (a.toNat + e.2)).toNat else .fin false 0 0
        let q := qntBlock mode fmt xs
        let rs := es.zip q.2.1
        ls.filterMap fun l =>
          if I.act.contains l then
            some { lane := l, flags := q.2.2,
                   writes := (rs.filter fun r => r.1.1 == l).map fun r =>
                     (.v l (d.toNat + r.1.2), word (q.1 * 256 + r.2)) : LaneOut }
          else none
      .go s outs

/-- DQNT (R109). -/
def execDqnt (d a : BitVec 7) (f : BitVec 5) (c : BitVec 3) : State → Out :=
  let fmt := f.toNat
  issue { ins := .dqnt d a f c, c := c, ops := [blockOp d fmt, blockOp a fmt], lat := some 6, rnd := true }
    (eachLane fun I l =>
      let rs := (List.range (blockRegs fmt)).map fun k => (k, dqntVal I.fenv fmt (I.R.v l (a.toNat + k)).toNat)
      { lane := l, writes := rs.map fun r => (.v l (d.toNat + r.1), word r.2.1),
        flags := rs.foldl (fun x r => x ||| r.2.2) 0 })

/-- PACK2 (R110): the halves of the destination are the narrowed registers of the pair. -/
def execPack2 (d a : BitVec 7) (f c : BitVec 3) : State → Out :=
  issue { ins := .pack2 d a f c, c := c, ops := [ov d, ovn 2 a], lat := some 6, rnd := true }
    (eachLane fun I l =>
      let g := floatFmt f.toNat
      let lo := cvtnVal I.fenv fp32 g (I.R.v l a.toNat).toNat
      let hi := cvtnVal I.fenv fp32 g (I.R.v l (a.toNat + 1)).toNat
      vout l d (word (lo.1 + 65536 * hi.1), lo.2 ||| hi.2))

/-- UNPK (R110): each half widened exactly. -/
def execUnpk (d a : BitVec 7) (f c : BitVec 3) : State → Out :=
  issue { ins := .unpk d a f c, c := c, ops := [ovn 2 d, ov a], lat := some 6, rnd := true }
    (eachLane fun I l =>
      let g := floatFmt f.toNat
      let v := (I.R.v l a.toNat).toNat
      let lo := cvtnVal I.fenv g fp32 (v % 65536)
      let hi := cvtnVal I.fenv g fp32 (v / 65536)
      { lane := l, writes := [(.v l d.toNat, word lo.1), (.v l (d.toNat + 1), word hi.1)], flags := lo.2 ||| hi.2 })

end Sys2Proof.Machine
end

