-- ==== Sys2Proof/Machine/Copy.lean ====
section
/-!
DEFINITION. The issue of copies, decode operations, table loads and tile moves (R133, R134, R143-R148,
03_memory_instr.md; R262-R266; R291-R298, 11_copies.md). What an operation does is in the steps of the engines.
-/

namespace Sys2Proof.Machine

/-! ## CPY -/

/-- The scope codes of R30 that serve as defaults. -/
def scopeDie : Nat := 2
/-- Package scope. -/
def scopePackage : Nat := 3

/-- The global lines of a CPY, the virtual and the physical address of each: its line entries (R294). -/
def transferLines (ts : List Transfer) : List (Nat × Nat) := (ts.map fun t => (lineOf t.va, lineOf t.pa)).eraseDups

/-- What the issue checks of CPY find for one fibre (R143). -/
def State.cpyLane (s : State) (I : Issue) (a : BitVec 7) (w ctl : Nat) (rs : List (Nat × Xlate)) (l : Nat) :
    State × (Option Transfer × LaneOut) :=
  let toMem := bit ctl 6
  match (I.T.rec_ (bits ctl 0 4)).addr (I.R.v l (a.toNat + 1)).toNat w (!toMem) toMem with
  | .error t => (s, (none, { lane := l, trap := some t }))
  | .ok none => (s, (none, { lane := l }))
  | .ok (some (va, pva)) =>
    match s.touchPa I rs (if toMem then .write else .read) l va pva with
    | (t, .error o) => (t, (none, o))
    | (t, .ok pa) =>
      let o := (I.R.v l a.toNat).toNat
      let p := I.T.level (bits ctl 4 2)
      match firstTrap [trapIf (p.2.2 < o + w) fcOob 0 o, trapIf (o % w != 0) fcAlign 0 o] with
      | some e => (t, (none, { lane := l, trap := some e }))
      | none => (t, (some { va := pva, pa := pa, scr := swizzle (p.2.1 + o) (bits ctl 7 3) }, { lane := l }))

/-- CPY. -/
def execCpy (w : BitVec 2) (a n : BitVec 7) (c : BitVec 3) : State → Out :=
  issue { ins := .cpy w a n c, c := c, ops := [ovn 2 a, osn 2 n], scope := true } fun I s =>
    let ctl := (I.R.s n.toNat).toNat
    let ob := (I.R.s (n.toNat + 1)).toNat
    let width := 4 * 2 ^ w.toNat
    let toMem := bit ctl 6
    match firstTrap [illopIf (bits ctl 10 22 != 0 || bits ctl 4 2 == 3) ctl, illopIf (2 ^ 20 ≤ ob) ob] with
    | some t => .go s (trapAll I t)
    | none =>
      match s.checkObj I ob with
      | (t, some e) => e.stop I t
      | (s1, none) =>
        let lines := I.act.filterMap fun l =>
          match (I.T.rec_ (bits ctl 0 4)).addr (I.R.v l (a.toNat + 1)).toNat width (!toMem) toMem with
          | .ok (some (_, pva)) => some (lineOf pva)
          | _ => none
        let (s2, rs) := s1.xlateLines I.core I.x (if toMem then .write else .read) lines
        let r := I.act.foldl (fun (u : State × List (Option Transfer × LaneOut)) l =>
          let q := u.1.cpyLane I a width ctl rs l
          (q.1, u.2 ++ [q.2])) (s2, [])
        let ts := r.2.filterMap (·.1)
        let outs := r.2.map (·.2)
        let glines := transferLines ts
        if ts.isEmpty then farWait I (r.1, outs)
        else if r.1.queueRoom (dieOf I.core) I.x glines.length then
          farWait I ((r.1.enqueue I 0x30 0 (.cpy (!toMem) (bits ctl 4 2) width ts) ob (I.scope scopeDie) glines.length
            false).lineRequests I 4 (some r.1.nextOp) glines, outs)
        else .wait s1 (.poll 15)

/-! ## CPYB, CPYD, CTAB -/

/-- CPYB. -/
def execCpyb (sf : BitVec 3) (n m : BitVec 7) (c : BitVec 3) : State → Out :=
  issue { ins := .cpyb sf n m c, c := c, ops := [osn 4 n, osn 2 m], scope := true } fun I s =>
    match sregs I n 4, sregs I m 2 with
    | [ctl, so, d_, cnt], [ob, ring] =>
      let slot := bit ctl 18
      let S : SideArg := { space := bits ctl 8 2, slot := bits ctl 0 4, swz := bits ctl 12 3, off := so, len := cnt }
      let D : SideArg := { space := bits ctl 10 2, slot := bits ctl 4 4, swz := bits ctl 15 3, off := d_, len := cnt }
      match firstTrap
          [illopIf (bits ctl 19 13 != 0 || (S.space == 0 && S.swz != 0) || (D.space == 0 && D.swz != 0) ||
              (slot && (D.space != 0 || D.slot != 0))) ctl,
           illopIf (slot && d_ != 0) d_, illopIf (2 ^ 20 ≤ ob) ob, illopIf (slot && ring == 0) ring,
           S.oob I, if slot then none else D.oob I,
           trapIf (so % 4 != 0) fcAlign 0 so, trapIf (d_ % 4 != 0) fcAlign 0 d_, trapIf (cnt % 4 != 0) fcAlign 0 cnt,
           S.prot I false, if slot then none else D.prot I true] with
      | some t => .go s (trapAll I t)
      | none =>
        match s.checkNames I ob ring (if slot then some cnt else none) with
        | (t, some e) => e.stop I t
        | (t, none) => startOp I t 0x30 1 (.copy (S.side I) (D.side I) cnt ring slot) ob (I.scope sf.toNat)
    | _, _ => .go s []

/-- The bits of a code of CPYD. -/
def codeBits (w : Nat) : Nat := w + 2

/-- CPYD. The spec names no fault for an element count of 0 or one that is no multiple of the block size: the model raises
ILLOP with the count (DESIGN CHOICE, log entry 72). -/
def execCpyd (sf : BitVec 3) (n m : BitVec 7) (c : BitVec 3) : State → Out :=
  issue { ins := .cpyd sf n m c, c := c, ops := [osn 4 n, osn 2 m], scope := true, feat := 5 } fun I s =>
    match sregs I n 4, sregs I m 2 with
    | [ctl, so, d_, cnt], [ob, ring] =>
      let w := bits ctl 10 2
      let block := 64 * 2 ^ bits ctl 13 3
      let srcLen := ceilDiv (ceilDiv (cnt * codeBits w) 8) 4 * 4
      let S : SideArg := { space := 0, slot := bits ctl 0 4, swz := 0, off := so, len := srcLen }
      let D : SideArg := { space := bits ctl 8 2, slot := bits ctl 4 4, swz := bits ctl 20 3, off := d_, len := 2 * cnt }
      match firstTrap
          [illopIf (bit ctl 12 || bits ctl 23 9 != 0 || w == 3 || 4 ≤ bits ctl 13 3 ||
              (D.space == 0 && D.swz != 0)) ctl,
           illopIf (cnt == 0 || cnt % block != 0) cnt, illopIf (2 ^ 20 ≤ ob) ob,
           S.oob I, D.oob I, trapIf (so % 4 != 0) fcAlign 0 so, trapIf (d_ % 4 != 0) fcAlign 0 d_,
           S.prot I false, D.prot I true] with
      | some t => .go s (trapAll I t)
      | none =>
        match s.checkNames I ob ring none with
        | (t, some e) => e.stop I t
        | (t, none) =>
          let r := I.T.rec_ S.slot
          startOp I t 0x31 0
            (.decode (r.base + so) (D.side I) (codeBits w) block cnt (bits ctl 16 4) ring r.swz) ob (I.scope sf.toNat)
    | _, _ => .go s []

/-- The number of a context's decode stream on a die (R263). -/
def streamKey (x stream : Nat) : Nat := x * 16 + stream

/-- A stream that nothing has used. -/
def Stream.start : Stream := { tables := [], stall := 0, blocks := 0, overs := 0, lastWr := 0 }

/-- A decode stream. -/
def Die.stream (D : Die) (k : Nat) : Stream := tget D.streams k Stream.start

/-- CTAB: it waits while four tables are issued and not taken (R146, R264). The spec names no fault for an offset that is
no multiple of 4: the model raises ALIGN with the offset, as CPYB does (DESIGN CHOICE, log entry 72). -/
def execCtab (n : BitVec 7) (c : BitVec 3) : State → Out :=
  issue { ins := .ctab n c, c := c, ops := [osn 2 n], scope := true, feat := 5 } fun I s =>
    let ctl := (I.R.s n.toNat).toNat
    let off := (I.R.s (n.toNat + 1)).toNat
    let cnt := bits ctl 8 5
    let S : SideArg := { space := 0, slot := bits ctl 0 4, swz := 0, off := off, len := 4 * cnt }
    match firstTrap [illopIf (bits ctl 14 18 != 0 || cnt == 0 || 16 < cnt) ctl, S.oob I,
        trapIf (off % 4 != 0) fcAlign 0 off, S.prot I false] with
    | some t => .go s (trapAll I t)
    | none =>
      let d := dieOf I.core
      let k := streamKey I.x (bits ctl 4 4)
      let r := I.T.rec_ S.slot
      if 4 ≤ ((s.die d).stream k).tables.length || !s.queueRoom d I.x 1 then .wait s (.poll 15)
      else
        let t := s.modDie d fun D =>
          let st := D.stream k
          { D with streams := tset D.streams k { st with
              tables := st.tables ++ [{ op := s.nextOp, ready := false, failed := none, entries := [] }] } }
        .go (t.enqueue I 0x31 1 (.table (r.base + off) cnt (bits ctl 4 4) (bit ctl 13) r.swz) 0 0 1 false) []

/-! ## TMOV -/

/-- The operation of a TMOV, or its trap (R133, R134). -/
def tmovOp (wait : Bool) (n m : BitVec 7) (I : Issue) : Except Trap (OpKind × Nat) :=
  match sregs I n 4, sregs I m 2 with
  | [ctl, so, d_, rb], [st, ob] =>
    let rows := bits ctl 10 10 + 1
    let ss := bits st 0 16
    let ds := bits st 16 16
    let S := I.T.level (bits ctl 0 2)
    let D := I.T.level (bits ctl 2 2)
    match firstTrap
        [illopIf (bits ctl 20 12 != 0 || bits ctl 0 2 == 3 || bits ctl 2 2 == 3) ctl,
         illopIf (rb == 0 || 4096 < rb) rb, illopIf (2 ^ 20 ≤ ob || (wait && ob != 0)) ob,
         trapIf (S.2.2 < so + (rows - 1) * ss + rb) fcOob 0 so, trapIf (D.2.2 < d_ + (rows - 1) * ds + rb) fcOob 0 d_,
         trapIf (so % 16 != 0) fcAlign 0 so, trapIf (d_ % 16 != 0) fcAlign 0 d_, trapIf (ss % 16 != 0) fcAlign 0 ss,
         trapIf (ds % 16 != 0) fcAlign 0 ds, trapIf (rb % 16 != 0) fcAlign 0 rb] with
    | some t => .error t
    | none => .ok (.tmov { space := bits ctl 0 2 + 1, base := S.2.1 + so, swizzle := bits ctl 4 3 }
        { space := bits ctl 2 2 + 1, base := D.2.1 + d_, swizzle := bits ctl 7 3 } rows rb ss ds, ob)
  | _, _ => .error (mkTrap fcIllop 0 0)

/-- A waiting operation that has ended lets its batch go on; else the batch waits on. -/
def ticketRetry (I : Issue) (s : State) (k : Unit → Result) : Result :=
  match I.B.wait with
  | some (.op t r) =>
    if (tget? s.tickets t).isSome then .go { s with tickets := tdel s.tickets t } [] else .wait s (.op t r)
  | _ => k ()

/-- TMOV: its completion scope is die (R113, R134). -/
def execTmov (n m : BitVec 7) (c : BitVec 3) : State → Out :=
  issue { ins := .tmov n m c, c := c, ops := [osn 4 n, osn 2 m], scope := true } fun I s =>
    match tmovOp false n m I with
    | .error t => .go s (trapAll I t)
    | .ok (k, ob) =>
      match s.checkObj I ob with
      | (t, some e) => e.stop I t
      | (t, none) => startOp I t 0x2D 0 k ob (I.scope scopeDie)

/-- TMOV.W: it waits until the move completes. -/
def execTmovW (n m : BitVec 7) (c : BitVec 3) : State → Out :=
  issue { ins := .tmovW n m c, c := c, ops := [osn 4 n, osn 2 m], scope := true } fun I s => ticketRetry I s fun _ =>
    match tmovOp true n m I with
    | .error t => .go s (trapAll I t)
    | .ok (k, _) =>
      if s.queueRoom (dieOf I.core) I.x 1 then
        .wait (s.enqueue I 0x2D 0 k 0 (I.scope scopeDie) 1 true) (.op s.nextOp 15)
      else .wait s (.poll 15)

end Sys2Proof.Machine
end

