-- ==== Sys2Proof/Machine/Engines.lean ====
section
/-!
DEFINITION. The copy, decode and name engines of a die at work, and the steps on objects that operations make (R134,
R144-R149, R455, 03_memory_instr.md; R263-R267, 09_program_codebook.md; R291-R300, 11_copies.md; R251-R253,
08_traps.md). An operation goes on in one step to its end or its first wait, a CPY in one step a line entry, a decode
operation in one step a block (log entry 9).
-/

namespace Sys2Proof.Machine

/-! ## Ring slots -/

/-- The ring of an operation, 0 for none. -/
def OpKind.ring : OpKind → Nat
  | .copy _ _ _ r _ => r
  | .decode _ _ _ _ _ _ r _ => r
  | _ => 0

/-- The operation as a unit that waits for a service. -/
def EngineOp.who (o : EngineOp) (d : Nat) : FaultWho := .engine d o.id

/-- The generator fill of the team that started an operation. -/
def State.opGen (s : State) (o : EngineOp) : Option GenFill := (s.team o.tid).gen

/-- A ring as it stands, where its page resolves. -/
def State.ringNow (s : State) (x k : Nat) : Option Ring :=
  match s.xlate x ((s.ctx x).ringVa k) .atomic with
  | .ok pa _ => parseRing (s.rd pa 64)
  | _ => none

/-- The state with an operation of a die changed. -/
def State.modOp (s : State) (d id : Nat) (f : EngineOp → EngineOp) : State :=
  s.modDie d fun D => { D with ops := D.ops.map fun e => if e.id == id then f e else e }

/-- The next entry of an operation is taken, with what the operation claimed or how its start failed. -/
def State.markTaken (s : State) (d : Nat) (o : EngineOp) (f : EngineOp → EngineOp) : State :=
  (s.modDie d fun D => { D with lastTake := o.ctx }).modOp d o.id fun e => { f e with begun := e.begun + 1 }

/-- The ring cannot be claimed when the operation starts: it fails with OOB and writes nothing (R266). -/
def ringFail (k : Nat) : OpFail := { code := fcOob, addr := k, cause := 0, detail := 0 }

/-- The side that a CPYB with bit 18 writes is the slot that it claimed (R298). -/
def OpKind.atSlot (k : OpKind) (r : Ring) (slot : Nat) : OpKind :=
  match k with
  | .copy src _ cnt ring true => .copy src { space := 0, base := r.base + slot * r.ssize, swizzle := 0 } cnt ring true
  | k => k

/-- An engine starts an operation and claims its slot (R142, R266, R293). -/
def State.beginOp (s : State) (d : Nat) (o : EngineOp) : State :=
  let k := o.kind.ring
  let fails (t : State) (f : OpFail) : State :=
    (t.clearFaults (o.who d)).markTaken d o fun e => { e with failed := some f }
  if k == 0 then s.markTaken d o id
  else if (s.ctx o.ctx).ringCount ≤ k then fails s (ringFail k)
  else
    match s.served64 (o.who d) (some d) o.ctx ((s.ctx o.ctx).ringVa k) with
    | (t, .wait) => t
    | (t, .fail f _) => fails t f
    | (t, .ok pa) =>
      match parseRing (t.rd pa 64) with
      | none => fails t (ringFail k)
      | some r =>
        match t.served64 (o.who d) (some d) o.ctx ((t.ctx o.ctx).objVa r.fobj) with
        | (u, .wait) => u
        | (u, .fail f _) => fails u f
        | (u, .ok opa) =>
          if (u.ctx o.ctx).objCount ≤ r.fobj || (parseObj (u.rd opa 64)).isNone then fails u (ringFail k)
          else
            match r.claim with
            | none => u
            | some (slot, r1) =>
              ((u.clearFaults (o.who d)).putRing pa r1).markTaken d o fun e =>
                { e with slot := some r.w, kind := e.kind.atSlot r slot }

/-- The operation can start now: no service is under way, and the ring, if it can be read, has a free slot. -/
def State.canStart (s : State) (d : Nat) (o : EngineOp) : Bool :=
  !(s.ctx o.ctx).holdsTraps && !s.pendingFault (o.who d) &&
    (o.kind.ring == 0 || ((s.ringNow o.ctx o.kind.ring).map fun r => r.fr != 0).getD true)

/-! ## Which operations run -/

/-- The stream of a decode operation or of a table read. -/
def EngineOp.stream? (o : EngineOp) : Option Nat :=
  match o.kind with
  | .decode _ _ _ _ _ st _ _ => some (streamKey o.ctx st)
  | .table _ _ st _ _ => some (streamKey o.ctx st)
  | _ => none

/-- All entries of the operation have been taken. -/
def EngineOp.taken (o : EngineOp) : Bool := o.size ≤ o.begun

/-- A decode operation that is under way. -/
def EngineOp.decodes (o : EngineOp) : Bool :=
  match o.kind with
  | .decode .. => o.taken && !o.finished
  | _ => false

/-- The decode operation whose block stands at the head of a stream (R147, R263). -/
def Die.front (D : Die) (k : Nat) : Option EngineOp := D.ops.find? fun o => o.decodes && o.stream? == some k

/-- A block of the stream waits for a table (R264). -/
def Die.stalled (D : Die) (k : Nat) : Bool :=
  (D.front k).isSome && !((D.stream k).tables.head?.map (·.ready)).getD false

/-- The streams that a die holds or that its operations name. -/
def Die.streamKeys (D : Die) : List Nat := (tkeys D.streams ++ D.ops.filterMap (·.stream?)).eraseDups

/-- The line entries of a CPY that engines have taken and that can go on: those that have not completed and do not wait
for the end of a far request (R292). -/
def State.cpyOpen (s : State) (d : Nat) (o : EngineOp) : List Nat :=
  match o.kind with
  | .cpy _ _ _ ts =>
    (List.range o.begun).filter fun i =>
      let pa := ((transferLines ts).getD i (0, 0)).2
      !o.gone.contains i && !(s.reach pa == .late && s.farAsked (o.who d) pa)
  | _ => []

/-- The engines that work on an operation: one for each line entry of a CPY, one for another operation. An operation that
waits for a service or a far target holds back only itself, and one that waits for its stream's turn or table stalls that
stream alone (R147, R292). The line of a CPY that waits holds back no other line. -/
def State.engaged (s : State) (d : Nat) (o : EngineOp) : Nat :=
  match o.kind with
  | .cpy .. => (s.cpyOpen d o).length
  | k =>
  if o.finished || s.pendingFault (o.who d) then 0
  else
    match k with
    | .decode _ _ _ _ _ st _ _ =>
      let k := streamKey o.ctx st
      b2n (o.taken && ((s.die d).front k).map (·.id) == some o.id && !(s.die d).stalled k)
    | _ => b2n o.taken

/-- The operation whose entry an idle engine takes: the oldest entry of the next context whose entry can start (R293). -/
def State.nextTake (s : State) (d : Nat) : Option EngineOp :=
  let D := s.die d
  let heads := (D.ops.filter (!·.taken)).foldl (fun (acc : List EngineOp) o =>
    if acc.any (·.ctx == o.ctx) then acc else acc ++ [o]) []
  if 12 ≤ (D.ops.map (s.engaged d)).sum then none
  else minBy (fun o => (o.ctx + 4095 - D.lastTake) % 4096) (heads.filter (s.canStart d))

/-- ENGINE_TAKE: an idle engine of a die takes an entry. -/
def execEngineTake (die op : Nat) (s : State) : Out :=
  .next (match s.nextTake die with
    | some o => if o.id == op then s.beginOp die o else s
    | none => s)

/-! ## Transfers -/

/-- The lines of a side after `done` bytes, by the offset of each in the range. When the operation has been at work
before, it has translated the line that the range goes on in (R275). -/
def Side.wants (S : Side) (acc : Access) (n done : Nat) (old : Bool) : List (Nat × Want) :=
  if S.space == 0 then
    (Sys2Proof.Machine.wants acc (S.base + done) (n - done)).map fun w =>
      (w.va - S.base, { w with old := old && w.va == S.base + done && w.va % 128 != 0 })
  else []

/-- Placing a line behind those of lower or equal offset. -/
def insertWant (e : Nat × Want) : List (Nat × Want) → List (Nat × Want)
  | [] => [e]
  | x :: xs => if x.1 ≤ e.1 then x :: insertWant e xs else e :: x :: xs

/-- The lines of both sides, by offset: the order in which an ascending copy meets them. -/
def bothWants (S D : Side) (n m done : Nat) (old : Bool) : List (Nat × Want) :=
  (D.wants .write m done old).foldl (fun acc e => insertWant e acc) (S.wants .read n done old)

/-- The translated lines of an operation. -/
abbrev Parts := List (Want × Nat)

/-- The physical address of a virtual one, by the line that holds it. -/
def Parts.pa (ps : Parts) (acc : Access) (va : Nat) : Nat :=
  match ps.find? fun p => p.1.acc = acc && p.1.va / 128 == va / 128 with
  | some p => p.2 / 128 * 128 + va % 128
  | none => 0

/-- A failure of an operation by an uncorrectable error. -/
def poisonAt (a : Nat) : OpFail := { code := fcPoison, addr := a, cause := 0, detail := 0 }

/-- Where `n` bytes of a side from an offset stand, at most 16: cut at the border of a chunk of its swizzle, the address
of each part and its length. -/
def Side.pieces (S : Side) (off n : Nat) : List (Nat × Nat) :=
  let a := S.base + off
  let k := 16 - a % 16
  if n ≤ k then [(Sys2Proof.Machine.swizzle a S.swizzle, n)] else [(Sys2Proof.Machine.swizzle a S.swizzle, k), (Sys2Proof.Machine.swizzle (a + k) S.swizzle, n - k)]

/-- Reading one part of a side. -/
def State.pieceRead (s : State) (core : Nat) (ps : Parts) (S : Side) (a n : Nat) : Except OpFail (List Byte) :=
  if S.space == 0 then
    let pa := ps.pa .read a
    if s.bad pa n then .error (poisonAt a) else .ok (s.rd pa n)
  else if s.scrBad (spaceScr core S.space) a n then .error (poisonAt a)
  else .ok (s.scrRead (spaceScr core S.space) a n)

/-- Reading `n` bytes at an offset of a side, at most 16. -/
def State.sideRead (s : State) (core : Nat) (ps : Parts) (S : Side) (off n : Nat) : Except OpFail (List Byte) :=
  ((S.pieces off n).mapM fun p => s.pieceRead core ps S p.1 p.2).map List.flatten

/-- Where bytes at an offset of a side go, at most 16: a scratchpad or physical memory, the address and the bytes of each
part. -/
def Side.places (D : Side) (core : Nat) (ps : Parts) (off : Nat) (bs : List Byte) : List (Option Scr × Nat × List Byte) :=
  ((D.pieces off bs.length).foldl (fun (u : List (Option Scr × Nat × List Byte) × List Byte) p =>
    (u.1 ++ [if D.space == 0 then (none, ps.pa .write p.1, u.2.take p.2) else (some (spaceScr core D.space), p.1, u.2.take p.2)],
      u.2.drop p.2)) ([], bs)).1

/-- Writing bytes at their places. -/
def State.putPlaces (s : State) (l : List (Option Scr × Nat × List Byte)) : State :=
  l.foldl (fun u p =>
    match p.1 with
    | none => u.wr p.2.1 p.2.2
    | some x => u.scrWrite x p.2.1 p.2.2) s

/-- Writing bytes at an offset of a side, at most 16. -/
def State.sideWrite (s : State) (core : Nat) (ps : Parts) (D : Side) (off : Nat) (bs : List Byte) : State :=
  s.putPlaces (D.places core ps off bs)

/-- A chunk of a copy: its offsets in the source and in the destination, and its length. -/
abbrev Chunk := Nat × Nat × Nat

/-- Moving chunks in turn, each read before it is written, until one cannot be read (R134, R144). -/
def State.moveChunks (core : Nat) (ps : Parts) (S D : Side) : State → List Chunk → State × Option OpFail
  | s, [] => (s, none)
  | s, (a, b, n) :: t =>
    match s.sideRead core ps S a n with
    | .error f => (s, some f)
    | .ok bs => State.moveChunks core ps S D (s.sideWrite core ps D b bs) t

/-- A range of `n` bytes that begins at an address, cut at the borders of its aligned 4-byte words: the offset and the
length of each part (R295). -/
def wordCuts (base n : Nat) : List (Nat × Nat) :=
  let h := base % 4
  (List.range ((h + n + 3) / 4)).map fun i => (max (4 * i) h - h, min (4 * i + 4) (h + n) - max (4 * i) h)

/-- How the translation of an operation's lines ends: the translated ones, with the first failure or the wait and the
offset at which it stands. -/
inductive Reached where
  | ok (ps : Parts)
  | fail (ps : Parts) (off : Nat) (f : OpFail)
  | wait (ps : Parts) (off : Nat)

/-- Translating the lines of an operation as it reaches them (R149, R275). -/
def State.reachOp (s : State) (d : Nat) (o : EngineOp) (ws : List (Nat × Want)) : State × Reached :=
  let parts (ps : List (Nat × Nat)) : Parts := (ws.map (·.2)).zip (ps.map (·.1))
  let off (ps : List (Nat × Nat)) : Nat := (ws[ps.length]?.map (·.1)).getD 0
  match s.served (o.who d) (some d) o.ctx (s.opGen o) (ws.map (·.2)) with
  | (t, .ok ps) => (t, .ok (parts ps))
  | (t, .wait ps) => (t, .wait (parts ps) (off ps))
  | (t, .fail ps c a k) =>
    (t, .fail (parts ps) (off ps) { code := c, addr := a, cause := k, detail := ((ws[ps.length]?).map (·.2.acc.detail)).getD 0 })

/-- An uncorrectable error that an operation met on a side: a pooled device's is logged (R277). -/
def State.noteOp (s : State) (d : Nat) (o : EngineOp) (S : Side) : Option OpFail → State
  | some f => if S.space == 0 then s.noteFault o.ctx (srcDie d) (f.code, f.addr) else s
  | none => s

/-- The first of two failures. -/
def firstFail (a b : Option OpFail) : Option OpFail :=
  match a with
  | some f => some f
  | none => b

/-! ## Completion -/

/-- The bytes that an operation declares (R148). -/
def OpKind.bytes : OpKind → Nat
  | .cpy _ _ w ts => w * ts.length
  | .copy _ _ n _ _ => n
  | .decode _ _ _ _ n _ _ _ => 2 * n
  | .table .. => 0
  | .tmov _ _ rows rb _ _ => rows * rb
  | .announce _ n _ _ => n

/-- The step on its object that an operation makes at its end (R148); a failure without an object is logged alone. -/
def EngineOp.contribution (o : EngineOp) (d : Nat) (fail : Option OpFail) : Contribution :=
  { ctx := o.ctx, obj := o.obj, bytes := o.kind.bytes, done := none, fcode := fail.map (·.code), flags := o.flags,
    origin := o.origin, srckind := 1, src := d, major := o.major, op := o.op, addr := (fail.map (·.addr)).getD 0,
    gcause := (fail.map (·.cause)).getD 0, interest := none }

/-- The end of an operation: its contribution, the freeze for a PROT, its waiter, and its place among the operations
that wait to publish a slot. -/
def State.endOp (s : State) (d : Nat) (o : EngineOp) (more : Option OpFail) : State :=
  let fail := firstFail o.failed more
  let s1 := s.clearFaults (o.who d)
  let s2 := if o.obj == 0 && fail.isNone then s1 else s1.addContribution (o.contribution d fail)
  let s3 := match fail with
    | some f => if f.code == fcProt then s2.freezeUnit o.ctx o.origin f.addr f.detail else s2
    | none => s2
  let s4 := if o.ticket == 0 then s3 else { s3 with tickets := tset s3.tickets o.ticket (fail.map (·.addr)) }
  let s5 := s4.modDie d fun D =>
    { D with ops :=
        if o.slot.isSome then D.ops.map fun e => if e.id == o.id then { e with finished := true } else e
        else D.ops.filter fun e => e.id != o.id }
  s5.reapTeam o.tid

/-- A line entry of a CPY: its transfers in order of lanes; those that meet an error are not made (R143, R294). A byte
that a higher lane has written through an earlier entry stays. The requests for the lines of a far target that engines
have taken go out together. -/
def State.runCpy (s : State) (d : Nat) (o : EngineOp) (i : Nat) (toScr : Bool) (lvl w : Nat) (ts : List Transfer) : State :=
  let lns := transferLines ts
  let ln := lns.getD i (0, 0)
  let x := spaceScr o.core (lvl + 1)
  let after (t : Transfer) : Bool := o.gone.any fun j => lns[j]? == some (lineOf t.va, lineOf t.pa)
  let ended (u : State) (f : Option OpFail) : State :=
    let e : EngineOp := { o with gone := o.gone ++ [i], failed := firstFail o.failed f }
    if e.size ≤ e.gone.length then u.endOp d e none else u.modOp d o.id fun _ => e
  let mine := ts.zipIdx.filter fun e => (lineOf e.1.va, lineOf e.1.pa) == ln
  let first := ((mine.head?).map (·.1.va)).getD ln.1
  let move (a : State × Option OpFail) (e : Transfer × Nat) : State × Option OpFail :=
    let t := e.1
    if toScr then
      if a.1.bad t.pa w then (a.1.noteLine o.ctx (srcDie d) t.pa w, firstFail a.2 (some (poisonAt t.va)))
      else
        let later := (ts.drop (e.2 + 1)).filter after
        ((List.range w).foldl (fun u b =>
          if later.any fun k => k.scr ≤ t.scr + b && t.scr + b < k.scr + w then u
          else u.scrWrite x (t.scr + b) (u.rd (t.pa + b) 1)) a.1, a.2)
    else if a.1.scrBad x t.scr w then (a.1, firstFail a.2 (some (poisonAt t.va)))
    else (a.1.wr t.pa (a.1.scrRead x t.scr w), a.2)
  match s.reach ln.2 with
  | .ok =>
    let r := mine.foldl move (s, none)
    ended r.1 r.2
  | .now => ended (s.noteLine o.ctx (srcDie d) ln.2 128) (some (poisonAt first))
  | .late =>
    if s.farEnded (o.who d) ln.2 then ended s (some (poisonAt first))
    else s.openUnit o.ctx (o.who d) ((((s.cpyOpen d o).map fun j => (lns.getD j (0, 0)).2).filter fun a => s.reach a == .late).eraseDups)

/-- A CPYB goes on from where it stands: the aligned words of the destination in ascending order, up to the first that
fails or that waits; no word is written in parts (R144, R149, R295; log entry 9). -/
def State.runCopy (s : State) (d : Nat) (o : EngineOp) (S D : Side) (n : Nat) : State :=
  let words (off : Nat) : List Chunk :=
    ((wordCuts D.base n).filter fun c => o.pos ≤ c.1 && c.1 + c.2 ≤ off).map fun c => (c.1, c.1, c.2)
  match s.reachOp d o (bothWants S D n n o.pos (o.pos != 0)) with
  | (t, .wait ps off) =>
    let r := State.moveChunks o.core ps S D t (words off)
    match r.2 with
    | some f => (r.1.noteOp d o S r.2).endOp d o (some f)
    | none => r.1.modOp d o.id fun e => { e with pos := (((words off).getLast?).map fun c => c.1 + c.2.2).getD o.pos }
  | (t, .ok ps) =>
    let r := State.moveChunks o.core ps S D t (words n)
    (r.1.noteOp d o S r.2).endOp d o r.2
  | (t, .fail ps off f) =>
    let r := State.moveChunks o.core ps S D t (words off)
    (r.1.noteOp d o S r.2).endOp d o (firstFail r.2 (some f))

/-- A TMOV: rows in ascending order, 16-byte chunks within a row in ascending order (R134). -/
def State.runTmov (s : State) (d : Nat) (o : EngineOp) (S D : Side) (rows rb ss ds : Nat) : State :=
  let r := State.moveChunks o.core [] S D s
    ((List.range rows).flatMap fun i => (List.range (rb / 16)).map fun j => (i * ss + 16 * j, i * ds + 16 * j, 16))
  r.1.endOp d o r.2

/-- The code at an index of a little-endian bit stream (R147). -/
def codeAt (bs : List Byte) (cw j : Nat) : Nat := bits (byteField bs (j * cw / 8) 2) (j * cw % 8) cw

/-- What a block yields under a table: the elements, and how many codes lie at or beyond the entry count. -/
def decodeBlock (T : DecodeTable) (cw : Nat) (bs : List Byte) (B : Nat) : List Byte × Nat :=
  if T.failed.isSome then (List.replicate (2 * B) 0, 0)
  else
    let codes := (List.range B).map (codeAt bs cw)
    (codes.flatMap fun c => leBytes 2 ((T.entries[c]?).getD 0).toNat, (codes.filter (T.entries.length ≤ ·)).length)

/-- The status record of a stream (R299). -/
def Stream.bytes (st : Stream) : List Byte :=
  let head := st.tables.head?
  leBytes 8 st.stall ++ leBytes 8 st.blocks ++
    leBytes 4 (st.tables.length % 8 + b2n ((head.map (·.ready)).getD false) * 8 +
      b2n ((head.bind (·.failed)).isSome) * 16) ++ leBytes 4 st.overs ++ leBytes 8 0

/-- Writing the status record of a stream (R299); a record that cannot be written is not. -/
def State.writeStatus (s : State) (d k : Nat) : State :=
  let base := (s.ctx (k / 16)).dword 0x1B0
  let st := (s.die d).stream k
  let s1 := s.modDie d fun D => { D with streams := tset D.streams k { st with lastWr := s.cycle d } }
  if base == 0 then s1
  else
    match s1.vaWrite (k / 16) (base + 512 * d + 32 * (k % 16)) st.bytes with
    | .ok t => t
    | .error e => s1.noteFault (k / 16) (srcDie d) e

/-- A block takes the table at the head of its stream (R147, R264). -/
def State.takeTable (s : State) (d k overs : Nat) : State :=
  s.modDie d fun D =>
    let st := D.stream k
    { D with streams := tset D.streams k { st with
        tables := st.tables.drop 1
        blocks := (st.blocks + 1) % 2 ^ 64
        overs := (st.overs + overs) % 2 ^ 32 } }

/-- The bytes of `n` chunks of 4 bytes of a side, or the first failure. -/
def State.sideWords (s : State) (core : Nat) (ps : Parts) (S : Side) : List Nat → Except OpFail (List Byte)
  | [] => .ok []
  | a :: t =>
    match s.sideRead core ps S a 4 with
    | .error f => .error f
    | .ok bs => (s.sideWords core ps S t).map (bs ++ ·)

/-- One block of a decode operation under the table at the head of its stream (R147). A block that cannot be read or
written takes its table and writes nothing; an operation that failed to start writes nothing. The part of an aligned
word at the end of a block is written with the block that completes the word, or at the end (R295; log entry 9). -/
def State.runBlock (s : State) (d : Nat) (o : EngineOp) (T : DecodeTable) (src : Nat) (D : Side)
    (cw B n k swz : Nat) : State :=
  let last := n / B ≤ o.pos + 1
  let ends (t : State) (f : Option OpFail) (overs : Nat) (tail : List (Option Scr × Nat × List Byte)) : State :=
    let e : EngineOp :=
      { o with pos := o.pos + 1, failed := firstFail o.failed (firstFail T.failed f), tail := tail,
               flags := if overs == 0 then o.flags else o.flags ||| ofDecode }
    let u := ((t.clearFaults (o.who d)).takeTable d k overs).writeStatus d k
    let u1 := u.modDie d fun Q => { Q with ops := Q.ops.map fun q => if q.id == o.id then e else q }
    if last then u1.endOp d e none else u1
  let S : Side := { space := 0, base := src + o.pos * B * cw / 8, swizzle := swz }
  let E : Side := { D with base := D.base + 2 * B * o.pos }
  if o.kind.ring != 0 && o.slot.isNone then ends s none 0 []
  else
    match s.reachOp d o (bothWants S E (B * cw / 8) (2 * B) 0 (o.pos != 0)) with
    | (t, .wait _ _) => t
    | (t, .fail _ _ f) => ends (t.putPlaces o.tail) (some f) 0 []
    | (t, .ok ps) =>
      match t.sideWords o.core ps S ((List.range (B * cw / 32)).map (4 * ·)) with
      | .error f => ends ((t.noteOp d o S (some f)).putPlaces o.tail) (some f) 0 []
      | .ok bs =>
        let r := decodeBlock T cw bs B
        let ws := (wordCuts E.base (2 * B)).map fun c => E.places o.core ps c.1 (sliceBytes r.1 c.1 c.2)
        let held := if last || (E.base + 2 * B) % 4 == 0 then 0 else 1
        ends (t.putPlaces (o.tail ++ (ws.take (ws.length - held)).flatten)) none r.2 (ws.drop (ws.length - held)).flatten

/-- The source of an announcement has been read (R152): the tile sets out from its die router, and the contribution is
made at the end of its way up. A failed read fails the operation. -/
def State.runAnnounce (s : State) (d : Nat) (o : EngineOp) (S : Side) (n reach name : Nat) : State :=
  match s.reachOp d o (S.wants .read n 0 false) with
  | (t, .wait _ _) => t
  | (t, .fail _ _ f) => t.endOp d o (some f)
  | (t, .ok ps) =>
    match t.sideWords o.core ps S ((List.range (n / 4)).map (4 * ·)) with
    | .error f => (t.noteOp d o S (some f)).endOp d o (some f)
    | .ok bs =>
      let u := (t.clearFaults (o.who d)).modDie d fun D => { D with ops := D.ops.filter fun e => e.id != o.id }
      let f : Flight :=
        { id := u.nextOp, ctx := o.ctx, name := name, reach := reach, at_ := d, bytes := bs, up := true, obj := o.obj,
          origin := o.origin }
      State.reapTeam { u with nextOp := u.nextOp + 1, flights := u.flights ++ [f] } o.tid

/-- Every slot claimed before that of an operation has been published (R142, R266). Publication is by count, so software
may have counted past the slot. -/
def Ring.publishes (r : Ring) (w : Nat) : Bool := (r.rd + r.f + 2 ^ 32 - w % 2 ^ 32) % 2 ^ 32 < 2 ^ 31

/-- A finished operation publishes its slot and is listed no more; when its ring can no longer be reached, nothing is
published. -/
def State.publishOp (s : State) (d : Nat) (o : EngineOp) : State :=
  let drop (t : State) : State :=
    (t.clearFaults (o.who d)).modDie d fun D => { D with ops := D.ops.filter fun e => e.id != o.id }
  match s.served64 (o.who d) (some d) o.ctx ((s.ctx o.ctx).ringVa o.kind.ring) with
  | (t, .wait) => t
  | (t, .fail _ _) => drop t
  | (t, .ok pa) =>
    match parseRing (t.rd pa 64) with
    | none => drop t
    | some r =>
      if r.publishes (o.slot.getD 0) then
        match r.publish 1 with
        | some r1 => drop (t.putRing pa r1)
        | none => drop t
      else t

/-- A step of an operation is due: its work, its next block, or its publication. -/
def State.opDue (s : State) (d : Nat) (o : EngineOp) : Bool :=
  match o.kind with
  | .cpy .. => !(s.cpyOpen d o).isEmpty
  | k =>
  !s.pendingFault (o.who d) &&
    (if o.finished then
      ((s.ringNow o.ctx k.ring).map fun r => r.publishes (o.slot.getD 0)).getD true
     else
      match k with
      | .table .. => false
      | .decode _ _ _ _ _ st _ _ =>
        let k := streamKey o.ctx st
        (((s.die d).front k).map (·.id)) == some o.id && !(s.die d).stalled k
      | _ => o.taken)

/-- The work of an operation, as far as it has been taken. -/
def State.runOp (s : State) (d : Nat) (o : EngineOp) : State :=
  match o.kind with
  | .decode src D cw B n st _ swz =>
    match ((s.die d).stream (streamKey o.ctx st)).tables with
    | T :: _ => s.runBlock d o T src D cw B n (streamKey o.ctx st) swz
    | [] => s
  | .table .. => s
  | .cpy toScr lvl w ts =>
    match s.cpyOpen d o with
    | i :: _ => s.runCpy d o i toScr lvl w ts
    | [] => s
  | k =>
    if o.failed.isSome then s.endOp d o none
    else
      match k with
      | .copy S D n _ _ => s.runCopy d o S D n
      | .tmov S D rows rb ss ds => s.runTmov d o S D rows rb ss ds
      | .announce S n reach name => s.runAnnounce d o S n reach name
      | _ => s

/-- OPERATION_COMPLETION: an operation of a die does its work and completes, or publishes its slot. -/
def execOperationCompletion (die op : Nat) (s : State) : Out :=
  .next (match (s.die die).ops.find? (·.id == op) with
    | some o => if !s.opDue die o then s else if o.finished then s.publishOp die o else s.runOp die o
    | none => s)

/-! ## Tables -/

/-- An entry of a table, converted to nearest even (R146). -/
def tableEntry (bf : Bool) (v : Nat) : BitVec 16 :=
  let f := if bf then bf16 else fp16
  BitVec.ofNat 16 (f.ofNum 0 false (fp32.decode false v)).1

/-- The oldest table of a stream whose read is under way and is not held: reads complete in any order (R264, R292). -/
def State.tableDue (s : State) (d k : Nat) : Option EngineOp :=
  ((s.die d).stream k).tables.findSome? fun T =>
    if T.arrived then none
    else (s.die d).ops.find? fun o => o.id == T.op && o.taken && !s.pendingFault (o.who d)

/-- The tables up to the first that has not arrived are ready: they become so in order (R264). -/
def readyTables : List DecodeTable → List DecodeTable
  | [] => []
  | T :: t => if T.arrived then { T with ready := true } :: readyTables t else T :: t

/-- The table of an operation has arrived, with its entries or as failed. -/
def State.setTable (s : State) (d k : Nat) (o : EngineOp) (r : Except OpFail (List (BitVec 16))) : State :=
  s.modDie d fun D =>
    let st := D.stream k
    { D with streams := tset D.streams k { st with
        tables := readyTables (st.tables.map fun T =>
          if T.op == o.id then
            match r with
            | .ok es => { T with arrived := true, entries := es }
            | .error f => { T with arrived := true, failed := some f }
          else T) } }

/-- TABLE_READY: the read of a table of a stream completes (R146, R264). -/
def execTableReady (die ctx stream : Nat) (s : State) : Out :=
  let k := streamKey ctx stream
  .next (match s.tableDue die k with
    | none => s
    | some o =>
      match o.kind with
      | .table src n _ bf swz =>
        let S : Side := { space := 0, base := src, swizzle := swz }
        match s.reachOp die o (S.wants .read (4 * n) 0 false) with
        | (t, .wait _ _) => t
        | (t, .fail _ _ f) => (t.setTable die k o (.error f)).endOp die o (some f)
        | (t, .ok ps) =>
          match t.sideWords o.core ps S ((List.range n).map (4 * ·)) with
          | .error f => ((t.noteOp die o S (some f)).setTable die k o (.error f)).endOp die o (some f)
          | .ok bs =>
            (t.setTable die k o (.ok ((bytesWords n bs).map fun w => tableEntry bf w.toNat))).endOp die o none
      | _ => s)

/-- A status record is due while a block of the stream stalls (R299). -/
def State.statusDue (s : State) (d k : Nat) : Bool :=
  (s.die d).stalled k && ((s.die d).stream k).lastWr + 65536 ≤ s.cycle d

/-- STREAM_STATUS_WRITE. -/
def execStreamStatusWrite (die ctx stream : Nat) (s : State) : Out :=
  let k := streamKey ctx stream
  .next (if s.statusDue die k then s.writeStatus die k else s)

/-- Counting the stall cycles of a die's streams (R265). -/
def Die.countStalls (D : Die) : Die :=
  D.streamKeys.foldl (fun E k =>
    if D.stalled k then { E with streams := tset E.streams k { E.stream k with stall := ((E.stream k).stall + 1) % 2 ^ 64 } }
    else E) D

/-! ## Steps on objects, far requests -/

/-- BYTE_CONTRIBUTION: a step on an object that an operation or a launch still has to make. -/
def execByteContribution (n : Nat) (s : State) : Out :=
  .next (match tget? s.contribs n with
    | some c => if s.pendingFault (.contribution n) then s else (s.makeStep n c).sweepCompleting
    | none => s)

/-- A far request has not completed within its time (R277): its lines are logged, and the fibres or the unit that wait for
it go on with the error. -/
def State.endRemote (s : State) (n : Nat) (r : Remote) : State :=
  let src : ErrSrc := (r.who.map s.unitSrc).getD (srcCore r.core)
  let t := r.lines.foldl (fun u ln => u.noteLine r.ctx src ln 128) s
  match r.who with
  | none => { t with remotes := tdel t.remotes n }
  | some (.posted _ _ drop) =>
    let u : State := { t with remotes := tdel t.remotes n }
    match drop with
    | some d => u.ringDrop r.ctx d
    | none => u
  | some _ => { t with remotes := tset t.remotes n { r with ended := true } }

/-- REMOTE_TIMEOUT. -/
def execRemoteTimeout (n : Nat) (s : State) : Out :=
  .next (match tget? s.remotes n with
    | some r => if s.now < r.due || r.ended then s else s.endRemote n r
    | none => s)

end Sys2Proof.Machine
end

