-- ==== Sys2Proof/Machine/Fibre.lean ====
section
/-!
DEFINITION. Fibres, reconvergence, spawned groups and yield points (R60-R67, 02_control_arith.md; R238, R259).
-/

namespace Sys2Proof.Machine

/-! ## FORK and FEND -/

/-- The lowest free lanes of a group, ascending. -/
def Group.freeLanes (G : Group) : List Nat := (List.range 32).filter fun l => !(G.lane l).live

/-- The child of a fibre (R61). -/
def forkChild (R : Group) (f target d : Nat) : Lane :=
  (Lane.start target).withRegs (((List.range 8).map fun k => R.v f k)) |> fun L =>
    { L with regs := tput L.regs d (word (0x80000000 + f)) 0 }

/-- FORK. -/
def execFork (d n : BitVec 7) (c : BitVec 3) : State → Out :=
  issue { ins := .fork d n c, c := c, ops := [ov d, osn 2 n, .v 0 8 1] } fun I s =>
    let target := I.R.spair n.toNat
    match badTarget target with
    | some t => .go s (trapAll I t)
    | none =>
      let pairs := I.act.zip I.G.freeLanes
      let s1 := s.modGroup I.core I.g fun G =>
        let H := pairs.foldl (fun H (e : Nat × Nat) => H.modLane e.2 fun _ => forkChild I.R e.1 target d.toNat) G
        if pairs.isEmpty then H else { H with batches := H.batches ++ [Batch.fresh (maskOf (pairs.map (·.2)))] }
      .go s1 (I.act.map fun l =>
        let w := match pairs.find? fun e => e.1 == l with
          | some e => word e.2
          | none => 0xFFFFFFFF
        { lane := l, writes := [(.v l d.toNat, w)] })

/-- FEND. -/
def execFend (c : BitVec 3) : State → Out :=
  issue { ins := .fend c, c := c } (eachLane fun _ l => { lane := l, ends := true })

/-! ## RCV and YIELD -/

/-- The address at which a batch waits for reconvergence. -/
def Batch.rcvAt (B : Batch) : Option Nat :=
  match B.wait with
  | some (.rcv a _) => some a
  | _ => none

/-- The batches that a reconvergence at `pc` by the batch in place `bi` merges: none while some other fibre of the group
has not arrived, or while fibres wait at a lower address (R63, R64). -/
def Group.rcvReady (G : Group) (bi pc : Nat) : Option (List Nat) :=
  let others := (List.range G.batches.length).filter (· != bi)
  let at_ (i : Nat) : Option Nat := (G.batches[i]?).bind Batch.rcvAt
  if G.lanes.any fun e => e.2.live && e.2.parked.isSome then none
  else if others.any fun i => (at_ i).isNone then none
  else if others.any fun i => (at_ i).any (· < pc) then none
  else some ((List.range G.batches.length).filter fun i => i == bi || at_ i == some pc)

/-- Merging batches into one at a PC, in the place of the oldest (R54). -/
def Group.merge (G : Group) (is : List Nat) (pc : Nat) : Group :=
  let m := is.foldl (fun a i => a ||| ((G.batches[i]?).map (·.lanes)).getD 0) (0 : BitVec 32)
  let H := (lanesOf m).foldl (fun H l => H.modLane l fun L => { L with pc := pc }) G
  let old := is.headD 0
  { H with batches := (H.batches.zipIdx.filterMap fun (B, i) =>
      if i == old then some (Batch.fresh m) else if is.contains i then none else some B) }

/-- RCV: the batch waits; when every live fibre has arrived, the waiting batches merge and go on (R63, R64). -/
def execRcv (c : BitVec 3) : State → Out :=
  issue { ins := .rcv c, c := c, pred := false } fun I s =>
    match if I.first then none else I.G.rcvReady I.bi I.pc with
    | some is => .done (s.setGroup I.core I.g (I.G.merge is (I.pc + 4)))
    | none => .wait s (.rcv I.pc false)

/-- A YIELD of the group is a team boundary: pre-emption is pending, or a migration request stands, and no fibre of the
group is in handler mode (R67, R238, R246, R258, R259). A YIELD of a generator team never is (R401). -/
def State.atBoundary (s : State) (I : Issue) : Bool :=
  (s.draining I.x || I.T.migrate.isSome) && I.T.gen.isNone && !(I.G.lanes.any fun e => e.2.live && e.2.handler)

/-- YIELD: as RCV, then on, or the boundary wait of the group (R67, R201). Its touch entries are over (R116). The spec does
not say how reconvergence counts a fibre that a PRED hint excludes at the YIELD: it waits with its batch, counts as arrived,
and merges (DESIGN CHOICE, log entry 36). -/
def execYield (c : BitVec 3) : State → Out :=
  issue { ins := .yield c, c := c } fun I s =>
    match if I.first then none else I.G.rcvReady I.bi I.pc with
    | some is =>
      let G := { I.G.merge is (I.pc + 4) with touches := [] }
      .done (s.setGroup I.core I.g (if s.atBoundary I then { G with st := .boundary } else G))
    | none => .wait s (.rcv I.pc true)

/-! ## SPAWN -/

/-- The group that SPAWN creates (R65). -/
def spawned (I : Issue) (a n : BitVec 7) : Group :=
  let target := I.R.spair n.toNat
  let lanes := I.act.map fun l =>
    (l, (Lane.start target).withRegs ((List.range 8).map fun k => I.R.v l (a.toNat + k)))
  { Group.start I.tid I.x I.G.role I.G.budget lanes with
      sregs := I.R.sregs, fpmode := I.R.fpmode, compat := I.G.compat }

/-- Creating the group, when a context and a place in the team are free (R65). -/
def State.trySpawn (s : State) (I : Issue) (a n : BitVec 7) : Option State :=
  if 32 ≤ (s.teamGroups I.tid).length then none
  else (s.placeGroup I.core ((s.core I.core).partOf I.g) I.T.lsize true (spawned I a n)).map (·.1)

/-- SPAWN: it waits until a context is free. -/
def execSpawn (a n : BitVec 7) (c : BitVec 3) : State → Out :=
  issue { ins := .spawn a n c, c := c, ops := [ovn 8 a, osn 2 n, .s 0 63 1] } fun I s =>
    match badTarget (I.R.spair n.toNat) with
    | some t => .go s (trapAll I t)
    | none =>
      match s.trySpawn I a n with
      | some t => .go t []
      | none => .wait s (.poll 15)

/-- SPAWN.T: it tells in p[K] whether the group was created (R66). -/
def execSpawnT (k : BitVec 3) (a n : BitVec 7) (c : BitVec 3) : State → Out :=
  issue { ins := .spawnT k a n c, c := c, ops := [op k, ovn 8 a, osn 2 n, .s 0 63 1] } fun I s =>
    match badTarget (I.R.spair n.toNat) with
    | some t => .go s (trapAll I t)
    | none =>
      let done (ok : Bool) : List LaneOut := I.act.map fun l => { lane := l, writes := [wpred l k.toNat ok] }
      match s.trySpawn I a n with
      | some t => .go t (done true)
      | none => .go s (done false)

end Sys2Proof.Machine
end

