-- ==== Sys2Proof/Machine/Generator.lean ====
section
/-!
DEFINITION. The generator instructions (R155-R157, 03_memory_instr.md; R385, R400-R406, 18_program_names.md and
19_names_procedural.md).
-/

namespace Sys2Proof.Machine

/-- GREQ. -/
def execGreq (n d : BitVec 7) (c : BitVec 3) : State → Out :=
  issue { ins := .greq n d c, c := c, ops := [os d, osn 2 n], scope := true, feat := 4 } fun I s =>
    let ctl := (I.R.s n.toNat).toNat
    let answer (u : State) (v : Word) : Result := .go u (scalarOut I [(.s d.toNat, v)])
    if 16 ≤ ctl then .go s (trapAll I (mkTrap fcIllop 0 ctl))
    else
      match (I.T.rec_ ctl).addr (I.R.s (n.toNat + 1)).toNat 4 true false with
      | .error t => .go s (trapAll I t)
      | .ok none => answer s 5
      | .ok (some (va, pva)) =>
        let r := s.xlateCore I.core I.x (lineOf pva) .read
        match r.1.ownBlock I.x I.T.gen (lineOf pva) r.2 with
        | .fault code => (r.1.walkErr I.x (mkTrap code 0 pva)).stop I r.1
        | .ok _ flags => answer r.1 (if bit flags 7 then 2 else 4)
        | .proc block fs =>
          if (r.1.ctx I.x).evictsBlock block then answer r.1 2
          else if fs == fsPoisoned then answer r.1 3
          else
            match r.1.meetBlock I.x I.T.gen block fs va with
            | (t, some tr) => .go t (trapAll I tr)
            | (t, none) => answer t (word fs)

/-- GDONE and GFAIL: the first in the team decides; of both in one cycle GFAIL decides (R157, R406). A team that is no
generator raises PROT. They wait while a store of the group is on its way to a far target, and perform the others first
(R314). -/
def decideFill (v : Option Nat) (I : Issue) (s : State) : Result :=
  match I.T.gen with
  | none => .go s (trapAll I (mkTrap fcProt 0 0))
  | some g =>
    if s.farStores I.core I.g then .wait s (.poll 15)
    else
    let s1 := s.drainWc I.core I.g
    let takes := !g.decided && (g.verdict.isNone || (g.verdict == some none && v.isSome))
    .go (if takes then s1.modTeam I.tid fun T => { T with gen := some { g with verdict := some v } } else s1) []

/-- GDONE. -/
def execGdone (c : BitVec 3) : State → Out :=
  issue { ins := .gdone c, c := c, scope := true, feat := 4 } (decideFill none)
/-- GFAIL. -/
def execGfail (k : BitVec 7) (c : BitVec 3) : State → Out :=
  issue { ins := .gfail k c, c := c, ops := [os k], scope := true, feat := 4 } fun I =>
    decideFill (some ((I.R.s k.toNat).toNat % 65536)) I

end Sys2Proof.Machine
end

