-- ==== Sys2Proof/Machine/Geometry.lean ====
section
/-!
DEFINITION. The mesh instructions and the way of primitives to the binners (R173, R174,
04_matrix_graphics_system_instr.md; R324, 13_program_overflow.md; R326, R330-R332, 14_rendering.md).
-/

namespace Sys2Proof.Machine

/-! ## MOUT -/

/-- Words of the unit scratchpad at an offset of the team's allocation. -/
def State.unitWords (s : State) (T : Team) (off n : Nat) : List Word :=
  bytesWords n (s.scrRead (.unit T.core) (T.ubase + off) (4 * n))

/-- The lowest free meshlet slot of a core, of 16 (R173). -/
def Core.freeMeshlet (C : Core) : Option Nat := (List.range 16).find? fun k => (tget? C.meshlets k).isNone

/-- MOUT. The spec does not say what an uncorrectable word of the vertex data does: POISON with the offset of the block, a
word in the gap between two vertices included (DESIGN CHOICE, log entry 77). -/
def execMout (n d : BitVec 7) (c : BitVec 3) : State → Out :=
  issue { ins := .mout n d c, c := c, ops := [os d, osn 4 n], feat := 7 } fun I s0 =>
    let s := s0.landUnit I
    match sregs I n 4 with
    | [off, cw, stride, z] =>
      let cnt := bits cw 0 9
      let na := bits cw 9 5
      let last := off + (cnt - 1) * stride + 16 + 4 * na
      match firstTrap
          [illopIf (cnt == 0 || 256 < cnt || 16 < na || bits cw 14 18 != 0) cw,
           illopIf (stride % 16 != 0 || stride < 16 + 4 * na) stride, illopIf (z != 0) z,
           trapIf (off % 16 != 0) fcAlign 0 off, trapIf (I.T.usize < last) fcOob 0 off,
           trapIf (s.scrBad (.unit I.core) (I.T.ubase + off) (last - off)) fcPoison 0 off] with
      | some t => .go s (trapAll I t)
      | none =>
        match (s.core I.core).freeMeshlet with
        | none => .wait s (.poll 15)
        | some k =>
          let verts := (List.range cnt).map fun v =>
            let ws := s.unitWords I.T (off + v * stride) (4 + na)
            (ws.take 4, ws.drop 4)
          .go (s.modCore I.core fun C =>
              { C with meshlets := tset C.meshlets k { tid := I.tid, attrs := na, verts := verts } })
            (scalarOut I [(.s d.toNat, word k)])
    | _ => .go s []

/-! ## Passes and batches -/

/-- The open pass that a team feeds, with its launch and the number of the team's batch (R326). -/
def State.batchPass (s : State) (T : Team) : Option (Nat × Nat × Pass) :=
  match (tget? s.launches T.lid).bind (·.batchOf) with
  | none => none
  | some (lid, b) => (tget? s.passes lid).map fun P => (lid, b, P)

/-- The range of primitive indices of a team (R331): the first and one past the last. -/
def primSpan (pspan t : Nat) : Nat × Nat :=
  if pspan == 0 then (0, if t == 0 then 2 ^ 32 else 0) else (t * 2 ^ pspan, (t + 1) * 2 ^ pspan)

/-- The binner of a pass on a die. -/
def Pass.binner (P : Pass) (d : Nat) : Binner := tget P.binners d { held := [], ends := [] }

/-- The dies that bin for a pass. -/
def Pass.binDies (P : Pass) : List Nat := (List.range 8).filter (bit P.rs.binmask)

/-- A binner holds the end markers of every team of a batch below a number. -/
def Binner.endsBelow (B : Binner) (b t : Nat) : Bool :=
  (List.range t).all fun k => B.ends.contains (b, k)

/-- The teams of a batch, none while the batch has not been taken. -/
def Pass.teamsOf (P : Pass) (b : Nat) : Option Nat := P.sizes[b]?

/-- A binner has appended all of a batch: every end marker is there and no record is held (R332). -/
def Pass.appended (P : Pass) (d b : Nat) : Bool :=
  let B := P.binner d
  match P.teamsOf b with
  | none => false
  | some n => B.endsBelow b n && B.held.all fun r => r.batchSeq != b

/-- The team whose records a binner appends next is at or after this one: every lower team of its batch and every team
of the earlier batches has ended (R332). -/
def Pass.front (P : Pass) (d b t : Nat) : Bool :=
  (P.binner d).endsBelow b t && (List.range b).all fun k =>
    match P.teamsOf k with
    | none => false
    | some n => (P.binner d).endsBelow k n

/-- The oldest batch that some binner has not fully appended (R332). -/
def Pass.oldest (P : Pass) : Nat :=
  ((List.range P.taken).find? fun b => !P.binDies.all fun d => P.appended d b).getD P.taken

/-- A binner has room for records of a team: 8,192 places, of which 1,024 are kept for the team next in its order
(R332). -/
def Pass.room (P : Pass) (d b t n : Nat) : Bool :=
  let held := (P.binner d).held
  if P.front d b t then held.length + n ≤ 8192
  else ((held.filter fun r => !P.front d r.batchSeq r.team).length) + n ≤ 7168 && held.length + n ≤ 8192

/-- The records of a submission for a die's binner: each names the tiles that the die bins (R330). -/
def binnerRecs (rs : RenderState) (d : Nat) (recs : List PrimRec) : List PrimRec :=
  recs.filterMap fun r =>
    let ts := r.tiles.filter fun t => rs.binner t == d
    if ts.isEmpty then none else some { r with tiles := ts }

/-- The batch window and the room of the binners admit a submission (R332). -/
def Pass.admits (P : Pass) (b t : Nat) (recs : List PrimRec) : Bool :=
  b < P.oldest + 4 && P.binDies.all fun d =>
    let n := (binnerRecs P.rs d recs).length
    n == 0 || P.room d b t n

/-- The records reach their binners; each path keeps the order of a team (R332). -/
def Pass.submit (P : Pass) (recs : List PrimRec) : Pass :=
  { P with binners := P.binDies.foldl (fun bs d =>
      let rs := binnerRecs P.rs d recs
      if rs.isEmpty then bs
      else
        let B := tget bs d { held := [], ends := [] }
        tset bs d { B with held := B.held ++ rs }) P.binners }

/-! ## PRIM -/

/-- A record of a primitive, none when the binner drops it. The default image is that of R330; another one defines the
transform, the culling and the coverage (R348). -/
def State.primRec (s : State) (P : Pass) (b t prim topo cull : Nat) (vs : List (List Word × List Word)) :
    State × Option PrimRec :=
  let mk (ss : List (List Word)) (ts : List Nat) : PrimRec :=
    { batchSeq := b, team := t, prim := prim, topo := topo, verts := { xyzw := ss, attrs := vs.map (·.2) }, tiles := ts }
  match tget? P.images 1 with
  | none => (s, (binDefault P.rs topo cull (vs.map (·.1))).map fun r => mk r.1 r.2)
  | some k =>
    let (u, n) := s.draw
    let v (j : Nat) : Word := Config.imageResult k n j
    let ss := vs.zipIdx.map fun (x, i) => [v (4 * i + 1), v (4 * i + 2), v (4 * i + 3), x.1.getD 3 0]
    let ts := (List.range P.ntiles).filter fun j => v (16 + j) != 0
    (u, if v 0 == 0 || ts.isEmpty then none else some (mk ss ts))

/-- The vertices of each primitive of a submission. -/
def primVerts (M : Meshlet) (per : Nat) : List Nat → Nat → List (List (List Word × List Word))
  | _, 0 => []
  | idx, n + 1 => ((idx.take per).map fun i => M.verts.getD i ([], [])) :: primVerts M per (idx.drop per) n

/-- A submission that has passed its checks waits for the window and the room, or reaches the binners. -/
def primSend (I : Issue) (s : State) (recs : List PrimRec) : Result :=
  match s.batchPass I.T with
  | none => .go s []
  | some (lid, b, P) =>
    if P.admits b I.T.index recs then .go { s with passes := tset s.passes lid (P.submit recs) } []
    else .wait s (.prim recs)

/-- PRIM: its indices are read at issue (R174). -/
def execPrim (n : BitVec 7) (c : BitVec 3) : State → Out :=
  issue { ins := .prim n c, c := c, ops := [osn 4 n], feat := 7 } fun I s0 =>
    let s := s0.landUnit I
    match I.B.wait, sregs I n 4 with
    | some (.prim recs), _ => primSend I s recs
    | _, [cw, ioff, nw, base] =>
      let h := bits cw 0 4
      let topo := bits cw 5 2
      let cull := bits cw 7 2
      let cnt := bits nw 0 16
      let per := 3 - topo
      match firstTrap [illopIf (topo == 3 || cull == 3 || bits cw 9 23 != 0) cw,
          illopIf (cnt == 0 || 256 < cnt || bits nw 16 16 != 0) nw] with
      | some t => .go s (trapAll I t)
      | none =>
        match (tget? (s.core I.core).meshlets h).filter fun M => M.tid == I.tid with
        | none => .go s (trapAll I (mkTrap fcIllop 0 cw))
        | some M =>
          let idx := (s.scrRead (.unit I.core) (I.T.ubase + ioff) (cnt * per)).map (·.toNat)
          let inUnit : Bool := ioff + cnt * per ≤ I.T.usize
          let badIdx := if inUnit then idx.findIdx? fun i => M.verts.length ≤ i else none
          let late : Bool := (I.T.lastPrim.map fun p => decide (base ≤ p)).getD false
          match firstTrap
              [trapIf (!inUnit) fcOob 0 ioff,
               trapIf (s.scrBad (.unit I.core) (I.T.ubase + ioff) (cnt * per)) fcPoison 0 ioff,
               badIdx.map fun j => mkTrap fcOob 0 (ioff + j), illopIf late base] with
          | some t => .go s (trapAll I t)
          | none =>
            match (s.batchPass I.T).filter fun p => !p.2.2.closed with
            | none => .go s (trapAll I (mkTrap fcIllop 0 0))
            | some (_, b, P) =>
              let (lo, hi) := primSpan P.rs.pspan I.T.index
              match (List.range cnt).find? fun j => !(lo ≤ base + j && base + j < hi) with
              | some j => .go s (trapAll I (mkTrap fcOob 0 (base + j)))
              | none =>
                let s1 := s.modTeam I.tid fun T => { T with lastPrim := some (base + cnt - 1) }
                let s2 := if bit cw 4 then s1.modCore I.core fun C => { C with meshlets := tdel C.meshlets h } else s1
                let r := (primVerts M per idx cnt).zipIdx.foldl (fun (a : State × List PrimRec) e =>
                  let q := a.1.primRec P b I.T.index (base + e.2) topo cull e.1
                  (q.1, a.2 ++ q.2.toList)) (s2, [])
                primSend I r.1 r.2
    | _, _ => .go s []

end Sys2Proof.Machine
end

