-- ==== Sys2Proof/Machine/GroupOps.lean ====
section
/-!
DEFINITION. Lane exchange, election and votes (R68-R70, 02_control_arith.md; R17 gives their latency).
-/

namespace Sys2Proof.Machine

/-- The value that a fibre takes from a source lane: that fibre's register when it is active, else its own (R70). -/
def fromLane (I : Issue) (l src : Nat) (a : BitVec 7) : Word :=
  if I.act.contains src then I.R.v src a.toNat else I.R.v l a.toNat

/-- SHFL. -/
def execShfl (d a b : BitVec 7) (c : BitVec 3) : State → Out :=
  issue { ins := .shfl d a b c, c := c, ops := [ov d, ov a, ov b], lat := some 6
          peers := peerV (fun G l => (G.v l b.toNat).toNat % 32) a.toNat }
    (eachLane fun I l => { lane := l, writes := [(.v l d.toNat, fromLane I l ((I.R.v l b.toNat).toNat % 32) a)] })

/-- SHFL.X. -/
def execShflX (d a : BitVec 7) (m : BitVec 5) (c : BitVec 3) : State → Out :=
  issue { ins := .shflX d a m c, c := c, ops := [ov d, ov a], lat := some 6, peers := peerV (fun _ l => l ^^^ m.toNat) a.toNat }
    (eachLane fun I l => { lane := l, writes := [(.v l d.toNat, fromLane I l (l ^^^ m.toNat) a)] })

/-- ELECT. -/
def execElect (k : BitVec 5) (c : BitVec 3) : State → Out :=
  issue { ins := .elect k c, c := c, ops := [op k], lat := some 6 }
    (eachLane fun I l => { lane := l, writes := [wpred l k.toNat (l == I.low)] })

/-- VOTE.ANY. -/
def execVoteAny (k j : BitVec 5) (c : BitVec 3) : State → Out :=
  issue { ins := .voteAny k j c, c := c, ops := [op k, op j], lat := some 6, peers := peerP j.toNat }
    (eachLane fun I l => { lane := l, writes := [wpred l k.toNat (I.act.any fun m => I.R.p m j.toNat)] })

/-- VOTE.ALL. -/
def execVoteAll (k j : BitVec 5) (c : BitVec 3) : State → Out :=
  issue { ins := .voteAll k j c, c := c, ops := [op k, op j], lat := some 6, peers := peerP j.toNat }
    (eachLane fun I l => { lane := l, writes := [wpred l k.toNat (I.act.all fun m => I.R.p m j.toNat)] })

/-- VOTE.BALLOT. -/
def execVoteBallot (d : BitVec 7) (j : BitVec 5) (c : BitVec 3) : State → Out :=
  issue { ins := .voteBallot d j c, c := c, ops := [ov d, op j], lat := some 6, peers := peerP j.toNat }
    (eachLane fun I l =>
      { lane := l, writes := [(.v l d.toNat, maskOf (I.act.filter fun m => I.R.p m j.toNat))] })

end Sys2Proof.Machine
end

