-- ==== Sys2Proof/Machine/Hints.lean ====
section
/-!
DEFINITION. The hint words (R21-R24, 01_word.md). A hint joins the run of its batch; whether it can apply is a check of
the instruction after the run.
-/

namespace Sys2Proof.Machine

/-- A hint word issues: the run of its batch gains it, and its fibres go on behind it. Its gap is 0 and the give-way
mark of the group stays (R16). -/
def hint (kind payload : Nat) (s : State) : Out :=
  match s.issuer with
  | none => .fault .noIssuer
  | some I =>
    .next ((s.account I.core I.g 0 none).modGroup I.core I.g fun G =>
      let H := I.lanes.foldl (fun H l => H.modLane l fun L => { L with pc := I.pc + 4 }) G
      { H with batches := H.batches.modify I.bi fun B =>
          { B with hints := B.hints ++ [{ pc := I.pc, kind := kind, payload := payload }] } })

/-- HNT.IMM. -/
def execHntImm (p : BitVec 23) : State → Out := hint 0 p.toNat
/-- HNT.GAP. -/
def execHntGap (g : BitVec 8) : State → Out := hint 1 g.toNat
/-- HNT.PRED. -/
def execHntPred (o : BitVec 1) (p : BitVec 5) : State → Out := hint 2 (p.toNat + 32 * o.toNat)
/-- HNT.RND. -/
def execHntRnd (m : BitVec 2) : State → Out := hint 3 m.toNat
/-- HNT.SCOPE. -/
def execHntScope (sf : BitVec 3) : State → Out := hint 4 sf.toNat
/-- HNT.MOD. -/
def execHntMod (m : BitVec 7) : State → Out := hint 5 m.toNat
/-- HNT.RELAX. -/
def execHntRelax : State → Out := hint 6 0

/-- A word whose major, minor, op, selector or hint kind is reserved (R31, R32, R41). A reserved hint word is a hint
that can apply to nothing; any other word raises ILLOP in every fibre, at step 2 of R43. -/
def execReservedEncoding (w : BitVec 32) (s : State) : Out :=
  if bits w.toNat 26 6 == 0x3F then hint (bits w.toNat 23 3) (bits w.toNat 0 23) s
  else
    match s.issuer with
    | none => .fault .noIssuer
    | some I =>
      .next ((s.account I.core I.g (I.hv.gap.getD (bits w.toNat 1 2)) (some (bit w.toNat 0))).finish I none
        (trapAll I (mkTrap fcIllop 0 0)))

end Sys2Proof.Machine
end

