-- ==== Sys2Proof/Machine/Matrix.lean ====
section
/-!
DEFINITION. The matrix instructions and the operations of the matrix sequencer (R159-R172,
04_matrix_graphics_system_instr.md; R366-R368, 16_program_neural.md; R373-R384, 17_numbers_matrix.md).
-/

namespace Sys2Proof.Machine

/-! ## Parameter blocks -/

/-- A plane in the unit scratchpad (R165). -/
structure MPlane where
  off    : Nat
  stride : Nat
  rows   : Nat
  cols   : Nat
  size   : Nat

/-- The offset of an element of a plane. -/
def MPlane.at_ (p : MPlane) (r c : Nat) : Nat := p.off + r * p.stride + c * p.size

/-- The plane lies within the unit allocation (step 3 of R160). The spec does not say which offset of a plane that passes
the allocation is the offending one; the model reports the plane's first (log entry 77). -/
def MPlane.oob (p : MPlane) (usize : Nat) : Option Trap :=
  trapIf (usize < p.off + (p.rows - 1) * p.stride + p.cols * p.size) fcOob 0 p.off

/-- The bytes of a block of each kind of operation: MBLD, MMUL, MHAD, MSCA, MQNT. -/
def mblockBytes (kind : Nat) : Nat := if kind == 3 then 64 else if kind == 4 then 48 else 32

/-- The ILLOP of step 2 of R160, for the word that holds an undefined value. -/
def needWord (ok : Bool) (w : Nat) : Option Trap := illopIf (!ok) (4 * w)

/-- Word `j` of a parameter block. -/
def mword (ws : List Word) (j : Nat) : Nat := (ws.getD j 0).toNat

/-- Words of a block that must be zero. -/
def needZero (ws : List Word) (js : List Nat) : List (Option Trap) := js.map fun j => needWord (mword ws j == 0) j

/-- Word 0 of MBLD and MMUL (R165, R167). -/
structure MHead where
  fmt   : Nat
  bs    : Nat
  first : Nat
  kb    : Nat
  nb    : Nat

/-- Reading word 0 of MBLD and MMUL. -/
def mhead (ws : List Word) : MHead :=
  let w := mword ws 0
  { fmt := bits w 0 4, bs := 16 * 2 ^ bits w 4 2, first := bits w 6 5, kb := bits w 11 3 + 1, nb := bits w 14 3 + 1 }

/-- Limb mode (R165). -/
def MHead.limb (h : MHead) : Bool := 8 ≤ h.fmt

/-- The macros that the rectangle takes: a pair for each tile in limb mode (R375). -/
def MHead.macros (h : MHead) : Nat := h.kb * h.nb * (if h.limb then 2 else 1)

/-- Word 0 of MBLD and MMUL holds defined values. -/
def MHead.ok (h : MHead) (ws : List Word) : Bool :=
  (h.fmt ≤ 6 || h.fmt == 8 || h.fmt == 9) && h.bs ≤ 64 && (!h.limb || h.bs == 32) &&
    h.kb * h.nb ≤ (if h.limb then 16 else 32) && bits (mword ws 0) 17 11 == 0

/-- K is defined for the rectangle. -/
def MHead.kOk (h : MHead) (k : Nat) : Bool := 1 ≤ k && k ≤ 64 * h.kb && k % h.bs == 0

/-- The bytes of an element of the plane of MBLD and MMUL. -/
def MHead.size (h : MHead) : Nat := if h.limb then 2 else 1

/-- The macro indices lie within the grant (step 3 of R160); the model reports the first index (log entry 77). -/
def macroOob (T : Team) (h : MHead) : Option Trap := trapIf (T.macros < h.first + h.macros) fcOob 0 h.first

/-- The bytes of the accumulator grant (R209). -/
def Team.accBytes (T : Team) : Nat := 4096 * T.accs

/-- A range of partial sums lies within the grant (R377); the model reports its first offset (log entry 77). -/
def psOob (T : Team) (poff n size : Nat) : Option Trap := trapIf (T.accBytes < poff + n * size) fcOob 0 poff

/-- ALIGN for a value (step 4 of R160). -/
def mAlign (v a : Nat) : Option Trap := trapIf (v % a != 0) fcAlign 0 v

/-- The planes of MBLD: B, and the exponents of limb mode. -/
def mbldPlanes (ws : List Word) : List MPlane :=
  let h := mhead ws
  let k := bits (mword ws 1) 0 16
  let n := bits (mword ws 1) 16 16
  { off := mword ws 2, stride := mword ws 3, rows := k, cols := n, size := h.size } ::
    (if h.limb then [{ off := mword ws 4, stride := mword ws 5, rows := k / 32, cols := n, size := 1 }] else [])

/-- The checks of MBLD (R160, R167). -/
def mbldChecks (T : Team) (ws : List Word) : List (Option Trap) :=
  let h := mhead ws
  let k := bits (mword ws 1) 0 16
  let n := bits (mword ws 1) 16 16
  [needWord (h.ok ws) 0, needWord (h.kOk k && 1 ≤ n && n ≤ 64 * h.nb) 1] ++
    needZero ws ((if h.limb then [] else [4, 5]) ++ [6, 7]) ++
    (mbldPlanes ws).map (·.oob T.usize) ++ [macroOob T h] ++
    [mAlign (mword ws 2) 4, mAlign (mword ws 3) 4, mAlign (mword ws 4) 4, mAlign (mword ws 5) 4]

/-- The planes of MMUL: A, and the exponents of limb mode. -/
def mmulPlanes (ws : List Word) : List MPlane :=
  let h := mhead ws
  let m := bits (mword ws 1) 0 16
  let k := bits (mword ws 1) 16 16
  { off := mword ws 3, stride := mword ws 4, rows := m, cols := k, size := h.size } ::
    (if h.limb then [{ off := mword ws 5, stride := mword ws 6, rows := m, cols := k / 32, size := 1 }] else [])

/-- The checks of MMUL (R160, R168). -/
def mmulChecks (T : Team) (ws : List Word) : List (Option Trap) :=
  let h := mhead ws
  let m := bits (mword ws 1) 0 16
  let k := bits (mword ws 1) 16 16
  let n := bits (mword ws 2) 0 16
  [needWord (h.ok ws) 0, needWord (1 ≤ m && m ≤ 1024 && h.kOk k) 1,
   needWord (1 ≤ n && n ≤ 64 * h.nb && bits (mword ws 2) 16 16 == 0) 2] ++
    needZero ws (if h.limb then [] else [5, 6]) ++
    (mmulPlanes ws).map (·.oob T.usize) ++
    [macroOob T h, psOob T (mword ws 7) (m * (k / h.bs) * n) (if h.limb then 8 else 4), mAlign (mword ws 4) 4,
     mAlign (mword ws 7) 64]

/-- The bytes of a float format code: FP32, FP16, BF16. -/
def mfmtSize (k : Nat) : Nat := if k == 0 then 4 else 2

/-- The planes of MHAD: the source and the destination. -/
def mhadPlanes (ws : List Word) : List MPlane :=
  let rows := bits (mword ws 1) 0 16
  let cols := bits (mword ws 1) 16 16
  [{ off := mword ws 2, stride := mword ws 3, rows := rows, cols := cols, size := mfmtSize (bits (mword ws 0) 0 2) },
   { off := mword ws 4, stride := mword ws 5, rows := rows, cols := cols, size := mfmtSize (bits (mword ws 0) 2 2) }]

/-- The checks of MHAD (R160, R172). -/
def mhadChecks (T : Team) (ws : List Word) : List (Option Trap) :=
  let w := mword ws 0
  let rows := bits (mword ws 1) 0 16
  let cols := bits (mword ws 1) 16 16
  [needWord (bits w 0 2 != 3 && bits w 2 2 != 3 && bits w 4 2 != 3 && bits w 7 21 == 0) 0,
   needWord (1 ≤ rows && rows ≤ 1024 && 1 ≤ cols && cols ≤ 1024 && cols % (16 * 2 ^ bits w 4 2) == 0) 1] ++
    needZero ws [6, 7] ++ (mhadPlanes ws).map (·.oob T.usize)

/-- The planes of MSCA: acc, the exponents of A and B, and the references of A and B under a channel. -/
def mscaPlanes (ws : List Word) : List MPlane :=
  let w := mword ws 0
  let m := bits (mword ws 1) 0 16
  let n := bits (mword ws 1) 16 16
  let nkb := bits (mword ws 2) 0 8
  let k := nkb * (16 * 2 ^ bits w 12 2)
  let rs := mfmtSize (bits (mword ws 14) 0 2)
  [{ off := mword ws 4, stride := mword ws 5, rows := m, cols := n, size := 4 },
   { off := mword ws 6, stride := mword ws 7, rows := m, cols := nkb, size := 1 },
   { off := mword ws 8, stride := mword ws 9, rows := nkb, cols := n, size := 1 }] ++
    (if bits w 28 4 == 0 then []
     else [{ off := mword ws 10, stride := mword ws 11, rows := m, cols := k, size := rs },
           { off := mword ws 12, stride := mword ws 13, rows := k, cols := n, size := rs }])

/-- The checks of MSCA (R160, R169, R378). -/
def mscaChecks (T : Team) (ws : List Word) : List (Option Trap) :=
  let w := mword ws 0
  let ma := bits w 0 5
  let mb := bits w 5 5
  let narrow (x : Nat) : Bool := 2 ≤ x && x ≤ 8
  let m := bits (mword ws 1) 0 16
  let n := bits (mword ws 1) 16 16
  let nkb := bits (mword ws 2) 0 8
  [needWord (((narrow ma && narrow mb && !bit w 10) || (ma == 16 && mb == 16 && bit w 10)) && bits w 12 2 != 3 &&
      bits w 14 14 == 0) 0,
   needWord (1 ≤ m && m ≤ 1024 && 1 ≤ n && n ≤ 512) 1,
   needWord (1 ≤ nkb && nkb ≤ 32 && bits (mword ws 2) 8 24 == 0) 2] ++
    needZero ws (if bits w 28 4 == 0 then [10, 11, 12, 13, 14] else []) ++
    [needWord (bits (mword ws 14) 2 30 == 0 && bits (mword ws 14) 0 2 != 3) 14] ++ needZero ws [15] ++
    (mscaPlanes ws).map (·.oob T.usize) ++
    [psOob T (mword ws 3) (m * nkb * n) (if bit w 10 then 8 else 4), mAlign (mword ws 3) 64]

/-- The planes of MQNT: the source, the scales of an MX source, the elements and the exponents. -/
def mqntPlanes (ws : List Word) : List MPlane :=
  let w := mword ws 0
  let m := bits (mword ws 1) 0 16
  let k := bits (mword ws 1) 16 16
  let mx := 3 ≤ bits w 0 4
  [{ off := mword ws 2, stride := mword ws 3, rows := m, cols := k, size := if mx then 1 else mfmtSize (bits w 0 4) },
   { off := mword ws 6, stride := mword ws 7, rows := m, cols := k, size := 1 },
   { off := mword ws 8, stride := mword ws 9, rows := m, cols := k / (16 * 2 ^ bits w 7 2), size := 1 }] ++
    (if mx then [{ off := mword ws 4, stride := mword ws 5, rows := m, cols := k / 32, size := 1 }] else [])

/-- The checks of MQNT (R160, R171). -/
def mqntChecks (T : Team) (ws : List Word) : List (Option Trap) :=
  let w := mword ws 0
  let m := bits (mword ws 1) 0 16
  let k := bits (mword ws 1) 16 16
  let mx := 3 ≤ bits w 0 4
  [needWord (bits w 0 4 ≤ 7 && bits w 4 3 != 7 && bits w 7 2 != 3 && bits w 9 19 == 0) 0,
   needWord (1 ≤ m && m ≤ 1024 && 1 ≤ k && k ≤ 4096 && k % (16 * 2 ^ bits w 7 2) == 0 && (!mx || k % 32 == 0)) 1] ++
    needZero ws ((if mx then [] else [4, 5]) ++ [10, 11]) ++ (mqntPlanes ws).map (·.oob T.usize)

/-- Steps 2 to 4 of R160. -/
def matrixChecks (kind : Nat) (T : Team) (ws : List Word) : List (Option Trap) :=
  match kind with
  | 0 => mbldChecks T ws
  | 1 => mmulChecks T ws
  | 2 => mhadChecks T ws
  | 3 => mscaChecks T ws
  | _ => mqntChecks T ws

/-- The declared bytes of an operation (R162). -/
def matrixBytes (kind : Nat) (ws : List Word) : Nat :=
  let h := mhead ws
  let lo := bits (mword ws 1) 0 16
  let hi := bits (mword ws 1) 16 16
  match kind with
  | 0 => 4096 * h.macros + (if h.limb then hi * lo / 32 else 0)
  | 1 =>
    let nkb := hi / h.bs
    lo * bits (mword ws 2) 0 16 * nkb * (if h.limb then 8 else 4) + (if h.limb then lo * nkb else 0)
  | 2 => lo * hi * mfmtSize (bits (mword ws 0) 2 2)
  | 3 => lo * hi * 4
  | _ => lo * hi + lo * hi / (16 * 2 ^ bits (mword ws 0) 7 2)

/-! ## Issue (R159-R161) -/

/-- A context's word for a telemetry channel (R381). -/
def Ctx.channel (c : Ctx) (k : Nat) : Nat := if k == 0 then 0 else c.word (0x100 + 64 + 4 * (k - 1))

/-- The key of a core's count for a context's channel (R382). -/
def mscaKey (x chan : Nat) : Nat := x * 16 + chan

/-- The array takes the oldest operation of the queue; the operations of a Frozen context are not taken (R161, R253; log
entry 17). The operation on the array stands first. -/
def Core.takeMatrix (C : Core) (cycle : Nat) (frozen : Nat → Bool) : Core :=
  if C.mbegan.isSome then C
  else
    match C.mqueue.find? fun m => !frozen m.ctx with
    | some m => { C with mqueue := m :: C.mqueue.erase m, mbegan := some cycle }
    | none => C

/-- The array of a core takes an operation when it is free. -/
def State.takeMatrix (s : State) (core : Nat) : State :=
  s.modCore core fun C => C.takeMatrix (s.coreCycle core) fun x => (s.ctx x).st == .frozen

/-- An operation enters the core's queue (R161, R381, R382), or its batch waits for room. -/
def enterMatrix (I : Issue) (s : State) (m : MatrixOp) (waits : Bool) : Result :=
  let C := s.core I.core
  if 8 ≤ C.mqueue.length then .wait s (.matrix m)
  else
    let k := bits (mword m.words 0) 28 4
    let w := (s.ctx I.x).channel k
    let counts := m.kind == 3 && bit w 0
    let n := if counts then (tget C.mscas (mscaKey I.x k) 0 + 1) % 2 ^ 32 else 0
    let t := s.nextOp
    let e := { m with ticket := if waits then t else 0, chan := word w, count := n }
    let s1 := ({ s with nextOp := t + 1 }.modCore I.core fun C =>
      { C with mqueue := C.mqueue ++ [e]
               mscas := if counts then tset C.mscas (mscaKey I.x k) n else C.mscas }).takeMatrix I.core
    if waits then .wait s1 (.op t 6) else .go s1 []

/-- Reading bytes of a storage from a base, or the offset of the first one that is uncorrectable (R271). -/
def State.tileRead (s : State) (x : Scr) (base off n : Nat) : Except Nat (List Byte) :=
  if s.scrBad x (base + off) n then
    .error (off + (((List.range n).find? fun i => s.scrBad x (base + off + i) 1).getD 0))
  else .ok (s.scrRead x (base + off) n)

/-- Reading bytes of a team's unit allocation. -/
def State.unitRead (s : State) (T : Team) (off n : Nat) : Except Nat (List Byte) := s.tileRead (.unit T.core) T.ubase off n

/-- The effect of a matrix instruction at issue: the group's earlier stores are performed (R161), then its checks, and its
entry into the queue. A waiting form that ended goes on, or raises POISON at the failing address when its operation failed (R162, R240). -/
def matrixIssue (kind : Nat) (sf : BitVec 3) (n : BitVec 7) (o : Option (BitVec 7)) (I : Issue) (s : State) : Result :=
  match I.B.wait with
  | some (.matrix m) => enterMatrix I s m o.isNone
  | some (.op t r) =>
    match tget? s.tickets t with
    | none => .wait s (.op t r)
    | some fail =>
      .go { s with tickets := tdel s.tickets t } (match fail with
        | none => []
        | some a => trapAll I (mkTrap fcPoison 0 a))
  | _ =>
    let s := s.drainWc I.core I.g
    let off := (I.R.s n.toNat).toNat
    match firstTrap [trapIf (off % 64 != 0) fcAlign 0 off, trapIf (I.T.usize < off + mblockBytes kind) fcOob 0 off] with
    | some t => .go s (trapAll I t)
    | none =>
      match s.unitRead I.T off (mblockBytes kind) with
      | .error _ => .go s (trapAll I (mkTrap fcPoison 0 off))
      | .ok bs =>
        let ws := bytesWords (mblockBytes kind / 4) bs
        let ob := match o with
          | some r => (I.R.s r.toNat).toNat
          | none => 0
        match firstTrap (matrixChecks kind I.T ws ++ [illopIf (2 ^ 20 ≤ ob) ob]) with
        | some t => .go s (trapAll I t)
        | none =>
          match s.checkObj I ob with
          | (t, some e) => e.stop I t
          | (t, none) =>
            enterMatrix I t
              { ctx := I.x, tid := I.tid, gctx := I.g, gage := I.G.age, kind := kind, words := ws, fpmode := I.R.fpmode,
                rnd := I.hv.rnd, obj := ob, scope := sf.toNat, ticket := 0, chan := 0, count := 0, origin := I.origin }
              o.isNone

/-- The form of a matrix instruction: `eb` names the object register, absent in the waiting forms. -/
def matrixForm (i : Instr) (kind : Nat) (n : BitVec 7) (o : Option (BitVec 7)) (c : BitVec 3) : Form :=
  { ins := i, c := c, ops := os n :: (o.map os).toList, rnd := kind == 3 || kind == 4, feat := 2 }

/-- MBLD. -/
def execMbld (sf : BitVec 3) (n o : BitVec 7) (c : BitVec 3) : State → Out :=
  issue (matrixForm (.mbld sf n o c) 0 n (some o) c) (matrixIssue 0 sf n (some o))
/-- MBLD.W. -/
def execMbldW (sf : BitVec 3) (n : BitVec 7) (c : BitVec 3) : State → Out :=
  issue (matrixForm (.mbldW sf n c) 0 n none c) (matrixIssue 0 sf n none)
/-- MMUL. -/
def execMmul (sf : BitVec 3) (n o : BitVec 7) (c : BitVec 3) : State → Out :=
  issue (matrixForm (.mmul sf n o c) 1 n (some o) c) (matrixIssue 1 sf n (some o))
/-- MMUL.W. -/
def execMmulW (sf : BitVec 3) (n : BitVec 7) (c : BitVec 3) : State → Out :=
  issue (matrixForm (.mmulW sf n c) 1 n none c) (matrixIssue 1 sf n none)
/-- MHAD. -/
def execMhad (sf : BitVec 3) (n o : BitVec 7) (c : BitVec 3) : State → Out :=
  issue (matrixForm (.mhad sf n o c) 2 n (some o) c) (matrixIssue 2 sf n (some o))
/-- MHAD.W. -/
def execMhadW (sf : BitVec 3) (n : BitVec 7) (c : BitVec 3) : State → Out :=
  issue (matrixForm (.mhadW sf n c) 2 n none c) (matrixIssue 2 sf n none)
/-- MSCA. -/
def execMsca (sf : BitVec 3) (n o : BitVec 7) (c : BitVec 3) : State → Out :=
  issue (matrixForm (.msca sf n o c) 3 n (some o) c) (matrixIssue 3 sf n (some o))
/-- MSCA.W. -/
def execMscaW (sf : BitVec 3) (n : BitVec 7) (c : BitVec 3) : State → Out :=
  issue (matrixForm (.mscaW sf n c) 3 n none c) (matrixIssue 3 sf n none)
/-- MQNT. -/
def execMqnt (sf : BitVec 3) (n o : BitVec 7) (c : BitVec 3) : State → Out :=
  issue (matrixForm (.mqnt sf n o c) 4 n (some o) c) (matrixIssue 4 sf n (some o))
/-- MQNT.W. -/
def execMqntW (sf : BitVec 3) (n : BitVec 7) (c : BitVec 3) : State → Out :=
  issue (matrixForm (.mqntW sf n c) 4 n none c) (matrixIssue 4 sf n none)

/-! ## Operations -/

/-- An operation under way: the state, the flags raised, the address of an uncorrectable error that has ended it, and for
MSCA the starting value and the result of each element. -/
structure MRun where
  s     : State
  flags : Nat
  bad   : Option Nat
  els   : List (Num × Nat)

/-- One part of an operation; a part that meets an uncorrectable error ends it (R162). -/
def MRun.part (f : State → Except Nat (State × Nat)) (r : MRun) : MRun :=
  if r.bad.isNone then
    match f r.s with
    | .ok (t, fl) => { r with s := t, flags := r.flags ||| fl }
    | .error a => { r with bad := some a }
  else r

/-- The parts of an operation in turn. -/
def runParts (s : State) (ps : List (State → Except Nat (State × Nat))) : MRun :=
  ps.foldl (fun r p => r.part p) { s := s, flags := 0, bad := none, els := [] }

/-- Writing into a plane. -/
def State.unitWrite (s : State) (T : Team) (off : Nat) (bs : List Byte) : State :=
  s.scrWrite (.unit T.core) (T.ubase + off) bs

/-- A byte of a list as a number. -/
def byteAt (bs : List Byte) (k : Nat) : Nat := (bs.getD k 0).toNat

/-- An integer as one byte. -/
def byte8 (x : Int) : Byte := BitVec.ofInt 8 x

/-- The float format of limb mode (R165). -/
def limbFmt (fmt : Nat) : Fmt := if fmt == 8 then fp16 else bf16

/-- LimbQ of a block (R166): the exponent byte, the mantissas and the flags. -/
def limbQ (fmt : Nat) (daz : Bool) (xs : List Nat) : Nat × List Int × Nat :=
  quantBlock 0 16 (xs.map ((limbFmt fmt).decode daz))

/-- DAZ of sr.fpmode. -/
def dazOf (fpmode : Word) : Bool := bit fpmode.toNat 3
/-- FTZ of sr.fpmode. -/
def ftzOf (fpmode : Word) : Bool := bit fpmode.toNat 2

/-- Reading elements at offsets, or the place of an uncorrectable error. -/
def State.unitElems (s : State) (T : Team) (size : Nat) (offs : List Nat) : Except Nat (List Nat) :=
  offs.mapM fun o => (s.unitRead T o size).map leNat

/-- The place of a macro of a team's grant (R373). -/
def Team.macroBase (T : Team) (q : Nat) : Nat := 4096 * (T.mbase + q)

/-- LimbQ of the 32-block `b` of column `c` of MBLD. -/
def mbldLimb (s : State) (T : Team) (fmt : Nat) (daz : Bool) (p : MPlane) (b c : Nat) :
    Except Nat (Nat × List Int × Nat) :=
  (s.unitElems T 2 ((List.range 32).map fun j => p.at_ (32 * b + j) c)).map (limbQ fmt daz)

/-- MBLD writes macro `q` of a KBF rectangle (R167). -/
def mbldKbf (T : Team) (ws : List Word) (q : Nat) (s : State) : Except Nat (State × Nat) :=
  let h := mhead ws
  let k := bits (mword ws 1) 0 16
  let n := bits (mword ws 1) 16 16
  let p := (mbldPlanes ws).headD { off := 0, stride := 0, rows := 0, cols := 0, size := 1 }
  let cols := min 64 (n - q % h.nb * 64)
  let row (r : Nat) : Except Nat (List Byte) :=
    let kk := q / h.nb * 64 + r
    if kk < k && cols != 0 then
      (s.unitRead T (p.at_ kk (q % h.nb * 64)) cols).map fun bs =>
        sliceBytes (bs.map fun b => byte8 (sext (h.fmt + 2) b.toNat)) 0 64
    else .ok (List.replicate 64 0)
  ((List.range 64).mapM row).map fun rows =>
    (s.scrWrite (.garnet T.core) (T.macroBase (h.first + q)) (rows.flatMap id), 0)

/-- MBLD writes the pair of macros of tile `q` in limb mode (R167, R375). -/
def mbldPair (T : Team) (daz : Bool) (ws : List Word) (q : Nat) (s : State) : Except Nat (State × Nat) :=
  let h := mhead ws
  let k := bits (mword ws 1) 0 16
  let n := bits (mword ws 1) 16 16
  let p := (mbldPlanes ws).headD { off := 0, stride := 0, rows := 0, cols := 0, size := 2 }
  let blk (c b : Nat) : Except Nat (List Int × Nat) :=
    let bb := q / h.nb * 2 + b
    let cc := q % h.nb * 64 + c
    if bb < k / 32 && cc < n then (mbldLimb s T h.fmt daz p bb cc).map (·.2) else .ok (List.replicate 32 0, 0)
  let col (c : Nat) : Except Nat (List Int × Nat) :=
    match blk c 0, blk c 1 with
    | .ok a, .ok b => .ok (a.1 ++ b.1, a.2 ||| b.2)
    | .error e, _ => .error e
    | _, .error e => .error e
  ((List.range 64).mapM col).map fun cols =>
    let bytes (f : Int → Byte) : List Byte := (List.range 64).flatMap fun r => cols.map fun e => f (e.1.getD r 0)
    let s1 := s.scrWrite (.garnet T.core) (T.macroBase (h.first + 2 * q)) (bytes fun t => byte8 (t / 256))
    (s1.scrWrite (.garnet T.core) (T.macroBase (h.first + 2 * q + 1)) (bytes byte8),
      cols.foldl (fun a e => a ||| e.2) 0)

/-- MBLD writes the exponent byte of a block of a column in limb mode. -/
def mbldExp (T : Team) (daz : Bool) (ws : List Word) (b c : Nat) (s : State) : Except Nat (State × Nat) :=
  match mbldPlanes ws with
  | [p, e] => (mbldLimb s T (mhead ws).fmt daz p b c).map fun r => (s.unitWrite T (e.at_ b c) [BitVec.ofNat 8 r.1], 0)
  | _ => .error 0

/-- MBLD. -/
def runMbld (s : State) (T : Team) (m : MatrixOp) : MRun :=
  let h := mhead m.words
  let k := bits (mword m.words 1) 0 16
  let n := bits (mword m.words 1) 16 16
  let daz := dazOf m.fpmode
  if h.limb then
    runParts s ((List.range (h.kb * h.nb)).map (mbldPair T daz m.words) ++
      (List.range (k / 32)).flatMap fun b => (List.range n).map fun c => mbldExp T daz m.words b c)
  else runParts s ((List.range (h.kb * h.nb)).map (mbldKbf T m.words))

/-- The value that MMUL reads at row `k` and column `c` of its rectangle (R168, R376). The failing address of a macro is
its byte in the team's grant (log entry 77). -/
def State.macroVal (s : State) (T : Team) (h : MHead) (k c : Nat) : Except Nat Int :=
  let q := k / 64 * h.nb + c / 64
  let byte (x : Nat) : Except Nat Nat :=
    (s.tileRead (.garnet T.core) (T.macroBase 0) (4096 * (h.first + x) + 64 * (k % 64) + c % 64) 1).map leNat
  if h.limb then
    match byte (2 * q), byte (2 * q + 1) with
    | .ok hi, .ok lo => .ok (sext 8 hi * 256 + lo)
    | .error e, _ => .error e
    | _, .error e => .error e
  else (byte q).map (sext 8)

/-- The mantissas of row `i` of A, its exponents in limb mode, and the flags. -/
def mmulRow (s : State) (T : Team) (daz : Bool) (ws : List Word) (i : Nat) : Except Nat (List Int × List Nat × Nat) :=
  let h := mhead ws
  let k := bits (mword ws 1) 16 16
  let p := (mmulPlanes ws).headD { off := 0, stride := 0, rows := 0, cols := 0, size := 1 }
  if h.limb then
    ((List.range (k / 32)).mapM fun b =>
      (s.unitElems T 2 ((List.range 32).map fun j => p.at_ i (32 * b + j))).map (limbQ h.fmt daz)).map fun rs =>
        (rs.flatMap (·.2.1), rs.map (·.1), rs.foldl (fun a r => a ||| r.2.2) 0)
  else (s.unitRead T (p.at_ i 0) k).map fun bs => (bs.map fun b => sext (h.fmt + 2) b.toNat, [], 0)

/-- The exact partial sum of a run of products (R168). -/
def dotInt (a b : List Int) : Int := (a.zip b).foldl (fun x e => x + e.1 * e.2) 0

/-- MMUL writes the partial sums of row `i` (R168). -/
def mmulPart (T : Team) (daz : Bool) (ws : List Word) (cols : List (List Int)) (i : Nat) (s : State) :
    Except Nat (State × Nat) :=
  let h := mhead ws
  let n := bits (mword ws 2) 0 16
  let nkb := bits (mword ws 1) 16 16 / h.bs
  let size := if h.limb then 8 else 4
  (mmulRow s T daz ws i).map fun (a, es, fl) =>
    let s1 := match mmulPlanes ws with
      | [_, e] => s.unitWrite T (e.at_ i 0) (es.map (BitVec.ofNat 8))
      | _ => s
    let ps := (List.range nkb).flatMap fun b => cols.flatMap fun col =>
      leBytes size (dotInt ((a.drop (b * h.bs)).take h.bs) ((col.drop (b * h.bs)).take h.bs) % 2 ^ (8 * size)).toNat
    (s1.scrWrite (.accum T.core) (4096 * T.abase + mword ws 7 + size * (i * nkb * n)) ps, fl)

/-- MMUL. How much an operation has written when it fails is left open by R162: the model reads every byte of its macros
before it writes, so that a failing one writes nothing (DESIGN CHOICE, log entry 85). -/
def runMmul (s : State) (T : Team) (m : MatrixOp) : MRun :=
  let h := mhead m.words
  let k := bits (mword m.words 1) 16 16
  let n := bits (mword m.words 2) 0 16
  match (List.range n).mapM fun c => (List.range k).mapM fun r => s.macroVal T h r c with
  | .error a => { s := s, flags := 0, bad := some a, els := [] }
  | .ok cols =>
    runParts s ((List.range (bits (mword m.words 1) 0 16)).map fun i => mmulPart T (dazOf m.fpmode) m.words cols i)

/-- The K-blocks of an element of MSCA: the exponents of A and B, and the partial sum. The failing address of a partial sum
is its byte in the team's accumulator grant (log entry 77). -/
def mscaTerms (s : State) (T : Team) (ws : List Word) (i c : Nat) : Except Nat (List (Nat × Nat × Int)) :=
  let n := bits (mword ws 1) 16 16
  let nkb := bits (mword ws 2) 0 8
  let size := if bit (mword ws 0) 10 then 8 else 4
  match mscaPlanes ws with
  | _ :: pa :: pb :: _ =>
    (List.range nkb).mapM fun b =>
      match s.unitRead T (pa.at_ i b) 1, s.unitRead T (pb.at_ b c) 1,
          s.tileRead (.accum T.core) (4096 * T.abase) (mword ws 3 + size * ((i * nkb + b) * n + c)) size with
      | .ok x, .ok y, .ok p => .ok (leNat x, leNat y, sext (8 * size) (leNat p))
      | .error e, _, _ => .error e
      | _, .error e, _ => .error e
      | _, _, .error e => .error e
  | _ => .error 0

/-- One step of MSCA's accumulation (R169, R379). -/
def mscaStep (mode : Mode) (ftz : Bool) (bias : Int) (acc : Nat × Nat) (t : Nat × Nat × Int) : Nat × Nat :=
  if t.1 == 0xFF || t.2.1 == 0xFF then (fp32.nan, acc.2)
  else
    let r := fp32.add mode ftz (fp32.decode false acc.1)
      (.fin (t.2.2 < 0) t.2.2.natAbs ((t.1 + t.2.1 : Nat) - 254 - bias))
    (r.1, acc.2 ||| r.2)

/-- MSCA writes element (i, c) (R169). -/
def mscaPart (T : Team) (m : MatrixOp) (i c : Nat) (r : MRun) : MRun :=
  let w := mword m.words 0
  let mode := m.rnd.getD (m.fpmode.toNat % 4)
  match r.bad, mscaPlanes m.words, mscaTerms r.s T m.words i c with
  | none, p :: _, .ok ts =>
    match if bit w 11 then .ok [] else r.s.unitRead T (p.at_ i c) 4 with
    | .error a => { r with bad := some a }
    | .ok bs =>
      let x := fp32.decode (dazOf m.fpmode) (leNat bs)
      let start : Nat := match x with
        | .nan _ => fp32.nan
        | .inf n => fp32.inf n
        | .fin n k e => (fp32.round 0 false n k e false).1
      let bias : Int := (bits w 0 5 : Int) - 2 + ((bits w 5 5 : Int) - 2)
      let q := ts.foldl (mscaStep mode (ftzOf m.fpmode) bias) (start, snanFlag [x])
      { s := r.s.unitWrite T (p.at_ i c) (leBytes 4 q.1), flags := r.flags ||| q.2, bad := none,
        els := r.els ++ [(x, q.1)] }
  | none, _, .error a => { r with bad := some a }
  | _, _, _ => r

/-- The elements of an M x N plane in order. -/
def elements (m n : Nat) : List (Nat × Nat) :=
  (List.range m).flatMap fun i => (List.range n).map fun c => (i, c)

/-- MSCA. -/
def runMsca (s : State) (T : Team) (m : MatrixOp) : MRun :=
  (elements (bits (mword m.words 1) 0 16) (bits (mword m.words 1) 16 16)).foldl (fun r e => mscaPart T m e.1 e.2 r)
    { s := s, flags := 0, bad := none, els := [] }

/-- An element of MQNT's source as an exact value (R171). -/
def mqntElem (sfmt : Nat) (daz : Bool) (v scale : Nat) : Num :=
  if sfmt < 3 then (floatFmt sfmt).decode daz v
  else if scale == 0xFF then .nan false
  else
    match (mxFmt (sfmt - 3)).decode false (v % 2 ^ (mxFmt (sfmt - 3)).width) with
    | .fin n k e => .fin n k (e + scale - 127)
    | x => x

/-- MQNT writes block `b` of row `i` (R171). -/
def mqntPart (T : Team) (m : MatrixOp) (i b : Nat) (s : State) : Except Nat (State × Nat) :=
  let w := mword m.words 0
  let bs := 16 * 2 ^ bits w 7 2
  let sf := bits w 0 4
  match mqntPlanes m.words with
  | ps :: pd :: pe :: rest =>
    let scale (k : Nat) : Except Nat Nat :=
      match rest with
      | px :: _ => (s.unitRead T (px.at_ i (k / 32)) 1).map leNat
      | [] => .ok 0
    let elem (j : Nat) : Except Nat Num :=
      let k := b * bs + j
      match s.unitRead T (ps.at_ i k) ps.size, scale k with
      | .ok v, .ok x => .ok (mqntElem sf (dazOf m.fpmode) (leNat v) x)
      | .error e, _ => .error e
      | _, .error e => .error e
    ((List.range bs).mapM elem).map fun xs =>
      let q := quantBlock (m.rnd.getD 0) (bits w 4 3 + 2) xs
      let s1 := s.unitWrite T (pe.at_ i b) [BitVec.ofNat 8 q.1]
      (s1.unitWrite T (pd.at_ i (b * bs)) (q.2.1.map byte8), q.2.2)
  | _ => .error 0

/-- MQNT. -/
def runMqnt (s : State) (T : Team) (m : MatrixOp) : MRun :=
  let k := bits (mword m.words 1) 16 16
  runParts s ((elements (bits (mword m.words 1) 0 16) (k / (16 * 2 ^ bits (mword m.words 0) 7 2))).map fun e =>
    mqntPart T m e.1 e.2)

/-- The parity of the bits of a number below 64: the sign of an entry of the Hadamard matrix (R172). -/
def parity6 (n : Nat) : Bool := (List.range 6).foldl (fun p k => p != bit n k) false

/-- MHAD writes a run of row `r` from column `j0` (R172). -/
def mhadPart (T : Team) (m : MatrixOp) (r j0 : Nat) (s : State) : Except Nat (State × Nat) :=
  let w := mword m.words 0
  let n := 16 * 2 ^ bits w 4 2
  let sh := if bit w 6 then (bits w 4 2 + 4) / 2 else 0
  match mhadPlanes m.words with
  | [ps, pd] =>
    (s.unitElems T ps.size ((List.range n).map fun j => ps.at_ r (j0 + j))).map fun vs =>
      let xs := vs.map ((floatFmt (bits w 0 2)).decode (dazOf m.fpmode))
      let ys := (List.range n).map fun i =>
        sumRound (floatFmt (bits w 2 2)) (m.fpmode.toNat % 4) (ftzOf m.fpmode) sh
          (xs.zipIdx.map fun (x, j) => if parity6 (i &&& j) then x.flip else x)
      (s.unitWrite T (pd.at_ r j0) (ys.flatMap fun y => leBytes pd.size y.1), ys.foldl (fun a y => a ||| y.2) 0)
  | _ => .error 0

/-- MHAD. -/
def runMhad (s : State) (T : Team) (m : MatrixOp) : MRun :=
  let n := 16 * 2 ^ bits (mword m.words 0) 4 2
  runParts s ((elements (bits (mword m.words 1) 0 16) (bits (mword m.words 1) 16 16 / n)).map fun e =>
    mhadPart T m e.1 (e.2 * n))

/-- The effect of an operation. -/
def runMatrix (s : State) (T : Team) (m : MatrixOp) : MRun :=
  match m.kind with
  | 0 => runMbld s T m
  | 1 => runMmul s T m
  | 2 => runMhad s T m
  | 3 => runMsca s T m
  | _ => runMqnt s T m

/-! ## Telemetry (R170, R367, R381-R384) -/

/-- |result - reference| in FP32 (R382, R367). -/
def deviation (x y : Nat) : Nat :=
  let a := fp32.decode false x
  let b := fp32.decode false y
  if a.isNan || b.isNan then fp32.nan
  else if x == y then 0
  else (fp32.add 0 false a b.flip).1 % 2 ^ 31

/-- The reference of an element (R170): FFMA over the reference planes from MSCA's starting value. -/
def mscaReference (s : State) (T : Team) (ws : List Word) (i c : Nat) (start : Num) : Option Nat :=
  match mscaPlanes ws with
  | [_, _, _, pa, pb] =>
    let f := floatFmt (bits (mword ws 14) 0 2)
    (List.range pa.cols).foldlM (fun (acc : Nat) k =>
      match s.unitRead T (pa.at_ i k) pa.size, s.unitRead T (pb.at_ k c) pb.size with
      | .ok a, .ok b =>
        some (fp32.fma 0 false (f.decode false (leNat a)) (f.decode false (leNat b)) (fp32.decode false acc)).1
      | _, _ => none)
      (match start with
       | .nan _ => fp32.nan
       | .inf n => fp32.inf n
       | .fin n k e => (fp32.round 0 false n k e false).1)
  | _ => none

/-- What a recompute finds at an element. -/
structure Dev where
  dev : Nat
  row : Nat
  col : Nat
  res : Nat
  ref : Nat

/-- The element with the largest deviation, the first among equals (R367). A NaN is the largest encoding. -/
def worstDev (s : State) (T : Team) (m : MatrixOp) (els : List (Num × Nat)) : Option Dev :=
  ((elements (bits (mword m.words 1) 0 16) (bits (mword m.words 1) 16 16)).zip els).foldlM (fun (a : Option Dev) e =>
    (mscaReference s T m.words e.1.1 e.1.2 e.2.1).map fun r =>
      let d : Dev := { dev := deviation e.2.2 r, row := e.1.1, col := e.1.2, res := e.2.2, ref := r }
      match a with
      | some b => some (if b.dev < d.dev then d else b)
      | none => some d) none |>.join

/-- The bytes of a telemetry record (R383). -/
def Dev.bytes (d : Dev) (core now : Nat) (m : MatrixOp) : List Byte :=
  leBytes 4 (bits (mword m.words 0) 28 4 + 16 + core % 256 * 256 + m.gctx % 64 * 65536) ++ leBytes 4 d.dev ++
    leBytes 2 d.row ++ leBytes 2 d.col ++ leBytes 4 d.res ++ leBytes 4 d.ref ++ leBytes 4 m.count ++
    leBytes 6 (now % 2 ^ 48) ++ leBytes 2 0

/-- The recompute of an operation, where its channel asks for one (R170, R382). The spec does not say what a recompute
does that meets an uncorrectable byte in a reference plane; the model writes no record then (log entry 77). -/
def State.recompute (s : State) (core : Nat) (T : Team) (m : MatrixOp) (els : List (Num × Nat)) : State :=
  if m.kind == 3 && bit m.chan.toNat 0 && m.count % 2 ^ bits m.chan.toNat 1 5 == 0 then
    match worstDev s T m els with
    | none => s
    | some d =>
      match s.ringPut m.ctx telemetryRing (d.bytes core (s.coreCycle core) m) with
      | (t, true) => t.logError m.ctx 16 0 (srcCore core) (bits (mword m.words 0) 28 4) 0 0
      | (t, false) => t
  else s

/-- The group that issued an operation is still there. -/
def MatrixOp.live (m : MatrixOp) (G : Group) : Bool := G.tid == m.tid && G.age == m.gage

/-- The major and op codes of a matrix operation (R159). -/
def MatrixOp.code (m : MatrixOp) : Nat × Nat :=
  match m.kind with
  | 0 => (0x34, 0)
  | 1 => (0x34, 1)
  | k => (0x35, k - 2)

/-- The contribution that an operation makes (R148, R162, R163), with the failing address of a failed one (R252). -/
def MatrixOp.contribution (m : MatrixOp) (core flags : Nat) (bad : Option Nat) : Contribution :=
  { ctx := m.ctx, obj := m.obj, bytes := matrixBytes m.kind m.words, done := none,
    fcode := bad.map fun _ => fcPoison,
    flags := if bit m.chan.toNat 0 && bit m.chan.toNat 6 then flags % 256 else 0,
    origin := m.origin, srckind := 0, src := core, major := m.code.1, op := m.code.2, addr := bad.getD 0, gcause := 0,
    interest := none }

/-- The completion of an operation that has run (R162, R163). -/
def State.endMatrix (s : State) (core : Nat) (m : MatrixOp) (r : MRun) : State :=
  let s1 := s.modGroup core m.gctx fun G =>
    if m.live G then { G with fpflags := G.fpflags ||| (word r.flags &&& flagsMask) } else G
  let s2 :=
    if m.ticket != 0 then { s1 with tickets := tset s1.tickets m.ticket r.bad }
    else if m.obj == 0 && r.bad.isNone then s1
    else s1.addContribution (m.contribution core r.flags r.bad)
  s2.reapTeam m.tid

/-- The cycles for which an MMUL occupies the array (R168); the spec states none for the other operations. -/
def MatrixOp.occupancy (m : MatrixOp) : Nat :=
  let h := mhead m.words
  if m.kind == 1 then bits (mword m.words 1) 0 16 * (if h.limb then 16 else h.fmt + 2) + 24 else 0

/-- The operation on the array has occupied it for its cycles. -/
def Core.matrixDue (C : Core) (cycle : Nat) : Bool :=
  match C.mqueue, C.mbegan with
  | m :: _, some t => t + m.occupancy ≤ cycle
  | _, _ => false

/-- MATRIX_OP_COMPLETE: the operation on a core's array is performed and completes once it has occupied the array for its
cycles; until then, or with a free array, nothing happens (log entry 17). -/
def execMatrixOpComplete (core : Nat) (s : State) : Out :=
  match (s.core core).mqueue with
  | [] => .next s
  | m :: rest =>
    if !(s.core core).matrixDue (s.coreCycle core) then .next s
    else
    let T := s.team m.tid
    let r := runMatrix s T m
    let s1 := r.s.modCore core fun C => { C with mqueue := rest, mbegan := none }
    .next (((if r.bad.isNone then s1.recompute core T m r.els else s1).endMatrix core m r).takeMatrix core)

end Sys2Proof.Machine
end

