-- ==== Sys2Proof/Machine/Sampling.lean ====
section
/-!
DEFINITION. Interpolation and sampling under the default sampler image (R183-R185,
04_matrix_graphics_system_instr.md; R340-R342, R348, R349, 14_rendering.md).
-/

namespace Sys2Proof.Machine

/-! ## IPOL -/

/-- An attribute word of a vertex; 0.0 beyond the meshlet's count (R184). -/
def PrimVerts.attr (p : PrimVerts) (v j : Nat) : Word := (p.attrs.getD v []).getD j 0

/-- The interpolation of a triangle (R184). -/
def ipolWord (p : PrimVerts) (j : Nat) (b1 b2 : Word) : Word :=
  let a (v : Nat) : XVal := xval (p.attr v j)
  ((a 0).add ((xval b1).mul ((a 1).add (a 0).neg)) |>.add ((xval b2).mul ((a 2).add (a 0).neg))).w32

/-- IPOL: a line or a point has no three vertices, and its result is a free value. -/
def execIpol (j : BitVec 3) (d a : BitVec 7) (h : BitVec 1) (c : BitVec 3) : State → Out :=
  issue { ins := .ipol j d a h c, c := c, ops := [ov d, ovn 2 a], feat := 8 }
    (eachLaneState fun I l s =>
      match (I.G.lane l).frag with
      | none => (s, { lane := l, trap := some (mkTrap fcIllop 0 0) })
      | some f =>
        let b (k : Nat) : Word := I.R.v l (a.toNat + k)
        if f.verts.attrs.length == 3 then
          (s, { lane := l, writes := [(.v l d.toNat, ipolWord f.verts (j.toNat + 8 * h.toNat) (b 0) (b 1))] })
        else
          let (t, n) := s.draw
          (t, { lane := l, writes := [(.v l d.toNat, Config.freeWord n)] }))

/-! ## Fetches of the fixed units -/

/-- A fetch of bytes within one line for one fibre: the bytes, or its trap or park (R185), or the far target that it
waits for. The group's own stores to them are performed first (R120). -/
def State.unitFetch (s : State) (I : Issue) (l va n : Nat) : State × Except LaneOut (List Byte) :=
  let q := s.xlateCore I.core I.x va .read
  let t := q.1
  match t.ownBlock I.x I.T.gen va q.2 with
  | .fault code => (t, .error (t.walkOut I.x l (mkTrap code 0 va)))
  | .ok pa _ =>
    match t.reach pa with
    | .late => (t, .error { lane := l, far := some (va, lineOf pa) })
    | .now => (t.noteLine I.x (srcCore I.core) pa n, .error { lane := l, trap := some (mkTrap fcPoison 0 va) })
    | .ok =>
      let u := t.performHeld I.core I.g fun h => h.meets none pa n
      if u.bad pa n then (u.noteLine I.x (srcCore I.core) pa n, .error { lane := l, trap := some (mkTrap fcPoison 0 va) })
      else (u.seen I.party [(pa, n)], .ok (u.rd pa n))
  | .proc block _ =>
    let fs := match t.procLeaf I.x block with
      | some lf => t.fillState I.x lf
      | none => fsUnfilled
    let r := t.meetBlock I.x I.T.gen block fs va
    (r.1, .error (match r.2 with
      | some e => { lane := l, trap := some e }
      | none => { lane := l, park := some (.fill block va) }))

/-- The image that a context installed for a kind of sequencer of a core becomes resident when an operation of the
context starts (R349). -/
def State.reload (s : State) (core x kind : Nat) : State :=
  s.modCore core fun C =>
    { C with images := withImage C.images kind (tget? (s.ctx x).images kind) }

/-! ## Descriptors (R340, R341) -/

/-- A texture descriptor. -/
structure Tex where
  base   : Nat
  width  : Nat
  height : Nat
  layers : Nat
  levels : Nat
  fmt    : Nat
  au     : Nat
  av     : Nat
  filt   : Nat
  minlod : Word
  maxlod : Word
  /-- How nearest and bilinear filtering choose the level: 0 Floor(λ + 0.5), as R342 gives; 1 Floor(λ) and 2 RoundToInteger(λ)
  for Onyx code (LODR of R361). -/
  lodr   : Nat

/-- FP32 order: a ≤ b, false for a NaN. -/
def le32 (a b : Word) : Bool :=
  match (fp32.decode false a.toNat).cmp (fp32.decode false b.toNat) with
  | .lt => true
  | .eq => true
  | _ => false

/-- The descriptor that 64 bytes hold, none with a reserved value. -/
def parseTex (b : List Byte) : Option Tex :=
  let f (o n : Nat) : Nat := byteField b o n
  let t : Tex := { base := f 0 8, width := bits (f 8 4) 0 14 + 1, height := bits (f 8 4) 16 14 + 1,
                   layers := bits (f 12 4) 0 12 + 1, levels := bits (f 12 4) 12 4 + 1, fmt := bits (f 12 4) 16 4,
                   au := bits (f 12 4) 20 2, av := bits (f 12 4) 22 2, filt := bits (f 12 4) 24 2,
                   minlod := word (f 16 4), maxlod := word (f 20 4), lodr := 0 }
  if t.base < vaTop && t.base % 256 == 0 && bits (f 8 4) 14 2 == 0 && bits (f 8 4) 30 2 == 0 &&
      t.levels ≤ 1 + Nat.log2 (max t.width t.height) && [1, 2, 3, 4, 8].contains t.fmt && t.au != 3 && t.av != 3 &&
      t.filt != 3 && bits (f 12 4) 26 6 == 0 && le32 t.minlod t.maxlod && (b.drop 24).all (· == 0) then some t
  else none

/-- The width of a level. -/
def Tex.w (t : Tex) (l : Nat) : Nat := max 1 (t.width / 2 ^ l)
/-- The height of a level. -/
def Tex.h (t : Tex) (l : Nat) : Nat := max 1 (t.height / 2 ^ l)
/-- The row pitch of a level. -/
def Tex.pitch (t : Tex) (l : Nat) : Nat := alignUp (t.w l * planeSize t.fmt) 64

/-- The base of a level. -/
def Tex.levelBase (t : Tex) : Nat → Nat
  | 0 => t.base
  | l + 1 => alignUp (t.levelBase l + t.layers * t.pitch l * t.h l) 256

/-- An index along an axis of size `n` (R341). -/
def addressTex (mode n : Nat) (i : Int) : Nat :=
  match mode with
  | 0 => (i % n).toNat
  | 1 => (max 0 (min i (n - 1))).toNat
  | _ =>
    let k := (i % (2 * n : Nat)).toNat
    if k < n then k else 2 * n - 1 - k

/-- The address of a texel. -/
def Tex.texel (t : Tex) (lvl layer : Nat) (i j : Int) : Nat :=
  t.levelBase lvl + layer * t.pitch lvl * t.h lvl + addressTex t.av (t.h lvl) j * t.pitch lvl +
    addressTex t.au (t.w lvl) i * planeSize t.fmt

/-- The channels of a texel as FP32 (R341). -/
def Tex.channels (t : Tex) (b : List Byte) : List Word :=
  match t.fmt with
  | 1 => (List.range 4).map fun i => word (fp32.ofRatio 0 false false (byteField b i 1) 255 0).1
  | 2 => (List.range 4).map fun i => word (fp32.ofNum 0 false (fp16.decode false (byteField b (2 * i) 2))).1
  | 3 => bytesWords 4 b
  | 4 => [word (byteField b 0 4), 0, 0, 0x3F800000]
  | _ => [word (fp32.ofNum 0 false (fp16.decode false (byteField b 0 2))).1, 0, 0, 0x3F800000]

/-- The layer that a coordinate names (R341). -/
def Tex.layer (t : Tex) (w : Word) : Nat :=
  match fp32.decode false w.toNat with
  | .nan _ => 0
  | .inf n => if n then 0 else t.layers - 1
  | .fin n m e =>
    let r := (roundInt 0 n m e).1
    if n then 0 else min r (t.layers - 1)

/-- A coordinate: one that is not finite is read as 0.0. -/
def texCoord (w : Word) : Fr := if finite32 w then fr32 w else Fr.int 0

/-! ## Level of detail (R342) -/

/-- FP32 arithmetic to nearest even, with no flush. -/
def envRne : FEnv := { mode := 0, ftz := false, daz := false, mods := 0 }

/-- ½·log2(S) + bias, rounded once, for S = m·2^e not zero and a finite bias. -/
def lodLog (m : Nat) (e : Int) (bias : Word) : Word :=
  let k := Nat.log2 m
  if m == 2 ^ k then (({ n := e + k, d := 2 } : Fr).add (fr32 bias)).w32
  else
    let v := ((e + k) * fxOne + fxLog2 (fxOf false m (-(k : Int)))) / 2
    let b := match fp32.decode false bias.toNat with
      | .fin n x y => fxOf n x y
      | _ => 0
    word (fxRound envRne (v + b)).1

/-- A value that is a whole number over a power of two, as m·2^e. -/
def Fr.dyadic (x : Fr) : Nat × Int := (x.n.natAbs, -(Nat.log2 x.d : Int))

/-- λ from the rounded differences of one axis pair: the squared lengths, each `none` when infinite. -/
def lodOf (s1 s2 : Option Fr) (bias : Word) : Word :=
  match s1, s2 with
  | some a, some b =>
    let m := a.max b
    if nan32 bias then word fp32.nan
    else if !finite32 bias then (if m.isZero && bias == word (fp32.inf false) then word fp32.nan else bias)
    else if m.isZero then word (fp32.inf true)
    else lodLog m.dyadic.1 m.dyadic.2 bias
  | _, _ => if nan32 bias || bias == word (fp32.inf true) then word fp32.nan else word (fp32.inf false)

/-- The squared length of a pair of differences scaled by the size of level 0, none when a difference is infinite. -/
def Tex.length2 (t : Tex) (du dv : Word) : Option Fr :=
  if finite32 du && finite32 dv then
    let a := (fr32 du).mul (Fr.int t.width)
    let b := (fr32 dv).mul (Fr.int t.height)
    some ((a.mul a).add (b.mul b))
  else none

/-- A coordinate as the derivatives of a lane `l` take it from lane `q`: its own when no fibre lives there. -/
def quadCoord (I : Issue) (l q n : Nat) : Fr := texCoord (I.R.v (if (I.G.lane q).live then q else l) n)

/-- λ before it is clamped. -/
def Tex.lambda (t : Tex) (I : Issue) (a l : Nat) (grad : Bool) : Word :=
  let bias := I.R.v l (a + 3)
  if grad then
    let q := l / 4 * 4
    let diff (k n : Nat) : Word := ((quadCoord I l (q + k) n).sub (quadCoord I l q n)).w32
    lodOf (t.length2 (diff 1 a) (diff 1 (a + 1))) (t.length2 (diff 2 a) (diff 2 (a + 1))) bias
  else bias

/-- λ clamped to the descriptor's range and to the levels, as an exact value; a NaN gives 0. -/
def Tex.clampLod (t : Tex) (x : Word) : Fr :=
  if nan32 x then Fr.int 0
  else
    let c := if le32 x t.minlod then t.minlod else if le32 t.maxlod x then t.maxlod else x
    let top : Fr := Fr.int ((t.levels - 1 : Nat) : Int)
    if finite32 c then (Fr.int 0).max ((fr32 c).min top) else if c == word (fp32.inf true) then Fr.int 0 else top

/-! ## Filtering (R342) -/

/-- A texel of a footprint: its address and its weight in units of 2^-24. -/
structure Tap where
  va     : Nat
  weight : Nat

/-- Twice a fraction of 256: Floor(x·256) of the fraction part. -/
def frac256 (x : Fr) : Nat := ((x.sub (Fr.int x.floor)).mul (Fr.int 256)).floor.toNat

/-- The bilinear footprint along an axis: the first index and the weight of the second in 1/256. -/
def axisTaps (u : Fr) (n : Nat) : Int × Nat :=
  let s := (u.mul (Fr.int n)).sub { n := 1, d := 2 }
  (s.floor, frac256 s)

/-- The four texels of a bilinear footprint, each with its weight, scaled by `w` in 1/256. -/
def Tex.bilinear (t : Tex) (lvl layer : Nat) (u v : Fr) (w : Nat) : List Tap :=
  let (i, a) := axisTaps u (t.w lvl)
  let (j, b) := axisTaps v (t.h lvl)
  [{ va := t.texel lvl layer i j, weight := (256 - a) * (256 - b) * w },
   { va := t.texel lvl layer (i + 1) j, weight := a * (256 - b) * w },
   { va := t.texel lvl layer i (j + 1), weight := (256 - a) * b * w },
   { va := t.texel lvl layer (i + 1) (j + 1), weight := a * b * w }]

/-- The level that nearest and bilinear filtering use (R342; R361). -/
def Tex.roundLod (t : Tex) (lod : Fr) : Nat :=
  let near := (lod.add { n := 1, d := 2 }).floor.toNat
  match t.lodr with
  | 0 => near
  | 1 => lod.floor.toNat
  | _ => if near % 2 == 1 && ((Fr.int near).sub lod).n * 2 == ((Fr.int near).sub lod).d then near - 1 else near

/-- The texels that a sample reads, with their weights. -/
def Tex.taps (t : Tex) (lod : Fr) (layer : Nat) (u v : Fr) : List Tap :=
  let l := min (t.roundLod lod) (t.levels - 1)
  match t.filt with
  | 0 =>
    [{ va := t.texel l layer (u.mul (Fr.int (t.w l))).floor (v.mul (Fr.int (t.h l))).floor, weight := 2 ^ 24 }]
  | 1 => t.bilinear l layer u v 256
  | _ =>
    let l0 := lod.floor.toNat
    let w := frac256 lod
    t.bilinear l0 layer u v (256 - w) ++ t.bilinear (min (l0 + 1) (t.levels - 1)) layer u v w

/-- The texels that a gather returns, in its order. -/
def Tex.gather (t : Tex) (lod : Fr) (layer : Nat) (u v : Fr) : List Tap :=
  let l := min (t.roundLod lod) (t.levels - 1)
  let (i, _) := axisTaps u (t.w l)
  let (j, _) := axisTaps v (t.h l)
  [(i, j + 1), (i + 1, j + 1), (i + 1, j), (i, j)].map fun (p : Int × Int) =>
    { va := t.texel l layer p.1 p.2, weight := 2 ^ 24 }

/-- Reading the texels of a footprint in turn. -/
def State.fetchTaps (s : State) (I : Issue) (l : Nat) (t : Tex) : List Tap → State × Except LaneOut (List (List Word))
  | [] => (s, .ok [])
  | p :: ps =>
    match s.unitFetch I l p.va (planeSize t.fmt) with
    | (u, .error e) => (u, .error e)
    | (u, .ok b) =>
      match u.fetchTaps I l t ps with
      | (x, .ok r) => (x, .ok (t.channels b :: r))
      | (x, .error e) => (x, .error e)

/-- A channel of a filtered texel: the exact weighted sum, rounded once. A NaN texel gives the canonical NaN. Where an
infinite texel has weight zero or meets another of the other sign the spec gives no value: `none`. -/
def filterChannel (ws : List Word) (taps : List Tap) : Option Word :=
  let xs := ws.map fun w => fp32.decode false w.toNat
  if xs.any Num.isNan then some (word fp32.nan)
  else
    let terms := (xs.zip taps).map fun (e : Num × Tap) =>
      match e.1 with
      | .fin n m k => Num.fin n (m * e.2.weight) (k - 24)
      | x => x
    let r := sumRound fp32 0 false 0 terms
    if ((xs.zip taps).any fun e => e.1.isInf && e.2.weight == 0) || r.1 == fp32.nan then none else some (word r.1)

/-- A channel, with a free value where the spec gives none. -/
def State.orFree (s : State) (w : Option Word) : State × Word :=
  match w with
  | some v => (s, v)
  | none =>
    let (t, n) := s.draw
    (t, Config.freeWord n)

/-- The words that four channels give. -/
def State.orFrees (s : State) (ws : List (Option Word)) : State × List Word :=
  ws.foldl (fun a w =>
    let r := a.1.orFree w
    (r.1, a.2 ++ [r.2])) (s, [])

/-! ## SMPL, SMPG -/

/-- A sample or a gather of one fibre under the default image. -/
def sampleLane (t : Tex) (gather grad : Bool) (d a : Nat) (I : Issue) (l : Nat) (s : State) : State × LaneOut :=
  let lod := t.clampLod (t.lambda I a l grad)
  let u := texCoord (I.R.v l a)
  let v := texCoord (I.R.v l (a + 1))
  let layer := t.layer (I.R.v l (a + 2))
  let taps := if gather then t.gather lod layer u v else t.taps lod layer u v
  match s.fetchTaps I l t taps with
  | (x, .error o) => (x, o)
  | (x, .ok cs) =>
    let ch (k : Nat) : List Word := cs.map fun c => c.getD k 0
    let sel := bits (I.R.v l (a + 3)).toNat 0 2
    let res := if gather then (ch sel).map fun w => some (if nan32 w then word fp32.nan else w)
      else (List.range 4).map fun k => filterChannel (ch k) taps
    let r := x.orFrees res
    (r.1, { lane := l, writes := wregs l d r.2 })

/-- The lines that an image which is not the default one reads for a fibre: the image chooses them (R348). -/
def imageLines (k n : Nat) : List Nat :=
  let v (j : Nat) : Nat := (Config.imageResult k n j).toNat
  (List.range (v 0)).map fun j => lineOf ((v (2 * j + 1) + 2 ^ 32 * v (2 * j + 2)) % vaTop)

/-- The reads of an image, with the translation, the parking and the traps that are fixed outside it (R348); the first
that does not succeed. -/
def State.imageReads (s : State) (I : Issue) (l : Nat) : List Nat → State × Option LaneOut
  | [] => (s, none)
  | va :: t =>
    match s.unitFetch I l va 128 with
    | (u, .error o) => (u, some o)
    | (u, .ok _) => u.imageReads I l t

/-- A sample or a gather under an image that is not the default one, which defines what R348 gives it: its reads and its
results are what the image computes. -/
def sampleImage (k d : Nat) (I : Issue) (l : Nat) (s : State) : State × LaneOut :=
  let (t, n) := s.draw
  match t.imageReads I l (imageLines k n) with
  | (u, some o) => (u, o)
  | (u, none) =>
    let (w, m) := u.draw
    (w, { lane := l, writes := wregs l d ((List.range 4).map (Config.imageResult k m)) })

/-- What the active fibres do at a sample or a gather of descriptor `k`; `lodr` is the level rule of Onyx code, 0 for native
code. The layout of a descriptor is the default image's (R340, R348). -/
def sampleOuts (lodr : Nat) (gather grad : Bool) (k : Nat) (d a : BitVec 7) (I : Issue) (s : State) :
    State × List LaneOut :=
  let c := s.ctx I.x
  if bits (c.word 0x1C0) 0 20 ≤ k then (s, trapAll I (mkTrap fcOob 0 k))
  else
    let s1 := s.reload I.core I.x 2
    match tget? c.images 2 with
    | some img => laneOuts (sampleImage img d.toNat) I s1
    | none =>
      match s1.unitFetch I I.low (bits (c.dword 0x1B8) 0 52 + 64 * k) 64 with
      | (t, .error o) => (t, I.act.map fun l => { o with lane := l })
      | (t, .ok b) =>
        match parseTex b with
        | none => (t, trapAll I (mkTrap fcIllop 0 k))
        | some x => laneOuts (sampleLane { x with lodr := lodr } gather grad d.toNat a.toNat) I t

/-- SMPL and SMPG. -/
def sampleRun (gather grad : Bool) (tr : BitVec 3) (d a : BitVec 7) (I : Issue) (s : State) : Result :=
  farWait I (sampleOuts 0 gather grad (I.R.s tr.toNat).toNat d a I s)

/-- The coordinates of the other fibres of a quad from which a fibre takes its derivatives (R342). -/
def peerQuad (a : Nat) (G : Group) (_ : List Nat) (l : Nat) : List (RegRef × Nat) :=
  (([0, 1, 2].map fun k => l / 4 * 4 + k).filter fun q => (G.lane q).live).flatMap fun q =>
    [(.v q a, a), (.v q (a + 1), a + 1)]

/-- The form of a sampling instruction: the data quad, the coordinate quad, the descriptor register, and what it reads of its
quad. -/
def sampleForm (i : Instr) (grad : Bool) (tr : BitVec 3) (d a : BitVec 7) (c : BitVec 3) : Form :=
  { ins := i, c := c, ops := [ovn 4 d, ovn 4 a, os tr], feat := 8
    peers := if grad then peerQuad a.toNat else fun _ _ _ => [] }

/-- SMPL with an explicit level of detail. -/
def execSmpl (t : BitVec 3) (d a : BitVec 7) (c : BitVec 3) : State → Out :=
  issue (sampleForm (.smpl t d a c) false t d a c) (sampleRun false false t d a)
/-- SMPL.G. -/
def execSmplG (t : BitVec 3) (d a : BitVec 7) (c : BitVec 3) : State → Out :=
  issue (sampleForm (.smplG t d a c) true t d a c) (sampleRun false true t d a)
/-- SMPG with an explicit level of detail. -/
def execSmpg (t : BitVec 3) (d a : BitVec 7) (c : BitVec 3) : State → Out :=
  issue (sampleForm (.smpg t d a c) false t d a c) (sampleRun true false t d a)
/-- SMPG.G. -/
def execSmpgG (t : BitVec 3) (d a : BitVec 7) (c : BitVec 3) : State → Out :=
  issue (sampleForm (.smpgG t d a c) true t d a c) (sampleRun true true t d a)

end Sys2Proof.Machine
end

