-- ==== Sys2Proof/Machine/Scratch.lean ====
section
/-!
DEFINITION. Scratchpad and lane-slice accesses (R128-R132, 03_memory_instr.md; R268-R271, 10_memory.md).
-/

namespace Sys2Proof.Machine

/-- The width in bytes of the code of R39. -/
def xWidth (w : BitVec 2) : Nat :=
  match w.toNat with
  | 0 => 4
  | 1 => 8
  | 2 => 16
  | _ => 2

/-- The registers that a width takes. -/
def xRegs (w : BitVec 2) : Nat := max 1 (xWidth w / 4)

/-- Where a fibre's scratchpad access goes: the storage, the base and the size of the allocation. -/
abbrev Place := Scr × Nat × Nat

/-- The place of a lane's own slice (R131, R268). -/
def slicePlace (I : Issue) (l : Nat) : Place :=
  (.slice I.core, 4096 * (32 * (I.g / 16) + l) + I.G.lbase, I.T.lsize)

/-- The physical offset of an access of `n` bytes at offset `o` under a swizzle, or its trap (R128). -/
def placeAddr (p : Place) (o n sw : Nat) : Except Trap Nat :=
  if p.2.2 < o + n then .error (mkTrap fcOob 0 o)
  else if o % n != 0 then .error (mkTrap fcAlign 0 o)
  else .ok (swizzle (p.2.1 + o) sw)

/-- The offset that an access forms: U32(v[a]) + off x 16. -/
def placeOffset (I : Issue) (l : Nat) (a : BitVec 7) (off : Nat) : Nat := (I.R.v l a.toNat).toNat + off * 16

/-- Some bytes of a storage are uncorrectable and not replaced by a store that the group holds (R132, R271). -/
def State.scrBadUnder (s : State) (held : List HeldStore) (d : Scr) (a n : Nat) : Bool :=
  s.scrBad d a n && (List.range n).any fun i => s.scrBad d (a + i) 1 && !held.any fun h => h.over (some d) (a + i)

/-- A load from a place (R128, R132, R271). -/
def placeLoad (place : Nat → Place) (d a : BitVec 7) (sw off : Nat) (w : BitVec 2) (I : Issue) (l : Nat) (s : State) :
    State × LaneOut :=
  let o := placeOffset I l a off
  let p := place l
  match placeAddr p o (xWidth w) sw with
  | .error t => (s, { lane := l, trap := some t })
  | .ok ph =>
    if s.scrBadUnder I.G.held p.1 ph (xWidth w) then (s, { lane := l, trap := some (mkTrap fcPoison 0 o) })
    else
      let r := s.readSeen I.party false (some p.1) ph (xWidth w)
      (r.1, { lane := l, writes := wregs l d.toNat (loadWords (xWidth w) (overlay I.G.held (some p.1) ph r.2)) })

/-- A store to a place (R128): fibres act in ascending lane order, so that the highest lane wins. -/
def placeStore (put : Scr → Nat → List Byte → State → State) (place : Nat → Place) (d a : BitVec 7) (sw off : Nat)
    (w : BitVec 2) (I : Issue) (l : Nat) (s : State) : State × LaneOut :=
  let p := place l
  match placeAddr p (placeOffset I l a off) (xWidth w) sw with
  | .error t => (s, { lane := l, trap := some t })
  | .ok ph => (put p.1 ph (storeData I.R l d.toNat (xWidth w)) s, { lane := l })

/-- LDX. -/
def execLdx (d a : BitVec 7) (lv : BitVec 2) (sf : BitVec 3) (w o : BitVec 2) (c : BitVec 3) : State → Out :=
  issue { ins := .ldx d a lv sf w o c, c := c, ops := [ovn (xRegs w) d, ov a], scope := true, relax := true } fun I =>
    eachLaneState (placeLoad (fun _ => I.T.level lv.toNat) d a sf.toNat o.toNat w) I
/-- STX. -/
def execStx (d a : BitVec 7) (lv : BitVec 2) (sf : BitVec 3) (w o : BitVec 2) (c : BitVec 3) : State → Out :=
  issue { ins := .stx d a lv sf w o c, c := c, ops := [ovn (xRegs w) d, ov a], scope := true, relax := true } fun I =>
    eachLaneState (placeStore (fun x a bs u => u.storeScr I x a bs) (fun _ => I.T.level lv.toNat) d a sf.toNat
      o.toNat w) I
/-- LDL. -/
def execLdl (d a : BitVec 7) (w o : BitVec 2) (c : BitVec 3) : State → Out :=
  issue { ins := .ldl d a w o c, c := c, ops := [ovn (xRegs w) d, ov a], scope := true } fun I =>
    eachLaneState (placeLoad (slicePlace I) d a 0 o.toNat w) I
/-- STL. -/
def execStl (d a : BitVec 7) (w o : BitVec 2) (c : BitVec 3) : State → Out :=
  issue { ins := .stl d a w o c, c := c, ops := [ovn (xRegs w) d, ov a], scope := true } fun I =>
    eachLaneState (placeStore (fun x a bs u => u.scrWrite x a bs) (slicePlace I) d a 0 o.toNat w) I

/-- The operation code of ATX: the swizzle field as bits [4:2], the offset field as bits [1:0] (R39). -/
def atxCode (p : BitVec 3) (q : BitVec 2) : Nat := p.toNat * 4 + q.toNat

/-- ATX (R130). -/
def execAtx (d a : BitVec 7) (lv : BitVec 2) (p : BitVec 3) (w : BitVec 1) (q : BitVec 2) (c : BitVec 3) : State → Out :=
  let n := 4 + 4 * w.toNat
  issue { ins := .atx d a lv p w q c, c := c, ops := [ovn (n / 4) d, ov a], scope := true, relax := true } fun I =>
    eachLaneState (fun I l s =>
      let pl := I.T.level lv.toNat
      let o := placeOffset I l a 0
      match placeAddr pl o n 0 with
      | .error t => (s, { lane := l, trap := some t })
      | .ok ph =>
        let s := s.performHeld I.core I.g fun h => h.meets (some pl.1) ph n
        if s.scrBad pl.1 ph n then (s, { lane := l, trap := some (mkTrap fcPoison 0 o) })
        else
          let old := leNat (s.scrRead pl.1 ph n)
          let new := atomStep (atxCode p q) n old (regValue I.R l d.toNat n)
          (s.scrWrite pl.1 ph (leBytes n new), { lane := l, writes := wregs l d.toNat (loadWords n (leBytes n old)) })) I

end Sys2Proof.Machine
end

