-- ==== Sys2Proof/Machine/Tile.lean ====
section
/-!
DEFINITION. The tile instructions (R175-R182, 04_matrix_graphics_system_instr.md; R321, R323, 13_program_overflow.md;
R328, R338, R339, 14_rendering.md).
-/

namespace Sys2Proof.Machine

/-- The tile that a team holds, with its pass (R176). -/
def State.heldTile (s : State) (T : Team) : Option (TileTask × Pass) :=
  match T.tile, tget? s.passes T.lid with
  | some t, some P => if t.held then some (t, P) else none
  | _, _ => none

/-- ILLOP with 0 in sr.trapaddr (R176). -/
def tileIllop : Trap := mkTrap fcIllop 0 0

/-- The plane that a tile instruction names, none when the team holds no tile or the plane is undescribed. -/
def State.tilePlane (s : State) (T : Team) (k : Nat) : Option Plane := (s.heldTile T).bind fun h => h.2.rs.plane k

/-- The registers that the operand of TLD and TST takes, by the plane's format: 1 where no plane is named. -/
def State.tileRegs (s : State) (k : BitVec 3) : Nat :=
  match s.issuer with
  | none => 1
  | some I => ((s.tilePlane I.T k.toNat).map fun p => planeRegs p.fmt).getD 1

/-- The pixel index of a lane (R176). -/
def pixelOf (R : Group) (l : Nat) (a : BitVec 7) : Nat := bits (R.v l a.toNat).toNat 0 10

/-- A fibre of a helper position (R338). -/
def Lane.helper (L : Lane) : Bool := (L.frag.map (·.helper)).getD false

/-- A fragment fibre, which holds a key and is no helper. -/
def Lane.fragment (L : Lane) : Option Frag := L.frag.filter fun f => !f.helper

/-- The form of a tile instruction on a plane with a data operand of `cnt` registers. The alignment by the plane's format
is checked at execution (R176). -/
def tileForm (i : Instr) (d a : BitVec 7) (cnt : Nat) (c : BitVec 3) : Form :=
  { ins := i, c := c, ops := [.v d.toNat cnt 1, ov a], feat := 7 }

/-! ## TLD, TST -/

/-- TLD (R177). -/
def execTld (k : BitVec 3) (d a : BitVec 7) (c : BitVec 3) (s0 : State) : Out :=
  issue (tileForm (.tld k d a c) d a (s0.tileRegs k) c) (fun I s1 =>
    let s := s1.landUnit I
    match s.tilePlane I.T k.toNat with
    | none => .go s (trapAll I tileIllop)
    | some p =>
      if d.toNat % planeRegs p.fmt != 0 then .go s (trapAll I tileIllop)
      else
        .go s (I.act.map fun l =>
          let o := p.at_ (pixelOf I.R l a)
          match s.scrBad (.unit I.core) (I.T.ubase + o) (planeSize p.fmt) with
          | true => { lane := l, trap := some (mkTrap fcPoison 0 o) }
          | false =>
            let bs := s.scrRead (.unit I.core) (I.T.ubase + o) (planeSize p.fmt)
            { lane := l, writes := wregs l d.toNat (loadWords (planeSize p.fmt) bs) })) s0

/-- TST: the fibres store in ascending lane order, and helpers store nothing (R177, R338). -/
def execTst (k : BitVec 3) (d a : BitVec 7) (c : BitVec 3) (s0 : State) : Out :=
  issue (tileForm (.tst k d a c) d a (s0.tileRegs k) c) (fun I s1 =>
    let s := s1.landUnit I
    match s.tilePlane I.T k.toNat with
    | none => .go s (trapAll I tileIllop)
    | some p =>
      if d.toNat % planeRegs p.fmt != 0 then .go s (trapAll I tileIllop)
      else
        .go (I.act.foldl (fun u l =>
          if (I.G.lane l).helper then u
          else u.scrWrite (.unit I.core) (I.T.ubase + p.at_ (pixelOf I.R l a))
            (storeData I.R l d.toNat (planeSize p.fmt))) s) []) s0

/-! ## Order slots (R178) -/

/-- The fragment key order: batch sequence, then primitive index. -/
def Frag.below (a b : Frag) : Bool := a.batchSeq < b.batchSeq || (a.batchSeq == b.batchSeq && a.prim < b.prim)

/-- A fragment of the tile with a lower key at a fragment's pixel still holds its order slot, and is no active fibre of
the instruction. -/
def State.slotBelow (s : State) (I : Issue) (f : Frag) : Bool :=
  (s.teamGroups I.tid).any fun e => e.2.lanes.any fun q =>
    match q.2.frag with
    | some h => q.2.live && h.slot && h.pixel == f.pixel && h.below f && !(e.1 == I.g && I.act.contains q.1)
    | none => false

/-- A fragment releases its order slot. -/
def Lane.releaseSlot (L : Lane) : Lane := { L with frag := L.frag.map fun f => { f with slot := false } }

/-- Placing a lane by its fragment key; lanes without a key stand first, in lane order. -/
def insertKey (G : Group) (l : Nat) : List Nat → List Nat
  | [] => [l]
  | x :: xs =>
    match (G.lane l).frag, (G.lane x).frag with
    | some f, some h => if f.below h then l :: x :: xs else x :: insertKey G l xs
    | none, some _ => l :: x :: xs
    | _, none => x :: insertKey G l xs

/-- Lanes in ascending order of their keys. -/
def byKey (G : Group) (ls : List Nat) : List Nat := ls.foldl (fun acc l => insertKey G l acc) []

/-- The course of BLND or DPTH through its fibres. -/
structure Ordered where
  s      : State
  served : BitVec 32
  outs   : List LaneOut
  left   : Bool

/-- A fibre is performed unless it is a fragment at its own pixel below which a slot is held. `f` performs a lane: the
state, and its trap. -/
def orderStep (I : Issue) (a : BitVec 7) (f : Nat → State → State × Option Trap) (r : Ordered) (l : Nat) : Ordered :=
  let L := I.G.lane l
  let waits := match L.fragment with
    | some h => pixelOf I.R l a == h.pixel && r.s.slotBelow I h
    | none => false
  if waits then { r with left := true }
  else
    match f l r.s with
    | (t, none) => { r with s := t, served := r.served ||| (1 <<< l : BitVec 32) }
    | (t, some e) => { r with s := t, outs := r.outs ++ [{ lane := l, trap := some e }] }

/-- BLND and DPTH: each fibre is performed once its order slot allows it, in ascending key order at a pixel; the batch
waits for the others (R178). `pre` are lanes that trap beforehand. -/
def ordered (I : Issue) (a : BitVec 7) (s : State) (pre : List LaneOut) (f : Nat → State → State × Option Trap) :
    Result :=
  let served := match I.B.wait with
    | some (.order m) => m
    | _ => 0
  let ls := I.act.filter fun l => !served.getLsbD l && !pre.any fun o => o.lane == l
  let r := (byKey I.G ls).foldl (orderStep I a f) { s := s, served := served, outs := pre, left := false }
  if r.left then .waitPart r.s (.order r.served) r.outs else .go r.s r.outs

/-! ## BLND (R179) -/

/-- A channel of a UNORM8 element as FP32. -/
def unormIn (u : Nat) : Nat := (fp32.ofRatio 0 false false u 255 0).1

/-- FP32 as a UNORM8 channel. -/
def unormOut (w : Nat) : Nat :=
  match fp32.decode false w with
  | .nan _ => 0
  | .inf n => if n then 0 else 255
  | .fin n m e => if n then 0 else min 255 (quantise 0 false (255 * m) e 0 false).1

/-- The four channels of an element as FP32. -/
def channelsIn (fmt : Nat) (bs : List Byte) : List Nat :=
  (List.range 4).map fun i =>
    match fmt with
    | 1 => unormIn (byteField bs i 1)
    | 2 => (fp32.ofNum 0 false (fp16.decode false (byteField bs (2 * i) 2))).1
    | _ => byteField bs (4 * i) 4

/-- A channel narrowed to a plane format. -/
def channelOut (fmt w : Nat) : List Byte :=
  match fmt with
  | 1 => leBytes 1 (unormOut w)
  | 2 => leBytes 2 (fp16.ofNum 0 false (fp32.decode false w)).1
  | _ => leBytes 4 w

/-- A channel of a blend: the operation, the source, its alpha and the destination. -/
def blendOp (op s sa d : Nat) : Nat :=
  let n (x : Nat) : Num := fp32.decode false x
  match op with
  | 0 => s
  | 1 => (fp32.fma 0 false (n d) (n (fp32.add 0 false (n 0x3F800000) (n sa).flip).1) (n s)).1
  | 2 => (fp32.add 0 false (n s) (n d)).1
  | 3 => (fp32.minMax false false (n s) (n d)).1
  | _ => (fp32.minMax true false (n s) (n d)).1

/-- BLND at one pixel: it blends and releases the fragment's slot; a helper changes nothing. -/
def blendLane (I : Issue) (p : Plane) (d a : BitVec 7) (l : Nat) (s : State) : State × Option Trap :=
  if (I.G.lane l).helper then (s, none)
  else
    let o := p.at_ (pixelOf I.R l a)
    let size := planeSize p.fmt
    if s.scrBad (.unit I.core) (I.T.ubase + o) size then (s, some (mkTrap fcPoison 0 o))
    else
      let src (i : Nat) : Nat := (I.R.v l (d.toNat + i)).toNat
      let ds := channelsIn p.fmt (s.scrRead (.unit I.core) (I.T.ubase + o) size)
      let out := ds.zipIdx.flatMap fun (x, i) => channelOut p.fmt (blendOp p.blend (src i) (src 3) x)
      ((s.scrWrite (.unit I.core) (I.T.ubase + o) out).modGroup I.core I.g fun G => G.modLane l Lane.releaseSlot, none)

/-- BLND. -/
def execBlnd (k : BitVec 3) (d a : BitVec 7) (c : BitVec 3) : State → Out :=
  issue { ins := .blnd k d a c, c := c, ops := [ovn 4 d, ov a], feat := 7 } fun I s =>
    match (s.tilePlane I.T k.toNat).filter fun p => 1 ≤ p.fmt && p.fmt ≤ 3 with
    | none => .go s (trapAll I tileIllop)
    | some p => ordered I a (s.landUnit I) [] (blendLane I p d a)

/-! ## DPTH (R180, R339) -/

/-- DPTH at one pixel: the predicate is written, and a passing depth unless the form only tests. -/
def depthLane (I : Issue) (p : Plane) (test : Bool) (k : Nat) (d a : BitVec 7) (l : Nat) (s : State) :
    State × Option Trap :=
  let put (u : State) (b : Bool) : State := u.modGroup I.core I.g fun G => G.writeVar [wpred l k b]
  if (I.G.lane l).helper then (put s false, none)
  else
    let o := p.at_ (pixelOf I.R l a)
    if s.scrBad (.unit I.core) (I.T.ubase + o) 4 then (s, some (mkTrap fcPoison 0 o))
    else
      let z := I.R.v l d.toNat
      let pass := depthPass p.cmp z (word (leNat (s.scrRead (.unit I.core) (I.T.ubase + o) 4)))
      let s1 := if pass && !test then s.scrWrite (.unit I.core) (I.T.ubase + o) (leBytes 4 z.toNat) else s
      (put s1 pass, none)

/-- The traps of the fragment fibres of a pass that resolves depth before shading (R339). -/
def hsrTraps (I : Issue) (P : Pass) : List LaneOut :=
  if P.rs.hsr then
    (I.act.filter fun l => (I.G.lane l).fragment.isSome).map fun l => { lane := l, trap := some tileIllop }
  else []

/-- DPTH and DPTH.T: `k` is the predicate. -/
def depthRun (test : Bool) (k : BitVec 3) (d a : BitVec 7) (I : Issue) (s : State) : Result :=
  match s.heldTile I.T with
  | none => .go s (trapAll I tileIllop)
  | some (_, P) =>
    match P.rs.depth with
    | none => .go s (trapAll I tileIllop)
    | some p => ordered I a (s.landUnit I) (hsrTraps I P) (depthLane I p test k.toNat d a)

/-- DPTH. -/
def execDpth (k : BitVec 3) (d a : BitVec 7) (c : BitVec 3) : State → Out :=
  issue { ins := .dpth k d a c, c := c, ops := [op k, ov d, ov a], feat := 7 } (depthRun false k d a)
/-- DPTH.T. -/
def execDpthT (k : BitVec 3) (d a : BitVec 7) (c : BitVec 3) : State → Out :=
  issue { ins := .dpthT k d a c, c := c, ops := [op k, ov d, ov a], feat := 7 } (depthRun true k d a)

/-! ## DISC, TRET -/

/-- DISC: the active fibres end, and their slots with them (R181). -/
def execDisc (c : BitVec 3) : State → Out :=
  issue { ins := .disc c, c := c, feat := 7 } fun I s =>
    match s.heldTile I.T with
    | none => .go s (trapAll I tileIllop)
    | some (_, P) =>
      let pre := hsrTraps I P
      .go s (pre ++ (I.act.filter fun l => !pre.any fun o => o.lane == l).map fun l => { lane := l, ends := true })

/-- The team has finished its tile: every fragment fibre has been created and has ended, and no matrix operation of the
team is left (R182, R323). -/
def State.tileDone (s : State) (tid : Nat) (t : TileTask) : Bool :=
  t.hi ≤ t.at_ && !((s.core (s.team tid).core).mqueue.any fun m => m.tid == tid) &&
    (s.teamGroups tid).all fun e => e.2.lanes.all fun q => !q.2.live || q.2.fragment.isNone

/-- TRET once its checks have passed: it waits until the tile is done, hands it over, and the team holds it no more. The
export and the spill are the steps TILE_EXPORT and TILE_SPILL. -/
def tretRun (I : Issue) (plane ob : Nat) (s0 : State) : Result :=
  let s := s0.landUnit I
  match s.heldTile I.T with
  | none => .go s []
  | some (t, _) =>
    if s.tileDone I.tid t then
      .go (s.modTeam I.tid fun T => { T with tile := some { t with held := false, tret := some (plane, ob, I.origin) } }) []
    else .wait s (.poll 15)

/-- TRET. -/
def execTret (n : BitVec 7) (c : BitVec 3) : State → Out :=
  issue { ins := .tret n c, c := c, ops := [osn 2 n], feat := 7 } fun I s =>
    let w := (I.R.s n.toNat).toNat
    let ob := (I.R.s (n.toNat + 1)).toNat
    if !I.first then tretRun I (bits w 0 3) ob s
    else
      match s.heldTile I.T with
      | none => .go s (trapAll I tileIllop)
      | some (_, P) =>
        match firstTrap [illopIf (bits w 3 29 != 0) w, illopIf (2 ^ 20 ≤ ob) ob,
            if (P.rs.plane (bits w 0 3)).isNone then some tileIllop else none] with
        | some t => .go s (trapAll I t)
        | none =>
          match s.checkObj I ob with
          | (t, some e) => e.stop I t
          | (t, none) => tretRun I (bits w 0 3) ob t

end Sys2Proof.Machine
end

