-- ==== Sys2Proof/Machine/Onyx.lean ====
section
/-!
DEFINITION. Onyx: the word, the entry, the translation of a granule, and the effect of a word (R351-R365, 15_onyx.md).

A translation holds the granule's 512 words as they stood when it was installed. Its native code has one slot of 4 bytes
for each word, and a last one for the granule's end; the native PC `base + 4 k` stands for word `k`.
-/

namespace Sys2Proof.Machine

/-! ## The word -/

/-- The fields of an Onyx word (R351). -/
structure OWord where
  op  : Nat
  dst : Nat
  a   : Nat
  b   : Nat
  c   : Nat
  mod : Nat
deriving DecidableEq, Repr

/-- The fields of 64 bits. -/
def oword (w : DWord) : OWord :=
  let n := w.toNat
  { op := bits n 56 8, dst := bits n 48 8, a := bits n 40 8, b := bits n 32 8, c := bits n 24 8, mod := bits n 0 24 }

/-- The mask of a word. -/
def OWord.mask (o : OWord) : Nat := bits o.mod 16 4

/-- The kinds of operations, by what they read and how mod is laid out (R352, R354-R356). -/
inductive OKind where
  /-- Arithmetic on `n` register sources; `int` for a row marked I, `f` for one marked F. -/
  | arith (n : Nat) (int f : Bool)
  | diff
  | tex
  | ldc
  | interp
  | out
  | kill
  | ldi
  | bra
  | brz
  | call
  | ret
  | func
deriving DecidableEq, Repr

/-- The kind of an operation code; none for an undefined one. -/
def okind (op : Nat) : Option OKind :=
  if op == 0 then none
  else if op == 0x01 then some (.arith 1 false false)
  else if op == 0x04 then some (.arith 3 false true)
  else if op ≤ 0x08 then some (.arith 2 false true)
  else if op ≤ 0x11 then some (.arith 1 false true)
  else if op == 0x12 then some (.arith 2 false true)
  else if op == 0x13 then some (.arith 3 false false)
  else if op ≤ 0x15 then some (.arith 2 false false)
  else if op ≤ 0x1D then some (.arith 2 true false)
  else if op ≤ 0x1F then some (.arith 1 false false)
  else if op ≤ 0x21 then some .diff
  else if op ≤ 0x23 then some .tex
  else
    match op with
    | 0x24 => some .ldc
    | 0x25 => some .interp
    | 0x26 => some .out
    | 0x27 => some .kill
    | 0x28 => some .ldi
    | 0x29 => some .bra
    | 0x2A => some .brz
    | 0x2B => some .call
    | 0x2C => some .ret
    | 0x2D => some .func
    | _ => none

/-- Every field that the operation does not use is zero, and a mask is not (R352, R355, R356). -/
def OWord.fieldsOk (o : OWord) : OKind → Bool
  | .arith n int _ =>
    (1 < n || o.b == 0) && (2 < n || o.c == 0) && o.mask != 0 && !bit o.mod 23 &&
      (1 < n || (bits o.mod 8 8 == 0 && !bit o.mod 21)) && (!int || bits o.mod 20 3 == 0) &&
      (o.op != 0x1E || !bit o.mod 20) && (o.op != 0x1F || !bit o.mod 22)
  | .diff => o.b == 0 && o.c == 0 && o.mask != 0 && !bit o.mod 23 && bits o.mod 8 8 == 0 && !bit o.mod 21
  | .tex => o.b == 0 && o.mask != 0 && !bit o.mod 23 && bits o.mod 8 8 == 0 && !bit o.mod 21
  | .ldc => o.b == 0 && o.c < 16 && o.mask != 0 && bits o.mod 20 4 == 0
  | .interp =>
    o.a == 0 && o.b == 0 && bits o.mod 0 16 == 0 && o.mask != 0 && bits o.mod 20 4 == 0 &&
      (List.range 4).all fun i => !bit o.mask i || o.c + i < 16
  | .out => o.dst == 0 && o.b == 0 && o.c < 8 && o.mask == 0xF && bits o.mod 8 8 == 0 && bits o.mod 20 4 == 0
  | .kill => o.dst == 0 && o.b == 0 && o.c == 0 && o.mask != 0 && bits o.mod 8 8 == 0 && bits o.mod 20 4 == 0
  | .ldi => o.a == 0 && o.b == 0 && o.c == 0 && o.mask != 0 && bits o.mod 21 3 == 0
  | .brz => o.dst == 0 && o.b == 0 && o.c == 0 && bits o.mod 19 5 == 0
  | .bra => o.dst == 0 && o.a == 0 && o.b == 0 && o.c == 0 && bits o.mod 16 8 == 0
  | .call => o.dst == 0 && o.a == 0 && o.b == 0 && o.c == 0 && bits o.mod 16 8 == 0
  | .ret => o.dst == 0 && o.a == 0 && o.b == 0 && o.c == 0 && o.mod == 0
  | .func =>
    o.dst == 0 && o.a == 0 && o.b == 0 && o.c == 0 && bits o.mod 9 15 == 0 && 1 ≤ bits o.mod 0 9 && bits o.mod 0 9 ≤ 256

/-- The registers that a word names. -/
def OWord.regs (o : OWord) : OKind → List Nat
  | .arith n _ _ => o.dst :: [o.a, o.b, o.c].take n
  | .diff => [o.dst, o.a]
  | .tex => [o.dst, o.a]
  | .ldc => [o.dst, o.a]
  | .interp => [o.dst]
  | .out => [o.a]
  | .kill => [o.a]
  | .ldi => [o.dst]
  | .brz => [o.a]
  | _ => []

/-- A word that branches or calls. -/
def OKind.jumps : OKind → Bool
  | .bra => true
  | .brz => true
  | .call => true
  | _ => false

/-- The place of the target of a displacement from word `k`, in words of the granule. -/
def OWord.target (o : OWord) (k : Nat) : Int := (k : Int) + 1 + sext 16 (bits o.mod 0 16)

/-- Word `k` of a translation. -/
def OnyxTr.word (t : OnyxTr) (k : Nat) : OWord := oword (t.words.getD k 0)

/-- The register count of the function that a word belongs to: that of the nearest FUNC word at or before it. -/
def OnyxTr.count (t : OnyxTr) : Nat → Nat
  | 0 => if (t.word 0).op == 0x2D then bits (t.word 0).mod 0 9 else 0
  | k + 1 => if (t.word (k + 1)).op == 0x2D then bits (t.word (k + 1)).mod 0 9 else t.count k

/-- The defect of the word in slot `k` that every fibre reaching it traps on, with its reason of R363 and its op. -/
def OnyxTr.defect (t : OnyxTr) (k : Nat) : Option (Nat × Nat) :=
  if 512 ≤ k then some (8, 0)
  else
    let o := t.word k
    match okind o.op with
    | none => some (1, o.op)
    | some q =>
      if !o.fieldsOk q then some (2, o.op)
      else if q.jumps && !(0 ≤ o.target k && o.target k < 512) then some (3, o.op)
      else if (o.regs q).any fun r => t.count k ≤ r then some (5, o.op)
      else if q = .func then some (8, o.op)
      else none

/-! ## LEGACY -/

/-- The LEGACY trap with a reason, for a word at an Onyx PC; `addr` is the native PC of R363. -/
def legacyTrap (reason opc op addr : Nat) : Trap :=
  { mkTrap fcLegacy (reason + op * 256) addr with onyx := some (opc, op) }

/-- The fibres of the batch as an Onyx word or an entry leaves them: those with a LEGACY trap report its Onyx PC (R363),
and the others end as after any instruction. -/
def State.finishOnyx (s : State) (I : Issue) (outs : List LaneOut) : State :=
  let leg := outs.filterMap fun o => match o.trap with
    | some t => t.onyx.map fun p => (p.1, o.lane, t)
    | none => none
  let s1 := s.finish { I with lanes := I.lanes.filter fun l => !leg.any fun e => e.2.1 == l } none
    (outs.filter fun o => !leg.any fun e => e.2.1 == o.lane)
  (distinct (leg.map (·.1))).foldl (fun u pc =>
    u.takeTraps I.core I.g pc ((leg.filter fun e => e.1 == pc).map (·.2))) s1

/-! ## Entry (R357, R358) -/

/-- The bytes of the translation region that a translation takes: 513 slots of 4. -/
def onyxBytes : Nat := 2056

/-- The live translation of a granule under a mode. -/
def Ctx.onyxTr (c : Ctx) (pa : Nat) (mode : Word) : Option OnyxTr :=
  c.onyx.find? fun t => !t.dead && t.pa == pa && t.mode == mode

/-- The translation region has room for one more translation; its size is given in MiB. -/
def Ctx.onyxRoom (c : Ctx) : Bool := c.onyxUsed + onyxBytes ≤ bits (c.word 0x1D8) 0 16 * 2 ^ 20

/-- The defect of an entry at a word, by the conditions of R357 and R363 in the order of their reasons. -/
def entryDefect (o : OWord) (aligned : Bool) (I : Issue) : Option Nat :=
  if !aligned || o.op != 0x2D then some 4
  else if o.fieldsOk .func && I.T.lsize < 16 * bits o.mod 0 9 then some 5
  else if I.G.budget < 32 then some 6
  else none

/-- A batch whose PC lies in an Onyx page enters Onyx code (R357): `pa` is the physical address of the PC, and `readable`
tells that the leaf has R. A transfer to a leaf without R has trapped already (`State.targetTrap`); a PC that lies on one
without a transfer raises PROT there. -/
def onyxEntry (pa : Nat) (readable : Bool) (s : State) : Out :=
  match s.issuer with
  | none => .fault .noIssuer
  | some I0 =>
    let I := { I0 with rpc := I0.pc, act := I0.lanes }
    let s1 := s.account I.core I.g 0 none
    let via (l : Nat) : Nat := (I.G.lane l).via
    let gr := pa / 4096 * 4096
    let k := pa % 4096 / 8
    let c := s.ctx I.x
    let tr := c.onyxTr gr I.G.compat
    if !readable then .next (s1.finish I none (trapAll I (mkTrap fcProt 0 I.pc)))
    else if tr.isNone && (s.reach pa != .ok || s.bad pa 8) then .next (s1.finish I none (trapAll I (mkTrap fcPoison 0 I.pc)))
    else
      let o := match tr with
        | some t => t.word k
        | none => oword (BitVec.ofNat 64 (s.rdNat (gr + 8 * k) 8))
      match entryDefect o (pa % 8 == 0) I with
      | some r => .next (s1.finishOnyx I (I.lanes.map fun l => { lane := l, trap := some (legacyTrap r I.pc o.op (via l)) }))
      | none =>
        match tr with
        | none =>
          if c.onyxRoom then .next ((s.hold I none (.onyx gr I.G.compat) []).freeSlot I.core I.g)
          else .next (s1.finishOnyx I (I.lanes.map fun l => { lane := l, trap := some (legacyTrap 7 I.pc o.op (via l)) }))
        | some t =>
          -- a FUNC word with a defect keeps its own slot, where its trap point stands
          let pc := t.base + 4 * (if o.fieldsOk .func then k + 1 else k)
          .next (s1.modGroup I.core I.g fun G =>
            let H := I.lanes.foldl (fun H l => H.modLane l fun L => { L with pc := pc, depth := 0, granule := I.pc / 4096 * 4096 }) G
            { H with batches := H.batches.modify I.bi fun B => Batch.fresh B.lanes })

/-- A batch of a group waits for the translation of a granule under a mode. -/
def Batch.waitsOnyx (B : Batch) (pa : Nat) (mode : Word) : Bool :=
  match B.wait with
  | some (.onyx p m) => p == pa && m == mode
  | _ => false

/-- The groups of a context with batches that wait for a translation. -/
def State.onyxWaiters (s : State) (x pa : Nat) (mode : Word) : List (Nat × Nat × Group) :=
  s.allGroups.filter fun e => e.2.2.ctx == x && e.2.2.batches.any fun B => B.waitsOnyx pa mode

/-- The 64-bit words that bytes hold. -/
def bytesDWords : Nat → List Byte → List DWord
  | 0, _ => []
  | n + 1, bs => BitVec.ofNat 64 (byteField bs 0 8) :: bytesDWords n (bs.drop 8)

/-- Installing a translation in the region (R358): its words, and the bytes of its native code. -/
def State.installOnyx (s : State) (x pa va : Nat) (mode : Word) : State :=
  let c := s.ctx x
  let ws := bytesDWords 512 (s.rd pa 4096)
  let base := c.dword 0x1D0 + c.onyxUsed
  let s1 := match s.vaWrite x base ((List.range onyxBytes).map (Config.onyxByte ws mode)) with
    | .ok t => t
    | .error e => s.noteFault x (srcHdie 0) e
  s1.modCtx x fun c =>
    { c with onyx := c.onyx ++ [{ pa := pa, mode := mode, va := va, base := base, words := ws, dead := false }]
             onyxUsed := c.onyxUsed + onyxBytes }

/-- ONYX_TRANSLATE: the translation of a granule that entries wait for is installed in one step, and the entries are
made again. -/
def execOnyxTranslate (ctx pa : Nat) (mode : BitVec 32) (s : State) : Out :=
  let ws := s.onyxWaiters ctx pa mode
  .next (match ws with
    | [] => s
    | (_, _, G) :: _ =>
      let c := s.ctx ctx
      let va := ((G.batches.find? fun B => B.waitsOnyx pa mode).map G.batchPc).getD 0 / 4096 * 4096
      let s1 := if (c.onyxTr pa mode).isNone && c.onyxRoom then s.installOnyx ctx pa va mode else s
      ws.foldl (fun u e => u.modGroup e.1 e.2.1 fun G =>
        { G with batches := G.batches.map fun B => if B.waitsOnyx pa mode then Batch.fresh B.lanes else B }) s1)

/-- The translation and the slot that a native PC lies in: the one installed last. -/
def Ctx.onyxAt (c : Ctx) (pc : Nat) : Option (OnyxTr × Nat) :=
  (c.onyx.reverse.find? fun t => t.base ≤ pc && pc < t.base + 4 * 513).map fun t => (t, (pc - t.base) / 4)

/-! ## Arithmetic (R354, R355, R362) -/

/-- A subnormal FP32 value is a zero of the same sign. -/
def flush32 (w : Word) : Word := if bits w.toNat 23 8 == 0 then w &&& 0x80000000 else w

/-- A source component: FIN for a row marked F, then the negation. -/
def osource (m : Word) (f neg : Bool) (w : Word) : Word :=
  let v := if f && m.getLsbD 0 then flush32 w else w
  if neg then v ^^^ 0x80000000 else v

/-- The swizzle of a vec4. -/
def oswizzle (sel : Nat) (v : List Word) : List Word := (List.range 4).map fun i => v.getD (bits sel (2 * i) 2) 0

/-- MIN and MAX under the MINMAX field, before NANP. -/
def ominMax (m : Word) (isMax : Bool) (a b : Word) : Nat × Nat :=
  let x := fp32.decode false a.toNat
  let y := fp32.decode false b.toNat
  match bits m.toNat 4 2 with
  | 1 => (if x.cmp y == (if isMax then .gt else .lt) then a.toNat else b.toNat, snanFlag [x, y])
  | 2 => if x.isNan || y.isNan then (fp32.nan, snanFlag [x, y]) else fp32.minMax isMax false x y
  | _ => fp32.minMax isMax false x y

/-- RCP, RSQ and SQRT with RCPT = 1: toward zero, bits [1:0] cleared, NX and UF by the result as it then stands. -/
def otruncate (o : UnFn) (a : Word) : Nat × Nat :=
  let r := unaryFn { envRne with mode := 1 } o a.toNat
  let e := bits r.1 23 8
  if e == 0xFF || r.1 % 2 ^ 31 == 0 then r
  else
    let v := r.1 / 4 * 4
    let inexact := v != r.1 || bit r.2 4
    (v, r.2 ||| flagIf inexact fNX ||| flagIf (inexact && e == 0) fUF)

/-- SIN and COS with TRIG = 1: the reduction by FP32 2π, P = 13176795 x 2^-21. -/
def otrig (cosine : Bool) (a : Word) : Nat × Nat :=
  match fp32.decode false a.toNat with
  | .fin n m e =>
    if m == 0 then unaryFn envRne (if cosine then .cos else .sin) a.toNat
    else
      let e0 := min e (-21)
      let x := m * 2 ^ (e - e0).toNat
      let p := 13176795 * 2 ^ (-21 - e0).toNat
      let k := 2 * x / p
      -- k is the quotient rounded to nearest even
      let q := if 2 * (x % p) == p then x / p / 2 * 2 + 2 * (x / p % 2) else (k + 1) / 2
      let t : Int := (x : Int) - q * p
      if t == 0 then (if cosine then (0x3F800000, 0) else (0, 0))
      else sinRound envRne cosine (n != decide (t < 0)) t.natAbs e0
  | _ => unaryFn envRne (if cosine then .cos else .sin) a.toNat

/-- The unary functions of codes 0x0B to 0x11. -/
def ounary (m : Word) (op : Nat) (a : Word) : Nat × Nat :=
  let root (o : UnFn) : Nat × Nat := if m.getLsbD 6 then otruncate o a else unaryFn envRne o a.toNat
  match op with
  | 0x0B => root .rcp
  | 0x0C => root .rsq
  | 0x0D => root .sqrt
  | 0x0E => unaryFn envRne .exp2 a.toNat
  | 0x0F => unaryFn envRne .log2 a.toNat
  | _ => if bits m.toNat 11 2 == 1 then otrig (op == 0x11) a else unaryFn envRne (if op == 0x11 then .cos else .sin) a.toNat

/-- FTOI under the F2I field. -/
def oftoi (m : Word) (a : Word) : Nat × Nat :=
  let r := cvtiVal { envRne with mode := 1 } fp32 0 32 a.toNat
  if !bit r.2 0 then r
  else
    match bits m.toNat 9 2, fp32.decode false a.toNat with
    | 1, _ => (0x80000000, r.2)
    | 2, .fin n x e =>
      let v : Int := (roundInt 1 n x e).1
      ((low32 (if n then -v else v)).toNat, fNV)
    | 2, _ => (0, fNV)
    | _, _ => r

/-- IDIV (R88) with the IDIVZ result. -/
def oidiv (m a b : Word) : Word :=
  if b == 0 then
    match bits m.toNat 7 2 with
    | 1 => 0
    | 2 => if a.getLsbD 31 then 0x80000000 else 0x7FFFFFFF
    | _ => 0xFFFFFFFF
  else divS a b

/-- A dot product of the first `n` components. -/
def odot (n : Nat) (a b : List Word) : Nat × Nat :=
  match (List.range n).map fun i => envRne.bin fp32 .mul (a.getD i 0).toNat (b.getD i 0).toNat with
  | [] => (0, 0)
  | p :: ps => ps.foldl (fun acc q =>
      let s := envRne.bin fp32 .add acc.1 q.1
      (s.1, acc.2 ||| q.2 ||| s.2)) p

/-- A comparison result as 1.0 or 0.0, with the flag of the native comparison. -/
def ocompare (cond : Nat) (a b : Word) : Nat × Nat :=
  let x := fp32.decode false a.toNat
  let y := fp32.decode false b.toNat
  (if floatCond cond (x.cmp y) then 0x3F800000 else 0, cmpFlag cond x y)

/-- The raw result of component `i` of an arithmetic word, before FOUT, NANP and sat. -/
def oarith (m : Word) (op : Nat) (a b c : List Word) (i : Nat) : Nat × Nat :=
  let x := a.getD i 0
  let y := b.getD i 0
  let z := c.getD i 0
  let int (w : Word) : Nat × Nat := (w.toNat, 0)
  match op with
  | 0x01 => int x
  | 0x02 => envRne.bin fp32 .add x.toNat y.toNat
  | 0x03 => envRne.bin fp32 .mul x.toNat y.toNat
  | 0x04 =>
    let p := envRne.bin fp32 .mul x.toNat y.toNat
    let r := envRne.bin fp32 .add p.1 z.toNat
    (r.1, p.2 ||| r.2)
  | 0x05 => odot 3 a b
  | 0x06 => odot 4 a b
  | 0x07 => ominMax m false x y
  | 0x08 => ominMax m true x y
  | 0x09 => ffrac envRne x.toNat
  | 0x0A => frnd envRne 3 x.toNat
  | 0x12 => fdiv envRne x.toNat y.toNat
  | 0x13 =>
    let r := ocompare 5 x 0
    ((if r.1 != 0 then y else z).toNat, r.2)
  | 0x14 => ocompare 2 x y
  | 0x15 => ocompare 5 x y
  | 0x16 => int (x + y)
  | 0x17 => int (x * y)
  | 0x18 => int (oidiv m x y)
  | 0x19 => int (x &&& y)
  | 0x1A => int (x ||| y)
  | 0x1B => int (x ^^^ y)
  | 0x1C => int (x <<< (y.toNat % 32))
  | 0x1D => int (x >>> (y.toNat % 32))
  | 0x1E => cvtfVal envRne fp32 (s32 x)
  | 0x1F => oftoi m x
  | _ => ounary m op (a.getD 0 0)

/-- The sources of component `i` in the order of NANP = 1 (R362): those of a dot product are the components of a, then
those of b (log entry 24). -/
def osources (op n : Nat) (a b c : List Word) (i : Nat) : List Word :=
  if op == 0x05 || op == 0x06 then
    let k := if op == 0x05 then 3 else 4
    a.take k ++ b.take k
  else if 0x0B ≤ op && op ≤ 0x11 then [a.getD 0 0]
  else [a.getD i 0, b.getD i 0, c.getD i 0].take n

/-- A NaN result under NANP. -/
def onanp (m : Word) (srcs : List Word) (r : Word) : Word :=
  if nan32 r then
    match bits m.toNat 2 2 with
    | 1 => ((srcs.find? nan32).map (· ||| 0x00400000)).getD 0x7FC00000
    | 2 => 0
    | _ => 0x7FC00000
  else r

/-- FOUT, NANP and sat on a result: the first two for a row marked F. -/
def oresult (m : Word) (f sat : Bool) (srcs : List Word) (r : Nat × Nat) : Word × Nat :=
  let w := word r.1
  let sub := f && m.getLsbD 1 && bits r.1 23 8 == 0 && bits r.1 0 23 != 0
  let w1 := if sub then flush32 w else w
  let w2 := if f then onanp m srcs w1 else w1
  (if sat then word (fp32.clamp w2.toNat) else w2, if sub then r.2 ||| fUF ||| fNX ||| fFTZF else r.2)

/-! ## The registers of a word -/

/-- A word that issues: the batch, the translation, the slot and the fields. -/
structure OIssue where
  I : Issue
  t : OnyxTr
  k : Nat
  o : OWord

/-- The storage address of o-register `n` of a lane (R352), or the trap of the access. -/
def oplace (I : Issue) (l n : Nat) : Except Trap Nat := placeAddr (slicePlace I l) (16 * n) 16 0

/-- The components of o-register `n` of a lane. -/
def oread (I : Issue) (s : State) (l n : Nat) : Except Trap (List Word) :=
  match oplace I l n with
  | .error t => .error t
  | .ok a =>
    if s.scrBad (.slice I.core) a 16 then .error (mkTrap fcPoison 0 (16 * n))
    else .ok (bytesWords 4 (s.scrRead (.slice I.core) a 16))

/-- Writing the masked components of o-register `n` of a lane. -/
def owrite (I : Issue) (l n mask : Nat) (v : List Word) (s : State) : State :=
  match oplace I l n with
  | .error _ => s
  | .ok a => ((List.range 4).filter (bit mask)).foldl (fun u i =>
      u.scrWrite (.slice I.core) (a + 4 * i) (leBytes 4 (v.getD i 0).toNat)) s

/-- A register operand that an operation uses; zeros for one that it does not. -/
def oreadIf (use : Bool) (I : Issue) (s : State) (l n : Nat) : Except Trap (List Word) :=
  if use then oread I s l n else .ok [0, 0, 0, 0]

/-- What a lane computes: the words of its destination, and flags; or its trap. -/
abbrev OVal := Except Trap (List Word × Nat)

/-- Storing what the lanes computed: no lane's result is seen by another's operands. -/
def ostore (O : OIssue) (rs : List (Nat × OVal)) (s : State) : Result :=
  .go (rs.foldl (fun u r =>
      match r.2 with
      | .ok v => owrite O.I r.1 O.o.dst O.o.mask v.1 u
      | .error _ => u) s)
    (rs.map fun r =>
      match r.2 with
      | .ok v => { lane := r.1, flags := v.2 }
      | .error t => { lane := r.1, trap := some t })

/-- The first operand, swizzled and prepared. -/
def OIssue.operandA (O : OIssue) (f : Bool) (v : List Word) : List Word :=
  (oswizzle (bits O.o.mod 0 8) v).map (osource O.t.mode f (bit O.o.mod 20))

/-- An arithmetic, compare or integer word for one lane. -/
def OIssue.arithLane (O : OIssue) (n : Nat) (f : Bool) (s : State) (l : Nat) : OVal :=
  match oread O.I s l O.o.a, oreadIf (1 < n) O.I s l O.o.b, oreadIf (2 < n) O.I s l O.o.c, oplace O.I l O.o.dst with
  | .ok va, .ok vb, .ok vc, .ok _ =>
    let a := O.operandA f va
    let b := (oswizzle (bits O.o.mod 8 8) vb).map (osource O.t.mode f (bit O.o.mod 21))
    let c := vc.map (osource O.t.mode f false)
    let rs := (List.range 4).map fun i =>
      if bit O.o.mask i then
        oresult O.t.mode f (bit O.o.mod 22) (osources O.o.op n a b c i) (oarith O.t.mode O.o.op a b c i)
      else (0, 0)
    .ok (rs.map (·.1), rs.foldl (fun x r => x ||| r.2) 0)
  | .error t, _, _, _ => .error t
  | _, .error t, _, _ => .error t
  | _, _, .error t, _ => .error t
  | _, _, _, .error t => .error t

/-- The two lanes whose difference DDX or DDY takes at lane `l` (R362): minuend and subtrahend. -/
def odiffLanes (coarse vertical : Bool) (l : Nat) : Nat × Nat :=
  let q := l / 4 * 4
  if coarse then (q + (if vertical then 2 else 1), q)
  else if vertical then (q + 2 + (l - q) % 2, q + (l - q) % 2)
  else (q + 2 * ((l - q) / 2) + 1, q + 2 * ((l - q) / 2))

/-- DDX and DDY for one lane: a lane with no live fibre supplies the reading fibre's own value. -/
def OIssue.diffLane (O : OIssue) (s : State) (l : Nat) : OVal :=
  let from_ (q : Nat) : Except Trap (List Word) := oread O.I s (if (O.I.G.lane q).live then q else l) O.o.a
  let p := odiffLanes (O.t.mode.getLsbD 13) (O.o.op == 0x21) l
  match from_ p.1, from_ p.2, oplace O.I l O.o.dst with
  | .ok u, .ok v, .ok _ =>
    let a := O.operandA true u
    let b := O.operandA true v
    let rs := (List.range 4).map fun i =>
      if bit O.o.mask i then
        oresult O.t.mode true (bit O.o.mod 22) [a.getD i 0, b.getD i 0]
          (envRne.bin fp32 .sub (a.getD i 0).toNat (b.getD i 0).toNat)
      else (0, 0)
    .ok (rs.map (·.1), rs.foldl (fun x r => x ||| r.2) 0)
  | .error t, _, _ => .error t
  | _, .error t, _ => .error t
  | _, _, .error t => .error t

/-! ## Textures, records, fragments -/

/-- The issue as a native instruction of the translated code sees it: operand a of every live lane stands in v8-v11. -/
def OIssue.native (O : OIssue) (s : State) : Issue :=
  let R := O.I.R.live.foldl (fun H l =>
    match oread O.I s l O.o.a with
    | .ok v => H.write (wregs l 8 (O.operandA false v))
    | .error _ => H) O.I.R
  { O.I with R := R }

/-- The lanes whose registers cannot be read or written, with their traps. -/
def OIssue.badRegs (O : OIssue) (s : State) (rs : List Nat) : List LaneOut :=
  O.I.act.filterMap fun l => rs.findSome? fun r =>
    match oread O.I s l r with
    | .ok _ => none
    | .error t => some { lane := l, trap := some t }

/-- The data words that a lane's result writes to v12-v15, stored in the destination register. -/
def OIssue.takeData (O : OIssue) (sat : Bool) (outs : List LaneOut) (s : State) : State × List LaneOut :=
  outs.foldl (fun a o =>
    let ws := (o.writes.map (·.2)).map fun w => if sat then word (fp32.clamp w.toNat) else w
    if o.trap.isSome || o.park.isSome || o.far.isSome then (a.1, a.2 ++ [o])
    else (owrite O.I o.lane O.o.dst O.o.mask ws a.1, a.2 ++ [{ o with writes := [] }])) (s, [])

/-- TEX and TXL (R355): SMPL.G and SMPL of descriptor c, with the level rule of LODR. -/
def OIssue.texRun (O : OIssue) (s : State) : Result :=
  let bad := O.badRegs s [O.o.a, O.o.dst]
  let J := O.native s
  let K := { J with act := J.act.filter fun l => !bad.any fun o => o.lane == l }
  remoteRetry O.I s fun _ =>
    if K.act.isEmpty then .go s bad
    else
      let q := sampleOuts (bits O.t.mode.toNat 14 2) false (O.o.op == 0x22) O.o.c 12 8 K s
      let r := O.takeData (bit O.o.mod 22) q.2 q.1
      farWait O.I (r.1, bad ++ r.2)

/-- LDC (R355): TCH with LDG.128 at element U32(a.x) + mod[15:0] of record slot c. -/
def OIssue.ldcRun (O : OIssue) (s : State) : Result :=
  remoteRetry O.I s fun _ =>
    let I := O.I
    let rec_ := I.T.rec_ O.o.c
    let bad := O.badRegs s [O.o.a, O.o.dst]
    let idx (l : Nat) : Nat :=
      match oread I s l O.o.a with
      | .ok v => (v.getD 0 0).toNat + bits O.o.mod 0 16
      | .error _ => 0
    let ls := (I.act.filter fun l => !bad.any fun o => o.lane == l).map fun l => (l, rec_.addr (idx l) 16 true false)
    let lines := ls.filterMap fun e =>
      match e.2 with
      | .ok (some (_, pva)) => some (lineOf pva)
      | _ => none
    let (s1, rs) := s.xlateLines I.core I.x .read lines
    let r := ls.foldl (fun (u : State × List (Option TouchShare × LaneOut)) e =>
      match e.2 with
      | .error t => (u.1, u.2 ++ [(none, { lane := e.1, trap := some t })])
      | .ok none =>
        (owrite I e.1 O.o.dst O.o.mask [0, 0, 0, 0] u.1,
          u.2 ++ [(some { lane := e.1, dropped := true, va := 0, pa := 0 }, { lane := e.1 })])
      | .ok (some (va, pva)) =>
        let q := u.1.touchLane I rs .read e.1 va pva
        (q.1, u.2 ++ [q.2])) (s1, [])
    let shares := r.2.filterMap (·.1)
    let p := s.pulses I.core
    let s2 := if shares.isEmpty then r.1
      else r.1.modGroup I.core I.g fun G =>
        G.record p { slot := O.o.c, write := false, width := 16, issued := p, shares := shares }
    let cs := (shares.filter fun h => !h.dropped).map fun h => (h.lane, Cover.hit h.va h.pa)
    let first := bad ++ (r.2.filter fun e => e.1.isNone).map (·.2)
    match loadRun 0 false 12 4 cs (fun u l pva pa =>
        if u.badUnder I.G.held pa 16 then
          (u.noteLine I.x (srcCore I.core) pa 16, { lane := l, trap := some (mkTrap fcPoison 0 pva) })
        else
          let q := u.readSeen I.party false none pa 16
          (owrite I l O.o.dst O.o.mask (bytesWords 4 (overlay I.G.held none pa q.2)) q.1, { lane := l })) I s2 with
    | .go t outs => .go t (first ++ outs)
    | .waitPart t w outs => .waitPart t w (first ++ outs)
    | q => q

/-- INTERP: IPOL of attribute words c + i of the fragment's primitive, with the barycentrics of v1 and v2 (R184, R354). -/
def OIssue.interpRun (O : OIssue) (s : State) : Result :=
  let bad := O.badRegs s [O.o.dst]
  let r := (O.I.act.filter fun l => !bad.any fun o => o.lane == l).foldl (fun (a : State × List LaneOut) l =>
    match (O.I.G.lane l).frag with
    | none => (a.1, a.2 ++ [{ lane := l, trap := some (mkTrap fcIllop 0 0) }])
    | some f =>
      let v := if f.verts.attrs.length == 3 then
          (a.1, (List.range 4).map fun i => ipolWord f.verts (O.o.c + i) (O.I.R.v l 1) (O.I.R.v l 2))
        else
          (List.range 4).foldl (fun (u : State × List Word) _ =>
            let d := u.1.draw
            (d.1, u.2 ++ [Config.freeWord d.2])) (a.1, [])
      (owrite O.I l O.o.dst O.o.mask v.2 v.1, a.2 ++ [{ lane := l }])) (s, [])
  .go r.1 (bad ++ r.2)

/-- OUT: BLND of operand a to plane c at the pixel of v0 (R179, R354). -/
def OIssue.outRun (O : OIssue) (s : State) : Result :=
  let J := O.native s
  match (s.tilePlane J.T O.o.c).filter fun p => 1 ≤ p.fmt && p.fmt ≤ 3 with
  | none => .go s (trapAll J tileIllop)
  | some p => ordered J 0 s (O.badRegs s [O.o.a]) (blendLane J p 8 0)

/-- A value below 0.0. -/
def obelow (w : Word) : Bool := (fp32.decode false w.toNat).cmp (.fin false 0 0) == .lt

/-- KILL (R354): the fibres with a masked component below 0.0 end as DISC ends them (R181, R339). -/
def OIssue.killRun (O : OIssue) (s : State) : Result :=
  let outs := O.I.act.map fun l =>
    match oread O.I s l O.o.a with
    | .error t => { lane := l, trap := some t }
    | .ok v =>
      let a := oswizzle (bits O.o.mod 0 8) v
      if (List.range 4).any fun i => bit O.o.mask i && obelow (a.getD i 0) then
        match s.heldTile O.I.T with
        | none => { lane := l, trap := some tileIllop }
        | some (_, P) =>
          if (hsrTraps O.I P).any fun o => o.lane == l then { lane := l, trap := some tileIllop } else { lane := l, ends := true }
      else { lane := l }
  .go s outs

/-! ## Immediates and control (R356) -/

/-- LDI. -/
def OIssue.ldiLane (O : OIssue) (s : State) (l : Nat) : OVal :=
  let imm := bits O.o.mod 0 16
  match oread O.I s l O.o.dst with
  | .error t => .error t
  | .ok v =>
    .ok (v.map fun w => if bit O.o.mod 20 then word (imm * 65536 + w.toNat % 65536) else low32 (sext 16 imm), 0)

/-- The native PC of a word of the translation. -/
def OIssue.native_ (O : OIssue) (k : Int) : Nat := O.t.base + 4 * k.toNat

/-- BRZ for one lane. -/
def OIssue.brzLane (O : OIssue) (s : State) (l : Nat) : LaneOut :=
  match oread O.I s l O.o.a with
  | .error t => { lane := l, trap := some t }
  | .ok v =>
    if (v.getD (bits O.o.mod 16 2) 0 == 0) != bit O.o.mod 18 then { lane := l, next := some (O.native_ (O.o.target O.k)) }
    else { lane := l }

/-- CALL for one lane: the return address goes to the next pair of v24-v31. The target is a FUNC word, which the fibre
enters (R357, R363). -/
def OIssue.callLane (O : OIssue) (l : Nat) : LaneOut :=
  let L := O.I.G.lane l
  let to_ := (O.o.target O.k).toNat
  let f := O.t.word to_
  let bad (r op at_ : Nat) : LaneOut := { lane := l, trap := some (legacyTrap r (L.granule + 8 * at_) op O.I.pc) }
  if 4 ≤ L.depth then bad 9 O.o.op O.k
  else if f.op != 0x2D then bad 4 f.op to_
  else if f.fieldsOk .func && O.I.T.lsize < 16 * bits f.mod 0 9 then bad 5 f.op to_
  else
    { lane := l, writes := wpair l (24 + 2 * L.depth) (O.I.pc + 4),
      next := some (O.native_ (if f.fieldsOk .func then to_ + 1 else to_)) }

/-- RET for one lane: to the Onyx caller, or to the address in v[2:3]. -/
def OIssue.retLane (O : OIssue) (s : State) (l : Nat) : LaneOut :=
  let L := O.I.G.lane l
  if L.depth == 0 then goTo s O.I l (O.I.R.vpair l 2) []
  else { lane := l, next := some (O.I.R.vpair l (22 + 2 * L.depth)) }

/-- The nesting depth of fibres that a word let through changes. -/
def OIssue.depths (O : OIssue) (outs : List LaneOut) (d : Nat → Nat) (s : State) : State :=
  s.modGroup O.I.core O.I.g fun G =>
    (outs.filter fun o => o.trap.isNone).foldl (fun H o => H.modLane o.lane fun L => { L with depth := d L.depth }) G

/-- The effect of a word without a defect. -/
def OIssue.run (O : OIssue) (q : OKind) (s : State) : Result :=
  let lanes (f : Nat → OVal) : Result := ostore O (O.I.act.map fun l => (l, f l)) s
  match q with
  | .arith n _ f => lanes (O.arithLane n f s)
  | .diff => lanes (O.diffLane s)
  | .tex => O.texRun s
  | .ldc => O.ldcRun s
  | .interp => O.interpRun s
  | .out => O.outRun s
  | .kill => O.killRun s
  | .ldi => lanes (O.ldiLane s)
  | .bra => .go s (O.I.act.map fun l => { lane := l, next := some (O.native_ (O.o.target O.k)) })
  | .brz => .go s (O.I.act.map (O.brzLane s))
  | .call =>
    let outs := O.I.act.map O.callLane
    .go (O.depths outs (· + 1) s) outs
  | .ret =>
    let outs := O.I.act.map (O.retLane s)
    .go (O.depths outs (· - 1) s) outs
  | .func => .go s []

/-- The vector registers beyond its own that a word reads, or of a pair that it writes, in a fibre: those in which native
code may have left a write in flight (R365). -/
def OIssue.regs (O : OIssue) (q : OKind) (l : Nat) : List Nat :=
  let d := (O.I.G.lane l).depth
  match q with
  | .interp => [1, 2]
  | .out => [0]
  | .call => [24 + 2 * d, 25 + 2 * d]
  | .ret => if d == 0 then [2, 3] else [22 + 2 * d, 23 + 2 * d]
  | _ => []

/-- The GAPFAULT of a fibre at a word (R19, R365). -/
def OIssue.gap (O : OIssue) (q : OKind) (l : Nat) : Option Trap :=
  ((O.regs q l).find? fun n => writesTo O.I.G.inflight (.v l n)).map fun n => mkTrap fcGapfault n 0

/-- A word waits for a pending write to one of those registers (R20). -/
def OIssue.blocked (O : OIssue) (q : OKind) : Bool :=
  O.I.act.any fun l => (O.regs q l).any fun n => writesTo O.I.G.pending (.v l n)

/-- The issue of slot `k` of a translation by a batch. -/
def onyxIssue (t : OnyxTr) (k : Nat) (I : Issue) : OIssue :=
  { I := { I with rpc := I.pc, act := I.lanes, hv := {} }, t := t, k := k, o := t.word k }

/-- What the word of an issue does. -/
def OIssue.kind (O : OIssue) : OKind := (okind O.o.op).getD .func

/-- The feature bit of the native instruction that a word is performed by (R44). -/
def OKind.feature : OKind → Nat
  | .tex => 8
  | .interp => 8
  | .out => 7
  | .kill => 7
  | _ => 0

/-- The registers that translated code may change, of the batch, with open values (R357): v8-v23, the pairs of v24-v31
that hold no return address, s48-s62 and p16-p30. -/
def onyxScratch (I : Issue) (n : Nat) : List (RegRef × Word) :=
  I.lanes.flatMap (fun l =>
    ((List.range 24).filter fun k => k < 16 || 16 + 2 * (I.G.lane l).depth ≤ k).map (fun k =>
      (RegRef.v l (8 + k), Config.onyxReg n (64 * l + 8 + k))) ++
    (List.range 15).map fun k => (RegRef.p l (16 + k), Config.onyxReg n (64 * l + 48 + k))) ++
  (List.range 15).map fun k => (RegRef.s (48 + k), Config.onyxReg n (2096 + k))

/-- The native code of slot `k` of a translation issues: it has the effect of the Onyx word (R358, R363-R365). -/
def onyxWord (t : OnyxTr) (k : Nat) (s : State) : Out :=
  match s.issuer with
  | none => .fault .noIssuer
  | some I0 =>
    let O := onyxIssue t k I0
    let I := O.I
    let q := O.kind
    if I.first && O.blocked q then .next (s.stall I)
    else
    let s1 := if I.first then s.account I.core I.g 0 none else s
    match t.defect k with
    | some (r, op) =>
      .next (s1.finishOnyx I (I.lanes.map fun l =>
        { lane := l, trap := some (legacyTrap r ((I.G.lane l).granule + 8 * k) op I.pc) }))
    | none =>
      if !(s.ctx I.x).hasFeature q.feature then .next (s1.finish I none (trapAll I (mkTrap fcUnfeatured q.feature 0)))
      else
        let pre := if I.first && (s.ctx I.x).scoreboard then I.lanes.filterMap fun l =>
            (O.gap q l).map fun e => { lane := l, trap := some e : LaneOut }
          else []
        let J := { I with act := I.act.filter fun l => !pre.any fun o => o.lane == l }
        match if J.act.isEmpty then .go s1 [] else ({ O with I := J } : OIssue).run q s1 with
        | .go s2 outs =>
          let (s3, n) := s2.draw
          .next ((s3.modGroup I.core I.g fun G => G.writeVar (onyxScratch I n)).finishOnyx I (pre ++ outs))
        | .wait s2 w => .next (s2.hold I none w pre)
        | .waitPart s2 w outs => .next (s2.hold I none w (pre ++ outs))
        | .done s2 => .next s2

end Sys2Proof.Machine
end

