-- ==== Sys2Proof/Machine/Predicate.lean ====
section
/-!
DEFINITION. The predicate operations of major 0x07 (R81, 02_control_arith.md).
-/

namespace Sys2Proof.Machine

/-- A predicate source with its inversion bit. -/
def predIn (G : Group) (l : Nat) (inv : BitVec 1) (p : BitVec 5) : Bool := G.p l p.toNat != (inv == 1)

/-- A two-source predicate operation, of latency 2 (R17). -/
def pred2 (i : Instr) (f : Bool → Bool → Bool) (k : BitVec 5) (m : BitVec 1) (a : BitVec 5) (n : BitVec 1) (b : BitVec 5)
    (c : BitVec 3) : State → Out :=
  issue { ins := i, c := c, ops := [op k, op a, op b], lat := some 2 }
    (eachLane fun I l => { lane := l, writes := [wpred l k.toNat (f (predIn I.R l m a) (predIn I.R l n b))] })

/-- PAND. -/
def execPand (k : BitVec 5) (m : BitVec 1) (im : BitVec 5) (n : BitVec 1) (j : BitVec 5) (c : BitVec 3) : State → Out :=
  pred2 (.pand k m im n j c) (· && ·) k m im n j c

/-- POR. -/
def execPor (k : BitVec 5) (m : BitVec 1) (im : BitVec 5) (n : BitVec 1) (j : BitVec 5) (c : BitVec 3) : State → Out :=
  pred2 (.por k m im n j c) (· || ·) k m im n j c

/-- PXOR. -/
def execPxor (k : BitVec 5) (m : BitVec 1) (im : BitVec 5) (n : BitVec 1) (j : BitVec 5) (c : BitVec 3) : State → Out :=
  pred2 (.pxor k m im n j c) (· != ·) k m im n j c

/-- PNOT: the source, inverted by its own bit first, is inverted. -/
def execPnot (k : BitVec 5) (m : BitVec 1) (im : BitVec 5) (c : BitVec 3) : State → Out :=
  issue { ins := .pnot k m im c, c := c, ops := [op k, op im], lat := some 2 }
    (eachLane fun I l => { lane := l, writes := [wpred l k.toNat (!predIn I.R l m im)] })

/-- PSET: the predicate receives v[A] ≠ 0 (R34, R81). -/
def execPset (k : BitVec 5) (a : BitVec 7) (c : BitVec 3) : State → Out :=
  issue { ins := .pset k a c, c := c, ops := [op k, ov a], lat := some 2 }
    (eachLane fun I l => { lane := l, writes := [wpred l k.toNat (I.R.v l a.toNat != 0)] })

end Sys2Proof.Machine
end

