-- ==== Sys2Proof/Machine/Take.lean ====
section
/-!
DEFINITION. How a core takes a team index of a launch (R233, R234, 07_scheduling.md; R401, 19_names_procedural.md).
-/

namespace Sys2Proof.Machine

/-! ## Index takes (R233, R234) -/

/-- Taking an index for a die: the lowest of its own counter, else the highest of the nearest other (R233). -/
def takeTicket (ts : List (Nat × Nat)) (d : Nat) : Option (Nat × List (Nat × Nat)) :=
  let at_ (e : Nat) : Nat × Nat := ts.getD e (0, 0)
  if (at_ d).1 < (at_ d).2 then some ((at_ d).1, ts.set d ((at_ d).1 + 1, (at_ d).2))
  else
    match (List.range 8).map (fun k => d ^^^ k) |>.find? fun e => (at_ e).1 < (at_ e).2 with
    | some e => some ((at_ e).2 - 1, ts.set e ((at_ e).1, (at_ e).2 - 1))
    | none => none

/-- A launch of which cores may take indices (R227, R259). -/
def State.takeable (s : State) (L : Launch) : Bool := L.st == .running && L.left && (s.ctx L.ctx).st == .active

/-- The records that bind a takeable launch to a core: slot, record, teams admitted, launch. -/
def State.coreBinds (s : State) (core : Nat) : List (Nat × BindRec × Nat × Nat × Launch) :=
  (s.bindings (dieOf core)).filter fun (_, r, _, _, L) => bit r.cmask (core % 24) && s.takeable L

/-- Admitting the next team of a launch to a core. -/
def State.admitNext (s : State) (core : Nat) (r : BindRec) (lid : Nat) (L : Launch) (index : Nat) : Option State :=
  s.admitGrid core r.part lid L.ctx L.grid index L.block (!L.gated) none id

/-- The order of R234 among records: priority, share, slot. -/
def bindBefore (a b : Nat × BindRec × Nat × Nat × Launch) : Bool :=
  let (sa, ra, na, _, _) := a
  let (sb, rb, nb, _, _) := b
  if ra.prio != rb.prio then rb.prio < ra.prio
  else if na * rb.weight != nb * ra.weight then na * rb.weight < nb * ra.weight
  else sa < sb

/-- A core's partition has a free context (R234). -/
def State.partFree (s : State) (core part : Nat) : Bool :=
  (List.range 4).any fun q => ((s.core core).freeCtx q part).isSome

/-- A fill waits for a core on which its generator team could start: such a team binds at priority 7 (R401). -/
def State.fillFirst (s : State) (core : Nat) : Bool :=
  s.ctxs.any fun c => c.2.fills.any fun f =>
    (s.fillToStart c.1 f.block).isSome &&
      match s.rangeDesc c.1 f.range with
      | some r =>
        match s.readGenerator c.1 f r.gen with
        | (t, .ok b) => (t.startFill c.1 core f r b).isSome
        | _ => false
      | none => false

/-- The record that a core chooses, with the index and the admission (R234): the choice among the launches of whose
partition the core has a free context; a core that has no room for the chosen launch's team takes no index. A generator
team goes before a launch of a lower priority (R401). -/
def State.chooseTake (s : State) (core : Nat) : Option (Nat × Nat × Launch × List (Nat × Nat) × State) :=
  let cands := (s.coreBinds core).filter fun (_, r, _, _, _) => s.partFree core r.part
  match cands.foldl (fun best c => match best with
      | none => some c
      | some b => if bindBefore c b then some c else some b) none with
  | none => none
  | some (slot, r, _, lid, L) =>
    if r.prio < 7 && s.fillFirst core then none
    else
      match takeTicket L.tickets (dieOf core) with
      | none => none
      | some (i, ts) => (s.admitNext core r lid L i).map fun t => (slot, lid, L, ts, t)

/-- INDEX_TAKE. -/
def execIndexTake (core : Nat) (s : State) : Out :=
  .next (match s.chooseTake core with
    | none => s
    | some (slot, lid, L, ts, t) =>
      { t with launches := tset t.launches lid { L with tickets := ts } }.modDie (dieOf core) fun D =>
        { D with slots := tmod D.slots slot fun u => { u with admitted := u.admitted + 1 } })

end Sys2Proof.Machine
end

