-- ==== Sys2Proof/Machine/Preempt.lean ====
section
/-!
DEFINITION. Saving and restoring teams, migration, the steps of the timers of a group, and the load balancer (R116,
R121, R195, 02_control_arith.md and 03_memory_instr.md; R201, R217, 06_execution.md; R236-R238, 07_scheduling.md;
R256-R258, 08_traps.md).
-/

namespace Sys2Proof.Machine

/-! ## The save slot (R257) -/

/-- The largest role budget. -/
def Block.bmax (b : Block) : Nat := (b.roles.map (·.budget)).foldl max 0

/-- The offset of the lane slices in a slot: header, group records, sequencer state and vector windows come first. -/
def slicesAt (bmax : Nat) : Nat := 102400 + 4096 * bmax

/-- The size of a slot. -/
def slotSize (b : Block) : Nat :=
  4096 * ceilDiv (102400 + 4096 * b.bmax + 1024 * b.lbytes + b.ubytes + b.cbytes + b.dbytes + 4096 * (b.macros + b.acc)) 4096

/-- The address of a team's slot. -/
def slotVa (b : Block) (index : Nat) : Nat := b.save + index * slotSize b

/-- The parts of a slot that hold a team's storages: offset, storage, base and size. -/
def storageParts (T : Team) : List (Scr × Nat × Nat) → Nat → List (Nat × Scr × Nat × Nat)
  | [], _ => []
  | (m, b, n) :: t, off => (off, m, b, n) :: storageParts T t (off + n)

/-- The parts of a slot that hold the lane slices of the `k`-th group, which stands in group context `g`. -/
def sliceParts (T : Team) (bmax k g : Nat) (G : Group) : List (Nat × Scr × Nat × Nat) :=
  (List.range 32).map fun l =>
    (slicesAt bmax + (32 * k + l) * T.lsize, .slice T.core, 4096 * (32 * (g / 16) + l) + G.lbase, T.lsize)

/-- Every part of a slot that holds bytes of storages, for the groups in order. -/
def Team.slotParts (T : Team) (bmax : Nat) (gs : List (Nat × Group)) : List (Nat × Scr × Nat × Nat) :=
  storageParts T T.storages (slicesAt bmax + 1024 * T.lsize) ++
    gs.zipIdx.flatMap fun (e, k) => sliceParts T bmax k e.1 e.2

/-- The offset of the window of lane `l` of the `k`-th group. -/
def windowAt (bmax k l : Nat) : Nat := 102400 + 128 * bmax * k + 4 * bmax * l

/-- The offset of the buffer records b0-b15 in a slot: a place in the header (R257, R272). -/
def recordsAt : Nat := 32 * (Config.saveRecords % 113)

/-- The bytes of a slot, part by part: the form of the first 102,400 is the hardware's own, but for the buffer records. -/
def State.slotBytes (s : State) (T : Team) (bmax n : Nat) (gs : List (Nat × Group)) : List (Nat × List Byte) :=
  [(0, (List.range 102400).map (Config.saveByte n)),
   (recordsAt, (List.range 16).flatMap fun k => leBytes 32 (tget T.recs k 0).toNat)] ++
  (gs.zipIdx.flatMap fun (e, k) => (List.range 32).map fun l =>
    (windowAt bmax k l, wordsBytes ((List.range e.2.budget).map fun r => e.2.v l r))) ++
  ((T.slotParts bmax gs).map fun p => (p.1, s.scrRead p.2.1 p.2.2.1 p.2.2.2))

/-- Writing bytes at an offset of a range whose physical granules are known: `ps` pairs each with its first offset. -/
def State.putParts (s : State) (ps : List (Nat × Nat × Nat)) (off : Nat) (bs : List Byte) : State :=
  ps.foldl (fun u (o, pa, n) =>
    let lo := max o off
    let hi := min (o + n) (off + bs.length)
    if lo < hi then u.wr (pa + (lo - o)) ((bs.drop (lo - off)).take (hi - lo)) else u) s

/-- Reading bytes at an offset of such a range. -/
def State.getParts (s : State) (ps : List (Nat × Nat × Nat)) (off n : Nat) : List Byte :=
  ps.flatMap fun (o, pa, k) =>
    let lo := max o off
    let hi := min (o + k) (off + n)
    if lo < hi then s.rd (pa + (lo - o)) (hi - lo) else []

/-- The offsets of consecutive parts. -/
def withOffsets : List (Nat × Nat) → Nat → List (Nat × Nat × Nat)
  | [], _ => []
  | (pa, n) :: t, o => (o, pa, n) :: withOffsets t (o + n)

/-! ## Team boundaries (R256) -/

/-- A group stands at the boundary: it waits at its YIELD, or it is one of the fragment role without a live fibre. -/
def State.atEdge (s : State) (tid : Nat) (G : Group) : Bool :=
  G.st == .boundary || (s.fragRole tid == some G.role && G.live.isEmpty)

/-- The team may be saved: it is asked for, every group stands at the boundary, and no operation is on its storage. -/
def State.savable (s : State) (tid : Nat) : Bool :=
  match tget? s.teams tid with
  | none => false
  | some T =>
    let gs := s.teamGroups tid
    let st := (s.ctx T.ctx).st
    T.begun && T.gen.isNone && (st == .draining || (T.migrate.isSome && st == .active)) &&
      gs.any (fun e => e.2.st == .boundary) && gs.all (fun e => s.atEdge tid e.2) &&
      !(s.core T.core).mqueue.any (fun m => m.tid == tid) &&
      !s.dies.any (fun e => e.2.ops.any (fun o => o.tid == tid && o.kind.scratch && !o.finished) ||
        e.2.interests.any fun i => i.2.tid == tid && i.2.dst.scratch &&
          (match i.2.st with
           | .writing _ _ => true
           | _ => false)) &&
      !(T.tile.any fun t => t.tret.isSome)

/-- Pending interests whose destination lies in the team's scratchpads fail with NEVER (R151, R256). -/
def State.endScratchInterests (s : State) (tid : Nat) : State :=
  (tkeys s.dies).foldl (fun u d => (u.die d).interests.foldl (fun v i =>
    if i.2.tid == tid && i.2.dst.scratch && i.2.st = .waiting then v.endInterest d i.1 fcNever i.2.name 0 else v) u) s

/-- A group as it is saved: writes in flight have landed, and no touch entry is kept. -/
def Group.forSave (G : Group) : Group :=
  { G.landAll with touches := [], held := [], sleep := none, st := .resident }

/-- The groups of a team in the order of their records: by age. -/
def State.orderedGroups (s : State) (tid : Nat) : List (Nat × Group) :=
  (s.teamGroups tid).mergeSort fun a b =>
    a.2.age.1 < b.2.age.1 || (a.2.age.1 == b.2.age.1 && a.2.age.2 ≤ b.2.age.2)

/-- TEAM_SAVE: the team is written to its slot and leaves its core; a fault on the slot is serviced first (R245), and one
that cannot be resolved resets the context (R260). -/
def execTeamSave (tid : Nat) (s : State) : Out :=
  .next (
    if !s.savable tid || s.pendingFault (.save tid) || (s.ctx (s.team tid).ctx).doomed then s
    else
      let T := s.team tid
      match tget? s.launches T.lid with
      | none => s
      | some L =>
        let va := slotVa L.block T.index
        match s.served (.save tid) none T.ctx none (wants .write va (slotSize L.block)) with
        | (t, .wait _) => t
        | (t, .fail _ _ _ _) => (t.clearFaults (.save tid)).doom T.ctx
        | (t, .ok ps) =>
          let gs := (t.orderedGroups tid).map fun e => (e.1, e.2.forSave)
          let drained := gs.foldl (fun u e => u.drainWc T.core e.1) (t.clearFaults (.save tid))
          let (u, n) := drained.draw
          let at_ := withOffsets ps 0
          let w := (u.slotBytes T L.block.bmax n gs).foldl (fun u e => u.putParts at_ e.1 e.2) u
          let C := w.core T.core
          let saved : SavedTeam :=
            { team := { T with migrate := none }, groups := gs, meshes := C.meshlets.filter fun e => e.2.tid == tid }
          let v := (w.endScratchInterests tid).modCore T.core fun C =>
            { C with groups := C.groups.filter fun e => e.2.tid != tid
                     meshlets := C.meshlets.filter fun e => e.2.tid != tid }
          ({ v with teams := tdel v.teams tid }).modCtx T.ctx fun c => { c with saved := tset c.saved tid saved })

/-! ## Restore (R258) -/

/-- A group context's new number, for the numbers in barrier state. -/
def renumber (olds news : List Nat) (g : Nat) : Nat := ((olds.zip news).find? fun e => e.1 == g).map (·.2) |>.getD g

/-- A phase of a barrier with its groups renumbered. -/
def BarPhase.renumber (f : Nat → Nat) (p : BarPhase) : BarPhase := { p with all := p.all.map f, due := p.due.map f }

/-- A barrier with its groups renumbered. -/
def Bar.renumber (b : Bar) (f : Nat → Nat) : Bar :=
  { b with cur := b.cur.renumber f, later := b.later.map (BarPhase.renumber f) }

/-- The saved groups in the order of their placement: role by role, in the order of their records, with their record
numbers and the group contexts that they left. -/
def SavedTeam.order (S : SavedTeam) : List (Nat × Nat × Group) :=
  (List.range 4).flatMap fun r => (S.groups.zipIdx.filter fun e => e.1.2.role == r).map fun e => (e.2, e.1)

/-- Registers of a window from the bytes of a slot. -/
def Lane.withWindow (L : Lane) (ws : List Word) : Lane :=
  { L with regs := ws.zipIdx.foldl (fun t e => tput t e.2 e.1 0) [] }

/-- A restored group with the windows that its slot holds. -/
def State.refillGroup (s : State) (at_ : List (Nat × Nat × Nat)) (bmax k : Nat) (G : Group) : Group :=
  (List.range 32).foldl (fun H l =>
    let ws := bytesWords G.budget (s.getParts at_ (windowAt bmax k l) (4 * G.budget))
    if ws.all (· == 0) && (tget? G.lanes l).isNone then H else H.modLane l fun L => L.withWindow ws) G

/-- The team that a core can take whole now, with its new places; the meshlet slots keep their numbers. -/
def State.placeSaved (s : State) (core tid : Nat) (S : SavedTeam) : Option (State × List Nat) :=
  if S.meshes.any fun e => (tget? (s.core core).meshlets e.1).isSome then none
  else s.admitTeam core S.team.part tid { S.team with placedAt := s.ptp } (S.order.map (·.2.2))

/-- Agate may restore a team of a context: it is Saved, or Active again (R255, R258, R259). -/
def Ctx.restores (c : Ctx) : Bool := c.st == .saved || c.st == .active

/-- The saved team of a number, with its context. -/
def State.findSaved (s : State) (tid : Nat) : Option (Nat × SavedTeam) :=
  s.ctxs.findSome? fun e => (tget? e.2.saved tid).map fun S => (e.1, S)

/-- The context is Active from its first restore on (R255). -/
def State.reactivate (s : State) (x : Nat) : State :=
  s.modCtx x fun c => if c.st == .saved then { c with st := .active } else c

/-- The buffer records that a slot holds; a place that holds a reserved value is refused, and its record stays the one that
was saved (R272; log entry 19). -/
def State.savedRecs (s : State) (at_ : List (Nat × Nat × Nat)) (old : Tbl (BitVec 256)) : Tbl (BitVec 256) :=
  (List.range 16).foldl (fun t k =>
    let v := BitVec.ofNat 256 (leNat (s.getParts at_ (recordsAt + 32 * k) 32))
    if recValid v then tput t k v 0 else t) old

/-- The bytes of a slot return to the storages of the placed team, and its records to their places. -/
def State.refillTeam (s : State) (at_ : List (Nat × Nat × Nat)) (bmax tid : Nat) (S : SavedTeam) (news : List Nat) : State :=
  let T := s.team tid
  let order := S.order.zip news
  let s1 := order.foldl (fun u (e : (Nat × Nat × Group) × Nat) => u.modGroup T.core e.2 (u.refillGroup at_ bmax e.1.1)) s
  let slices := order.flatMap fun e => match s1.group? T.core e.2 with
    | some G => sliceParts T bmax e.1.1 e.2 G
    | none => []
  let parts := storageParts T T.storages (slicesAt bmax + 1024 * T.lsize) ++ slices
  (parts.foldl (fun u p => u.scrWrite p.2.1 p.2.2.1 (u.getParts at_ p.1 p.2.2.2)) s1).modTeam tid fun T =>
    { T with recs := s.savedRecs at_ T.recs }

/-- The number by which TEAM_RESTORE names the restore of a Saved context that has no saved team. -/
def restoreNone (x : Nat) : Nat := 2 ^ 32 + x

/-- TEAM_RESTORE: a saved team returns whole to a core among its launch's bound ones; or a Saved context without saved
teams becomes Active. -/
def execTeamRestore (tid core : Nat) (s : State) : Out :=
  .next (match s.findSaved tid with
    | none =>
      let x := tid - 2 ^ 32
      if 2 ^ 32 ≤ tid && (s.ctx x).st == .saved && (s.ctx x).saved.isEmpty then s.reactivate x else s
    | some (x, S) =>
      match tget? s.launches S.team.lid with
      | none => s
      | some L =>
        let olds := S.order.map fun e => e.2.1
        if !(s.ctx x).restores || s.pendingFault (.save tid) || !(s.boundCores S.team.lid).contains (core, S.team.part) then s
        else
          match s.served (.save tid) none x none (wants .read (slotVa L.block S.team.index) (slotSize L.block)) with
          | (t, .wait _) => t
          | (t, .fail _ _ _ _) => (t.clearFaults (.save tid)).doom x
          | (t, .ok ps) =>
            match (t.clearFaults (.save tid)).placeSaved core tid S with
            | none => s
            | some (u, news) =>
              let v := (u.refillTeam (withOffsets ps 0) L.block.bmax tid S news).modCore core fun C =>
                { C with meshlets := S.meshes.foldl (fun m e => tset m e.1 e.2) C.meshlets }
              let w := v.modTeam tid fun T => { T with bars := T.bars.map fun e => (e.1, e.2.renumber (renumber olds news)) }
              (w.modCtx x fun c => { c with saved := tdel c.saved tid }).reactivate x)

/-! ## Migration (R238) -/

/-- A team may be asked to migrate: it has been resident for 5 ms. -/
def State.migratable (s : State) (tid : Nat) : Bool :=
  (tget? s.teams tid).any fun T =>
    T.begun && !T.ended && T.gen.isNone && T.migrate.isNone && T.placedAt + 5000000 ≤ s.ptp

/-- MIGRATION_REQUEST: the request ends 2 ms later. -/
def execMigrationRequest (tid : Nat) (s : State) : Out :=
  .next (if s.migratable tid then s.modTeam tid fun T => { T with migrate := some (s.ptp + 2000000) } else s)

/-- MIGRATION_WITHDRAW: a request that has not reached a boundary within 2 ms is withdrawn; groups that wait at their
YIELD go on, unless a pre-emption request holds them. -/
def execMigrationWithdraw (tid : Nat) (s : State) : Out :=
  .next (match (tget? s.teams tid).bind (·.migrate) with
    | none => s
    | some d =>
      if s.ptp < d || s.savable tid then s
      else
        let T := s.team tid
        let s1 := s.modTeam tid fun T => { T with migrate := none }
        if s.draining T.ctx then s1
        else s1.modCore T.core fun C =>
          { C with groups := C.groups.map fun e => (e.1, if e.2.tid == tid then e.2.release else e.2) })

/-! ## Timers of a group -/

/-- The batch waits at a push that was descheduled. -/
def Batch.pushes (B : Batch) : Bool :=
  match B.wait with
  | some (.push _) => true
  | _ => false

/-- The fibres that wait at a push execute it anew without testing `high` (R217 step 4). -/
def Group.repush (G : Group) : Group :=
  ((G.batches.filter Batch.pushes).flatMap fun B => lanesOf B.lanes).foldl
    (fun H l => H.modLane l fun L => { L with retested := some L.pc }) { G with st := .resident }

/-- The queue of a group that a push has descheduled and that is to be Resident again, its place in the order of
descheduling, and the pulses by which it is. -/
def Group.freedPush (G : Group) : Option (Nat × Nat × Nat) :=
  match G.st with
  | .descheduled q n (some due) => some (q, n, due)
  | _ => none

/-- A Descheduled pusher may become Resident (R217 steps 4 and 5): those of its queue that were descheduled before it are. -/
def State.pusherReady (s : State) (G : Group) : Bool :=
  match G.freedPush with
  | none => false
  | some (q, n, _) => !s.allGroups.any fun (_, _, H) => H.ctx == G.ctx && H.freedPush.any fun e => e.1 == q && e.2.1 < n

/-- A Descheduled pusher must become Resident now: 64 counted cycles have passed for it, or for one of its queue that was
descheduled after it (R217, R220). -/
def State.pusherDue (s : State) (G : Group) : Bool :=
  s.pusherReady G && G.freedPush.any fun e => s.allGroups.any fun (c, _, H) =>
    H.ctx == G.ctx && H.freedPush.any fun f => f.1 == e.1 && f.2.2 ≤ s.pulses c

/-- PUSHER_RESCHEDULE. -/
def execPusherReschedule (core g : Nat) (s : State) : Out :=
  .next (match s.group? core g with
    | none => s
    | some G =>
      if (s.ctx G.ctx).st.issues && s.pusherReady G then
        s.setGroup core g G.repush
      else s)

/-- TOUCH_ENTRY_EXPIRY: entries past their 256 counted cycles are gone. -/
def execTouchEntryExpiry (core g : Nat) (s : State) : Out :=
  .next (s.modGroup core g fun G => { G with touches := G.touches.filter (·.live (s.pulses core)) })

/-- A non-temporal store has been held for 4,096 cycles (R121). -/
def HeldStore.due (h : HeldStore) (cycle : Nat) : Bool := h.nt && h.since + 4096 ≤ cycle

/-- WC_BUFFER_TIMEOUT: the stores held for 4,096 cycles are sent. -/
def execWcBufferTimeout (core g : Nat) (s : State) : Out :=
  .next (s.performHeld core g (·.due (s.coreCycle core)))

/-- A group's sleep has ended (R195). -/
def Group.slept (G : Group) (pulses : Nat) : Bool := G.sleep.any fun e => e.1 ≤ pulses

/-- SLEEP_END. -/
def execSleepEnd (core g : Nat) (s : State) : Out :=
  .next (if ((s.group? core g).map (·.slept (s.pulses core))).getD false then s.endSleep core g else s)

/-! ## Partitions and the balancer (R236, R237) -/

/-- The group context at a position. -/
def positionCtx (p : Nat) : Nat := p % 4 * 16 + p / 4

/-- Bounds of the boundary, and whether the balancer is on. -/
def Core.bmin (C : Core) : Nat := min 64 (bits C.part.toNat 8 7)
/-- The highest boundary. -/
def Core.bmax (C : Core) : Nat := min 64 (bits C.part.toNat 16 7)
/-- The balancer moves the boundary. -/
def Core.auto (C : Core) : Bool := bit C.part.toNat 24

/-- The core with another boundary. -/
def Core.withBoundary (C : Core) (b : Nat) : Core := { C with part := word (C.part.toNat - C.boundary + b) }

/-- A bound launch of a partition has indices left that the core cannot admit for lack of group contexts. -/
def State.coreBlocked (s : State) (core part : Nat) : Bool :=
  let C := s.core core
  let free := ((List.range 64).filter fun g => (tget? C.groups g).isNone && C.partOf g == part && !C.withholds g).length
  (s.coreBinds core).any fun (_, r, _, _, L) => r.part == part && free < (L.block.roles.map (·.groups)).sum

/-- A partition of a core holds a Free context. -/
def Core.hasFree (C : Core) (part : Nat) : Bool :=
  (List.range 64).any fun g => (tget? C.groups g).isNone && C.partOf g == part

/-- The interval between evaluations: 16 µs. -/
def balanceInterval : Nat := usCycles 16

/-- The cycles of a die in the interval that ends now, whatever its frequencies were. -/
def State.balanceCycles (s : State) (die : Nat) : Nat := s.cycle die - (s.die die).balanceAt

/-- The direction in which the boundary moves (R236, R237), for an interval of `n` cycles: up for the graphics partition,
down for compute. A tie between the two, for which no rule is given, is a free choice. -/
def Core.move (C : Core) (n : Nat) (tie : Bool) : Option Bool :=
  let b := C.boundary
  if b < C.bmin then some true
  else if C.bmax < b then some false
  else if !C.auto then none
  else
    let up := n < C.blocked.1 * 8 && C.hasFree 1 && b < C.bmax
    let down := n < C.blocked.2 * 8 && C.hasFree 0 && C.bmin < b
    if up && down then some tie else if up then some true else if down then some false else none

/-- Moving the boundary by one: the context is withheld, and moves at the end of a cycle in which it is Free, so that no
admission claims it in the cycle of its move (R237). -/
def Core.shift (C : Core) (up : Bool) : Core :=
  let b := C.boundary
  { C with withheld := some (positionCtx (if up then b else b - 1), if up then b + 1 else b - 1) }

/-- A withheld context that is Free at the end of a cycle moves. -/
def Core.settleWithheld (C : Core) : Core :=
  match C.withheld with
  | some (g, nb) => if (tget? C.groups g).isNone then { C.withBoundary nb with withheld := none } else C
  | none => C

/-- BALANCER_EVALUATE: the cores of a die, when the interval has passed. -/
def execBalancerEvaluate (die : Nat) (s : State) : Out :=
  .next (
    if s.now < (s.die die).balance || 8 ≤ die then s
    else
      let s1 := ((tkeys s.cores).filter fun c => dieOf c == die).foldl (fun u c =>
        let (v, n) := u.draw
        v.modCore c fun C =>
          let D := { C with withheld := none, blocked := (0, 0) }
          match C.move (s.balanceCycles die) (Config.freeBool n) with
          | some up => D.shift up
          | none => D) s
      s1.modDie die fun D => { D with balance := D.balance + balanceInterval, balanceAt := s.cycle die })

/-- PARTITION_CONTROL_WRITE: bmin above bmax is ignored and logged, at an address that the spec does not give. -/
def execPartitionControlWrite (core : Nat) (v : BitVec 32) (s : State) : Out :=
  let n := v.toNat
  if bits n 16 7 < bits n 8 7 then
    let (t, k) := s.draw
    .next (t.firmwareFault none (Config.freeDWord k).toNat n)
  else
    .next (s.modCore core fun C =>
      { C with part := word (C.boundary + bits n 8 7 * 2 ^ 8 + bits n 16 7 * 2 ^ 16 + bits n 24 1 * 2 ^ 24) })

end Sys2Proof.Machine
end

