-- ==== Sys2Proof/Machine/Ray.lean ====
section
/-!
DEFINITION. Ray queries under the default ray image (R186-R188, 04_matrix_graphics_system_instr.md; R343-R350,
14_rendering.md).
-/

namespace Sys2Proof.Machine

/-! ## Reading the structure -/

/-- A fetch that may cross a page: its parts in turn. -/
def State.unitFetchParts (s : State) (I : Issue) (l : Nat) : List (Nat × Nat) → State × Except LaneOut (List Byte)
  | [] => (s, .ok [])
  | p :: ps =>
    match s.unitFetch I l p.1 p.2 with
    | (t, .error e) => (t, .error e)
    | (t, .ok b) =>
      match t.unitFetchParts I l ps with
      | (u, .ok r) => (u, .ok (b ++ r))
      | (u, .error e) => (u, .error e)

/-- A node of an acceleration structure (R343). -/
structure BvhNode where
  count : Nat
  kinds : List Nat
  boxes : List (List Word)
  refs  : List Int
  runs  : List Nat

/-- The node that 256 bytes hold, none with a reserved value. -/
def parseNode (b : List Byte) : Option BvhNode :=
  let w := byteField b 0 4
  let n : BvhNode :=
    { count := bits w 0 4, kinds := (List.range 8).map fun c => bits w (4 + 2 * c) 2,
      boxes := (List.range 8).map fun c => bytesWords 6 (sliceBytes b (16 + 24 * c) 24),
      refs := (List.range 8).map fun c => sext 32 (byteField b (208 + 4 * c) 4),
      runs := (List.range 8).map fun c => bits (byteField b 240 4) (4 * c) 4 + 1 }
  if 1 ≤ n.count && n.count ≤ 8 && n.kinds.all (· != 3) && bits w 20 12 == 0 &&
      ((b.take 16).drop 4).all (· == 0) && (b.drop 244).all (· == 0) then some n
  else none

/-- A ray: the origin and the direction. -/
structure RayOD where
  o : List Word
  d : List Word

/-- One coordinate of a transformed vector: exact, rounded once; `t` is the translation or 0.0 (R345). -/
def rowWord (m : List Word) (v : List Word) (t : Word) : Word :=
  let p (k : Nat) : XVal := (xval (m.getD k 0)).mul (xval (v.getD k 0))
  (((p 0).add (p 1)).add (p 2) |>.add (xval t)).w32

/-- A ray in the space of an instance, whose record is given (R344, R345). -/
def RayOD.enter (r : RayOD) (b : List Byte) : RayOD :=
  let m := bytesWords 12 b
  let row (i : Nat) : List Word := (m.drop (4 * i)).take 3
  { o := (List.range 3).map fun i => rowWord (row i) r.o (m.getD (4 * i + 3) 0),
    d := (List.range 3).map fun i => rowWord (row i) r.d 0 }

/-- An instance record holds no reserved value. -/
def instOk (b : List Byte) : Bool := bits (byteField b 60 4) 1 31 == 0

/-! ## The tests of R345 -/

/-- A slab: its entry rounded down and its exit rounded up, as FP32 values; `none` where the ray never meets it. -/
def slab (lo hi o d : Word) : Option (Num × Num) :=
  let dv := fr32 d
  if dv.isZero then
    if (fr32 lo).le (fr32 o) && (fr32 o).le (fr32 hi) then some (.inf true, .inf false) else none
  else
    let a := ((fr32 lo).sub (fr32 o)).div dv
    let b := ((fr32 hi).sub (fr32 o)).div dv
    some (fp32.decode false ((a.min b).round fp32 3), fp32.decode false ((a.max b).round fp32 2))

/-- The smaller of two values that are no NaN. -/
def Num.least (a b : Num) : Num := if b.cmp a == .lt then b else a
/-- The larger of two values. -/
def Num.greatest (a b : Num) : Num := if a.cmp b == .lt then b else a
/-- a ≤ b. -/
def Num.le (a b : Num) : Bool := a.cmp b == .lt || a.cmp b == .eq

/-- The entry of a ray into a box, none where it is not hit. -/
def boxEntry (box : List Word) (r : RayOD) (tmin tmax : Num) : Option Num :=
  if !(box ++ r.o ++ r.d).all finite32 then (if Config.rayBox (box ++ r.o ++ r.d) then some tmin else none)
  else
    let sl (k : Nat) : Option (Num × Num) := slab (box.getD k 0) (box.getD (k + 3) 0) (r.o.getD k 0) (r.d.getD k 0)
    match sl 0, sl 1, sl 2 with
    | some a, some b, some c =>
      let e := tmin.greatest ((a.1.greatest b.1).greatest c.1)
      let x := (a.2.least b.2).least c.2
      if e.le x && e.le tmax then some e else none
    | _, _, _ => none

/-- A vector of exact values. -/
abbrev Vec := Fr × Fr × Fr

/-- Three words as a vector. -/
def vec (ws : List Word) : Vec := (fr32 (ws.getD 0 0), fr32 (ws.getD 1 0), fr32 (ws.getD 2 0))
/-- The difference of two vectors. -/
def vsub (a b : Vec) : Vec := (a.1.sub b.1, a.2.1.sub b.2.1, a.2.2.sub b.2.2)
/-- The inner product. -/
def vdot (a b : Vec) : Fr := (a.1.mul b.1).add ((a.2.1.mul b.2.1).add (a.2.2.mul b.2.2))
/-- The vector product. -/
def vcross (a b : Vec) : Vec :=
  ((a.2.1.mul b.2.2).sub (a.2.2.mul b.2.1), (a.2.2.mul b.1).sub (a.1.mul b.2.2), (a.1.mul b.2.1).sub (a.2.1.mul b.1))
/-- A multiple of a vector added to another. -/
def vaxpy (t : Fr) (d o : Vec) : Vec := (o.1.add (t.mul d.1), o.2.1.add (t.mul d.2.1), o.2.2.add (t.mul d.2.2))

/-- The distance at which the line of a ray meets a closed triangle, rounded once. -/
def triHit (tri : List Word) (r : RayOD) : Option Word :=
  if !(tri ++ r.o ++ r.d).all finite32 then Config.rayTriangle (tri ++ r.o ++ r.d)
  else
    let v0 := vec tri
    let e1 := vsub (vec (tri.drop 3)) v0
    let e2 := vsub (vec (tri.drop 6)) v0
    let o := vec r.o
    let d := vec r.d
    let n := vcross e1 e2
    let dn := vdot d n
    if (vdot n n).isZero || dn.isZero then none
    else
      let t := (vdot (vsub v0 o) n).div dn
      let p := vsub (vaxpy t d o) v0
      let u := vdot (vcross p e2) n
      let v := vdot (vcross e1 p) n
      if 0 ≤ u.n && 0 ≤ v.n && (u.add v).le (vdot n n) then some t.w32 else none

/-! ## The commit stage (R188) -/

/-- A hit replaces another: a lower t, or an equal one with a lower (instance index, primitive index). -/
def RayHit.beats (a b : RayHit) : Bool :=
  match (fp32.decode false a.t.toNat).cmp (fp32.decode false b.t.toNat) with
  | .lt => true
  | .eq => a.inst < b.inst || (a.inst == b.inst && a.prim < b.prim)
  | _ => false

/-- A new hit would replace the committed one. -/
def RayQuery.takes (q : RayQuery) (h : RayHit) : Bool :=
  match q.best with
  | none => true
  | some b => h.beats b

/-- Committing a hit. -/
def RayQuery.commit (q : RayQuery) (h : RayHit) : RayQuery := if q.takes h then { q with best := some h } else q

/-- A register of the query's ray. -/
def RayQuery.num (q : RayQuery) (k : Nat) : Num := fp32.decode false (q.ray.getD k 0).toNat

/-- The committed t, or tmax. -/
def RayQuery.tcur (q : RayQuery) : Num := (q.best.map fun b => fp32.decode false b.t.toNat).getD (q.num 7)

/-! ## Traversal (R346, R347) -/

/-- A traversal of one fibre: the state and the query; it goes on, stops with a candidate, ends, or meets a fault or a
far target. -/
inductive Trav where
  | more (s : State) (q : RayQuery)
  | cand (s : State) (q : RayQuery)
  | fin (s : State) (q : RayQuery)
  | fault (s : State) (q : RayQuery) (o : LaneOut)

/-- RAY_MALFORMED, once for each query (R344). -/
def State.rayMalformed (s : State) (I : Issue) (q : RayQuery) (va : Nat) : State × RayQuery :=
  if q.logged then (s, q) else (s.logError I.x 10 0 (srcCore I.core) va 0 0, { q with logged := true })

/-- The ray at a node: through each instance on the way, the outermost first. -/
def State.rayAt (s : State) (I : Issue) (l : Nat) (q : RayQuery) : List Nat → State × Except LaneOut RayOD
  | [] => (s, .ok { o := q.ray.take 3, d := (q.ray.drop 4).take 3 })
  | i :: outer =>
    match s.rayAt I l q outer with
    | (t, .error e) => (t, .error e)
    | (t, .ok r) =>
      match t.unitFetchParts I l (rangeParts i 64) with
      | (u, .error e) => (u, .error e)
      | (u, .ok b) => (u, .ok (r.enter b))

/-- What a traversal finds at a node: the node, the ray there, and the slots hit and not marked, with their entries. -/
structure Look where
  node  : BvhNode
  ray   : RayOD
  slots : List (Nat × Num)

/-- The node of a step and its slots; a node with a reserved value, or misaligned, has no children. -/
def State.look (s : State) (I : Issue) (l : Nat) (q : RayQuery) (n : RayNode) (lvl : Nat) :
    State × RayQuery × Except LaneOut Look :=
  match s.rayAt I l q n.insts with
  | (t, .error e) => (t, q, .error e)
  | (t, .ok r) =>
    let empty : Look := { node := { count := 0, kinds := [], boxes := [], refs := [], runs := [] }, ray := r, slots := [] }
    let none_ (u : State) : State × RayQuery × Except LaneOut Look :=
      let m := u.rayMalformed I q n.node
      (m.1, m.2, .ok empty)
    if n.node % 256 != 0 then none_ t
    else
      match t.unitFetch I l n.node 256 with
      | (u, .error e) => (u, q, .error e)
      | (u, .ok b) =>
        match parseNode b with
        | none => none_ u
        | some nd =>
          let slots := (List.range nd.count).filterMap fun c =>
            if bit (q.trail.getD lvl 0) c then none
            else (boxEntry (nd.boxes.getD c []) r (q.num 3) (q.num 7)).map fun e => (c, e)
          (u, q, .ok { node := nd, ray := r, slots := slots })

/-- Nearest: the lowest entry, then the lowest slot. -/
def Look.nearest (k : Look) : Option (Nat × Num) :=
  k.slots.foldl (fun a e =>
    match a with
    | none => some e
    | some b => if e.2.cmp b.2 == .lt then some e else some b) none

/-- Marking a slot in the trail of a level. -/
def RayQuery.mark (q : RayQuery) (lvl c : Nat) : RayQuery := { q with trail := q.trail.modify lvl (· ||| 2 ^ c) }

/-- The child in a slot: a node, or the bottom root of an instance; `none` for an instance record with a reserved
value. -/
def State.child (s : State) (I : Issue) (l : Nat) (n : RayNode) (k : Look) (c : Nat) :
    State × Except LaneOut (Option RayNode) :=
  let a := ((n.node : Int) + 64 * k.node.refs.getD c 0) % 2 ^ 64
  if k.node.kinds.getD c 0 == 2 then
    match s.unitFetchParts I l (rangeParts a.toNat 64) with
    | (t, .error e) => (t, .error e)
    | (t, .ok b) =>
      if instOk b then (t, .ok (some { node := byteField b 48 8, insts := a.toNat :: n.insts })) else (t, .ok none)
  else (s, .ok (some { node := a.toNat, insts := n.insts }))

/-- Redescend: from the root along Nearest at levels `lvl` and on, for `n` levels. -/
def State.redescend (s : State) (I : Issue) (l : Nat) (q : RayQuery) (at_ : RayNode) (lvl : Nat) :
    Nat → State × RayQuery × Except LaneOut RayNode
  | 0 => (s, q, .ok at_)
  | n + 1 =>
    match s.look I l q at_ lvl with
    | (t, q1, .error e) => (t, q1, .error e)
    | (t, q1, .ok k) =>
      match k.nearest with
      | none => (t, q1, .ok at_)
      | some (c, _) =>
        match t.child I l at_ k c with
        | (u, .error e) => (u, q1, .error e)
        | (u, .ok none) => (u, q1, .ok at_)
        | (u, .ok (some m)) => u.redescend I l q1 m (lvl + 1) n

/-- The hit of a triangle record, and whether it is opaque. -/
def triRecord (b : List Byte) (r : RayOD) (insts : List (List Byte)) : Option (RayHit × Bool) :=
  (triHit (bytesWords 9 b) r).map fun t =>
    ({ t := t, inst := ((insts.head?.map fun i => byteField i 56 4)).getD 0, prim := byteField b 36 4 },
      bit (byteField b 40 4) 0 || insts.any fun i => bit (byteField i 60 4) 0)

/-- A triangle record holds no reserved value. -/
def triOk (b : List Byte) : Bool := bits (byteField b 40 4) 1 31 == 0 && byteField b 44 4 == 0

/-- Reading the instance records of a path. -/
def State.instBytes (s : State) (I : Issue) (l : Nat) : List Nat → State × Except LaneOut (List (List Byte))
  | [] => (s, .ok [])
  | i :: is =>
    match s.unitFetchParts I l (rangeParts i 64) with
    | (t, .error e) => (t, .error e)
    | (t, .ok b) =>
      match t.instBytes I l is with
      | (u, .ok bs) => (u, .ok (b :: bs))
      | (u, .error e) => (u, .error e)

/-- Testing the records of a run in order, from record `j` on, `n` of them (R347): a non-opaque hit that would replace
the committed one stops the query. -/
def State.testRun (s : State) (I : Issue) (l : Nat) (q : RayQuery) (r : RayOD) (insts : List (List Byte)) (base slot : Nat)
    (j : Nat) : Nat → Trav
  | 0 => .more s (({ q with pos := none }).mark q.lvl slot)
  | n + 1 =>
    match s.unitFetchParts I l (rangeParts (base + 48 * j) 48) with
    | (t, .error e) => .fault t q e
    | (t, .ok b) =>
      if !triOk b then
        let m := t.rayMalformed I q (base + 48 * j)
        m.1.testRun I l m.2 r insts base slot (j + 1) n
      else
        match triRecord b r insts with
        | none => t.testRun I l q r insts base slot (j + 1) n
        | some (h, opq) =>
          let hn := fp32.decode false h.t.toNat
          if !((q.num 3).le hn && hn.le q.tcur) then t.testRun I l q r insts base slot (j + 1) n
          else if opq || q.opaq then t.testRun I l (q.commit h) r insts base slot (j + 1) n
          else if q.takes h then .cand t { q with pos := some (slot, j + 1), cand := some h }
          else t.testRun I l q r insts base slot (j + 1) n

/-- The run in a slot, from a record on. -/
def State.runSlot (s : State) (I : Issue) (l : Nat) (q : RayQuery) (k : Look) (c j : Nat) : Trav :=
  match s.instBytes I l q.node.insts with
  | (t, .error e) => .fault t q e
  | (t, .ok is) =>
    let base := (((q.node.node : Int) + 64 * k.node.refs.getD c 0) % 2 ^ 64).toNat
    t.testRun I l q k.ray is base c j (k.node.runs.getD c 1 - j)

/-- Leaving a level whose slots are finished. -/
def State.rayUp (s : State) (I : Issue) (l : Nat) (q : RayQuery) : Trav :=
  if q.lvl == 0 then .fin s q
  else
    let q1 := { q with trail := q.trail.modify q.lvl fun _ => 0, lvl := q.lvl - 1 }
    let r : State × RayQuery × Except LaneOut RayNode :=
      match q1.stack with
      | n :: rest => (s, { q1 with stack := rest }, .ok n)
      | [] => s.redescend I l q1 { node := q1.root, insts := [] } 0 q1.lvl
    match r with
    | (t, q2, .error e) => .fault t q2 e
    | (t, q2, .ok n) =>
      match t.look I l { q2 with node := n } n q2.lvl with
      | (u, q3, .error e) => .fault u q3 e
      | (u, q3, .ok k) =>
        .more u (match k.nearest with
          | some (c, _) => q3.mark q3.lvl c
          | none => q3)

/-- One turn of the loop of R346. -/
def State.rayStep (s : State) (I : Issue) (l : Nat) (q : RayQuery) : Trav :=
  match s.look I l q q.node q.lvl with
  | (t, q1, .error e) => .fault t q1 e
  | (t, q1, .ok k) =>
    match q1.pos with
    | some (c, j) => t.runSlot I l q1 k c j
    | none =>
      match k.nearest with
      | none => t.rayUp I l q1
      | some (c, e) =>
        if q1.tcur.cmp e == .lt then .more t (q1.mark q1.lvl c)
        else if k.node.kinds.getD c 0 == 1 then t.runSlot I l q1 k c 0
        else if q1.lvl == 31 then .more (t.logError I.x 11 0 (srcCore I.core) q1.node.node 0 0) (q1.mark q1.lvl c)
        else
          match t.child I l q1.node k c with
          | (u, .error o) => .fault u q1 o
          | (u, .ok none) =>
            let m := u.rayMalformed I q1 (((q1.node.node : Int) + 64 * k.node.refs.getD c 0) % 2 ^ 64).toNat
            .more m.1 (m.2.mark m.2.lvl c)
          | (u, .ok (some n)) =>
            .more u { q1 with stack := (q1.node :: q1.stack).take 8, node := n, lvl := q1.lvl + 1 }

/-- The loop of R346. -/
def State.rayLoop (I : Issue) (l : Nat) : Nat → State → RayQuery → Trav
  | 0, s, q => .fin s q
  | n + 1, s, q =>
    match s.rayStep I l q with
    | .more t p => State.rayLoop I l n t p
    | x => x

/-- More turns than any traversal takes, whose path has at most 32 levels of 8 slots: the default image ends every query
(R350). -/
def rayTurns : Nat := 2 ^ 128

/-! ## RAYQ, RAYC, RAYA -/

/-- Holding, or abandoning, the query of a fibre. -/
def State.setRay (s : State) (I : Issue) (l : Nat) (q : Option RayQuery) : State :=
  s.modGroup I.core I.g fun G => G.modLane l fun L => { L with ray := q }

/-- The results of a query: a status, and the hit; without a hit the spec states no values for it. -/
def rayOut (l d status : Nat) (h : Option RayHit) (s : State) : State × LaneOut :=
  match h with
  | some h => (s, { lane := l, writes := wregs l d [word status, h.t, word h.inst, word h.prim] })
  | none =>
    let r := s.orFrees [none, none, none]
    (r.1, { lane := l, writes := wregs l d (word status :: r.2) })

/-- The query of a fibre whose read did not succeed: a PROT or a POISON abandons it, and a far target, for it ends in POISON (R277); otherwise it waits, which a held query
without a candidate tells (R188). RAY_MALFORMED stays logged for it (R344). -/
def State.rayStops (s : State) (I : Issue) (l : Nat) (o : LaneOut) (q : Option RayQuery) : State :=
  if o.far.isSome || (o.trap.map fun t => t.code == fcProt || t.code == fcPoison).getD false then s.setRay I l none
  else
    s.modGroup I.core I.g fun G => G.modLane l fun L =>
      { L with ray := match L.ray, q with
          | some r, some p => some { r with logged := p.logged }
          | none, some p => some { p with cand := none }
          | r, none => r }

/-- The outcome of a traversal for its fibre. -/
def Trav.out (I : Issue) (l d : Nat) : Trav → State × LaneOut
  | .fault s q o => (s.rayStops I l o (some q), o)
  | .cand s q => rayOut l d 2 q.cand (s.setRay I l (some q))
  | .fin s q => rayOut l d (if q.best.isSome then 1 else 0) q.best (s.setRay I l none)
  | .more s _ => (s, { lane := l })

/-- A query under an image that is not the default one, which defines the traversal: its reads and its hits are what the
image computes. Each opaque hit goes through the commit stage, which lies outside the image (R348); a hit in non-opaque
geometry is a candidate, and there is none under .O (R187). -/
def rayImage (k : Nat) (I : Issue) (l : Nat) (q : RayQuery) (s : State) : Trav :=
  let (t, n) := s.draw
  match t.imageReads I l (imageLines k n) with
  | (u, some o) => .fault u q o
  | (u, none) =>
    let (w, m) := u.draw
    let v (j : Nat) : Word := Config.imageResult k m j
    let hit (j : Nat) : RayHit := { t := v (3 * j), inst := (v (3 * j + 1)).toNat, prim := (v (3 * j + 2)).toNat }
    let p := ((List.range (v 0).toNat).map fun j => hit (j + 2)).foldl RayQuery.commit q
    if !q.opaq && v 1 != 0 then .cand w { p with cand := some (hit 1) } else .fin w p

/-- Running a query on under the context's ray image. R197 does not say whether a query that is pending when CSW installs an
image is an operation already started: RAYC and RAYA resume it under the new image (DESIGN CHOICE, log entry 86). -/
def rayGo (I : Issue) (l d : Nat) (q : RayQuery) (s : State) : State × LaneOut :=
  (match tget? (s.ctx I.x).images 3 with
    | some k => rayImage k I l q s
    | none => State.rayLoop I l rayTurns s q).out I l d

/-- A fibre starts its query (R187): `entry` is the address of the table's entry, and `ok` tells that it holds no reserved
value. With one the query has nothing to traverse (R343, R344; log entry 78). A query that waited for the service of a
fault has logged RAY_MALFORMED already, or not. -/
def rayqLane (opq : Bool) (entry root : Nat) (ok : Bool) (d a : Nat) (I : Issue) (l : Nat) (s0 : State) :
    State × LaneOut :=
  let s := s0.setRay I l none
  let ray := (List.range 8).map fun k => I.R.v l (a + k)
  let num (k : Nat) : Num := fp32.decode false (ray.getD k 0).toNat
  let q : RayQuery :=
    { root := root, ray := ray, opaq := opq, lvl := 0, node := { node := root, insts := [] }, stack := [],
      trail := List.replicate 32 0, pos := none, best := none, cand := none,
      logged := ((I.G.lane l).ray.map fun p => p.cand.isNone && p.logged).getD false }
  if root == 0 || ray.any nan32 || (num 7).cmp (num 3) == .lt then rayOut l d 0 none s
  else if !ok then rayOut l d 0 none (s.rayMalformed I q entry).1
  else rayGo I l d q s

/-- RAYQ. -/
def rayqRun (opq : Bool) (sr : BitVec 3) (d a : BitVec 7) (I : Issue) (s : State) : Result :=
  let k := (I.R.s sr.toNat).toNat
  let c := s.ctx I.x
  if bits (c.word 0x1C4) 0 20 ≤ k then .go s (trapAll I (mkTrap fcOob 0 k))
  else
    let s1 := s.reload I.core I.x 3
    let entry := bits (c.dword 0x1C8) 0 52 + 32 * k
    match s1.unitFetch I I.low entry 32 with
    | (t, .error o) => farWait I (I.act.foldl (fun u l => u.rayStops I l o none) t, I.act.map fun l => { o with lane := l })
    | (t, .ok b) =>
      let ok := (tget? c.images 3).isSome || (b.drop 8).all (· == 0)
      eachLaneFar (rayqLane opq entry (byteField b 0 8) ok d.toNat a.toNat) I t

/-- RAYQ: hits in non-opaque geometry stop the query as candidates. -/
def execRayq (sf : BitVec 3) (d a : BitVec 7) (c : BitVec 3) : State → Out :=
  issue { ins := .rayq sf d a c, c := c, ops := [ovn 4 d, ovn 8 a, os sf], feat := 9 } (rayqRun false sf d a)
/-- RAYQ.O: every hit is committed. -/
def execRayqO (sf : BitVec 3) (d a : BitVec 7) (c : BitVec 3) : State → Out :=
  issue { ins := .rayqO sf d a c, c := c, ops := [ovn 4 d, ovn 8 a, os sf], feat := 9 } (rayqRun true sf d a)

/-- RAYC and RAYA of one fibre (R188): the candidate is rejected or accepted, and the query goes on. The fibre's query
is unchanged by a fault that is serviced, and the instruction is replayed. -/
def rayResume (accept : Bool) (d : Nat) (I : Issue) (l : Nat) (s : State) : State × LaneOut :=
  match (I.G.lane l).ray with
  | none => (s, { lane := l, trap := some (mkTrap fcIllop 0 0) })
  | some q =>
    match q.cand with
    | none => (s, { lane := l, trap := some (mkTrap fcIllop 0 0) })
    | some h =>
      let q1 := { q with cand := none }
      rayGo I l d (if accept then q1.commit h else q1) s

/-- RAYC. -/
def execRayc (d : BitVec 7) (c : BitVec 3) : State → Out :=
  issue { ins := .rayc d c, c := c, ops := [ovn 4 d], feat := 9 } fun I s =>
    eachLaneFar (rayResume false d.toNat) I (s.reload I.core I.x 3)
/-- RAYA. -/
def execRaya (d : BitVec 7) (c : BitVec 3) : State → Out :=
  issue { ins := .raya d c, c := c, ops := [ovn 4 d], feat := 9 } fun I s =>
    eachLaneFar (rayResume true d.toNat) I (s.reload I.core I.x 3)

end Sys2Proof.Machine
end

