-- ==== Sys2Proof/Machine/Render.lean ====
section
/-!
DEFINITION. The steps of a pass (R182, 04_matrix_graphics_system_instr.md; R320-R325, 13_program_overflow.md; R326-R339,
R349, R350, 14_rendering.md): binners and list engines, the tile tasks of Opal, fragments, the spill and the export.
-/

namespace Sys2Proof.Machine

/-! ## Lists (R332-R334) -/

/-- A tile of a pass. -/
def Pass.tile (P : Pass) (t : Nat) : TileRec := tget P.tiles t (if P.closed then TileRec.start.close else TileRec.start)

/-- The pass with a tile changed. -/
def Pass.modTile (P : Pass) (t : Nat) (f : TileRec → TileRec) : Pass := { P with tiles := tset P.tiles t (f (P.tile t)) }

/-- Entries appended since the latest cut (R333). -/
def TileRec.openEntries (r : TileRec) : List PrimRec := r.entries.drop (r.cuts.getLast?.getD r.served)

/-- The bytes of entries: 16 each under the default codec image (R333, R348). -/
def Pass.entryBytes (P : Pass) (rs : List PrimRec) : Nat :=
  match tget? P.images 4 with
  | none => 16 * rs.length
  | some k => (rs.map fun r => Config.entryBytes k r.verts.xyzw).sum

/-- The bytes for which a store needs room to take one more entry. -/
def Pass.entryRoom (P : Pass) : Nat := ((tget? P.images 4).map Config.entryRoom).getD 16

/-- A tile's open bytes (R333). -/
def Pass.openBytes (P : Pass) (r : TileRec) : Nat := P.entryBytes r.openEntries

/-- The tiles that a die bins, with their records. -/
def Pass.dieTiles (P : Pass) (d : Nat) : List (Nat × TileRec) := P.tiles.filter fun e => P.rs.binner e.1 == d

/-- The count of a die's list engine in bytes (R333). -/
def Pass.count (P : Pass) (d : Nat) : Nat := ((P.dieTiles d).map fun e => P.openBytes e.2).sum

/-- The bytes in use of a die's list store: entries that are held, and their vertex blocks (R333). -/
def Pass.used (P : Pass) (d : Nat) : Nat :=
  let es := (P.dieTiles d).flatMap fun e => e.2.entries.drop e.2.freed
  if es.isEmpty then 0 else P.entryBytes es + Config.vertexBytes (tget? P.images 4) (es.flatMap fun r => r.verts.xyzw)

/-- The store has no room for one more entry. -/
def Pass.full (P : Pass) (d : Nat) : Bool := P.rs.lsize < P.used d + P.entryRoom

/-- The victim of a flush: the tile with the most open bytes, the lower index first (R334). -/
def Pass.victim (P : Pass) (d : Nat) : Option Nat :=
  let ts := (P.dieTiles d).filter fun e => P.openBytes e.2 != 0
  (ts.foldl (fun (best : Option (Nat × TileRec)) e =>
    match best with
    | none => some e
    | some b => if P.openBytes b.2 < P.openBytes e.2 then some e else some b) none).map (·.1)

/-- A cut at the end of a tile's list, for which a prefix task is queued (R334, R336). -/
def TileRec.cut (r : TileRec) : TileRec :=
  { r with cuts := r.cuts ++ [r.entries.length], st := if r.st == .idle then .prefixQueued else r.st }

/-- Choosing victims until the count is at most the low-water mark, at most `n` of them (R334). -/
def Pass.flush (d : Nat) : Nat → Pass → Pass
  | 0, P => P
  | n + 1, P =>
    if P.count d ≤ P.rs.low then P
    else
      match P.victim d with
      | none => P
      | some t => Pass.flush d n (P.modTile t TileRec.cut)

/-- The flush after an append (R334). -/
def Pass.afterAppend (P : Pass) (d : Nat) : Pass :=
  if P.rs.high ≤ P.count d || P.full d then Pass.flush d P.ntiles P else P

/-- The record that a binner appends next: the first of the team whose turn it is (R332). -/
def Pass.nextRec (P : Pass) (d : Nat) : Option PrimRec :=
  let held := (P.binner d).held
  if P.full d then none
  else
    (held.find? fun r => P.front d r.batchSeq r.team &&
      held.all fun q => r.batchSeq < q.batchSeq || (r.batchSeq == q.batchSeq && r.team ≤ q.team))

/-- Appending an entry of a record to the first of its tiles that still lacks it. -/
def Pass.append (P : Pass) (d : Nat) (r : PrimRec) : Pass :=
  match r.tiles with
  | [] => P
  | t :: ts =>
    let B := P.binner d
    let held := if ts.isEmpty then delFirst (· = r) B.held else modFirst (· = r) (fun q => { q with tiles := ts }) B.held
    let P1 : Pass := { P with binners := tset P.binners d { B with held := held } }
    (P1.modTile t fun q => { q with entries := q.entries ++ [{ r with tiles := [] }] }).afterAppend d

/-- The teams of a launch, which may have ended, are reaped where nothing holds them any more. -/
def State.reapLaunch (s : State) (lid : Nat) : State :=
  (s.launchTeams lid).foldl (fun u e => u.reapTeam e.1) s

/-- The pass is at work. -/
def State.passOpen (s : State) (lid : Nat) : Option Pass :=
  match tget? s.launches lid with
  | some L => if L.st == .running && (s.ctx L.ctx).moves then tget? s.passes lid else none
  | none => none

/-- BINNER_APPEND: the binner of a die appends an entry, and the list engine flushes when it must. The binner and the list
codec run the images of the pass (R349). -/
def execBinnerAppend (die lid : Nat) (s : State) : Out :=
  .next (match s.passOpen lid with
    | none => s
    | some P =>
      match P.nextRec die with
      | none => s
      | some r =>
        let s1 := ({ s with passes := tset s.passes lid (P.append die r) } : State).modDie die fun D =>
          { D with images := withImage (withImage D.images 1 (tget? P.images 1)) 4 (tget? P.images 4) }
        match P.batches.find? fun b => b.1 == r.batchSeq with
        | some b => s1.reapLaunch b.2
        | none => s1)

/-- The pass fails (R332, R350). -/
def State.failPass (s : State) (lid : Nat) : State :=
  { s with passes := tmod s.passes lid fun P => { P with failed := some fcPoison } }

/-- LINK_FAILED: a path has not delivered for 50 ms (R332). -/
def execLinkFailed (lid src dst : Nat) (s : State) : Out :=
  .next (match tget? s.launches lid with
    | some L =>
      if (tget? s.passes lid).isSome then
        (s.failPass lid).logError L.ctx 8 0 (srcDie src) L.grid (src % 16 + dst % 16 * 16) 0
      else s
    | none => s)

/-! ## Tile tasks (R320, R322, R336) -/

/-- The part of a tile's list that its next task takes, and whether the task is the final one. -/
def Pass.nextTask (P : Pass) (t : Nat) : Option (Nat × Nat × Bool) :=
  let r := P.tile t
  match r.st with
  | .prefixQueued => r.cuts.head?.map fun c => (r.served, c, false)
  | .finalQueued => some (r.served, r.entries.length, true)
  | _ => none

/-- The bytes of the described planes. -/
def RenderState.planeBytes (rs : RenderState) : Nat := (rs.described.map fun p => 1024 * planeSize p.fmt).sum

/-- The size of a spill slot (R335). -/
def RenderState.slotSize (rs : RenderState) : Nat := 4096 * ceilDiv (4096 + rs.planeBytes) 4096

/-- The address of a tile's spill slot. -/
def RenderState.slotVa (rs : RenderState) (t : Nat) : Nat := rs.spill + t * rs.slotSize

/-- Writing the planes of a team's tile: the parts of one list of bytes, plane by plane. -/
def State.setPlanes (s : State) (T : Team) : List Plane → List Byte → State
  | [], _ => s
  | p :: ps, bs =>
    let n := 1024 * planeSize p.fmt
    (s.scrWrite (.unit T.core) (T.ubase + p.offset) (bs.take n)).setPlanes T ps (bs.drop n)

/-- The clear values of the described planes. -/
def RenderState.clears (rs : RenderState) : List Byte :=
  rs.described.flatMap fun p => (List.range 1024).flatMap fun _ => p.clear

/-- The planes of a team's tile, plane by plane. -/
def State.getPlanes (s : State) (T : Team) (rs : RenderState) : List Byte :=
  rs.described.flatMap fun p => s.scrRead (.unit T.core) (T.ubase + p.offset) (1024 * planeSize p.fmt)

/-- A plane of the team's tile holds an uncorrectable error. -/
def State.planesBad (s : State) (T : Team) (ps : List Plane) : Bool :=
  ps.any fun p => s.scrBad (.unit T.core) (T.ubase + p.offset) (1024 * planeSize p.fmt)

/-- The first failure of a tile's spill or reload is kept for its final task (R323). -/
def TileRec.fail (r : TileRec) (code : Nat) : TileRec := { r with bad := some (r.bad.getD code) }

/-- The state with a tile of a pass changed. -/
def State.modTile (s : State) (lid t : Nat) (f : TileRec → TileRec) : State :=
  { s with passes := tmod s.passes lid fun P => P.modTile t f }

/-- What the planes of a tile hold before its next task issues (R322): the state, and the bytes; none while the reload
waits for a service. A reload that fails leaves the planes as the team's fresh allocation has them, and the failure is
kept. -/
def State.loadPlanes (s : State) (lid x t die : Nat) (P : Pass) : State × Option (List Byte) :=
  let r := P.tile t
  let w := FaultWho.reload lid t
  if !r.spilled then (s, some P.rs.clears)
  else
    match s.servedRead w (some die) x none (P.rs.slotVa t) P.rs.slotSize with
    | (u, .wait) => (u, none)
    | (u, .ok _) => (u.clearFaults w, some r.planes)
    | (u, .fail code va _) =>
      let v := (u.clearFaults w).modTile lid t (TileRec.fail · code)
      (if code == fcProt then v.freezeUnit x Origin.zero va 0 else v, some [])

/-- A launch and its pass, when a task of a tile can be admitted on a core: the partition is that of the record. -/
def State.taskReady (s : State) (lid tile core : Nat) : Option (Launch × Pass × (Nat × Nat × Bool) × Nat) :=
  match tget? s.launches lid, s.passOpen lid, (s.boundCores lid).find? fun c => c.1 == core with
  | some L, some P, some c =>
    if (s.ctx L.ctx).st == .active && tile < P.ntiles && !s.pendingFault (.reload lid tile) then
      (P.nextTask tile).map fun k => (L, P, k, c.2)
    else none
  | _, _, _ => none

/-- Admitting a tile task (R320): the team with its tile bound. -/
def State.admitTask (s : State) (lid tile core : Nat) : Option State :=
  match s.taskReady lid tile core with
  | none => none
  | some (L, P, (lo, hi, fin), part) =>
    let task : TileTask :=
      { tile := tile, final := fin, lo := lo, hi := hi, at_ := lo, quad := 0, winners := none,
        image := tget? (s.ctx L.ctx).images 0, held := true, tret := none, failed := none }
    let tid := s.nextTid
    match s.admitGrid core part lid L.ctx L.grid tile L.block (!L.gated) (some P.rs.frole) fun T => { T with tile := some task } with
    | none => none
    | some _ =>
      match s.loadPlanes lid L.ctx tile (dieOf core) P with
      | (u, none) => some u
      | (u, some bs) =>
        (u.admitGrid core part lid L.ctx L.grid tile L.block (!L.gated) (some P.rs.frole) fun T => { T with tile := some task }).map
          fun v =>
            (v.setPlanes (v.team tid) (if bs.isEmpty then [] else P.rs.described) bs).modTile lid tile fun r =>
              { r with served := hi, cuts := if fin then r.cuts else r.cuts.drop 1,
                       st := if fin then .finalRunning else .prefixRunning }

/-- TILE_TASK_ADMIT: Opal admits a tile's next task on a bound core of its choice. -/
def execTileTaskAdmit (lid tile core : Nat) (s : State) : Out := .next ((s.admitTask lid tile core).getD s)

/-! ## Fragments (R321, R337-R339) -/

/-- The tile task of a team, when its raster sequencer is at work. -/
def State.rasterTask (s : State) (tid : Nat) : Option (Team × TileTask × Pass) :=
  match tget? s.teams tid with
  | none => none
  | some T =>
    match T.tile, tget? s.passes T.lid with
    | some t, some P => if T.begun && t.held && t.at_ < t.hi && (s.ctx T.ctx).st.issues then some (T, t, P) else none
    | _, _ => none

/-- The sample of an entry at a pixel of a tile. -/
def TileTask.sample (t : TileTask) (P : Pass) (r : PrimRec) (pix : Nat) : Sample :=
  primSample t.image r (t.tile % P.rs.tw * 32 + pix % 32) (t.tile / P.rs.tw * 32 + pix / 32)

/-- The element of the depth plane at a pixel. -/
def State.depthAt (s : State) (T : Team) (p : Plane) (pix : Nat) : Word :=
  word (leNat (s.scrRead (.unit T.core) (T.ubase + p.at_ pix) 4))

/-- Writing the depth of a pixel, where the plane writes depths. -/
def State.putDepth (s : State) (T : Team) (p : Plane) (pix : Nat) (z : Word) : State :=
  if p.dwrite then s.scrWrite (.unit T.core) (T.ubase + p.at_ pix) (leBytes 4 z.toNat) else s

/-- Hidden-surface removal over the task's part of the list (R339): the test-and-write sequence, and the last passing
entry of each pixel. -/
def State.resolve (s : State) (tid : Nat) (T : Team) (t : TileTask) (P : Pass) (p : Plane) : State :=
  let es := (P.tile t.tile).entries
  let r := ((List.range (t.hi - t.lo)).map (· + t.lo)).foldl (fun (a : State × Tbl Nat) i =>
    match es[i]? with
    | none => a
    | some e => (List.range 1024).foldl (fun (b : State × Tbl Nat) pix =>
        let f := t.sample P e pix
        if f.exists_ && depthPass p.cmp f.z (b.1.depthAt T p pix) then (b.1.putDepth T p pix f.z, tset b.2 pix i) else b) a)
    (s, [])
  r.1.modTeam tid fun T => { T with tile := some { t with winners := some r.2 } }

/-- A fragment of an entry receives a fibre (R337-R339). Under a loaded image it is the image that decides, without the
depth range and the depth modes of the default one (R348). -/
def State.makesFibre (s : State) (T : Team) (t : TileTask) (P : Pass) (r : PrimRec) (pix : Nat) : Bool :=
  let f := t.sample P r pix
  if t.image.isSome then f.cover
  else
    f.exists_ &&
      (match P.rs.depth with
       | none => true
       | some p =>
         if P.rs.sdepth then true
         else if P.rs.hsr then ((t.winners.getD []).any fun w => w == (pix, t.at_))
         else depthPass p.cmp f.z (s.depthAt T p pix))

/-- The four pixels of a quad, in the order of its lanes (R338). -/
def quadPixels (q : Nat) : List Nat :=
  let o := q / 16 * 64 + q % 16 * 2
  [o, o + 1, o + 32, o + 33]

/-- A loaded image gives a position a helper fibre or writes its depth. -/
def Sample.extra (f : Sample) : Bool := f.helper || f.write

/-- The next quad of the entry that receives a fibre, or on which a loaded image acts. -/
def State.nextQuad (s : State) (T : Team) (t : TileTask) (P : Pass) (r : PrimRec) : Option Nat :=
  ((List.range 256).drop t.quad).find? fun q =>
    (quadPixels q).any fun pix => s.makesFibre T t P r pix || (t.image.isSome && (t.sample P r pix).extra)

/-- A group of the fragment role with four free lanes of one quad: the group context and the first lane. -/
def State.freeQuad (s : State) (tid frole : Nat) : Option (Nat × Nat) :=
  (s.teamGroups tid).findSome? fun e =>
    if e.2.role == frole && e.2.st == .resident then
      ((List.range 8).find? fun q => (List.range 4).all fun k => !(e.2.lane (4 * q + k)).live).map fun q => (e.1, 4 * q)
    else none

/-- A fragment or helper fibre (R338): v0 the pixel and the helper bit, v1 and v2 the barycentrics, all else zero. -/
def fragLane (pc pix : Nat) (helper : Bool) (f : Sample) (r : PrimRec) : Lane :=
  { (Lane.start pc).withRegs [word (pix + b2n helper * 2 ^ 31), f.b1, f.b2] with
      frag := some { batchSeq := r.batchSeq, prim := r.prim, pixel := pix, helper := helper, slot := !helper,
                     verts := r.verts } }

/-- Writing the depths of a quad's fragments: where the raster tests (R339), or where a loaded image says. -/
def State.quadDepths (s : State) (T : Team) (t : TileTask) (P : Pass) (px : List (Nat × Bool × Sample)) : State :=
  match P.rs.depth, t.image with
  | none, _ => s
  | some p, some _ => px.foldl (fun u e => if e.2.2.write then u.putDepth T { p with dwrite := true } e.1 e.2.2.z else u) s
  | some p, none =>
    if P.rs.sdepth || P.rs.hsr then s
    else px.foldl (fun u e => if e.2.1 then u.putDepth T p e.1 e.2.2.z else u) s

/-- The fibres of a quad are created in four lanes of a group, as one batch, the youngest (R54, R338), and depths are
written. Under the default image a position without a fragment receives a helper; a loaded image chooses (log entry 79). -/
def State.createQuad (s : State) (tid g l0 q : Nat) (T : Team) (t : TileTask) (P : Pass) (r : PrimRec) (pc : Nat) : State :=
  let px : List (Nat × Bool × Sample) := (quadPixels q).map fun pix => (pix, s.makesFibre T t P r pix, t.sample P r pix)
  let made := px.zipIdx.filter fun e => e.1.2.1 || t.image.isNone || e.1.2.2.helper
  ((s.quadDepths T t P px).modGroup T.core g fun G =>
    let H := made.foldl (fun H e => H.modLane (l0 + e.2) fun _ => fragLane pc e.1.1 (!e.1.2.1) e.1.2.2 r) G
    { H with batches := H.batches ++
        if made.isEmpty then [] else [Batch.fresh (maskOf (made.map fun e => e.2 + l0))] }).modTeam tid fun T =>
      { T with tile := some { t with quad := q + 1 } }

/-- The raster sequencer of a team's core holds the image of the task (R349). -/
def State.rasterImage (s : State) (T : Team) (t : TileTask) : State :=
  s.modCore T.core fun C => { C with images := withImage C.images 0 t.image }

/-- The next step of a raster sequencer, none while it has nothing to do or no free lanes. -/
def State.rasterStep (s : State) (tid : Nat) : Option State :=
  match s.rasterTask tid with
  | none => none
  | some (T, t, P) =>
    let s := s.rasterImage T t
    match P.rs.depth, P.rs.hsr && t.image.isNone && t.winners.isNone with
    | some p, true => some (s.resolve tid T t P p)
    | _, _ =>
      let skip : State := s.modTeam tid fun T => { T with tile := some { t with at_ := t.at_ + 1, quad := 0 } }
      match (P.tile t.tile).entries[t.at_]? with
      | none => some skip
      | some r =>
        match s.nextQuad T t P r with
        | none => some skip
        | some q =>
          match s.freeQuad tid P.rs.frole, (tget? s.launches T.lid).bind fun L => L.block.roles[P.rs.frole]?.map fun d =>
              L.block.cbase + d.pcoff with
          | some (g, l0), some pc => some (s.createQuad tid g l0 q T t P r pc)
          | _, _ => none

/-- FRAGMENT_CREATE: the raster sequencer of a team's core takes a step: hidden-surface removal, the fibres of one quad,
or the end of an entry. -/
def execFragmentCreate (tid : Nat) (s : State) : Out := .next ((s.rasterStep tid).getD s)

/-! ## The end of a tile task (R182, R323, R335) -/

/-- A team whose TRET hands over the tile, with the pass: final or prefix, when no service is under way. -/
def State.tretDue (s : State) (tid : Nat) (fin : Bool) : Option (Team × TileTask × (Nat × Nat × Origin) × Pass) :=
  if s.pendingFault (.tile tid) then none
  else
    match tget? s.teams tid with
    | none => none
    | some T =>
      match T.tile, tget? s.passes T.lid with
      | some t, some P => if t.final == fin then t.tret.map fun r => (T, t, r, P) else none
      | _, _ => none

/-- The rows of an export: the address of each and its bytes. -/
def exportRows (rs : RenderState) (t : Nat) (p : Plane) (bs : List Byte) : List (Nat × List Byte) :=
  let n := 32 * planeSize p.fmt
  (List.range 32).map fun y =>
    (rs.fbase + (t / rs.tw * 32 + y) * rs.fpitch + (t % rs.tw * 32) * planeSize p.fmt, sliceBytes bs (n * y) n)

/-- Writing bytes to physical parts in turn, as far as the parts reach. -/
def State.wrReach (s : State) : List (Nat × Nat) → List Byte → State
  | [], _ => s
  | (pa, n) :: t, bs => (s.wr pa (bs.take n)).wrReach t (bs.drop n)

/-- The task is over: the tile takes its next state, and the team no longer has it. -/
def State.endTask (s : State) (tid : Nat) (T : Team) (t : TileTask) (f : TileRec → TileRec) : State :=
  (((s.clearFaults (.tile tid)).modTile T.lid t.tile f).modTeam tid fun T =>
    { T with tile := some { t with tret := none } }).sweepFrags tid |>.reapTeam tid

/-- The contribution of a final TRET: its bytes, and the failure (R182, R323). -/
def tretStep (T : Team) (o : Origin) (ob size : Nat) (fail : Option OpFail) : Contribution :=
  { ctx := T.ctx, obj := ob, bytes := 1024 * size, done := none, fcode := fail.map (·.code), flags := 0, origin := o,
    srckind := 1, src := dieOf T.core, major := 0x37, op := 5, addr := (fail.map (·.addr)).getD 0,
    gcause := (fail.map (·.cause)).getD 0, interest := none }

/-- The end of a final task, with its contribution and the freeze for a PROT. -/
def State.endExport (s : State) (tid : Nat) (T : Team) (t : TileTask) (o : Origin) (ob size : Nat) (fail : Option OpFail) :
    State :=
  let s1 := if ob == 0 && fail.isNone then s else s.addContribution (tretStep T o ob size fail)
  let s2 := match fail with
    | some f => if f.code == fcProt then s1.freezeUnit T.ctx o f.addr f.detail else s1
    | none => s1
  s2.endTask tid T t fun r => { r with st := .retired, freed := r.entries.length }

/-- A final task that exports nothing: its TRET sets FAULT with the code of the failure, which the error log gives under
another code (R323, R332). -/
def State.noExport (s : State) (tid : Nat) (T : Team) (t : TileTask) (o : Origin) (ob size code : Nat) : State :=
  let c := tretStep T o ob size (some { code := code, addr := 0, cause := 0, detail := 0 })
  (if ob == 0 then s else s.addContribution { c with silent := true }).endTask tid T t fun r =>
    { r with st := .retired, freed := r.entries.length }

/-- The offset of the first uncorrectable byte of a plane in the team's unit allocation. -/
def State.planeBad (s : State) (T : Team) (p : Plane) : Nat :=
  p.offset + (((List.range (1024 * planeSize p.fmt)).find? fun i => s.scrBad (.unit T.core) (T.ubase + p.offset + i) 1).getD 0)

/-- The export of a colour plane, up to the first line that fails (R182). A plane with an uncorrectable error fails the
export, at its offset, with no byte of the frame buffer written (DESIGN CHOICE, log entry 85). -/
def State.export_ (s : State) (tid : Nat) (T : Team) (t : TileTask) (o : Origin) (ob : Nat) (P : Pass) (p : Plane) : State :=
  let size := planeSize p.fmt
  if s.planesBad T [p] then
    s.endExport tid T t o ob size (some { code := fcPoison, addr := s.planeBad T p, cause := 0, detail := 0 })
  else
    let rows := exportRows P.rs t.tile p (s.scrRead (.unit T.core) (T.ubase + p.offset) (1024 * size))
    let ws := rows.flatMap fun r => wants .write r.1 r.2.length
    match s.served (.tile tid) (some (dieOf T.core)) T.ctx none ws with
    | (u, .wait _) => u
    | (u, .ok ps) => (u.wrReach ps (rows.flatMap (·.2))).endExport tid T t o ob size none
    | (u, .fail ps c a k) =>
      (u.wrReach ps (rows.flatMap (·.2))).endExport tid T t o ob size
        (some { code := c, addr := a, cause := k, detail := 1 })

/-- TILE_EXPORT: the export of a final task completes, and the tile is retired. A failed pass, and a tile whose spill or
reload failed, export nothing; the latter logs SPILL_FAILED (R323). -/
def execTileExport (tid : Nat) (s : State) : Out :=
  .next (match s.tretDue tid true with
    | none => s
    | some (T, t, (k, ob, o), P) =>
      let size := ((P.rs.plane k).map fun p => planeSize p.fmt).getD 0
      let bad := (P.tile t.tile).bad
      let s := match bad with
        | some c => s.logError T.ctx 6 c (srcDie (dieOf T.core)) t.tile T.grid 0
        | none => s
      match P.failed, bad, P.rs.plane k with
      | some c, _, _ => s.noExport tid T t o ob size c
      | none, some c, _ => s.noExport tid T t o ob size c
      | none, none, some p => s.export_ tid T t o ob P p
      | none, none, none => s.noExport tid T t o ob size fcPoison)

/-- The end of a prefix task: its entries are freed, and further cuts or none wait; without one the tile of a closed pass is
queued for its final task (R336). -/
def TileRec.endPrefix (hi : Nat) (closed : Bool) (r : TileRec) : TileRec :=
  { r with freed := hi, st := if !r.cuts.isEmpty then .prefixQueued else if closed then .finalQueued else .idle }

/-- The spill of a prefix task (R323, R335): the planes are kept without loss, and the slot takes a form that only the
reload reads. Its pages need R and W. -/
def State.spill (s : State) (tid : Nat) (T : Team) (t : TileTask) (o : Origin) (P : Pass) : State :=
  let va := P.rs.slotVa t.tile
  let fails (u : State) (code a detail : Nat) : State :=
    let v := u.endTask tid T t fun r => (r.endPrefix t.hi P.closed).fail code
    if code == fcProt then v.freezeUnit T.ctx o a detail else v
  if s.planesBad T P.rs.described then fails s fcPoison va 0
  else
    match s.served (.tile tid) (some (dieOf T.core)) T.ctx none (wants .atomic va P.rs.slotSize) with
    | (u, .wait _) => u
    | (u, .fail _ c a _) => fails u c a 1
    | (u, .ok ps) =>
      let bs := u.getPlanes T P.rs
      (u.wrReach ps ((List.range P.rs.slotSize).map (Config.spillByte bs))).endTask tid T t fun r =>
        { r.endPrefix t.hi P.closed with spilled := true, planes := bs }

/-- TILE_SPILL: the spill of a prefix task completes. -/
def execTileSpill (tid : Nat) (s : State) : Out :=
  .next (match s.tretDue tid false with
    | none => s
    | some (T, t, (_, _, o), P) => s.spill tid T t o P)

/-! ## Sequencers that hang (R350) -/

/-- The pass of a sequencer: that of a group's team for the raster kind, the one named for the binner and the codec. -/
def State.hangPass (s : State) (kind core g : Nat) : Option Nat :=
  if kind == 0 then (s.group? core g).bind fun G => (s.team G.tid).tile.map fun _ => (s.team G.tid).lid
  else (tget? s.passes g).map fun _ => g

/-- The image of a kind in force for a pass or a tile task: a default image never hangs. -/
def State.hangImage (s : State) (kind core g lid : Nat) : Option Nat :=
  if kind == 0 then ((s.group? core g).bind fun G => (s.team G.tid).tile).bind (·.image)
  else (tget? s.passes lid).bind fun P => tget? P.images kind

/-- The instruction is one of the sampler (2) or of the ray sequencer (3). -/
def Instr.usesSequencer (kind : Nat) : Instr → Bool
  | .smpl .. => kind == 2
  | .smplG .. => kind == 2
  | .smpg .. => kind == 2
  | .smpgG .. => kind == 2
  | .rayq .. => kind == 3
  | .rayqO .. => kind == 3
  | .rayc .. => kind == 3
  | .raya .. => kind == 3
  | _ => false

/-- A batch of a group that stands at an instruction of a kind of sequencer, named as the issuing party. -/
def State.atSequencer (s : State) (kind core g : Nat) : Option State :=
  match s.group? core g with
  | none => none
  | some G =>
    (List.range G.batches.length).findSome? fun b =>
      match G.batches[b]? with
      | none => none
      | some B =>
        if B.wait.isSome || B.lanes == 0 then none
        else
          match (s.fetch core G.ctx (G.batchPc B) true).2 with
          | .word w =>
            match decodeWord w with
            | .instr i => if Instr.usesSequencer kind i then some { s with cur := { core := core, g := g, b := b } } else none
            | .reject _ => none
          | _ => none

/-- A sampler or ray instruction that its image leaves unfinished raises POISON with 0 in sr.trapaddr; a query is abandoned
(R188). -/
def State.hangTrap (s : State) (kind core g : Nat) : State :=
  match s.group? core g with
  | none => s
  | some G =>
    if (tget? (s.ctx G.ctx).images kind).isNone then s
    else
      match (s.atSequencer kind core g).bind fun u => u.issuer.map fun I => (u, I) with
      | none => s
      | some (u, I) =>
        let v := if kind == 3 then I.act.foldl (fun w l => w.modGroup core g fun G => G.modLane l fun L =>
            { L with ray := none }) u else u
        ((v.account core g 0 none).finish I none (trapAll I (mkTrap fcPoison 0 0))).logError G.ctx 9 0 (srcCore core) kind 0 0

/-- SEQ_HANG: an operation of a sequencer of kind `kind` is ended. For the raster kind the group is one of the team that
holds the tile; for the binner and codec kinds `core` is the die and `g` the launch of the pass. -/
def execSeqHang (kind core g : Nat) (s : State) : Out :=
  .next (
    if kind == 2 || kind == 3 then s.hangTrap kind core g
    else
      match s.hangPass kind core g with
      | none => s
      | some lid =>
        if (s.hangImage kind core g lid).isNone then s
        else
          match tget? s.launches lid with
          | none => s
          | some L =>
            (s.failPass lid).logError L.ctx 9 0 (if kind == 0 then srcCore core else srcDie core) kind 0 0)

end Sys2Proof.Machine
end

