-- ==== Sys2Proof/Machine/Routers.lean ====
section
/-!
DEFINITION. The steps of the die and package routers and of the name engines (R150-R154, 03_memory_instr.md; R386-R388,
18_program_names.md; R389-R397, 19_names_procedural.md). The package holds two package routers, 8 and 9; what lies on
other packages takes no part (R396).
-/

namespace Sys2Proof.Machine

/-- The package home of a name (R390). -/
def packageHome (name : Nat) : Nat := 8 + nameTensor name % 2

/-- A retirement on its way to a router covers a name: it goes first (R387). -/
def State.retireAhead (s : State) (router x name : Nat) : Bool :=
  s.retires.any fun r => r.router == router && r.ctx == x && r.tensor == nameTensor name && behind r.iter (nameIter name)

/-! ## Requests (R386, R391-R393) -/

/-- An interest whose request has not gone up yet. -/
def Interest.toSend (i : Interest) : Bool := i.st = .waiting && !i.sent && 3 ≤ i.reach

/-- A request of a die for the name stands at the package home (R386). -/
def State.outstanding (s : State) (d : Nat) (i : Interest) : Bool :=
  (s.hdie (packageHome i.name - 8)).requests.any fun r => r.ctx == i.ctx && r.name == i.name && r.child == d

/-- The request of an interest can go up: there is a copy, an outstanding request, or a free entry (R393). -/
def State.forwardDue (s : State) (d e : Nat) : Option Interest :=
  (tget? (s.die d).interests e).filter fun i =>
    let q := packageHome i.name
    i.toSend && (s.outstanding d i || (s.findCopy q i.ctx i.name).isSome || (s.hdie (q - 8)).requests.length < 16384)

/-- The interest's request counts as sent. -/
def State.markSent (s : State) (d e : Nat) : State :=
  s.modDie d fun D => { D with interests := tmod D.interests e fun i => { i with sent := true } }

/-- A tile sets out. -/
def State.addFlight (s : State) (f : Flight) : State :=
  { s with nextOp := s.nextOp + 1, flights := s.flights ++ [{ f with id := s.nextOp }] }

/-- A tile returns from a package router to a die that asked for it (R391). -/
def State.sendDown (s : State) (x name reach d : Nat) (bs : List Byte) : State :=
  s.addFlight { id := 0, ctx := x, name := name, reach := reach, at_ := d, bytes := bs, up := false, obj := 0,
                origin := Origin.zero }

/-- The request of an interest goes to the package home: it is served from a stored copy; or it joins an outstanding
request, whose reach it may widen; or it is recorded (R386, R391). -/
def State.sendRequest (s : State) (d e : Nat) (i : Interest) : State :=
  let q := packageHome i.name
  let t := s.markSent d e
  match s.findCopy q i.ctx i.name with
  | some c => (t.touchCopy q c).sendDown i.ctx i.name i.reach d c.bytes
  | none =>
    if s.outstanding d i then
      t.modHdie (q - 8) fun H => { H with requests := H.requests.map fun r =>
        if r.ctx == i.ctx && r.name == i.name && r.child == d then { r with reach := max r.reach i.reach } else r }
    else t.modHdie (q - 8) fun H =>
      { H with requests := H.requests ++ [{ ctx := i.ctx, name := i.name, child := d, reach := i.reach }] }

/-- INTEREST_FORWARD: a die router forwards the request of an interest. -/
def execInterestForward (die e : Nat) (s : State) : Out :=
  .next (match s.forwardDue die e with
    | some i => s.sendRequest die e i
    | none => s)

/-! ## Tiles (R387, R390, R391, R394) -/

/-- The announcement has ended its way up: its contribution is made, with the flag that discarded it (R152). -/
def State.endAnnounce (s : State) (f : Flight) (flag : Nat) : State :=
  if f.obj == 0 then s
  else s.addContribution
    { ctx := f.ctx, obj := f.obj, bytes := f.bytes.length, done := none, fcode := none, flags := flag, origin := f.origin,
      srckind := 1, src := dieOf f.origin.core, major := 0x32, op := 1, addr := f.name, gcause := 0, interest := none }

/-- The Waiting interests of a die router that a tile meets (R390): a tile on its way up meets those of its name space, one
that returns from the package home those of the request whose reach has gone there. -/
def State.tileInterests (s : State) (f : Flight) : List Nat :=
  ((s.die f.at_).interests.filter fun e =>
    e.2.name == f.name && e.2.st = .waiting &&
      (if f.up then s.shareNames f.ctx e.2.ctx else e.2.ctx == f.ctx && 3 ≤ e.2.reach)).map (·.1)

/-- A tile is given to the interests of the die router where it is. -/
def State.giveTile (s : State) (f : Flight) : State :=
  (s.tileInterests f).foldl (fun u e => u.meetTile f.at_ e f.bytes) s

/-- A tile satisfies the requests recorded at a package router and returns to their dies. -/
def State.giveRequests (s : State) (f : Flight) : State :=
  let h := f.at_ - 8
  let hit (r : Request) : Bool := r.name == f.name && s.shareNames f.ctx r.ctx
  ((s.hdie h).requests.filter hit).foldl (fun u r => u.sendDown r.ctx r.name r.reach r.child f.bytes)
    (s.modHdie h fun H => { H with requests := H.requests.filter fun r => !hit r })

/-- A tile on its way up at a router: it is discarded when its iteration is retired or a store holds its name; else it is
stored, satisfies what waits, and goes on (R152, R391). -/
def State.visit (s : State) (f : Flight) : State :=
  if s.retiredAt f.ctx f.at_ (nameTensor f.name) (nameIter f.name) then s.endAnnounce f ofRetired
  else if (s.findCopy f.at_ f.ctx f.name).isSome then s.endAnnounce f ofDup
  else
    let t := s.storeCopy f.at_ f
    if 8 ≤ f.at_ then (t.giveRequests f).endAnnounce f 0
    else if f.reach == 2 then (t.giveTile f).endAnnounce f 0
    else (t.giveTile f).addFlight { f with at_ := packageHome f.name }

/-- A tile's arrival is due (R387). -/
def State.arrivalDue (s : State) (f : Flight) : Bool := !s.retireAhead f.at_ f.ctx f.name

/-- TILE_ARRIVAL: a tile reaches a router. -/
def execTileArrival (n : Nat) (s : State) : Out :=
  .next (match s.flights.find? fun f => f.id == n with
    | none => s
    | some f =>
      if !s.arrivalDue f then s
      else
        let t := { s with flights := s.flights.filter fun g => g.id != n }
        if f.up then t.visit f
        else if s.retiredAt f.ctx f.at_ (nameTensor f.name) (nameIter f.name) then t
        else t.giveTile f)

/-- The bytes of a tile for a Writing interest whose write is not held; the events of the tile's cycle come first (R387). -/
def State.writeDue (s : State) (d e : Nat) : Option (Interest × List Byte) :=
  if s.pendingFault (.interest d e) then none
  else (tget? (s.die d).interests e).bind fun i =>
    match i.st with
    | .writing b since => if since < s.now then some (i, b) else none
    | _ => none

/-- INTEREST_WRITE_DONE: the name engine writes the tile (R151, R149); a tile that is too large and a write that fails fail
the interest. -/
def execInterestWriteDone (die e : Nat) (s : State) : Out :=
  .next (match s.writeDue die e with
    | none => s
    | some (i, bs) =>
      if i.cap < bs.length then s.endInterest die e fcOob i.name 0
      else
      let w := FaultWho.interest die e
      let ws := i.dst.wants .write bs.length 0 false
      match s.served w (some die) i.ctx (s.team i.tid).gen (ws.map (·.2)) with
      | (t, .wait _) => t
      | (t, .fail _ code a cause) =>
        let u := (t.clearFaults w).endInterest die e code a cause
        if code == fcProt then u.freezeUnit i.ctx i.origin a 1 else u
      | (t, .ok ps) =>
        let parts : Parts := (ws.map (·.2)).zip (ps.map (·.1))
        let u := (List.range (bs.length / 4)).foldl (fun u k =>
          u.sideWrite i.core parts i.dst (4 * k) (sliceBytes bs (4 * k) 4)) (t.clearFaults w)
        u.endInterest die e 0 0 0)

/-- INTEREST_LIFETIME_END. -/
def execInterestLifetimeEnd (die e : Nat) (s : State) : Out :=
  .next (match tget? (s.die die).interests e with
    | some i => if i.st = .waiting && i.expires ≤ s.ptp then s.endInterest die e fcNever i.name 0 else s
    | none => s)

/-! ## Retirement (R153, R388, R397) -/

/-- A retirement covers a name. -/
def Retire.covers (r : Retire) (x name : Nat) : Bool :=
  x == r.ctx && nameTensor name == r.tensor && behind r.iter (nameIter name)

/-- An interest that a retirement still fails: a Waiting one, or one whose tile came in the same cycle (R387). -/
def Interest.failsBy (i : Interest) (now : Nat) : Bool :=
  match i.st with
  | .waiting => true
  | .writing _ since => since == now
  | .ending _ => false

/-- A router applies a retirement: its mark, its stored copies, and the interests that fail. -/
def State.applyRetire (s : State) (r : Retire) : State :=
  let t := s.setMark r.ctx r.router r.tensor r.iter
  let u := t.setCopies r.router ((t.copies r.router).filter fun c => !r.covers c.ctx c.name)
  if 8 ≤ r.router then u
  else (u.die r.router).interests.foldl (fun v e =>
    if e.2.failsBy s.now && r.covers e.2.ctx e.2.name then v.endInterest r.router e.1 fcNever e.2.name 0 else v) u

/-- A retirement can be applied: not in the cycle of its NRET, in which tiles may have reached the router before it. From
then on the tiles wait for it, so that of the events of one cycle it is the first (R387). -/
def State.retireDue (s : State) (n : Nat) : Option Retire := s.retires.find? fun r => r.id == n && r.since < s.now

/-- RETIREMENT_APPLY. -/
def execRetirementApply (n : Nat) (s : State) : Out :=
  .next (match s.retireDue n with
    | some r => { s with retires := s.retires.filter fun q => q.id != n }.applyRetire r
    | none => s)

end Sys2Proof.Machine
end

