-- ==== Sys2Proof/Machine/Sync.lean ====
section
/-!
DEFINITION. The sync object and ring instructions (R135-R142, 03_memory_instr.md; R304, R307, R309, R314,
12_consistency.md).
-/

namespace Sys2Proof.Machine

/-! ## Sync objects -/

/-- A sync object instruction: `f` receives the object's index, its address and itself. -/
def onObject (o : BitVec 7) (f : Nat → Nat → Obj → Issue → State → Result) (I : Issue) (s : State) : Result :=
  let k := (I.R.s o.toNat).toNat
  match s.objFor I k with
  | (t, .error e) => e.stop I t
  | (t, .ok (pa, ob)) => f k pa ob I t

/-- The instruction does not fit the object: MISUSE is set, and it completes (R137). -/
def misuse (pa : Nat) (ob : Obj) (s : State) : Result := .go (s.putObj pa (ob.flag ofMisuse)) []

/-- The order in which a waiting ACQ reached a lock. -/
def Batch.lockSince (B : Batch) (k : Nat) : Option Nat :=
  match B.wait with
  | some (.lock j n) => if j == k then some n else none
  | _ => none

/-- An ACQ of the context reached lock `k` before `n` and still waits (R140). -/
def State.lockAhead (s : State) (x k n : Nat) : Bool :=
  s.allGroups.any fun (_, _, G) => G.ctx == x && G.batches.any fun B => (B.lockSince k).any (· < n)

/-- The holder word of the issuing group (R304). -/
def holderWord (I : Issue) : Nat := I.g + 64 * I.core

/-- ACQ. -/
def execAcq (sf : BitVec 3) (o : BitVec 7) (c : BitVec 3) : State → Out :=
  issue { ins := .acq sf o c, c := c, ops := [os o], scope := true } (onObject o fun k pa ob I s =>
    let got (t : State) : Result := .go (t.acquire I.party (some k) (I.scope sf.toNat)) []
    if ob.kind != kLock then got s
    else
      let n := (I.B.lockSince k).getD s.nextOp
      if ob.state == lockFree && !s.lockAhead I.x k n then got (s.putObj pa { ob with state := holderWord I })
      else .wait (if I.first then { s with nextOp := s.nextOp + 1 } else s) (.lock k n))

/-- REL. -/
def execRel (sf : BitVec 3) (o : BitVec 7) (c : BitVec 3) : State → Out :=
  issue { ins := .rel sf o c, c := c, ops := [os o], scope := true } (onObject o fun k pa ob I s =>
    releasing k (I.scope sf.toNat) I s fun t =>
      if ob.kind != kLock then .go t []
      else if ob.state == holderWord I then .go (t.putObj pa { ob with state := lockFree }) []
      else misuse pa ob t)

/-- ARV. -/
def execArv (sf : BitVec 3) (n o : BitVec 7) (c : BitVec 3) : State → Out :=
  issue { ins := .arv sf n o c, c := c, ops := [os n, os o], scope := true } (onObject o fun k pa ob I s =>
    let v := (I.R.s n.toNat).toNat
    if ob.kind == kBarrier then
      releasing k (I.scope sf.toNat) I s fun t =>
        .go (t.putObj pa (ob.arrive v 0)) (scalarOut I [(.s n.toNat, word ob.state)])
    else if ob.kind == kCounter then
      let new := (ob.state + v) % 2 ^ 32
      releasing k (I.scope sf.toNat) I s fun t =>
        .go (t.putObj pa { ob with state := new }) (scalarOut I [(.s n.toNat, word new)])
    else misuse pa ob s)

/-- ARV.X. -/
def execArvX (sf : BitVec 3) (n o : BitVec 7) (c : BitVec 3) : State → Out :=
  issue { ins := .arvX sf n o c, c := c, ops := [os n, os o], scope := true } (onObject o fun k pa ob I s =>
    if ob.kind == kBarrier then
      releasing k (I.scope sf.toNat) I s fun t =>
        .go (t.putObj pa (ob.arrive 1 (I.R.s n.toNat).toNat)) (scalarOut I [(.s n.toNat, word ob.state)])
    else misuse pa ob s)

/-- The trap of a WAITP on an object whose FAULT bit is set (R139). -/
def objTrap (k : Nat) (ob : Obj) : Trap := { mkTrap (bits ob.flags 16 8) 0 k with obj := true }

/-- WAITP: `nf` passes over the FAULT bit (R137, R139). -/
def waitpRun (nf : Bool) (sf : BitVec 3) (p o : BitVec 7) : Issue → State → Result := onObject o fun k pa ob I s =>
  let v := (I.R.s p.toNat).toNat
  let finish : Result :=
    if !nf && bit ob.flags 8 then .go s (trapAll I (objTrap k ob)) else .go (s.acquire I.party (some k) (I.scope sf.toNat)) []
  if ob.kind == kBarrier then (if ob.state != v then finish else .wait s (.object k v none))
  else if ob.kind == kCounter then (if sub32 ob.state v < 2 ^ 31 then finish else .wait s (.poll 4))
  else misuse pa ob s

/-- WAITP. -/
def execWaitp (sf : BitVec 3) (p o : BitVec 7) (c : BitVec 3) : State → Out :=
  issue { ins := .waitp sf p o c, c := c, ops := [os p, os o], scope := true } (waitpRun false sf p o)
/-- WAITP.NF. -/
def execWaitpNf (sf : BitVec 3) (p o : BitVec 7) (c : BitVec 3) : State → Out :=
  issue { ins := .waitpNf sf p o c, c := c, ops := [os p, os o], scope := true } (waitpRun true sf p o)

/-- What SOFLG reads (R135, R137). -/
def Obj.field (ob : Obj) (sel : Nat) : Nat :=
  match sel with
  | 0 => ob.flags
  | 1 => ob.state
  | 2 => if ob.kind == kBarrier then ob.arrivals else 0
  | _ => if ob.kind == kBarrier then (ob.pending % 2 ^ 32).toNat else 0

/-- SOFLG. -/
def execSoflg (l : BitVec 3) (d o : BitVec 7) (c : BitVec 3) : State → Out :=
  issue { ins := .soflg l d o c, c := c, ops := [os d, os o], scope := true } (onObject o fun _ _ ob I s =>
    .go s (scalarOut I [(.s d.toNat, word (ob.field l.toNat))]))
/-- SOFLG.FLAG.C. -/
def execSoflgFlagC (d o : BitVec 7) (c : BitVec 3) : State → Out :=
  issue { ins := .soflgFlagC d o c, c := c, ops := [os d, os o], scope := true } (onObject o fun _ pa ob I s =>
    .go (s.putObj pa { ob with flags := 0 }) (scalarOut I [(.s d.toNat, word ob.flags)]))

/-! ## Rings -/

/-- A ring instruction: `f` receives the ring's address and itself. -/
def onRing (r : BitVec 7) (f : Nat → Ring → Issue → State → Result) (I : Issue) (s : State) : Result :=
  match s.ringFor I (I.R.s r.toNat).toNat with
  | (t, .error e) => e.stop I t
  | (t, .ok (pa, rg)) => f pa rg I t

/-- RGET and RCLM: a step that yields a slot, or the wait, or 0xFFFFFFFF for the .T forms. RGET is an acquire of the ring's
object at `acq`. -/
def ringSlot (step : Ring → Option (Nat × Ring)) (acq : Option (BitVec 3)) (wait : Bool) (d r : BitVec 7) :
    Issue → State → Result :=
  onRing r fun pa rg I s =>
    match step rg with
    | some (slot, rg1) =>
      let t := s.putRing pa rg1
      .go (match acq with
        | some sf => t.acquire I.party (some rg.fobj) (I.scope sf.toNat)
        | none => t) (scalarOut I [(.s d.toNat, word slot)])
    | none => if wait then .wait s (.poll 5) else .go s (scalarOut I [(.s d.toNat, 0xFFFFFFFF)])

/-- RPUB and RPUT: a release of the ring's object, of a count of slots; a count of 0 does nothing (R142). -/
def ringCount (step : Ring → Nat → Option Ring) (sf : BitVec 3) (n r : BitVec 7) : Issue → State → Result :=
  onRing r fun pa rg I s =>
    let k := (I.R.s n.toNat).toNat
    if k == 0 then .go s []
    else
    match step rg k with
    | some rg1 => releasing rg.fobj (I.scope sf.toNat) I s fun t => .go (t.putRing pa rg1) []
    | none => .go s (trapAll I (mkTrap fcOob 0 k))

/-- RGET. -/
def execRget (sf : BitVec 3) (d r : BitVec 7) (c : BitVec 3) : State → Out :=
  issue { ins := .rget sf d r c, c := c, ops := [os d, os r], scope := true } (ringSlot Ring.take (some sf) true d r)
/-- RGET.T. -/
def execRgetT (sf : BitVec 3) (d r : BitVec 7) (c : BitVec 3) : State → Out :=
  issue { ins := .rgetT sf d r c, c := c, ops := [os d, os r], scope := true } (ringSlot Ring.take (some sf) false d r)
/-- RCLM. -/
def execRclm (sf : BitVec 3) (d r : BitVec 7) (c : BitVec 3) : State → Out :=
  issue { ins := .rclm sf d r c, c := c, ops := [os d, os r], scope := true } (ringSlot Ring.claim none true d r)
/-- RCLM.T. -/
def execRclmT (sf : BitVec 3) (d r : BitVec 7) (c : BitVec 3) : State → Out :=
  issue { ins := .rclmT sf d r c, c := c, ops := [os d, os r], scope := true } (ringSlot Ring.claim none false d r)
/-- RPUB. -/
def execRpub (sf : BitVec 3) (n r : BitVec 7) (c : BitVec 3) : State → Out :=
  issue { ins := .rpub sf n r c, c := c, ops := [os n, os r], scope := true } (ringCount Ring.publish sf n r)
/-- RPUT. -/
def execRput (sf : BitVec 3) (n r : BitVec 7) (c : BitVec 3) : State → Out :=
  issue { ins := .rput sf n r c, c := c, ops := [os n, os r], scope := true } (ringCount Ring.free sf n r)

end Sys2Proof.Machine
end

