-- ==== Sys2Proof/Machine/Dispatch.lean ====
section
/-!
DEFINITION. The dispatch of a step to its meaning: one arm for each constructor of `Instr`, one direct call each.
-/

namespace Sys2Proof.Machine

/-- What an instruction or step does to the state. -/
def exec (i : Instr) (s : State) : Host.Outcome State Fault Refusal :=
  match i with
  | .ill x => Sys2Proof.Machine.execIll x s
  | .nop c => Sys2Proof.Machine.execNop c s
  | .trap k c => Sys2Proof.Machine.execTrap k c s
  | .eret c => Sys2Proof.Machine.execEret c s
  | .mfs d sf w c => Sys2Proof.Machine.execMfs d sf w c s
  | .mfsV d sf w c => Sys2Proof.Machine.execMfsV d sf w c s
  | .mfsB d b c => Sys2Proof.Machine.execMfsB d b c s
  | .mts d sf w c => Sys2Proof.Machine.execMts d sf w c s
  | .mtsV d sf w c => Sys2Proof.Machine.execMtsV d sf w c s
  | .mtsB d b c => Sys2Proof.Machine.execMtsB d b c s
  | .feat d n m c => Sys2Proof.Machine.execFeat d n m c s
  | .clk d c => Sys2Proof.Machine.execClk d c s
  | .fence sf c => Sys2Proof.Machine.execFence sf c s
  | .fenceAx sf c => Sys2Proof.Machine.execFenceAx sf c s
  | .sleep n c => Sys2Proof.Machine.execSleep n c s
  | .sleepLv n c => Sys2Proof.Machine.execSleepLv n c s
  | .bkpt k c => Sys2Proof.Machine.execBkpt k c s
  | .mark n k c => Sys2Proof.Machine.execMark n k c s
  | .rege im c => Sys2Proof.Machine.execRege im c s
  | .regl c => Sys2Proof.Machine.execRegl c s
  | .csw n d c => Sys2Proof.Machine.execCsw n d c s
  | .bra t c => Sys2Proof.Machine.execBra t c s
  | .brp p t c => Sys2Proof.Machine.execBrp p t c s
  | .brn p t c => Sys2Proof.Machine.execBrn p t c s
  | .brpAny p t c => Sys2Proof.Machine.execBrpAny p t c s
  | .brpAll p t c => Sys2Proof.Machine.execBrpAll p t c s
  | .call l t c => Sys2Proof.Machine.execCall l t c s
  | .calli l t c => Sys2Proof.Machine.execCalli l t c s
  | .ret p c => Sys2Proof.Machine.execRet p c s
  | .jmpi t c => Sys2Proof.Machine.execJmpi t c s
  | .brx im n c => Sys2Proof.Machine.execBrx im n c s
  | .fork d n c => Sys2Proof.Machine.execFork d n c s
  | .fend c => Sys2Proof.Machine.execFend c s
  | .rcv c => Sys2Proof.Machine.execRcv c s
  | .spawn a n c => Sys2Proof.Machine.execSpawn a n c s
  | .spawnT k a n c => Sys2Proof.Machine.execSpawnT k a n c s
  | .yield c => Sys2Proof.Machine.execYield c s
  | .shfl d a b c => Sys2Proof.Machine.execShfl d a b c s
  | .elect k c => Sys2Proof.Machine.execElect k c s
  | .voteAny k j c => Sys2Proof.Machine.execVoteAny k j c s
  | .voteAll k j c => Sys2Proof.Machine.execVoteAll k j c s
  | .voteBallot d j c => Sys2Proof.Machine.execVoteBallot d j c s
  | .shflX d a m c => Sys2Proof.Machine.execShflX d a m c s
  | .qpop k d q c => Sys2Proof.Machine.execQpop k d q c s
  | .qpopT k d q c => Sys2Proof.Machine.execQpopT k d q c s
  | .qpush a q c => Sys2Proof.Machine.execQpush a q c s
  | .qstatDepth d q c => Sys2Proof.Machine.execQstatDepth d q c s
  | .qstatFree d q c => Sys2Proof.Machine.execQstatFree d q c s
  | .qstatFlags d q c => Sys2Proof.Machine.execQstatFlags d q c s
  | .bar k n z c => Sys2Proof.Machine.execBar k n z c s
  | .barv k n z c => Sys2Proof.Machine.execBarv k n z c s
  | .barw k z c => Sys2Proof.Machine.execBarw k z c s
  | .pand k m im n j c => Sys2Proof.Machine.execPand k m im n j c s
  | .por k m im n j c => Sys2Proof.Machine.execPor k m im n j c s
  | .pxor k m im n j c => Sys2Proof.Machine.execPxor k m im n j c s
  | .pnot k m im c => Sys2Proof.Machine.execPnot k m im c s
  | .pset k a c => Sys2Proof.Machine.execPset k a c s
  | .sadd d a b c => Sys2Proof.Machine.execSadd d a b c s
  | .ssub d a b c => Sys2Proof.Machine.execSsub d a b c s
  | .smul d a b c => Sys2Proof.Machine.execSmul d a b c s
  | .smulh d a b u c => Sys2Proof.Machine.execSmulh d a b u c s
  | .sand d a b c => Sys2Proof.Machine.execSand d a b c s
  | .sor d a b c => Sys2Proof.Machine.execSor d a b c s
  | .sxor d a b c => Sys2Proof.Machine.execSxor d a b c s
  | .sshl d a b c => Sys2Proof.Machine.execSshl d a b c s
  | .sshr d a b c => Sys2Proof.Machine.execSshr d a b c s
  | .ssra d a b c => Sys2Proof.Machine.execSsra d a b c s
  | .smin d a b u c => Sys2Proof.Machine.execSmin d a b u c s
  | .smax d a b u c => Sys2Proof.Machine.execSmax d a b u c s
  | .scmp d a b u c => Sys2Proof.Machine.execScmp d a b u c s
  | .ssel d a b c => Sys2Proof.Machine.execSsel d a b c s
  | .smov d a c => Sys2Proof.Machine.execSmov d a c s
  | .slea d a b h c => Sys2Proof.Machine.execSlea d a b h c s
  | .saddi d a im c => Sys2Proof.Machine.execSaddi d a im c s
  | .sxori d a im c => Sys2Proof.Machine.execSxori d a im c s
  | .vadd d a b c => Sys2Proof.Machine.execVadd d a b c s
  | .vsub d a b c => Sys2Proof.Machine.execVsub d a b c s
  | .vmul d a b c => Sys2Proof.Machine.execVmul d a b c s
  | .vmad d a b c => Sys2Proof.Machine.execVmad d a b c s
  | .vmulhS d a b c => Sys2Proof.Machine.execVmulhS d a b c s
  | .vmulhU d a b c => Sys2Proof.Machine.execVmulhU d a b c s
  | .vaddc d a b c => Sys2Proof.Machine.execVaddc d a b c s
  | .vabs d a c => Sys2Proof.Machine.execVabs d a c s
  | .vclz d a c => Sys2Proof.Machine.execVclz d a c s
  | .vpopc d a c => Sys2Proof.Machine.execVpopc d a c s
  | .vbrev d a c => Sys2Proof.Machine.execVbrev d a c s
  | .vmov d a c => Sys2Proof.Machine.execVmov d a c s
  | .vmovs d sf c => Sys2Proof.Machine.execVmovs d sf c s
  | .vand d a b c => Sys2Proof.Machine.execVand d a b c s
  | .vor d a b c => Sys2Proof.Machine.execVor d a b c s
  | .vxor d a b c => Sys2Proof.Machine.execVxor d a b c s
  | .vbfe d a b c => Sys2Proof.Machine.execVbfe d a b c s
  | .vshl d a b c => Sys2Proof.Machine.execVshl d a b c s
  | .vshr d a b c => Sys2Proof.Machine.execVshr d a b c s
  | .vsra d a b c => Sys2Proof.Machine.execVsra d a b c s
  | .vbfi d a b c => Sys2Proof.Machine.execVbfi d a b c s
  | .vminS d a b c => Sys2Proof.Machine.execVminS d a b c s
  | .vminU d a b c => Sys2Proof.Machine.execVminU d a b c s
  | .vmaxS d a b c => Sys2Proof.Machine.execVmaxS d a b c s
  | .vmaxU d a b c => Sys2Proof.Machine.execVmaxU d a b c s
  | .vdivS d a b c => Sys2Proof.Machine.execVdivS d a b c s
  | .vdivU d a b c => Sys2Proof.Machine.execVdivU d a b c s
  | .vremS d a b c => Sys2Proof.Machine.execVremS d a b c s
  | .vremU d a b c => Sys2Proof.Machine.execVremU d a b c s
  | .vcmp n m k a b c => Sys2Proof.Machine.execVcmp n m k a b c s
  | .vsel d a b c => Sys2Proof.Machine.execVsel d a b c s
  | .vaddi d a im c => Sys2Proof.Machine.execVaddi d a im c s
  | .vshli d a n c => Sys2Proof.Machine.execVshli d a n c s
  | .vshri d a n c => Sys2Proof.Machine.execVshri d a n c s
  | .vsrai d a n c => Sys2Proof.Machine.execVsrai d a n c s
  | .fadd d a b c => Sys2Proof.Machine.execFadd d a b c s
  | .fsub d a b c => Sys2Proof.Machine.execFsub d a b c s
  | .fmul d a b c => Sys2Proof.Machine.execFmul d a b c s
  | .ffma d a b c => Sys2Proof.Machine.execFfma d a b c s
  | .ffms d a b c => Sys2Proof.Machine.execFfms d a b c s
  | .fmin d a b c => Sys2Proof.Machine.execFmin d a b c s
  | .fmax d a b c => Sys2Proof.Machine.execFmax d a b c s
  | .fldexp d a b c => Sys2Proof.Machine.execFldexp d a b c s
  | .frnd d a m c => Sys2Proof.Machine.execFrnd d a m c s
  | .ffrac d a c => Sys2Proof.Machine.execFfrac d a c s
  | .fclass d a c => Sys2Proof.Machine.execFclass d a c s
  | .fexpo d a c => Sys2Proof.Machine.execFexpo d a c s
  | .hadd2 d a b c => Sys2Proof.Machine.execHadd2 d a b c s
  | .hmul2 d a b c => Sys2Proof.Machine.execHmul2 d a b c s
  | .hfma2 d a b c => Sys2Proof.Machine.execHfma2 d a b c s
  | .bfma2 d a b c => Sys2Proof.Machine.execBfma2 d a b c s
  | .fcmp n m k a b c => Sys2Proof.Machine.execFcmp n m k a b c s
  | .dadd d a b c => Sys2Proof.Machine.execDadd d a b c s
  | .dmul d a b c => Sys2Proof.Machine.execDmul d a b c s
  | .dfma d a b c => Sys2Proof.Machine.execDfma d a b c s
  | .dcmp n m k a b c => Sys2Proof.Machine.execDcmp n m k a b c s
  | .fdiv d a b c => Sys2Proof.Machine.execFdiv d a b c s
  | .frcp d a c => Sys2Proof.Machine.execFrcp d a c s
  | .frsq d a c => Sys2Proof.Machine.execFrsq d a c s
  | .fsqrt d a c => Sys2Proof.Machine.execFsqrt d a c s
  | .fexp2 d a c => Sys2Proof.Machine.execFexp2 d a c s
  | .flog2 d a c => Sys2Proof.Machine.execFlog2 d a c s
  | .fsin d a c => Sys2Proof.Machine.execFsin d a c s
  | .fcos d a c => Sys2Proof.Machine.execFcos d a c s
  | .cvtf d a h sf t c => Sys2Proof.Machine.execCvtf d a h sf t c s
  | .cvti d a h sf t c => Sys2Proof.Machine.execCvti d a h sf t c s
  | .cvtn d a h sf t c => Sys2Proof.Machine.execCvtn d a h sf t c s
  | .qnt d a f c => Sys2Proof.Machine.execQnt d a f c s
  | .dqnt d a f c => Sys2Proof.Machine.execDqnt d a f c s
  | .pack2 d a f c => Sys2Proof.Machine.execPack2 d a f c s
  | .unpk d a f c => Sys2Proof.Machine.execUnpk d a f c s
  | .ldg d a sf w k c => Sys2Proof.Machine.execLdg d a sf w k c s
  | .stg d a sf w k c => Sys2Proof.Machine.execStg d a sf w k c s
  | .tch a sf w k c => Sys2Proof.Machine.execTch a sf w k c s
  | .atg d a sf o c => Sys2Proof.Machine.execAtg d a sf o c s
  | .atgc d a sf k c => Sys2Proof.Machine.execAtgc d a sf k c s
  | .mcs d a m k c => Sys2Proof.Machine.execMcs d a m k c s
  | .rds d a m k c => Sys2Proof.Machine.execRds d a m k c s
  | .rdsF d a m k c => Sys2Proof.Machine.execRdsF d a m k c s
  | .ldx d a l sf w o c => Sys2Proof.Machine.execLdx d a l sf w o c s
  | .stx d a l sf w o c => Sys2Proof.Machine.execStx d a l sf w o c s
  | .atx d a l p w q c => Sys2Proof.Machine.execAtx d a l p w q c s
  | .ldl d a w o c => Sys2Proof.Machine.execLdl d a w o c s
  | .stl d a w o c => Sys2Proof.Machine.execStl d a w o c s
  | .tmov n m c => Sys2Proof.Machine.execTmov n m c s
  | .tmovW n m c => Sys2Proof.Machine.execTmovW n m c s
  | .acq sf o c => Sys2Proof.Machine.execAcq sf o c s
  | .rel sf o c => Sys2Proof.Machine.execRel sf o c s
  | .arv sf n o c => Sys2Proof.Machine.execArv sf n o c s
  | .arvX sf n o c => Sys2Proof.Machine.execArvX sf n o c s
  | .waitp sf p o c => Sys2Proof.Machine.execWaitp sf p o c s
  | .waitpNf sf p o c => Sys2Proof.Machine.execWaitpNf sf p o c s
  | .soflg l d o c => Sys2Proof.Machine.execSoflg l d o c s
  | .soflgFlagC d o c => Sys2Proof.Machine.execSoflgFlagC d o c s
  | .rget sf d r c => Sys2Proof.Machine.execRget sf d r c s
  | .rgetT sf d r c => Sys2Proof.Machine.execRgetT sf d r c s
  | .rput sf n r c => Sys2Proof.Machine.execRput sf n r c s
  | .rclm sf d r c => Sys2Proof.Machine.execRclm sf d r c s
  | .rclmT sf d r c => Sys2Proof.Machine.execRclmT sf d r c s
  | .rpub sf n r c => Sys2Proof.Machine.execRpub sf n r c s
  | .cpy w a n c => Sys2Proof.Machine.execCpy w a n c s
  | .cpyb sf n m c => Sys2Proof.Machine.execCpyb sf n m c s
  | .cpyd sf n m c => Sys2Proof.Machine.execCpyd sf n m c s
  | .ctab n c => Sys2Proof.Machine.execCtab n c s
  | .intr r n m c => Sys2Proof.Machine.execIntr r n m c s
  | .annc r n m c => Sys2Proof.Machine.execAnnc r n m c s
  | .nret r n c => Sys2Proof.Machine.execNret r n c s
  | .nprb r n d c => Sys2Proof.Machine.execNprb r n d c s
  | .greq n d c => Sys2Proof.Machine.execGreq n d c s
  | .gdone c => Sys2Proof.Machine.execGdone c s
  | .gfail k c => Sys2Proof.Machine.execGfail k c s
  | .mbld sf n o c => Sys2Proof.Machine.execMbld sf n o c s
  | .mbldW sf n c => Sys2Proof.Machine.execMbldW sf n c s
  | .mmul sf n o c => Sys2Proof.Machine.execMmul sf n o c s
  | .mmulW sf n c => Sys2Proof.Machine.execMmulW sf n c s
  | .mhad sf n o c => Sys2Proof.Machine.execMhad sf n o c s
  | .mhadW sf n c => Sys2Proof.Machine.execMhadW sf n c s
  | .msca sf n o c => Sys2Proof.Machine.execMsca sf n o c s
  | .mscaW sf n c => Sys2Proof.Machine.execMscaW sf n c s
  | .mqnt sf n o c => Sys2Proof.Machine.execMqnt sf n o c s
  | .mqntW sf n c => Sys2Proof.Machine.execMqntW sf n c s
  | .mout n d c => Sys2Proof.Machine.execMout n d c s
  | .prim n c => Sys2Proof.Machine.execPrim n c s
  | .tld k d a c => Sys2Proof.Machine.execTld k d a c s
  | .tst k d a c => Sys2Proof.Machine.execTst k d a c s
  | .blnd k d a c => Sys2Proof.Machine.execBlnd k d a c s
  | .dpth k d a c => Sys2Proof.Machine.execDpth k d a c s
  | .dpthT k d a c => Sys2Proof.Machine.execDpthT k d a c s
  | .disc c => Sys2Proof.Machine.execDisc c s
  | .tret n c => Sys2Proof.Machine.execTret n c s
  | .ipol j d a h c => Sys2Proof.Machine.execIpol j d a h c s
  | .smpl t d a c => Sys2Proof.Machine.execSmpl t d a c s
  | .smplG t d a c => Sys2Proof.Machine.execSmplG t d a c s
  | .smpg t d a c => Sys2Proof.Machine.execSmpg t d a c s
  | .smpgG t d a c => Sys2Proof.Machine.execSmpgG t d a c s
  | .rayq sf d a c => Sys2Proof.Machine.execRayq sf d a c s
  | .rayqO sf d a c => Sys2Proof.Machine.execRayqO sf d a c s
  | .rayc d c => Sys2Proof.Machine.execRayc d c s
  | .raya d c => Sys2Proof.Machine.execRaya d c s
  | .hntImm p => Sys2Proof.Machine.execHntImm p s
  | .hntGap g => Sys2Proof.Machine.execHntGap g s
  | .hntPred o p => Sys2Proof.Machine.execHntPred o p s
  | .hntRnd m => Sys2Proof.Machine.execHntRnd m s
  | .hntScope sf => Sys2Proof.Machine.execHntScope sf s
  | .hntMod m => Sys2Proof.Machine.execHntMod m s
  | .hntRelax => Sys2Proof.Machine.execHntRelax s
  | .launchHeadRead ctx q => Sys2Proof.Machine.execLaunchHeadRead ctx q s
  | .predecessorTest lid => Sys2Proof.Machine.execPredecessorTest lid s
  | .geometryBatchTake lid => Sys2Proof.Machine.execGeometryBatchTake lid s
  | .bindRecordWrite die slot rec => Sys2Proof.Machine.execBindRecordWrite die slot rec s
  | .listStoreAlloc lid bases => Sys2Proof.Machine.execListStoreAlloc lid bases s
  | .indexTake core => Sys2Proof.Machine.execIndexTake core s
  | .persistentGridStart lid => Sys2Proof.Machine.execPersistentGridStart lid s
  | .launchCompletion lid => Sys2Proof.Machine.execLaunchCompletion lid s
  | .balancerEvaluate die => Sys2Proof.Machine.execBalancerEvaluate die s
  | .partitionControlWrite core v => Sys2Proof.Machine.execPartitionControlWrite core v s
  | .migrationRequest tid => Sys2Proof.Machine.execMigrationRequest tid s
  | .migrationWithdraw tid => Sys2Proof.Machine.execMigrationWithdraw tid s
  | .trapDisposition core g => Sys2Proof.Machine.execTrapDisposition core g s
  | .pageService token => Sys2Proof.Machine.execPageService token s
  | .teamSave tid => Sys2Proof.Machine.execTeamSave tid s
  | .teamRestore tid core => Sys2Proof.Machine.execTeamRestore tid core s
  | .deadlineExpiry ctx => Sys2Proof.Machine.execDeadlineExpiry ctx s
  | .pusherReschedule core g => Sys2Proof.Machine.execPusherReschedule core g s
  | .touchEntryExpiry core g => Sys2Proof.Machine.execTouchEntryExpiry core g s
  | .wcBufferTimeout core g => Sys2Proof.Machine.execWcBufferTimeout core g s
  | .sleepEnd core g => Sys2Proof.Machine.execSleepEnd core g s
  | .barrierWaveRelease core => Sys2Proof.Machine.execBarrierWaveRelease core s
  | .engineTake die op => Sys2Proof.Machine.execEngineTake die op s
  | .engineLineService token => Sys2Proof.Machine.execEngineLineService token s
  | .tableReady die ctx stream => Sys2Proof.Machine.execTableReady die ctx stream s
  | .streamStatusWrite die ctx stream => Sys2Proof.Machine.execStreamStatusWrite die ctx stream s
  | .operationCompletion die op => Sys2Proof.Machine.execOperationCompletion die op s
  | .byteContribution n => Sys2Proof.Machine.execByteContribution n s
  | .matrixOpComplete core => Sys2Proof.Machine.execMatrixOpComplete core s
  | .tileExport tid => Sys2Proof.Machine.execTileExport tid s
  | .tileSpill tid => Sys2Proof.Machine.execTileSpill tid s
  | .remoteTimeout n => Sys2Proof.Machine.execRemoteTimeout n s
  | .binnerAppend die lid => Sys2Proof.Machine.execBinnerAppend die lid s
  | .linkFailed lid src dst => Sys2Proof.Machine.execLinkFailed lid src dst s
  | .tileTaskAdmit lid tile core => Sys2Proof.Machine.execTileTaskAdmit lid tile core s
  | .fragmentCreate tid => Sys2Proof.Machine.execFragmentCreate tid s
  | .seqHang kind core g => Sys2Proof.Machine.execSeqHang kind core g s
  | .cswInstall core g => Sys2Proof.Machine.execCswInstall core g s
  | .onyxTranslate ctx pa mode => Sys2Proof.Machine.execOnyxTranslate ctx pa mode s
  | .interestForward die e => Sys2Proof.Machine.execInterestForward die e s
  | .tileArrival n => Sys2Proof.Machine.execTileArrival n s
  | .interestWriteDone die e => Sys2Proof.Machine.execInterestWriteDone die e s
  | .interestLifetimeEnd die e => Sys2Proof.Machine.execInterestLifetimeEnd die e s
  | .retirementApply n => Sys2Proof.Machine.execRetirementApply n s
  | .generatorStart ctx va core => Sys2Proof.Machine.execGeneratorStart ctx va core s
  | .procEviction ctx range => Sys2Proof.Machine.execProcEviction ctx range s
  | .invalidationComplete n => Sys2Proof.Machine.execInvalidationComplete n s
  | .latencyAccount n => Sys2Proof.Machine.execLatencyAccount n s
  | .sampleExpiry core => Sys2Proof.Machine.execSampleExpiry core s
  | .syncPacket die => Sys2Proof.Machine.execSyncPacket die s
  | .clockPatternWrite cluster v => Sys2Proof.Machine.execClockPatternWrite cluster v s
  | .currentSlopeWrite cluster v => Sys2Proof.Machine.execCurrentSlopeWrite cluster v s
  | .powerRegisterWrite die v => Sys2Proof.Machine.execPowerRegisterWrite die v s
  | .ntEntry core quad island => Sys2Proof.Machine.execNtEntry core quad island s
  | .ntExit core quad island => Sys2Proof.Machine.execNtExit core quad island s
  | .holdExpiry core quad => Sys2Proof.Machine.execHoldExpiry core quad s
  | .rampAdmit die => Sys2Proof.Machine.execRampAdmit die s
  | .rampDone core quad => Sys2Proof.Machine.execRampDone core quad s
  | .budgetLeaseEnd => Sys2Proof.Machine.execBudgetLeaseEnd s
  | .ageingReplan die mv mhz => Sys2Proof.Machine.execAgeingReplan die mv mhz s
  | .thermalThrottle cluster v => Sys2Proof.Machine.execThermalThrottle cluster v s
  | .thermalTrip => Sys2Proof.Machine.execThermalTrip s
  | .deviceReset image => Sys2Proof.Machine.execDeviceReset image s
  | .frameDiscard => Sys2Proof.Machine.execFrameDiscard s
  | .ptpMessage ns => Sys2Proof.Machine.execPtpMessage ns s
  | .linkLoss port => Sys2Proof.Machine.execLinkLoss port s
  | .linkRetrainDone port ns => Sys2Proof.Machine.execLinkRetrainDone port ns s
  | .cxlLinkDown hdie => Sys2Proof.Machine.execCxlLinkDown hdie s
  | .hello seq cred nonce => Sys2Proof.Machine.execHello seq cred nonce s
  | .featureRead sess seq => Sys2Proof.Machine.execFeatureRead sess seq s
  | .featureAccept sess seq ctx feats => Sys2Proof.Machine.execFeatureAccept sess seq ctx feats s
  | .claim sess seq => Sys2Proof.Machine.execClaim sess seq s
  | .handover sess seq to_ => Sys2Proof.Machine.execHandover sess seq to_ s
  | .lease sess seq => Sys2Proof.Machine.execLease sess seq s
  | .read sess seq space ctx addr len => Sys2Proof.Machine.execRead sess seq space ctx addr len s
  | .write sess seq space ctx addr data => Sys2Proof.Machine.execWrite sess seq space ctx addr data s
  | .submit sess seq ctx q blocks => Sys2Proof.Machine.execSubmit sess seq ctx q blocks s
  | .eventAck sess num => Sys2Proof.Machine.execEventAck sess num s
  | .eventResend num => Sys2Proof.Machine.execEventResend num s
  | .power sess seq payload => Sys2Proof.Machine.execPower sess seq payload s
  | .sessionTimeout sess => Sys2Proof.Machine.execSessionTimeout sess s
  | .ownerLeaseEnd => Sys2Proof.Machine.execOwnerLeaseEnd s
  | .credentialExpiry sess => Sys2Proof.Machine.execCredentialExpiry sess s
  | .create sess seq ctx feats => Sys2Proof.Machine.execCreate sess seq ctx feats s
  | .requestPreemption sess seq ctx => Sys2Proof.Machine.execRequestPreemption sess seq ctx s
  | .withdraw sess seq ctx => Sys2Proof.Machine.execWithdraw sess seq ctx s
  | .resume sess seq ctx => Sys2Proof.Machine.execResume sess seq ctx s
  | .thaw sess seq ctx => Sys2Proof.Machine.execThaw sess seq ctx s
  | .reset sess seq ctx => Sys2Proof.Machine.execReset sess seq ctx s
  | .clear sess seq ctx => Sys2Proof.Machine.execClear sess seq ctx s
  | .invalidate sess seq ctx va len => Sys2Proof.Machine.execInvalidate sess seq ctx va len s
  | .evictBlock sess seq ctx va => Sys2Proof.Machine.execEvictBlock sess seq ctx va s
  | .flushRegion sess seq ctx => Sys2Proof.Machine.execFlushRegion sess seq ctx s
  | .tearDown sess seq ctx => Sys2Proof.Machine.execTearDown sess seq ctx s
  | .retryFault sess seq ctx token => Sys2Proof.Machine.execRetryFault sess seq ctx token s
  | .declareUnresolvable sess seq ctx token => Sys2Proof.Machine.execDeclareUnresolvable sess seq ctx token s
  | .sessionThaw sess seq target => Sys2Proof.Machine.execSessionThaw sess seq target s
  | .trapControlWrite sess seq ctx off data => Sys2Proof.Machine.execTrapControlWrite sess seq ctx off data s
  | .translationBlockWrite sess seq ctx off data => Sys2Proof.Machine.execTranslationBlockWrite sess seq ctx off data s
  | .sampleBlockWrite sess seq ctx off data => Sys2Proof.Machine.execSampleBlockWrite sess seq ctx off data s
  | .traceControlWrite sess seq ctx off data => Sys2Proof.Machine.execTraceControlWrite sess seq ctx off data s
  | .nameControlWrite sess seq ctx off data => Sys2Proof.Machine.execNameControlWrite sess seq ctx off data s
  | .telemetryControlWrite sess seq ctx off data => Sys2Proof.Machine.execTelemetryControlWrite sess seq ctx off data s
  | .contextTablesWrite sess seq ctx off data => Sys2Proof.Machine.execContextTablesWrite sess seq ctx off data s
  | .errorLogControlWrite sess seq ctx off data => Sys2Proof.Machine.execErrorLogControlWrite sess seq ctx off data s
  | .samplingControlWrite sess seq core v => Sys2Proof.Machine.execSamplingControlWrite sess seq core v s
  | .tileStoreSizeWrite sess seq mib => Sys2Proof.Machine.execTileStoreSizeWrite sess seq mib s
  | .tileStoreSizeEffect => Sys2Proof.Machine.execTileStoreSizeEffect s
  | .packageIdWrite sess seq id => Sys2Proof.Machine.execPackageIdWrite sess seq id s
  | .packageIdEffect => Sys2Proof.Machine.execPackageIdEffect s
  | .powerFloorWrite sess seq watts => Sys2Proof.Machine.execPowerFloorWrite sess seq watts s
  | .firmwareImageWrite sess seq addr data => Sys2Proof.Machine.execFirmwareImageWrite sess seq addr data s
  | .firmwareVerify sess seq addr => Sys2Proof.Machine.execFirmwareVerify sess seq addr s
  | .reservedEncoding w => Sys2Proof.Machine.execReservedEncoding w s
  | .ptpLockLoss => Sys2Proof.Machine.execPtpLockLoss s
  | .hostPortLinkChange up ns => Sys2Proof.Machine.execHostPortLinkChange up ns s
  | .dieFrequencyChange die khz => Sys2Proof.Machine.execDieFrequencyChange die khz s
  | .macsecKeyAgreement key => Sys2Proof.Machine.execMacsecKeyAgreement key s

end Sys2Proof.Machine
end

