-- ==== Sys2Proof/Machine/Due.lean ====
section
/-!
DEFINITION. The steps that the device takes of itself: which are due in a state, and their meanings. What Agate does by
its own policy, what the host sends and what arrives at a port come from outside (`State.inbox`; log entries 3 and 18).
-/

namespace Sys2Proof.Machine

/-- A step of the device, named as its row, with what the row's meaning takes. -/
inductive Due where
  | launchHeadRead (ctx q : Nat)
  | predecessorTest (lid : Nat)
  | geometryBatchTake (lid : Nat)
  | listStoreAlloc (lid : Nat) (bases : List Nat)
  | indexTake (core : Nat)
  | persistentGridStart (lid : Nat)
  | launchCompletion (lid : Nat)
  | balancerEvaluate (die : Nat)
  | migrationWithdraw (tid : Nat)
  | trapDisposition (core g : Nat)
  | pageService (token : Nat)
  | engineLineService (token : Nat)
  | teamSave (tid : Nat)
  | deadlineExpiry (ctx : Nat)
  | pusherReschedule (core g : Nat)
  | touchEntryExpiry (core g : Nat)
  | wcBufferTimeout (core g : Nat)
  | sleepEnd (core g : Nat)
  | barrierWaveRelease (core : Nat)
  | engineTake (die op : Nat)
  | tableReady (die ctx stream : Nat)
  | streamStatusWrite (die ctx stream : Nat)
  | operationCompletion (die op : Nat)
  | byteContribution (n : Nat)
  | matrixOpComplete (core : Nat)
  | tileExport (tid : Nat)
  | tileSpill (tid : Nat)
  | remoteTimeout (n : Nat)
  | binnerAppend (die lid : Nat)
  | tileTaskAdmit (lid tile core : Nat)
  | fragmentCreate (tid : Nat)
  | cswInstall (core g : Nat)
  | onyxTranslate (ctx pa : Nat) (mode : Word)
  | interestForward (die e : Nat)
  | tileArrival (n : Nat)
  | interestWriteDone (die e : Nat)
  | interestLifetimeEnd (die e : Nat)
  | retirementApply (n : Nat)
  | generatorStart (ctx va core : Nat)
  | procEviction (ctx range : Nat)
  | invalidationComplete (n : Nat)
  | latencyAccount (n : Nat)
  | sampleExpiry (core : Nat)
  | syncPacket (die : Nat)
  | ntEntry (core quad island : Nat)
  | ntExit (core quad island : Nat)
  | holdExpiry (core quad : Nat)
  | rampAdmit (die : Nat)
  | rampDone (core quad : Nat)
  | budgetLeaseEnd
  | eventResend (num : Nat)
  | sessionTimeout (sess : Nat)
  | ownerLeaseEnd
  | credentialExpiry (sess : Nat)
  | tileStoreSizeEffect
  | packageIdEffect
  | ageingReplan (die mv mhz : Nat)
deriving DecidableEq, Repr

/-- The meaning of a step of the device: that of its row. -/
def Due.run (d : Due) (s : State) : Out :=
  match d with
  | .launchHeadRead x q => execLaunchHeadRead x q s
  | .predecessorTest l => execPredecessorTest l s
  | .geometryBatchTake l => execGeometryBatchTake l s
  | .listStoreAlloc l bs => execListStoreAlloc l bs s
  | .indexTake c => execIndexTake c s
  | .persistentGridStart l => execPersistentGridStart l s
  | .launchCompletion l => execLaunchCompletion l s
  | .balancerEvaluate d => execBalancerEvaluate d s
  | .migrationWithdraw t => execMigrationWithdraw t s
  | .trapDisposition c g => execTrapDisposition c g s
  | .pageService t => execPageService t s
  | .engineLineService t => execEngineLineService t s
  | .teamSave t => execTeamSave t s
  | .deadlineExpiry x => execDeadlineExpiry x s
  | .pusherReschedule c g => execPusherReschedule c g s
  | .touchEntryExpiry c g => execTouchEntryExpiry c g s
  | .wcBufferTimeout c g => execWcBufferTimeout c g s
  | .sleepEnd c g => execSleepEnd c g s
  | .barrierWaveRelease c => execBarrierWaveRelease c s
  | .engineTake d o => execEngineTake d o s
  | .tableReady d x k => execTableReady d x k s
  | .streamStatusWrite d x k => execStreamStatusWrite d x k s
  | .operationCompletion d o => execOperationCompletion d o s
  | .byteContribution n => execByteContribution n s
  | .matrixOpComplete c => execMatrixOpComplete c s
  | .tileExport t => execTileExport t s
  | .tileSpill t => execTileSpill t s
  | .remoteTimeout n => execRemoteTimeout n s
  | .binnerAppend d l => execBinnerAppend d l s
  | .tileTaskAdmit l t c => execTileTaskAdmit l t c s
  | .fragmentCreate t => execFragmentCreate t s
  | .cswInstall c g => execCswInstall c g s
  | .onyxTranslate x pa m => execOnyxTranslate x pa m s
  | .interestForward d e => execInterestForward d e s
  | .tileArrival n => execTileArrival n s
  | .interestWriteDone d e => execInterestWriteDone d e s
  | .interestLifetimeEnd d e => execInterestLifetimeEnd d e s
  | .retirementApply n => execRetirementApply n s
  | .generatorStart x va c => execGeneratorStart x va c s
  | .procEviction x r => execProcEviction x r s
  | .invalidationComplete n => execInvalidationComplete n s
  | .latencyAccount n => execLatencyAccount n s
  | .sampleExpiry c => execSampleExpiry c s
  | .syncPacket d => execSyncPacket d s
  | .ntEntry c q k => execNtEntry c q k s
  | .ntExit c q k => execNtExit c q k s
  | .holdExpiry c q => execHoldExpiry c q s
  | .rampAdmit d => execRampAdmit d s
  | .rampDone c q => execRampDone c q s
  | .budgetLeaseEnd => execBudgetLeaseEnd s
  | .eventResend n => execEventResend n s
  | .sessionTimeout k => execSessionTimeout k s
  | .ownerLeaseEnd => execOwnerLeaseEnd s
  | .credentialExpiry k => execCredentialExpiry k s
  | .tileStoreSizeEffect => execTileStoreSizeEffect s
  | .packageIdEffect => execPackageIdEffect s
  | .ageingReplan d mv mhz => execAgeingReplan d mv mhz s

/-! ## Steps at an instant that the spec fixes -/

/-- One thing when a test holds. -/
def only {α : Type} (b : Bool) (a : α) : List α := if b then [a] else []

/-- Every group of the package that satisfies a test, as a step. -/
def State.perGroup (s : State) (p : Nat → Nat → Group → Bool) (f : Nat → Nat → Due) : List Due :=
  s.allGroups.flatMap fun (c, g, G) => only (p c g G) (f c g)

/-- The dies of the package. -/
def allDies : List Nat := List.range 8

/-- The steps of parties that waited and may go on, whose instant has come: fibres whose fault has been settled or denied,
Descheduled pushers, launches whose predecessors have changed (R217, R220, R228). -/
def State.wakePrompts (s : State) : List Due :=
  (s.faults.flatMap fun e =>
    only (e.2.who.isFibres && (e.2.settled || e.2.denied) && e.2.due s) (.pageService e.1)) ++
  s.perGroup (fun _ _ G => (s.ctx G.ctx).st.issues && s.pusherDue G) .pusherReschedule ++
  (s.launches.flatMap fun e => only (s.predsDue e.2) (.predecessorTest e.1))

/-- The steps of dies and of the package whose instant has come: stall counts of decode streams, the in-rush arbiter, and
settings that take effect as soon as the package is quiet (R265, R299, R394, R431, R454). -/
def State.diePrompts (s : State) : List Due :=
  (s.dies.flatMap fun e =>
    (e.2.streamKeys.flatMap fun k => only (s.statusDue e.1 k) (.streamStatusWrite e.1 (k / 16) (k % 16))) ++
      only (s.rampHead e.1).isSome (.rampAdmit e.1)) ++
  only s.sizeDue .tileStoreSizeEffect ++ only s.idDue .packageIdEffect

/-- The steps whose instant has come; they come before every other step. -/
def State.prompts (s : State) : List Due :=
  only s.leaseDue .ownerLeaseEnd ++
  ((tkeys s.host.sessions).flatMap fun k =>
    only (s.credentialDue k) (.credentialExpiry k) ++ only (s.silent k) (.sessionTimeout k)) ++
  only (s.host.budgetOver s.ptp) .budgetLeaseEnd ++
  (s.host.events.flatMap fun e => only (s.resendDue e.num) (.eventResend e.num)) ++
  (allDies.flatMap fun d => only ((s.die d).balance ≤ s.now) (.balancerEvaluate d)) ++
  (s.teams.flatMap fun e =>
    only ((e.2.migrate.map fun t => decide (t ≤ s.ptp) && !s.savable e.1).getD false) (.migrationWithdraw e.1)) ++
  s.perGroup (fun c _ G => G.slept (s.pulses c)) .sleepEnd ++
  s.perGroup (fun c _ G => G.touches.any fun t => !t.live (s.pulses c)) .touchEntryExpiry ++
  s.perGroup (fun c _ G => G.held.any (·.due (s.coreCycle c))) .wcBufferTimeout ++
  (s.cores.flatMap fun e => only (e.2.groups.any fun g => s.waveDue e.1 g.2) (.barrierWaveRelease e.1)) ++
  (s.cores.flatMap fun e => (List.range 4).flatMap fun q =>
    only (s.rampEnds e.1 q) (.rampDone e.1 q) ++ (List.range 4).flatMap fun k =>
      only (s.ntEnds e.1 q k) (.ntExit e.1 q k) ++ only (s.ntDue e.1 q k) (.ntEntry e.1 q k)) ++
  (s.dies.flatMap fun d => d.2.interests.flatMap fun i =>
    only (i.2.st = .waiting && i.2.expires ≤ s.ptp) (.interestLifetimeEnd d.1 i.1)) ++
  (s.remotes.flatMap fun r => only (r.2.due ≤ s.now && !r.2.ended) (.remoteTimeout r.1)) ++
  s.wakePrompts ++ s.diePrompts

/-! ## What goes before the body of a cycle -/

/-- Forced resets (R260). -/
def State.expiries (s : State) : List Due := (tkeys s.ctxs).flatMap fun x => only (s.expired x) (.deadlineExpiry x)

/-- Traps that freeze their context and were left over by the cycle before (R261). -/
def State.trapsLeft (s : State) : List Due :=
  s.perGroup (fun _ _ G => !(s.ctx G.ctx).holdsTraps && G.undisposed.any freezing) .trapDisposition

/-! ## Steps that the device takes when it comes to them -/

/-- A launch that waits for its pass, and what follows its teams. -/
def State.launchSteps (s : State) (lid : Nat) (L : Launch) : List Due :=
  only (L.st == .evaluated && (s.ctx L.ctx).moves && (s.passFor L.ctx L.queue).isSome) (.geometryBatchTake lid) ++
  only (s.gridWhole lid L) (.persistentGridStart lid) ++ only (s.launchEnded lid L) (.launchCompletion lid)

/-- The lowest place of a size in a range that is apart from the places in use. -/
def lowestFit (lo hi size : Nat) (used : List (Nat × Nat)) : Option Nat :=
  (lo :: used.map fun u => u.1 + u.2).foldl (fun best b =>
    if lo ≤ b && b + size ≤ hi && used.all (fun u => u.1 + u.2 ≤ b || b + size ≤ u.1) then
      (match best with
       | some a => some (min a b)
       | none => some b)
    else best) none

/-- The lowest places of `n` list stores. -/
def fitStores (lo hi size : Nat) : Nat → List (Nat × Nat) → Option (List Nat)
  | 0, _ => some []
  | n + 1, used =>
    match lowestFit lo hi size used with
    | none => none
    | some b => (fitStores lo hi size n ((b, size) :: used)).map (b :: ·)

/-- The opening of a pass: its render state is looked at, and its list stores fit (R326, R333; log entry 3). -/
def State.storeSteps (s : State) (lid : Nat) (L : Launch) : List Due :=
  if !s.needsStores lid L then []
  else
    match s.servedRead (.pass lid) none L.ctx none L.block.rstate 320 with
    | (_, .ok bs) =>
      if L.block.rstate % 64 != 0 || (firstBad (renderChecks bs L.block ((s.ctx L.ctx).word 0x1F0))).isSome then
        [.listStoreAlloc lid []]
      else
        let rs := parseRender bs
        let lo := (s.ctx L.ctx).dword 0x1E0
        match fitStores lo (lo + (s.ctx L.ctx).word 0x1E8 * 2 ^ 20) rs.lsize
            ((List.range 8).filter (bit rs.binmask)).length (s.poolUsed L.ctx) with
        | some bs => [.listStoreAlloc lid bs]
        | none => []
    | _ => [.listStoreAlloc lid []]

/-- The tile tasks that Opal can admit, on any core (R320). -/
def State.taskSteps (s : State) (lid : Nat) (P : Pass) : List Due :=
  (List.range P.ntiles).flatMap fun t =>
    if (P.nextTask t).isSome then
      (s.boundCores lid).flatMap fun c => only (s.admitTask lid t c.1).isSome (.tileTaskAdmit lid t c.1)
    else []

/-- A generator can start on a core, or its start comes to another end (R401). -/
def State.canGenerate (s : State) (x core : Nat) (f : FillRec) : Bool :=
  match s.rangeDesc x f.range with
  | none => core == 0
  | some r =>
    match s.readGenerator x f r.gen with
    | (_, .wait) => core == 0
    | (_, .bad _ _ _) => core == 0
    | (t, .ok b) => (t.startFill x core f r b).isSome

/-- The steps on procedural ranges of a context. -/
def State.fillSteps (s : State) (x : Nat) : List Due :=
  let c := s.ctx x
  (c.fills.flatMap fun f =>
    match s.fillToStart x f.block with
    | none => []
    | some f => ((List.range 192).filter fun k => s.canGenerate x k f).map fun k => .generatorStart x f.block k) ++
  (((c.evictq.map (·.2.1)) ++ c.gdone.map (·.1)).eraseDups.flatMap fun r => only (!c.evicts r && !c.holdsTraps) (.procEviction x r))

/-- The translations of Onyx granules that batches wait for. -/
def State.onyxSteps (s : State) : List Due :=
  (s.allGroups.flatMap fun (_, _, G) => G.batches.flatMap fun B =>
    match B.wait with
    | some (.onyx pa m) => [Due.onyxTranslate G.ctx pa m]
    | _ => []).eraseDups

/-- The steps of the engines and routers of a die. -/
def State.dieSteps (s : State) (d : Nat) (D : Die) : List Due :=
  (match s.nextTake d with
   | some o => [.engineTake d o.id]
   | none => []) ++
  (D.ops.flatMap fun o => only (s.opDue d o) (.operationCompletion d o.id)) ++
  (D.streamKeys.flatMap fun k =>
    only (s.tableDue d k).isSome (.tableReady d (k / 16) (k % 16))) ++
  (D.interests.flatMap fun i =>
    only (s.forwardDue d i.1).isSome (.interestForward d i.1) ++ only (s.writeDue d i.1).isSome (.interestWriteDone d i.1))

/-- The steps of tiles, retirements, contributions, services, requests and invalidations. -/
def State.listSteps (s : State) : List Due :=
  (s.contribs.flatMap fun e => only (!s.pendingFault (.contribution e.1)) (.byteContribution e.1)) ++
  (s.faults.flatMap fun e =>
    only (e.2.due s) (if e.2.who.isFibres then .pageService e.1 else .engineLineService e.1)) ++
  (s.flights.flatMap fun f => only (s.arrivalDue f) (.tileArrival f.id)) ++
  (s.retires.flatMap fun r => only (s.retireDue r.id).isSome (.retirementApply r.id)) ++
  (s.invals.flatMap fun i => only (!s.holdsLine i) (.invalidationComplete i.id)) ++
  (s.lats.flatMap fun e => only (s.replyDue e.1).isSome (.latencyAccount e.1)) ++
  ((s.csws.map fun q => (q.core, q.g)).eraseDups.flatMap fun q => only (!s.pendingFault (.csw q.1 q.2)) (.cswInstall q.1 q.2))

/-- The steps of the passes. -/
def State.passSteps (s : State) : List Due :=
  (s.passes.flatMap fun e =>
    (match s.passOpen e.1 with
     | some P => allDies.flatMap fun d => only (P.nextRec d).isSome (.binnerAppend d e.1)
     | none => []) ++ s.taskSteps e.1 e.2) ++
  (s.teams.flatMap fun e =>
    if e.2.tile.isSome then
      only (s.rasterStep e.1).isSome (.fragmentCreate e.1) ++ only (s.tretDue e.1 true).isSome (.tileExport e.1) ++
        only (s.tretDue e.1 false).isSome (.tileSpill e.1)
    else [])

/-- The steps that are due, in no order that the spec gives. -/
def State.dues (s : State) : List Due :=
  s.perGroup (fun _ _ G => s.trapDue G) .trapDisposition ++
  s.perGroup (fun _ _ G => (s.ctx G.ctx).st.issues && s.pusherReady G) .pusherReschedule ++
  s.listSteps ++
  (s.cores.flatMap fun e => only (e.2.matrixDue (s.coreCycle e.1)) (.matrixOpComplete e.1)) ++
  (s.dies.flatMap fun e => s.dieSteps e.1 e.2) ++
  (s.teams.flatMap fun e =>
    only (s.savable e.1 && !s.pendingFault (.save e.1) && !(s.ctx e.2.ctx).doomed && (tget? s.launches e.2.lid).isSome)
      (.teamSave e.1)) ++
  (s.launches.flatMap fun e => s.launchSteps e.1 e.2 ++ s.storeSteps e.1 e.2) ++
  (if s.launches.any (fun e => s.takeable e.2) then
    (List.range 192).flatMap fun c => only (s.chooseTake c).isSome (.indexTake c)
   else []) ++
  s.passSteps ++
  (s.ctxs.flatMap fun e => s.fillSteps e.1 ++
    (List.range 16).flatMap fun q => only (s.headQueue e.1 q).isSome (.launchHeadRead e.1 q)) ++
  s.onyxSteps

/-! ## Steps at the end of a cycle -/

/-- The islands of a die let one more quadrant go Off. -/
def State.offRoom (s : State) (d : Nat) : Bool := s.downQuads d * 4 + 4 ≤ 8

/-- What is taken after the last issue of a cycle and before the next: samples, sync packets, re-plans, and Holds that
end. -/
def State.lates (s : State) : List Due :=
  (allDies.flatMap fun d => only (s.replanDue d) (.ageingReplan d (s.agedPlan d).1 (s.agedPlan d).2)) ++
  (s.cores.flatMap fun e => only (s.expiryDue e.1) (.sampleExpiry e.1)) ++
  (s.dies.flatMap fun e => only (s.syncDue e.1) (.syncPacket e.1)) ++
  (if s.now < usCycles 2 then []
   else (allDies.filter s.offRoom).flatMap fun d => (List.range 24).flatMap fun k => (List.range 4).flatMap fun q =>
     only (s.holdDue (24 * d + k) q) (.holdExpiry (24 * d + k) q))

end Sys2Proof.Machine
end

