-- ==== Sys2Proof/Machine/Forms.lean ====
section
/-!
DEFINITION. The form of every encoded instruction but the hint words: its operands (R19), its latency (R17), the hints
 that apply to it (R23), its feature bit (R44) and whether it needs handler mode (R43).
-/

namespace Sys2Proof.Machine

/-- The form of an instruction; none for the hint words and for the rows that are steps of the device. -/
def formOf (i : Instr) (s : State) : Option Form :=
  match i with
  -- System instructions
  | .ill x => some { ins := i, c := x.setWidth 3 }
  | .nop c => some { ins := i, c := c }
  | .trap _ c => some { ins := i, c := c }
  | .eret c => some { ins := i, c := c, priv := true }
  | .mfs d sf w c =>
    some { ins := i, c := c, ops := [osn (w.toNat + 1) d], lat := some 4, pred := false, priv := srPrivRead sf.toNat }
  | .mfsV d sf w c =>
    some { ins := i, c := c, ops := [ovn (w.toNat + 1) d], lat := some 4, pred := false, priv := srPrivRead sf.toNat }
  | .mfsB d _ c => some { ins := i, c := c, ops := [osn 8 d], lat := some 4, pred := false }
  | .mts d sf w c =>
    some { ins := i, c := c, ops := [osn (w.toNat + 1) d], pred := false, priv := srPrivWrite sf.toNat }
  | .mtsV d sf w c =>
    some { ins := i, c := c, ops := [ovn (w.toNat + 1) d], pred := false, priv := srPrivWrite sf.toNat }
  | .mtsB d _ c => some { ins := i, c := c, ops := [osn 8 d], pred := false }
  | .feat d _ _ c => some { ins := i, c := c, ops := [os d], pred := false }
  | .clk d c => some { ins := i, c := c, ops := [osn 2 d], lat := some 4, pred := false }
  | .fence _ c => some { ins := i, c := c, scope := true }
  | .fenceAx _ c => some { ins := i, c := c, scope := true }
  | .sleep n c => some { ins := i, c := c, ops := [os n] }
  | .sleepLv n c => some { ins := i, c := c, ops := [os n] }
  | .bkpt _ c => some { ins := i, c := c }
  | .mark n _ c => some { ins := i, c := c, ops := [os n] }
  | .rege _ c => some { ins := i, c := c }
  | .regl c => some { ins := i, c := c }
  | .csw n d c => some { ins := i, c := c, ops := [os d, osn 4 n], pred := false, priv := true }
  -- Branches and calls
  | .bra _ c => some { ins := i, c := c }
  | .brp p _ c => some { ins := i, c := c, ops := [op p] }
  | .brn p _ c => some { ins := i, c := c, ops := [op p] }
  | .brpAny p _ c => some { ins := i, c := c, ops := [op p], peers := peerP p.toNat }
  | .brpAll p _ c => some { ins := i, c := c, ops := [op p], peers := peerP p.toNat }
  | .call r _ c => some { ins := i, c := c, ops := [pairOp r] }
  | .calli r t c => some { ins := i, c := c, ops := [pairOp r, pairOp t] }
  | .ret p c => some { ins := i, c := c, ops := [pairOp p] }
  | .jmpi t c => some { ins := i, c := c, ops := [pairOp t] }
  | .brx im _ c => some { ins := i, c := c, ops := [ov im] }
  -- Fibres and groups
  | .fork d n c => some { ins := i, c := c, ops := [ov d, osn 2 n, .v 0 8 1] }
  | .fend c => some { ins := i, c := c }
  | .rcv c => some { ins := i, c := c, pred := false }
  | .spawn a n c => some { ins := i, c := c, ops := [ovn 8 a, osn 2 n, .s 0 63 1] }
  | .spawnT k a n c => some { ins := i, c := c, ops := [op k, ovn 8 a, osn 2 n, .s 0 63 1] }
  | .yield c => some { ins := i, c := c }
  -- Lane exchange and votes
  | .shfl d a b c =>
    some { ins := i, c := c, ops := [ov d, ov a, ov b], lat := some 6, peers := peerV (fun G l => (G.v l b.toNat).toNat % 32) a.toNat }
  | .elect k c => some { ins := i, c := c, ops := [op k], lat := some 6 }
  | .voteAny k j c => some { ins := i, c := c, ops := [op k, op j], lat := some 6, peers := peerP j.toNat }
  | .voteAll k j c => some { ins := i, c := c, ops := [op k, op j], lat := some 6, peers := peerP j.toNat }
  | .voteBallot d j c => some { ins := i, c := c, ops := [ov d, op j], lat := some 6, peers := peerP j.toNat }
  | .shflX d a m c => some { ins := i, c := c, ops := [ov d, ov a], lat := some 6, peers := peerV (fun _ l => l ^^^ m.toNat) a.toNat }
  -- Queues
  | .qpop k d q c => some { ins := i, c := c, ops := [op k, ovn 8 d, os q, .p (k.toNat + 8)] }
  | .qpopT k d q c => some { ins := i, c := c, ops := [op k, ovn 8 d, os q, .p (k.toNat + 8)] }
  | .qpush a qr c => some { ins := i, c := c, ops := [ovn 8 a, os qr] }
  | .qstatDepth d q c => some { ins := i, c := c, ops := [os d, os q] }
  | .qstatFree d q c => some { ins := i, c := c, ops := [os d, os q] }
  | .qstatFlags d q c => some { ins := i, c := c, ops := [os d, os q] }
  -- Barriers
  | .bar _ n _ c => some { ins := i, c := c, ops := [os n], pred := false }
  | .barv _ n _ c => some { ins := i, c := c, ops := [os n], pred := false }
  | .barw _ _ c => some { ins := i, c := c, pred := false }
  -- Predicates
  | .pand k _ im _ j c => some { ins := i, c := c, ops := [op k, op im, op j], lat := some 2 }
  | .por k _ im _ j c => some { ins := i, c := c, ops := [op k, op im, op j], lat := some 2 }
  | .pxor k _ im _ j c => some { ins := i, c := c, ops := [op k, op im, op j], lat := some 2 }
  | .pnot k _ im c => some { ins := i, c := c, ops := [op k, op im], lat := some 2 }
  | .pset k a c => some { ins := i, c := c, ops := [op k, ov a], lat := some 2 }
  -- Scalar integer instructions
  | .sadd d a b c => some { ins := i, c := c, ops := [os d, os a, os b], lat := some 4, pred := false }
  | .ssub d a b c => some { ins := i, c := c, ops := [os d, os a, os b], lat := some 4, pred := false }
  | .smul d a b c => some { ins := i, c := c, ops := [os d, os a, os b], lat := some 4, pred := false }
  | .smulh d a b _ c => some { ins := i, c := c, ops := [os d, os a, os b], lat := some 4, pred := false }
  | .sand d a b c => some { ins := i, c := c, ops := [os d, os a, os b], lat := some 4, pred := false }
  | .sor d a b c => some { ins := i, c := c, ops := [os d, os a, os b], lat := some 4, pred := false }
  | .sxor d a b c => some { ins := i, c := c, ops := [os d, os a, os b], lat := some 4, pred := false }
  | .sshl d a b c => some { ins := i, c := c, ops := [os d, os a, os b], lat := some 4, pred := false }
  | .sshr d a b c => some { ins := i, c := c, ops := [os d, os a, os b], lat := some 4, pred := false }
  | .ssra d a b c => some { ins := i, c := c, ops := [os d, os a, os b], lat := some 4, pred := false }
  | .smin d a b _ c => some { ins := i, c := c, ops := [os d, os a, os b], lat := some 4, pred := false }
  | .smax d a b _ c => some { ins := i, c := c, ops := [os d, os a, os b], lat := some 4, pred := false }
  | .scmp d a b _ c => some { ins := i, c := c, ops := [os d, os a, os b], lat := some 4, pred := false }
  | .ssel d a b c => some { ins := i, c := c, ops := [os d, os a, os b], lat := some 4, pred := false }
  | .smov d a c => some { ins := i, c := c, ops := [os d, os a], lat := some 4, pred := false }
  | .slea d a b _ c => some { ins := i, c := c, ops := [os d, os a, os b], lat := some 4, pred := false }
  | .saddi d a im c =>
    some { ins := i, c := c, ops := [os d, os a], lat := some 4, pred := false, imm := im.toNat < 512 }
  | .sxori d a im c =>
    some { ins := i, c := c, ops := [os d, os a], lat := some 4, pred := false, imm := im.toNat < 512 }
  -- Vector integer instructions
  | .vadd d a b c => some { ins := i, c := c, ops := [ov d, ov a, ov b], lat := some 4, mods := some 0x40 }
  | .vsub d a b c => some { ins := i, c := c, ops := [ov d, ov a, ov b], lat := some 4, mods := some 0x40 }
  | .vmul d a b c => some { ins := i, c := c, ops := [ov d, ov a, ov b], lat := some 4 }
  | .vmad d a b c => some { ins := i, c := c, ops := [ov d, ov a, ov b], lat := some 4, mods := some 0x40 }
  | .vmulhS d a b c => some { ins := i, c := c, ops := [ov d, ov a, ov b], lat := some 4 }
  | .vmulhU d a b c => some { ins := i, c := c, ops := [ov d, ov a, ov b], lat := some 4 }
  | .vaddc d a b c => some { ins := i, c := c, ops := [ov d, ov a, ov b, .p 30], lat := some 4 }
  | .vabs d a c => some { ins := i, c := c, ops := [ov d, ov a], lat := some 4 }
  | .vclz d a c => some { ins := i, c := c, ops := [ov d, ov a], lat := some 4 }
  | .vpopc d a c => some { ins := i, c := c, ops := [ov d, ov a], lat := some 4 }
  | .vbrev d a c => some { ins := i, c := c, ops := [ov d, ov a], lat := some 4 }
  | .vmov d a c => some { ins := i, c := c, ops := [ov d, ov a], lat := some 4 }
  | .vmovs d sf c => some { ins := i, c := c, ops := [ov d, os sf], lat := some 4 }
  | .vand d a b c => some { ins := i, c := c, ops := [ov d, ov a, ov b], lat := some 4 }
  | .vor d a b c => some { ins := i, c := c, ops := [ov d, ov a, ov b], lat := some 4 }
  | .vxor d a b c => some { ins := i, c := c, ops := [ov d, ov a, ov b], lat := some 4 }
  | .vbfe d a b c => some { ins := i, c := c, ops := [ov d, ov a, ov b], lat := some 4 }
  | .vshl d a b c => some { ins := i, c := c, ops := [ov d, ov a, ov b], lat := some 4 }
  | .vshr d a b c => some { ins := i, c := c, ops := [ov d, ov a, ov b], lat := some 4 }
  | .vsra d a b c => some { ins := i, c := c, ops := [ov d, ov a, ov b], lat := some 4 }
  | .vbfi d a b c => some { ins := i, c := c, ops := [ov d, ov a, ov b], lat := some 4 }
  | .vminS d a b c => some { ins := i, c := c, ops := [ov d, ov a, ov b], lat := some 4 }
  | .vminU d a b c => some { ins := i, c := c, ops := [ov d, ov a, ov b], lat := some 4 }
  | .vmaxS d a b c => some { ins := i, c := c, ops := [ov d, ov a, ov b], lat := some 4 }
  | .vmaxU d a b c => some { ins := i, c := c, ops := [ov d, ov a, ov b], lat := some 4 }
  | .vdivS d a b c => some { ins := i, c := c, ops := [ov d, ov a, ov b], lat := some 12 }
  | .vdivU d a b c => some { ins := i, c := c, ops := [ov d, ov a, ov b], lat := some 12 }
  | .vremS d a b c => some { ins := i, c := c, ops := [ov d, ov a, ov b], lat := some 12 }
  | .vremU d a b c => some { ins := i, c := c, ops := [ov d, ov a, ov b], lat := some 12 }
  | .vcmp _ _ k a b c => some { ins := i, c := c, ops := [op k, ov a, ov b], lat := some 4 }
  | .vsel d a b c => some { ins := i, c := c, ops := [ov d, ov a, ov b], lat := some 4 }
  | .vaddi d a _ c => some { ins := i, c := c, ops := [ov d, ov a], lat := some 4, imm := true }
  | .vshli d a _ c => some { ins := i, c := c, ops := [ov d, ov a], lat := some 4 }
  | .vshri d a _ c => some { ins := i, c := c, ops := [ov d, ov a], lat := some 4 }
  | .vsrai d a _ c => some { ins := i, c := c, ops := [ov d, ov a], lat := some 4 }
  -- Floating point
  | .fadd d a b c => some { ins := i, c := c, ops := [ov d, ov a, ov b], lat := some 4, rnd := true, mods := some 0x7F }
  | .fsub d a b c => some { ins := i, c := c, ops := [ov d, ov a, ov b], lat := some 4, rnd := true, mods := some 0x7F }
  | .fmul d a b c => some { ins := i, c := c, ops := [ov d, ov a, ov b], lat := some 4, rnd := true, mods := some 0x7F }
  | .ffma d a b c => some { ins := i, c := c, ops := [ov d, ov a, ov b], lat := some 4, rnd := true, mods := some 0x7F }
  | .ffms d a b c => some { ins := i, c := c, ops := [ov d, ov a, ov b], lat := some 4, rnd := true, mods := some 0x7F }
  | .fmin d a b c => some { ins := i, c := c, ops := [ov d, ov a, ov b], lat := some 4, rnd := true, mods := some 0x7F }
  | .fmax d a b c => some { ins := i, c := c, ops := [ov d, ov a, ov b], lat := some 4, rnd := true, mods := some 0x7F }
  | .fldexp d a b c =>
    some { ins := i, c := c, ops := [ov d, ov a, ov b], lat := some 4, rnd := true, mods := some 0x73 }
  | .frnd d a _ c => some { ins := i, c := c, ops := [ov d, ov a], lat := some 4, rnd := true, mods := some 0x73 }
  | .ffrac d a c => some { ins := i, c := c, ops := [ov d, ov a], lat := some 4, rnd := true, mods := some 0x73 }
  | .fclass d a c => some { ins := i, c := c, ops := [ov d, ov a], lat := some 4, rnd := true, mods := some 0x03 }
  | .fexpo d a c => some { ins := i, c := c, ops := [ov d, ov a], lat := some 4, rnd := true, mods := some 0x03 }
  | .hadd2 d a b c =>
    some { ins := i, c := c, ops := [ov d, ov a, ov b], lat := some 4, rnd := true, mods := some 0x7F }
  | .hmul2 d a b c =>
    some { ins := i, c := c, ops := [ov d, ov a, ov b], lat := some 4, rnd := true, mods := some 0x7F }
  | .hfma2 d a b c =>
    some { ins := i, c := c, ops := [ov d, ov a, ov b], lat := some 4, rnd := true, mods := some 0x7F }
  | .bfma2 d a b c =>
    some { ins := i, c := c, ops := [ov d, ov a, ov b], lat := some 4, rnd := true, mods := some 0x7F }
  | .fcmp _ _ k a b c => some { ins := i, c := c, ops := [op k, ov a, ov b], lat := some 4, mods := some 0x0F }
  | .dadd d a b c =>
    some { ins := i, c := c, ops := [ovn 2 d, ovn 2 a, ovn 2 b], lat := some 16, rnd := true, mods := some 0x7F,
           feat := 1 }
  | .dmul d a b c =>
    some { ins := i, c := c, ops := [ovn 2 d, ovn 2 a, ovn 2 b], lat := some 16, rnd := true, mods := some 0x7F,
           feat := 1 }
  | .dfma d a b c =>
    some { ins := i, c := c, ops := [ovn 2 d, ovn 2 a, ovn 2 b], lat := some 16, rnd := true, mods := some 0x7F,
           feat := 1 }
  | .dcmp _ _ k a b c =>
    some { ins := i, c := c, ops := [op k, ovn 2 a, ovn 2 b], lat := some 16, mods := some 0x0F, feat := 1 }
  | .fdiv d a b c => some { ins := i, c := c, ops := [ov d, ov a, ov b], lat := some 12, rnd := true }
  | .frcp d a c => some { ins := i, c := c, ops := [ov d, ov a], lat := some 12, rnd := true }
  | .frsq d a c => some { ins := i, c := c, ops := [ov d, ov a], lat := some 12, rnd := true }
  | .fsqrt d a c => some { ins := i, c := c, ops := [ov d, ov a], lat := some 12, rnd := true }
  | .fexp2 d a c => some { ins := i, c := c, ops := [ov d, ov a], lat := some 12, rnd := true }
  | .flog2 d a c => some { ins := i, c := c, ops := [ov d, ov a], lat := some 12, rnd := true }
  | .fsin d a c => some { ins := i, c := c, ops := [ov d, ov a], lat := some 12, rnd := true }
  | .fcos d a c => some { ins := i, c := c, ops := [ov d, ov a], lat := some 12, rnd := true }
  -- Conversions
  | .cvtf d a _ sf t c =>
    some { ins := i, c := c, ops := [cvtOp d (floatWidth t.toNat), cvtOp a (intWidth sf.toNat)], lat := some 6,
           rnd := true, feat := wideFeature (intWidth sf.toNat == 64 || t == 3) }
  | .cvti d a _ sf t c =>
    some { ins := i, c := c, ops := [cvtOp d (intWidth t.toNat), cvtOp a (floatWidth sf.toNat)], lat := some 6,
           rnd := true, feat := wideFeature (intWidth t.toNat == 64 || sf == 3) }
  | .cvtn d a _ sf t c =>
    some { ins := i, c := c, ops := [cvtOp d (floatWidth t.toNat), cvtOp a (floatWidth sf.toNat)], lat := some 6,
           rnd := true, feat := wideFeature (sf == 3 || t == 3) }
  | .qnt d a f c =>
    some { ins := i, c := c, ops := [blockOp d f.toNat, blockOp a f.toNat], lat := some 6, rnd := true
           peers := peerBlock (blockLanes f.toNat) a.toNat (blockRegs f.toNat) }
  | .dqnt d a f c =>
    some { ins := i, c := c, ops := [blockOp d f.toNat, blockOp a f.toNat], lat := some 6, rnd := true }
  | .pack2 d a _ c => some { ins := i, c := c, ops := [ov d, ovn 2 a], lat := some 6, rnd := true }
  | .unpk d a _ c => some { ins := i, c := c, ops := [ovn 2 d, ov a], lat := some 6, rnd := true }
  -- Global memory
  | .ldg d a _ w _ c => some { ins := i, c := c, ops := [ovn (2 ^ w.toNat) d, ov a], scope := true, relax := true }
  | .stg d a _ w _ c => some { ins := i, c := c, ops := [ovn (2 ^ w.toNat) d, ov a], scope := true, relax := true }
  | .tch a _ _ _ c => some { ins := i, c := c, ops := [ov a], scope := true }
  | .atg d a sf _ c =>
    some { ins := i, c := c, ops := [.v d.toNat ((s.issuerRec sf.toNat).atomWidth / 4) 1, ov a], scope := true,
           relax := true }
  | .atgc d a sf _ c =>
    some { ins := i, c := c, ops := [.v d.toNat ((s.issuerRec sf.toNat).atomWidth / 2) 1, ov a], scope := true }
  | .mcs d a m _ c => some (multiForm i d a m (s.multiWidth m) c)
  | .rds d a m _ c => some (multiForm i d a m (s.multiWidth m) c)
  | .rdsF d a m _ c => some (multiForm i d a m (s.multiWidth m) c)
  -- Scratchpads
  | .ldx d a _ _ w _ c => some { ins := i, c := c, ops := [ovn (xRegs w) d, ov a], scope := true, relax := true }
  | .stx d a _ _ w _ c => some { ins := i, c := c, ops := [ovn (xRegs w) d, ov a], scope := true, relax := true }
  | .atx d a _ _ w _ c =>
    some { ins := i, c := c, ops := [ovn ((4 + 4 * w.toNat) / 4) d, ov a], scope := true, relax := true }
  | .ldl d a w _ c => some { ins := i, c := c, ops := [ovn (xRegs w) d, ov a], scope := true }
  | .stl d a w _ c => some { ins := i, c := c, ops := [ovn (xRegs w) d, ov a], scope := true }
  -- Copies and decoding
  | .tmov n m c => some { ins := i, c := c, ops := [osn 4 n, osn 2 m], scope := true }
  | .tmovW n m c => some { ins := i, c := c, ops := [osn 4 n, osn 2 m], scope := true }
  | .cpy _ a n c => some { ins := i, c := c, ops := [ovn 2 a, osn 2 n], scope := true }
  | .cpyb _ n m c => some { ins := i, c := c, ops := [osn 4 n, osn 2 m], scope := true }
  | .cpyd _ n m c => some { ins := i, c := c, ops := [osn 4 n, osn 2 m], scope := true, feat := 5 }
  | .ctab n c => some { ins := i, c := c, ops := [osn 2 n], scope := true, feat := 5 }
  -- Sync objects and rings
  | .acq _ o c => some { ins := i, c := c, ops := [os o], scope := true }
  | .rel _ o c => some { ins := i, c := c, ops := [os o], scope := true }
  | .arv _ n o c => some { ins := i, c := c, ops := [os n, os o], scope := true }
  | .arvX _ n o c => some { ins := i, c := c, ops := [os n, os o], scope := true }
  | .waitp _ p o c => some { ins := i, c := c, ops := [os p, os o], scope := true }
  | .waitpNf _ p o c => some { ins := i, c := c, ops := [os p, os o], scope := true }
  | .soflg _ d o c => some { ins := i, c := c, ops := [os d, os o], scope := true }
  | .soflgFlagC d o c => some { ins := i, c := c, ops := [os d, os o], scope := true }
  | .rget _ d r c => some { ins := i, c := c, ops := [os d, os r], scope := true }
  | .rgetT _ d r c => some { ins := i, c := c, ops := [os d, os r], scope := true }
  | .rput _ n r c => some { ins := i, c := c, ops := [os n, os r], scope := true }
  | .rclm _ d r c => some { ins := i, c := c, ops := [os d, os r], scope := true }
  | .rclmT _ d r c => some { ins := i, c := c, ops := [os d, os r], scope := true }
  | .rpub _ n r c => some { ins := i, c := c, ops := [os n, os r], scope := true }
  -- Names
  | .intr _ n m c => some { ins := i, c := c, ops := [osn 2 n, osn 4 m], scope := true, feat := 3 }
  | .annc _ n m c => some { ins := i, c := c, ops := [osn 2 n, osn 4 m], scope := true, feat := 3 }
  | .nret _ n c => some { ins := i, c := c, ops := [osn 2 n], scope := true, feat := 3 }
  | .nprb _ n d c => some { ins := i, c := c, ops := [os d, osn 2 n], scope := true, feat := 3 }
  -- Generators
  | .greq n d c => some { ins := i, c := c, ops := [os d, osn 2 n], scope := true, feat := 4 }
  | .gdone c => some { ins := i, c := c, scope := true, feat := 4 }
  | .gfail k c => some { ins := i, c := c, ops := [os k], scope := true, feat := 4 }
  -- The matrix unit
  | .mbld sf n o c => some (matrixForm (.mbld sf n o c) 0 n (some o) c)
  | .mbldW sf n c => some (matrixForm (.mbldW sf n c) 0 n none c)
  | .mmul sf n o c => some (matrixForm (.mmul sf n o c) 1 n (some o) c)
  | .mmulW sf n c => some (matrixForm (.mmulW sf n c) 1 n none c)
  | .mhad sf n o c => some (matrixForm (.mhad sf n o c) 2 n (some o) c)
  | .mhadW sf n c => some (matrixForm (.mhadW sf n c) 2 n none c)
  | .msca sf n o c => some (matrixForm (.msca sf n o c) 3 n (some o) c)
  | .mscaW sf n c => some (matrixForm (.mscaW sf n c) 3 n none c)
  | .mqnt sf n o c => some (matrixForm (.mqnt sf n o c) 4 n (some o) c)
  | .mqntW sf n c => some (matrixForm (.mqntW sf n c) 4 n none c)
  -- Meshlets and primitives
  | .mout n d c => some { ins := i, c := c, ops := [os d, osn 4 n], feat := 7 }
  | .prim n c => some { ins := i, c := c, ops := [osn 4 n], feat := 7 }
  -- Opal tiles
  | .tld k d a c => some (tileForm (.tld k d a c) d a (s.tileRegs k) c)
  | .tst k d a c => some (tileForm (.tst k d a c) d a (s.tileRegs k) c)
  | .blnd _ d a c => some { ins := i, c := c, ops := [ovn 4 d, ov a], feat := 7 }
  | .dpth k d a c => some { ins := i, c := c, ops := [op k, ov d, ov a], feat := 7 }
  | .dpthT k d a c => some { ins := i, c := c, ops := [op k, ov d, ov a], feat := 7 }
  | .disc c => some { ins := i, c := c, feat := 7 }
  | .tret n c => some { ins := i, c := c, ops := [osn 2 n], feat := 7 }
  -- Sampling
  | .ipol _ d a _ c => some { ins := i, c := c, ops := [ov d, ovn 2 a], feat := 8 }
  | .smpl t d a c => some (sampleForm (.smpl t d a c) false t d a c)
  | .smplG t d a c => some (sampleForm (.smplG t d a c) true t d a c)
  | .smpg t d a c => some (sampleForm (.smpg t d a c) false t d a c)
  | .smpgG t d a c => some (sampleForm (.smpgG t d a c) true t d a c)
  -- Rays
  | .rayq sf d a c => some { ins := i, c := c, ops := [ovn 4 d, ovn 8 a, os sf], feat := 9 }
  | .rayqO sf d a c => some { ins := i, c := c, ops := [ovn 4 d, ovn 8 a, os sf], feat := 9 }
  | .rayc d c => some { ins := i, c := c, ops := [ovn 4 d], feat := 9 }
  | .raya d c => some { ins := i, c := c, ops := [ovn 4 d], feat := 9 }
  | _ => none

end Sys2Proof.Machine
end

