-- ==== Sys2Proof/Machine/Cycle.lean ====
section
/-!
DEFINITION. What `step` does: the candidates among which it chooses, the issue of a quadrant, another try of a batch that
waits, and the end of a cycle.

A cycle is a sequence of steps: what comes from outside, the issues of the quadrants, tries of waiting batches and the steps
of the device, in an order that `State.sched` chooses where the spec gives none; then its close, with the steps that belong
to the end of a cycle; and then the next cycle (log entries 3 and 75).
-/

namespace Sys2Proof.Machine

/-! ## Issue -/

/-- A batch that waited for its line of code waits no more. -/
def Batch.fetched (B : Batch) : Batch :=
  match B.wait with
  | some (.code _) => { B with wait := none }
  | _ => B

/-- The batch waited for its line of code. -/
def Batch.awaited (B : Batch) : Bool :=
  match B.wait with
  | some (.code _) => true
  | _ => false

/-- A group whose batch has fetched; a sample shows the first word of a hint run, or the word fetched (R411, R412). -/
def Group.noteFetch (G : Group) (b : Nat) (f : Fetched) : Group :=
  { G with batches := G.batches.modify b Batch.fetched
           shownWord := match ((G.batches[b]?).map (·.hints)).getD [], f with
             | h :: _, _ => some h.word
             | [], .word w => some (word w)
             | [], _ => none }

/-- The batch that `State.cur` names fetches: what it finds, with its context and its PC. -/
def State.fetchCur (s : State) : Option (Nat × Nat × State × Fetched) :=
  match s.group? s.cur.core s.cur.g with
  | none => none
  | some G =>
    match G.batches[s.cur.b]? with
    | none => none
    | some B =>
      if B.lanes == 0 then none
      else
        let pc := G.batchPc B
        let r := s.fetch s.cur.core G.ctx pc B.awaited
        some (G.ctx, pc, r.1.modGroup s.cur.core s.cur.g fun H => H.noteFetch s.cur.b r.2, r.2)

/-- A fetched word: the translation of an Onyx word, an instruction, or a word that no instruction has (R32, R358). -/
def State.runWord (s : State) (x pc w : Nat) : Out :=
  match (s.ctx x).onyxAt pc with
  | some (t, k) => onyxWord t k s
  | none =>
    match decodeWord w with
    | .instr i => exec i s
    | .reject _ => execReservedEncoding (BitVec.ofNat 32 w) s

/-- What follows a fetch. -/
def State.runFetched (s : State) (x pc : Nat) : Fetched → Out
  | .trap t => s.fetchTrap t
  | .onyx pa r => onyxEntry pa r s
  | .word w => s.runWord x pc w
  | .miss n => .next (s.park (.code (s.coreCycle s.cur.core + n)))
  | .far line => .next (s.fetchFar line)

/-- The batch that `State.cur` names fetches and runs. -/
def State.issueCur (s : State) : Out :=
  match s.fetchCur with
  | none => .next s
  | some (x, pc, u, f) => u.runFetched x pc f

/-- What is fetched lets the batch wait instead of issuing. -/
def Fetched.mayWait : Fetched → Bool
  | .word _ => false
  | .trap _ => false
  | .onyx _ _ => true
  | .miss _ => true
  | .far _ => true

/-- After the outcome the quadrant has not issued. -/
def Out.slotFree (o : Out) (core q : Nat) : Bool :=
  match o with
  | .next v => !v.issued.contains (core * 4 + q)
  | _ => false

/-- A quadrant issues: it chooses, fetches and runs. A choice whose batch then waits for its word, and issues nothing, is no
choice: it passes no batch over and clears no mark (R218, R219, R235). -/
def State.issueQuad (s : State) (core q : Nat) : Out :=
  match s.choose core q with
  | none => .next s
  | some t =>
    match { t with issued := (core * 4 + q) :: t.issued }.fetchCur with
    | none => .next t
    | some (x, pc, u, f) =>
      let o := u.runFetched x pc f
      if f.mayWait && Out.slotFree o core q then { s with cur := t.cur }.issueCur else o

/-! ## The scoreboard -/

/-- A register of the group is awaited, or a batch of it waits for one. -/
def Group.scored (G : Group) : Bool :=
  !G.pending.isEmpty || !G.owed.isEmpty || G.batches.any fun B => B.wait == some .score

/-- The next instruction of the batch that `State.cur` names reads or writes a register with a variable-latency write
pending (R20, R218). -/
def State.curBlocked (s : State) : Bool :=
  match s.fetchCur with
  | some (x, pc, u, .word w) =>
    match u.issuer with
    | none => false
    | some I =>
      match (u.ctx x).onyxAt pc with
      | some (t, k) => (onyxIssue t k I).blocked (onyxIssue t k I).kind
      | none =>
        match decodeWord w with
        | .instr i => ((formOf i u).map fun F => F.blocked I.hv I.G I.lanes I.act).getD false
        | .reject _ => false
  | _ => false

/-- The scoreboard holds each batch of a group whose next instruction has to wait for a pending write, and no other. -/
def State.scoreGroup (s : State) (c g : Nat) : State :=
  s.modGroup c g fun G =>
    { G with batches := G.batches.mapIdx fun b B =>
        if B.wait == none || B.wait == some .score then
          { B with wait := if ({ s with cur := { core := c, g := g, b := b } } : State).curBlocked then some .score else none }
        else B }

/-- The scoreboard after a step. -/
def State.scoreAll (s : State) : State :=
  s.allGroups.foldl (fun u (c, g, G) => if G.scored then u.scoreGroup c g else u) s

/-- The quadrants that may issue in this cycle and have not. -/
def State.openQuads (s : State) : List (Nat × Nat) :=
  s.cores.flatMap fun e => (List.range 4).flatMap fun q =>
    only (!s.issued.contains (e.1 * 4 + q) && (s.pickGroup e.1 q).1.isSome) (e.1, q)

/-! ## Waiting batches -/

/-- The instruction is tried again while it waits; waits that a step of their own ends are not. -/
def Wait.retries : Wait → Bool
  | .phase _ _ _ => false
  | .object _ _ _ => false
  | .csw => false
  | .onyx _ _ => false
  | .score => false
  | .code _ => false
  | _ => true

/-- The waiting batches of a group that are tried again in this cycle. -/
def State.retries (s : State) (core g : Nat) (G : Group) : List Cur :=
  let T := s.team G.tid
  if G.st == .resident && (s.ctx G.ctx).st.issues && T.begun && T.begunAt ≤ s.now then
    (List.range G.batches.length).flatMap fun i =>
      match G.batches[i]? with
      | some B => only (B.lanes != 0 && B.tried ≤ s.now && (B.wait.map (·.retries)).getD false) { core := core, g := g, b := i }
      | none => []
  else []

/-- The batch that `State.cur` names is not tried again in this cycle. -/
def State.tryLater (s : State) : State :=
  s.modGroup s.cur.core s.cur.g fun G =>
    { G with batches := G.batches.modify s.cur.b fun B => { B with tried := s.now + 1 } }

/-- A batch whose fetch reached a far target is tried again: it traps once the request has ended (R277). -/
def State.retryFetch (s : State) (B : Batch) : Out :=
  match B.wait, s.issuer with
  | some (.codeFar n), some I =>
    if (tget? s.remotes n).isSome then .next s.tryLater
    else .next (s.finish I none (I.lanes.map fun l => { lane := l, trap := some (mkTrap fcPoison 0 I.pc) }))
  | _, _ => .next s.tryLater

/-- A waiting batch is tried again: the instruction that waits, the Onyx word, or the fetch. -/
def State.retry (s : State) (c : Cur) : Out :=
  let t : State := { s with cur := c }
  match (t.group? c.core c.g).bind fun G => (G.batches[c.b]?).map fun B => (G, B) with
  | none => .next s
  | some (G, B) =>
    if B.lanes == 0 then .next s
    else
      match B.held with
      | some i => exec i t
      | none =>
        match (t.ctx G.ctx).onyxAt (G.batchPc B) with
        | some (tr, k) => onyxWord tr k t
        | none => t.retryFetch B

/-! ## The end of a cycle -/

/-- A batch at the end of a counted cycle (R220). -/
def Batch.count (B : Batch) : Batch := { B with replay := B.replay.map (· + 1) }

/-- The writes that a group sees from the next cycle on, and its mark at the start of it. -/
def Group.tick (G : Group) (cycle : Nat) (counted : Bool) : Group :=
  let H := (G.settle (cycle + 1)).land (cycle + 1)
  { H with gwStart := G.giveWay, batches := if counted then H.batches.map Batch.count else H.batches }

/-- The groups of a core at the end of a cycle. -/
def Core.tickGroups (C : Core) (cycle : Nat) (counted : Bool) : Core :=
  { C with groups := C.groups.map fun e => (e.1, e.2.tick cycle counted), exited := [] }

/-- The counts of a core's partitions that are blocked, and a withheld context that has become Free (R237). -/
def State.tickBlocked (s : State) (core : Nat) : State :=
  let b0 := b2n (s.coreBlocked core 0)
  let b1 := b2n (s.coreBlocked core 1)
  s.modCore core fun C => ({ C with blocked := (C.blocked.1 + b0, C.blocked.2 + b1) }).settleWithheld

/-- The end of a cycle for a core: release waves, islands, landing writes, the balancer's counts, and the matrix array. A
tick in which its die's clock has no edge is no cycle of the core (R414). -/
def State.tickCore (s : State) (core : Nat) : State :=
  if !s.clocked core then s
  else
    let s1 := (List.range 4).foldl (fun u q => u.islandTick core q) (s.setWaves core)
    ((s1.modCore core fun C => C.tickGroups (s.coreCycle core) (s.pulse core)).tickBlocked core).takeMatrix core

/-- The end of a cycle for a cluster, in a cycle of its die. -/
def State.tickCluster (s : State) (cl : Nat) : State :=
  if (s.die (cl / 6)).edge then s.modCluster cl fun C => C.tick (s.cycle (cl / 6)) else s

/-- The end of a cycle for a die: stall cycles, and the flag of a periodic sync packet (R265, R415). -/
def Die.tick (D : Die) (cycle : Nat) : Die :=
  let E := D.countStalls
  if (cycle + 1) % 65536 == 0 then { E with sync := (true, E.sync.2) } else E

/-- The clock of a die comes to the next tick: it has an edge there once it has gained a whole cycle of 3.6 GHz (R414). -/
def Die.advance (D : Die) : Die :=
  let p := D.phase + D.khz
  { D with lag := if D.edge then D.lag else D.lag + 1
           edge := refKhz ≤ p, phase := if refKhz ≤ p then p - refKhz else p }

/-- The end of a tick for a die; a die whose clock has no edge in it passes no cycle. -/
def State.tickDie (s : State) (d : Nat) : State :=
  s.modDie d fun D => (if D.edge then D.tick (s.cycle d) else D).advance

/-- The dies at the end of a tick; a periodic sync packet comes from every die. -/
def State.tickDies (s : State) : State :=
  (if (s.now + 1) % 65536 == 0 then allDies else tkeys s.dies).foldl State.tickDie s

/-- The end of a cycle. A context whose teams have been saved is Saved. -/
def State.tick (s : State) : State :=
  let s1 := (tkeys s.teams).foldl (fun u t => if (u.team t).gen.isSome then u.settleGen t none else u) s
  let s2 := (tkeys s1.cores).foldl State.tickCore s1
  let s3 := ((tkeys s2.clusters).foldl State.tickCluster s2).tickDies
  let s4 := ((tkeys s3.ctxs).foldl State.drained s3).sweepCompleting.runLaunches
  { s4 with now := s.now + 1, issued := [], phase := .opening, lats := s4.lats.map fun e => (e.1, s4.noteReply e.2) }

/-! ## The choice -/

/-- What a step may do. -/
inductive Cand where
  | due (d : Due)
  | retry (c : Cur)
  /-- The oldest plain store on its way of a group is performed (R311). -/
  | perform (core g : Nat)
  | issue (core q : Nat)
  /-- Nothing more belongs to the body of the cycle. -/
  | close
  | tick
deriving DecidableEq, Repr

/-- The oldest plain store that a group holds. -/
def Group.plainHeld (G : Group) : Option HeldStore := G.held.find? fun h => !h.nt

/-- The steps of the parties of a cycle, device apart: batches that wait are tried again, quadrants issue. -/
def State.actions (s : State) : List Cand :=
  (s.allGroups.flatMap fun (c, g, G) => (s.retries c g G).map .retry) ++ s.openQuads.map fun q => .issue q.1 q.2

/-- The candidates of a step. The body of a cycle is over when every quadrant that may issue has issued and every waiting
batch has been tried; then come the steps at its end, and the next cycle. -/
def State.candidates (s : State) : List Cand :=
  if s.phase = .closing then
    match s.lates with
    | [] => [.tick]
    | ls => ls.map .due
  else
    let as_ := s.actions
    (s.dues.map .due) ++ (s.allGroups.flatMap fun (c, g, G) => only G.plainHeld.isSome (.perform c g)) ++
      (if as_.isEmpty then [.close] else as_)

/-- The oldest plain store on its way of a group is performed. -/
def State.performOldest (s : State) (core g : Nat) : State :=
  match (s.group? core g).bind (·.plainHeld) with
  | some h => s.performHeld core g (· = h)
  | none => s

/-- A candidate is taken. -/
def Cand.run (c : Cand) (s : State) : Out :=
  match c with
  | .due d => d.run s
  | .retry c => s.retry c
  | .perform core g => .next (s.performOldest core g)
  | .issue core q => s.issueQuad core q
  | .close => .next { s with phase := .closing }
  | .tick => .next s.tick

/-- One of the candidates is taken, as `State.sched` chooses. -/
def State.pick (s : State) : Out :=
  let cs := s.candidates
  let t : State := { s with sched := s.sched.drop 1 }
  match cs[s.sched.headD 0 % cs.length]? with
  | some c => c.run t
  | none => .next t

/-! ## What comes from outside -/

/-- The request of a row that writes to a context by bytes, or that gives a command which has a place of its own in a
cycle. -/
def Instr.hostReq? : Instr → Option HostReq
  | .write _ _ space x addr data => some (.write space x addr data)
  | .trapControlWrite _ _ x off data => some (.write 1 x off data)
  | .translationBlockWrite _ _ x off data => some (.write 1 x (0x040 + off) data)
  | .sampleBlockWrite _ _ x off data => some (.write 1 x (0x060 + off) data)
  | .traceControlWrite _ _ x off data => some (.write 1 x (0x080 + off) data)
  | .nameControlWrite _ _ x off data => some (.write 1 x (0x0C0 + off) data)
  | .telemetryControlWrite _ _ x off data => some (.write 1 x (0x100 + off) data)
  | .contextTablesWrite _ _ x off data => some (.write 1 x (0x180 + off) data)
  | .errorLogControlWrite _ _ x off data => some (.write 1 x (0x240 + off) data)
  | .reset _ _ x => some (.write 1 x 0x200 (commandBytes 6 []))
  | .tearDown _ _ x => some (.write 1 x 0x200 (commandBytes 11 []))
  | .requestPreemption _ _ x => some (.write 1 x 0x200 (commandBytes 2 []))
  | _ => none

/-- The request that something from outside makes, as far as its place in a cycle depends on it. -/
def State.inputReq (s : State) : Input → Option HostReq
  | .step i => Instr.hostReq? i
  | .frame f =>
    if !Config.macsecOk s.host.keys f then none
    else (Config.frameMessage f).map fun m => parseRequest (byteField m 1 1) (m.drop 16)

/-- What comes from outside resets the device. -/
def Input.trips : Input → Bool
  | .step (.deviceReset _) => true
  | .step .thermalTrip => true
  | _ => false

/-- What comes from outside ends contexts: within a cycle it goes before everything else (R239, R261). -/
def State.endsContext (s : State) (i : Input) : Bool := i.trips || (s.inputReq i).any (·.ends)

/-- What comes from outside is a pre-emption request: within a cycle it goes behind freezes and the dispositions of traps
(R261). -/
def State.asksDrain (s : State) (i : Input) : Bool := (s.inputReq i).any (·.drains)

/-- It is taken in the body of a cycle, or, where it asks for a pre-emption, at its end. -/
def State.takesNow (s : State) (i : Input) : Bool := !s.endsContext i && (s.phase = .closing || !s.asksDrain i)

/-- The first of what has come from outside, its cycle come, that satisfies a test, and the state without it. -/
def State.inboxTake (s : State) (p : Input → Bool) : Option (Input × State) :=
  match ((s.inbox.takeWhile fun e => e.1 ≤ s.now).zipIdx).find? fun e => p e.1.2 with
  | some (e, i) => some (e.2, { s with inbox := s.inbox.eraseIdx i })
  | none => none

/-- What comes from outside is taken. Instruction words do not come from outside. -/
def Input.run (i : Input) (s : State) : Out :=
  match i with
  | .step i => if i.encode.isNone then exec i s else .next s
  | .frame f => .next (s.takeFrame f)

/-- The outcome of a step with its next state changed. -/
def onNext (f : State → State) : Out → Out
  | .next t => .next (f t)
  | .fault e => .fault e
  | .refused r => .refused r

/-! ## The step -/

/-- Freezes that the cycle before left over (R253, R261). -/
def State.freezeLeft (s : State) : Option State :=
  ((tkeys s.ctxs).find? fun x => !(s.ctx x).freezes.isEmpty).map fun x =>
    (s.ctx x).freezes.foldl (fun u f => u.freezeUnit x f.1 f.2.1 f.2.2) (s.modCtx x fun c => { c with freezes := [] })

/-- What goes before the body of a cycle, in the order of R261: resets and teardowns, then freezes. -/
def State.opens (s : State) : Option Out :=
  if s.phase = .opening then
    match s.inboxTake s.endsContext with
    | some (i, t) => some (i.run t)
    | none =>
      match s.heldNext HostReq.ends, s.expiries, s.freezeLeft, s.trapsLeft with
      | some (k, r), _, _, _ => some (.next (s.performHeldReq k r))
      | none, d :: _, _, _ => some (d.run s)
      | none, [], some t, _ => some (.next t)
      | none, [], none, d :: _ => some (d.run s)
      | none, [], none, [] => none
  else none

/-- A held request is performed in the body of a cycle, or, where it asks for a pre-emption, at its end. -/
def State.servesNow (s : State) (r : HostReq) : Bool := !r.ends && (s.phase = .closing || !r.drains)

/-- What a step takes behind the opening of its cycle: what is due at an instant that the spec fixes; else a held request
whose turn has come, one a step (R438); else what has come from outside; else a candidate. -/
def State.goes (s : State) : Out :=
  match s.prompts with
  | d :: _ => d.run s
  | [] =>
    match s.heldNext s.servesNow with
    | some (k, r) => .next (s.performHeldReq k r)
    | none =>
      match s.inboxTake s.takesNow with
      | some (i, t) => i.run t
      | none => s.pick

/-- What a step takes: what belongs to the opening of a cycle, then what belongs to the rest of it. -/
@[irreducible] def State.act (s : State) : Out :=
  match s.opens with
  | some o => o
  | none => ({ s with phase := if s.phase = .opening then .body else s.phase } : State).goes

/-- One step. After it the scoreboard holds the batches that have to wait (R20), and the sequencers observe every change of a
launch queue (R224). -/
def State.advance (s : State) : Out := onNext (fun t => t.scoreAll.observeAll) s.act

end Sys2Proof.Machine
end

