-- ==== Sys2Proof/Machine/Lay.lean ====
section
/-!
DEFINITION. Laying a word where the next step fetches, for `State.withFetchWord`: it stands for what the host and Agate do
to bring a program to a core (log entry 16).
-/

namespace Sys2Proof.Machine

/-- The physical address from which a quadrant that may issue fetches its next word. -/
def State.fetchPlace (s : State) (core q : Nat) : Option Nat :=
  match s.choose core q with
  | none => none
  | some t =>
    match t.group? t.cur.core t.cur.g with
    | none => none
    | some G =>
      match G.batches[t.cur.b]? with
      | none => none
      | some B =>
        let pc := G.batchPc B
        match t.fetch core G.ctx pc true with
        | (u, .word _) => (u.leafCore core G.ctx pc).2.map fun l => l.pa + (pc - l.va)
        | _ => none

/-- The first quadrant that may issue and finds a word at its PC. -/
def State.nextFetch (s : State) : Option (Nat × Nat × Nat) :=
  s.openQuads.findSome? fun e => (s.fetchPlace e.1 e.2).map fun pa => (e.1, e.2, pa)

/-- The choice falls on the issue of a quadrant. -/
def State.aim (s : State) (core q : Nat) : State := { s with sched := [s.candidates.findIdx (· == .issue core q)] }

/-- Where the page tables and the code of a laid program stand: the top of local memory. -/
def layBase : Nat := localTop - 65536

/-- The virtual address of its code. -/
def layPc : Nat := 0x1000

/-- Page tables that map one page of code: a table of each level, and the leaf, readable, writable and executable. -/
def State.layTables (s : State) : State :=
  let entry (u : State) (a e : Nat) : State := u.wr a (leBytes 8 e)
  entry (entry (entry (entry s layBase (layBase + 8192 + 3)) (layBase + 8192) (layBase + 16384 + 3)) (layBase + 16384)
    (layBase + 24576 + 3)) (layBase + 24576 + 8) (layBase + 32768 + 0x1D)

/-- The context of a laid program: every feature, its page tables. -/
def layCtx : Ctx :=
  { (Ctx.start.setWord 0x040 (layBase % 2 ^ 32)).setWord 0x044 (layBase / 2 ^ 32) with features := some 0x3FF }

/-- A core that holds no group and whose clock passes a pulse now. -/
def State.emptyCore (s : State) : Nat :=
  ((List.range 192).find? fun c => (s.core c).groups.isEmpty && s.pulse c).getD 0

/-- A context that is not in use. -/
def State.emptyCtx (s : State) : Nat := (tfree s.ctxs 0 4096).getD 0

/-- A team of one group of one fibre. -/
def State.layTeam (s : State) : State :=
  let x := s.emptyCtx
  let c := s.emptyCore
  let T : Team := { Team.none with ctx := x, core := c, begunAt := s.now, placedAt := s.ptp, ended := false }
  let s1 : State := { s.layTables with
    ctxs := tset s.ctxs x layCtx, teams := tset s.teams s.nextTid T, nextTid := s.nextTid + 1,
    issued := s.issued.filter (· != c * 4) }
  (s1.setGroup c 0 { Group.start s.nextTid x 0 128 [(0, Lane.start layPc)] with age := (s.now, 0) }).modCore c fun C =>
    { C with islands := tset C.islands 0 Islands.start }

/-- The instruction caches hold no line of an address. -/
def State.dropCode (s : State) (pa : Nat) : State :=
  { s with cores := s.cores.map fun e => (e.1, { e.2 with icache := e.2.icache.filter fun l => l.pa != pa / 128 * 128 }) }

/-- A word laid where the next issue fetches; where no quadrant may issue, a program of its own is laid. -/
def State.layWord (s : State) (bs : List Byte) : State :=
  let t : State := { s with inbox := [], delays := [], phase := .body }
  match t.nextFetch with
  | some (core, q, pa) => ((t.dropCode pa).wr pa bs).aim core q
  | none => ((t.layTeam.dropCode (layBase + 32768)).wr (layBase + 32768) bs).aim t.emptyCore 0

end Sys2Proof.Machine
end

