-- ==== Sys2Proof/Machine/Step.lean ====
section
/-!
DEFINITION. The step of the machine.
-/

namespace Sys2Proof.Machine

/-- One step of the machine. -/
def step (s : State) : Host.Outcome State Fault Refusal := s.advance

/-- The state with an instruction laid where the next step fetches. Every instruction of this part has 32 bits. -/
def State.withFetchWord (s : State) (nbits w : Nat) : State := s.layWord (wordBytes (w % 2 ^ nbits))

end Sys2Proof.Machine
end

