-- ==== Sys2Proof/Machine/Results.lean ====
section
/-!
DEFINITION. Results of the instructions that act on registers alone, read from the tables of 02_control_arith.md apart
from the meanings: bit-vector arithmetic where the meanings compute on numbers. The statements compare the two.
-/

namespace Sys2Proof.Machine

/-! ## Scalar instructions (R82-R84) -/

/-- The 32-bit immediate of SADDI and SXORI: sign-extended, or supplied by an IMM hint (R22, R84). -/
def scalarImm (I : Issue) (v : BitVec 11) : Word :=
  match I.hv.imm with
  | some p => BitVec.ofNat 23 p ++ v.setWidth 9
  | none => v.signExtend 32

/-- The destination and the result of a scalar instruction. -/
def scalarResult (i : Instr) (I : Issue) : Option (Nat × Word) :=
  let r (n : BitVec 6) : Word := I.R.s n.toNat
  match i with
  | .sadd d a b _ => some (d.toNat, r a + r b)
  | .ssub d a b _ => some (d.toNat, r a - r b)
  | .smul d a b _ => some (d.toNat, r a * r b)
  | .smulh d a b u _ =>
    some (d.toNat,
      if u == 0 then ((r a).signExtend 64 * (r b).signExtend 64).extractLsb' 32 32
      else ((r a).zeroExtend 64 * (r b).zeroExtend 64).extractLsb' 32 32)
  | .sand d a b _ => some (d.toNat, r a &&& r b)
  | .sor d a b _ => some (d.toNat, r a ||| r b)
  | .sxor d a b _ => some (d.toNat, r a ^^^ r b)
  | .sshl d a b _ => some (d.toNat, r a <<< ((r b).toNat % 256))
  | .sshr d a b _ => some (d.toNat, r a >>> ((r b).toNat % 256))
  | .ssra d a b _ => some (d.toNat, (r a).sshiftRight ((r b).toNat % 256))
  | .smin d a b u _ => some (d.toNat, if (if u == 0 then (r b).slt (r a) else (r b).ult (r a)) then r b else r a)
  | .smax d a b u _ => some (d.toNat, if (if u == 0 then (r a).slt (r b) else (r a).ult (r b)) then r b else r a)
  | .scmp d a b u _ =>
    some (d.toNat, bword (if u == 0 then r a == r b else if u == 1 then r a != r b
      else if u == 2 then (r a).slt (r b) else (r a).ult (r b)))
  | .ssel d a b _ => some (d.toNat, if r d == 0 then r b else r a)
  | .smov d a _ => some (d.toNat, r a)
  | .slea d a b h _ => some (d.toNat, r a + r b * BitVec.ofNat 32 (2 ^ h.toNat))
  | .saddi d a im _ => some (d.toNat, r a + scalarImm I im)
  | .sxori d a im _ => some (d.toNat, r a ^^^ scalarImm I im)
  | _ => none

/-! ## Vector integer instructions (R85-R90) -/

/-- A 32-bit sum or product of signed numbers: its low 32 bits, or with MOD bit 6 the nearest value in range and SAT
when that differs (R85). -/
def wrapped (I : Issue) (x : Int) : Word × Nat :=
  if bit (I.hv.mods.getD 0) 6 then
    (if 2 ^ 31 ≤ x then (0x7FFFFFFF, 32) else if x < -2 ^ 31 then (0x80000000, 32) else (BitVec.ofInt 32 x, 0))
  else (BitVec.ofInt 32 x, 0)

/-- The integer conditions 0 to 9 of R31. -/
def holdsInt (cond : Nat) (x y : Word) : Bool :=
  if cond == 0 then x == y else if cond == 1 then x != y
  else if cond == 2 then x.slt y else if cond == 3 then x.sle y else if cond == 4 then y.slt x
  else if cond == 5 then y.sle x else if cond == 6 then x.ult y else if cond == 7 then x.ule y
  else if cond == 8 then y.ult x else y.ule x

/-- The immediate of VADDI (R22, R90). -/
def vectorImm (I : Issue) (v : BitVec 9) : Word :=
  match I.hv.imm with
  | some p => BitVec.ofNat 23 p ++ v
  | none => v.signExtend 32

/-- A fibre that writes a vector register. -/
def putV (l : Nat) (d : BitVec 7) (x : Word) : LaneOut := { lane := l, writes := [(.v l d.toNat, x)] }

/-- A fibre that writes a vector register and sets flags. -/
def putVF (l : Nat) (d : BitVec 7) (x : Word × Nat) : LaneOut :=
  { lane := l, writes := [(.v l d.toNat, x.1)], flags := x.2 }

/-- A fibre that writes a predicate. -/
def putP {w : Nat} (l : Nat) (k : BitVec w) (b : Bool) : LaneOut :=
  { lane := l, writes := [(.p l k.toNat, if b then 1 else 0)] }

/-- What a vector integer instruction does to a fibre. -/
def vectorResult (i : Instr) (I : Issue) (l : Nat) : Option LaneOut :=
  let r (n : BitVec 7) : Word := I.R.v l n.toNat
  match i with
  | .vadd d a b _ => some (putVF l d (wrapped I ((r a).toInt + (r b).toInt)))
  | .vsub d a b _ => some (putVF l d (wrapped I ((r a).toInt - (r b).toInt)))
  | .vmul d a b _ => some (putV l d (r a * r b))
  | .vmad d a b _ => some (putVF l d (wrapped I ((r a).toInt * (r b).toInt + (r d).toInt)))
  | .vmulhS d a b _ => some (putV l d (((r a).signExtend 64 * (r b).signExtend 64).extractLsb' 32 32))
  | .vmulhU d a b _ => some (putV l d (((r a).zeroExtend 64 * (r b).zeroExtend 64).extractLsb' 32 32))
  | .vaddc d a b _ =>
    let t : BitVec 33 := (r a).zeroExtend 33 + (r b).zeroExtend 33 + (if I.R.p l 30 then 1 else 0)
    some { lane := l, writes := [(.v l d.toNat, t.setWidth 32), (.p l 30, if t.msb then 1 else 0)] }
  | .vabs d a _ => some (putV l d (if (r a).slt 0 then 0 - r a else r a))
  | .vclz d a _ => some (putV l d (clz (r a)))
  | .vpopc d a _ => some (putV l d (word (popc (r a))))
  | .vbrev d a _ => some (putV l d (brev (r a)))
  | .vmov d a _ => some (putV l d (r a))
  | .vmovs d n _ => some (putV l d (I.R.s n.toNat))
  | .vand d a b _ => some (putV l d (r a &&& r b))
  | .vor d a b _ => some (putV l d (r a ||| r b))
  | .vxor d a b _ => some (putV l d (r a ^^^ r b))
  | .vbfe d a b _ => some (putV l d (extractField (r a) (r b)))
  | .vshl d a b _ => some (putV l d (r a <<< ((r b).toNat % 256)))
  | .vshr d a b _ => some (putV l d (r a >>> ((r b).toNat % 256)))
  | .vsra d a b _ => some (putV l d ((r a).sshiftRight ((r b).toNat % 256)))
  | .vbfi d a b _ => some (putV l d (insertField (r a) (r b) (r d)))
  | .vminS d a b _ => some (putV l d (if (r b).slt (r a) then r b else r a))
  | .vminU d a b _ => some (putV l d (if (r b).ult (r a) then r b else r a))
  | .vmaxS d a b _ => some (putV l d (if (r a).slt (r b) then r b else r a))
  | .vmaxU d a b _ => some (putV l d (if (r a).ult (r b) then r b else r a))
  | .vdivS d a b _ => some (putV l d (if r b == 0 then 0xFFFFFFFF else (r a).sdiv (r b)))
  | .vdivU d a b _ => some (putV l d (if r b == 0 then 0xFFFFFFFF else r a / r b))
  | .vremS d a b _ => some (putV l d (if r b == 0 then r a else (r a).srem (r b)))
  | .vremU d a b _ => some (putV l d (if r b == 0 then r a else r a % r b))
  | .vcmp n m k a b _ => some (putP l k (holdsInt (4 * n.toNat + m.toNat) (r a) (r b)))
  | .vsel d a b _ => some (putV l d (if r d == 0 then r b else r a))
  | .vaddi d a im _ => some (putV l d (r a + vectorImm I im))
  | .vshli d a n _ => some (putV l d (r a <<< n.toNat))
  | .vshri d a n _ => some (putV l d (r a >>> n.toNat))
  | .vsrai d a n _ => some (putV l d ((r a).sshiftRight n.toNat))
  | _ => none

/-! ## Predicates and lane exchange (R68-R70, R81) -/

/-- What a predicate operation, an exchange, an election or a vote does to a fibre. -/
def predicateResult (i : Instr) (I : Issue) (l : Nat) : Option LaneOut :=
  let q (n : BitVec 5) (inv : BitVec 1) : Bool := if inv == 1 then !I.R.p l n.toNat else I.R.p l n.toNat
  let taken (src : Nat) (a : BitVec 7) : Word := I.R.v (if src ∈ I.act then src else l) a.toNat
  match i with
  | .pand k m x n y _ => some (putP l k (q x m && q y n))
  | .por k m x n y _ => some (putP l k (q x m || q y n))
  | .pxor k m x n y _ => some (putP l k (xor (q x m) (q y n)))
  | .pnot k m x _ => some (putP l k (!q x m))
  | .pset k a _ => some (putP l k (decide (I.R.v l a.toNat ≠ 0)))
  | .shfl d a b _ => some (putV l d (taken ((I.R.v l b.toNat).toNat % 32) a))
  | .shflX d a m _ => some (putV l d (taken (l ^^^ m.toNat) a))
  | .elect k _ => some (putP l k (decide (I.act.head? = some l)))
  | .voteAny k j _ => some (putP l k (decide (∃ m ∈ I.act, I.R.p m j.toNat = true)))
  | .voteAll k j _ => some (putP l k (decide (∀ m ∈ I.act, I.R.p m j.toNat = true)))
  | .voteBallot d j _ => some (putV l d (maskOf (I.act.filter fun m => I.R.p m j.toNat)))
  | _ => none

/-! ## Branches and calls (R57-R59) -/

/-- The address that a displacement names (R57): in words, from the next instruction, modulo 2^64. -/
def branchTarget (pc : Nat) (t : BitVec 14) : Nat :=
  (BitVec.ofNat 64 pc + 4 + t.signExtend 64 * 4).toNat

/-- A fibre that goes to an address, with the registers it writes; a malformed address traps (R58), and one that no transfer
may enter (R357). -/
def goes (bar : Nat → Bool) (l t : Nat) (ws : List (RegRef × Word)) : LaneOut :=
  if t % 4 ≠ 0 then { lane := l, trap := some (mkTrap fcAlign 0 t) }
  else if 2 ^ 52 ≤ t then { lane := l, trap := some (mkTrap fcPage 2 t) }
  else if bar t then { lane := l, trap := some (mkTrap fcProt 0 t) }
  else { lane := l, writes := ws, next := some t }

/-- The return address in the pair 2 r. -/
def returnTo (l : Nat) (r : BitVec 5) (pc : Nat) : List (RegRef × Word) :=
  [(.v l (2 * r.toNat), BitVec.ofNat 32 ((pc + 4) % 2 ^ 52)),
   (.v l (2 * r.toNat + 1), BitVec.ofNat 32 ((pc + 4) % 2 ^ 52 / 2 ^ 32))]

/-- What a transfer does to a fibre; `bar` names the addresses that no transfer may enter. -/
def transferResult (bar : Nat → Bool) (i : Instr) (I : Issue) (l : Nat) : Option LaneOut :=
  let pair (r : BitVec 5) : Nat :=
    (I.R.v l (2 * r.toNat)).toNat + 2 ^ 32 * (I.R.v l (2 * r.toNat + 1)).toNat
  let on (t : BitVec 14) (b : Bool) : LaneOut := if b then goes bar l (branchTarget I.pc t) [] else { lane := l }
  match i with
  | .bra t _ => some (on t true)
  | .brp p t _ => some (on t (I.R.p l p.toNat))
  | .brn p t _ => some (on t (!I.R.p l p.toNat))
  | .brpAny p t _ => some (on t (decide (∃ m ∈ I.act, I.R.p m p.toNat = true)))
  | .brpAll p t _ => some (on t (decide (∀ m ∈ I.act, I.R.p m p.toNat = true)))
  | .call r t _ => some (goes bar l (branchTarget I.pc t) (returnTo l r I.pc))
  | .calli r t _ => some (goes bar l (pair t) (returnTo l r I.pc))
  | .ret p _ => some (goes bar l (pair p) [])
  | .jmpi t _ => some (goes bar l (pair t) [])
  | .brx x n _ => some (goes bar l (I.pc + 4 + 4 * min (I.R.v l x.toNat).toNat (n.toNat + 1)) [])
  | _ => none

/-! ## Floating point and conversions (R91-R110) -/

/-- A result of an FP32 operation with its flags. -/
def put32 (l : Nat) (d : BitVec 7) (r : Nat × Nat) : LaneOut :=
  { lane := l, writes := [(.v l d.toNat, BitVec.ofNat 32 r.1)], flags := r.2 }

/-- A result of an FP64 operation with its flags, in an even pair. -/
def put64 (l : Nat) (d : BitVec 7) (r : Nat × Nat) : LaneOut :=
  { lane := l, flags := r.2,
    writes := [(.v l d.toNat, BitVec.ofNat 32 r.1), (.v l (d.toNat + 1), BitVec.ofNat 32 (r.1 / 2 ^ 32))] }

/-- An operation on each half of packed registers: the low halves first, flags of both. -/
def putHalves (l : Nat) (d : BitVec 7) (f : Nat → Nat → Nat → Nat × Nat) (x y o : Word) : LaneOut :=
  let lo := f (x.toNat % 2 ^ 16) (y.toNat % 2 ^ 16) (o.toNat % 2 ^ 16)
  let hi := f (x.toNat / 2 ^ 16) (y.toNat / 2 ^ 16) (o.toNat / 2 ^ 16)
  { lane := l, writes := [(.v l d.toNat, word (lo.1 + 65536 * hi.1))], flags := lo.2 ||| hi.2 }

/-- What a floating-point instruction does to a fibre: the operations of Float.lean and Trans.lean under the rounding mode
and the modifiers in force. -/
def floatResult (i : Instr) (I : Issue) (l : Nat) : Option LaneOut :=
  let E := I.fenv
  let r (n : BitVec 7) : Nat := (I.R.v l n.toNat).toNat
  let p (n : BitVec 7) : Nat := (I.R.v l n.toNat).toNat + 2 ^ 32 * (I.R.v l (n.toNat + 1)).toNat
  match i with
  | .fadd d a b _ => some (put32 l d (E.bin fp32 .add (r a) (r b)))
  | .fsub d a b _ => some (put32 l d (E.bin fp32 .sub (r a) (r b)))
  | .fmul d a b _ => some (put32 l d (E.bin fp32 .mul (r a) (r b)))
  | .ffma d a b _ => some (put32 l d (E.fmaOp fp32 false (r a) (r b) (r d)))
  | .ffms d a b _ => some (put32 l d (E.fmaOp fp32 true (r a) (r b) (r d)))
  | .fmin d a b _ => some (put32 l d (E.bin fp32 .min (r a) (r b)))
  | .fmax d a b _ => some (put32 l d (E.bin fp32 .max (r a) (r b)))
  | .fldexp d a b _ => some (put32 l d (E.output fp32 false (fldexp E (r a) (s32 (I.R.v l b.toNat)))))
  | .frnd d a m _ => some (put32 l d (E.output fp32 false (frnd E m.toNat (r a))))
  | .ffrac d a _ => some (put32 l d (E.output fp32 false (ffrac E (r a))))
  | .fclass d a _ => some (putV l d (fclass (r a)))
  | .fexpo d a _ => some (putV l d (fexpo E (r a)))
  | .hadd2 d a b _ =>
    some (putHalves l d (fun x y _ => E.bin fp16 .add x y) (I.R.v l a.toNat) (I.R.v l b.toNat) (I.R.v l d.toNat))
  | .hmul2 d a b _ =>
    some (putHalves l d (fun x y _ => E.bin fp16 .mul x y) (I.R.v l a.toNat) (I.R.v l b.toNat) (I.R.v l d.toNat))
  | .hfma2 d a b _ =>
    some (putHalves l d (E.fmaOp fp16 false) (I.R.v l a.toNat) (I.R.v l b.toNat) (I.R.v l d.toNat))
  | .bfma2 d a b _ =>
    some (putHalves l d (E.fmaOp bf16 false) (I.R.v l a.toNat) (I.R.v l b.toNat) (I.R.v l d.toNat))
  | .fcmp n m k a b _ =>
    let q := E.cmp fp32 (4 * n.toNat + m.toNat) (r a) (r b)
    some { putP l k q.1 with flags := q.2 }
  | .dadd d a b _ => some (put64 l d (E.bin fp64 .add (p a) (p b)))
  | .dmul d a b _ => some (put64 l d (E.bin fp64 .mul (p a) (p b)))
  | .dfma d a b _ => some (put64 l d (E.fmaOp fp64 false (p a) (p b) (p d)))
  | .dcmp n m k a b _ =>
    let q := E.cmp fp64 (4 * n.toNat + m.toNat) (p a) (p b)
    some { putP l k q.1 with flags := q.2 }
  | .fdiv d a b _ => some (put32 l d (fdiv E (r a) (r b)))
  | .frcp d a _ => some (put32 l d (unaryFn E .rcp (r a)))
  | .frsq d a _ => some (put32 l d (unaryFn E .rsq (r a)))
  | .fsqrt d a _ => some (put32 l d (unaryFn E .sqrt (r a)))
  | .fexp2 d a _ => some (put32 l d (unaryFn E .exp2 (r a)))
  | .flog2 d a _ => some (put32 l d (unaryFn E .log2 (r a)))
  | .fsin d a _ => some (put32 l d (unaryFn E .sin (r a)))
  | .fcos d a _ => some (put32 l d (unaryFn E .cos (r a)))
  | _ => none

/-- A narrow operand of a conversion stands in the low half, or in the upper one under H; an 8-bit one in byte H (R102). -/
def halfShift (h : BitVec 1) (w : Nat) : Nat := if h == 1 ∧ w ≤ 16 then w else 0

/-- The operand that a conversion reads. -/
def narrowRead (G : Group) (l : Nat) (n : BitVec 7) (h : BitVec 1) (w : Nat) : Nat :=
  if w = 64 then (G.v l n.toNat).toNat + 2 ^ 32 * (G.v l (n.toNat + 1)).toNat
  else (G.v l n.toNat).toNat / 2 ^ halfShift h w % 2 ^ w

/-- The result of a conversion; the rest of a register that a narrow result does not fill keeps its bits (R102). -/
def narrowPut (l : Nat) (n : BitVec 7) (h : BitVec 1) (w : Nat) (r : Nat × Nat) : LaneOut :=
  if w = 64 then put64 l n r
  else if w = 32 then put32 l n r
  else
    { lane := l, flags := r.2, writes := [(.vbits l n.toNat (halfShift h w) w, BitVec.ofNat 32 r.1)] }

/-- What a conversion of one fibre's operand does. -/
def convertResult (i : Instr) (I : Issue) (l : Nat) : Option LaneOut :=
  let E := I.fenv
  match i with
  | .cvtf d a h sf t _ =>
    some (narrowPut l d h (floatWidth t.toNat) (cvtfVal E (floatFmt t.toNat)
      (intValue sf.toNat (intWidth sf.toNat) (narrowRead I.R l a h (intWidth sf.toNat)))))
  | .cvti d a h sf t _ =>
    some (narrowPut l d h (intWidth t.toNat)
      (cvtiVal E (floatFmt sf.toNat) t.toNat (intWidth t.toNat) (narrowRead I.R l a h (floatWidth sf.toNat))))
  | .cvtn d a h sf t _ =>
    some (narrowPut l d h (floatWidth t.toNat)
      (cvtnVal E (floatFmt sf.toNat) (floatFmt t.toNat) (narrowRead I.R l a h (floatWidth sf.toNat))))
  | .pack2 d a f _ =>
    let lo := cvtnVal E fp32 (floatFmt f.toNat) (I.R.v l a.toNat).toNat
    let hi := cvtnVal E fp32 (floatFmt f.toNat) (I.R.v l (a.toNat + 1)).toNat
    some { putV l d (word (lo.1 + 65536 * hi.1)) with flags := lo.2 ||| hi.2 }
  | .unpk d a f _ =>
    let v := (I.R.v l a.toNat).toNat
    let lo := cvtnVal E (floatFmt f.toNat) fp32 (v % 2 ^ 16)
    let hi := cvtnVal E (floatFmt f.toNat) fp32 (v / 2 ^ 16)
    some { lane := l, flags := lo.2 ||| hi.2,
           writes := [(.v l d.toNat, word lo.1), (.v l (d.toNat + 1), word hi.1)] }
  | .dqnt d a f _ =>
    let one (k : Nat) : Nat × Nat := dqntVal E f.toNat (I.R.v l (a.toNat + k)).toNat
    if f.toNat % 4 = 2 then
      some { lane := l, flags := (one 0).2 ||| (one 1).2,
             writes := [(.v l d.toNat, word (one 0).1), (.v l (d.toNat + 1), word (one 1).1)] }
    else some { putV l d (word (one 0).1) with flags := (one 0).2 }
  | _ => none

/-! ## The instructions of one fibre -/

/-- What an instruction that acts fibre by fibre on registers alone does to a fibre. -/
def laneResult (bar : Nat → Bool) (i : Instr) (I : Issue) (l : Nat) : Option LaneOut :=
  vectorResult i I l <|> predicateResult i I l <|> transferResult bar i I l <|> floatResult i I l <|> convertResult i I l

end Sys2Proof.Machine
end

