-- ==== Sys2Proof/Safety.lean ====
section
/-!
DEFINITION. The terms in which statements about the machine are made: when an instruction issues unhindered, what
stays as it was, and what every state of a run keeps.
-/

namespace Sys2Proof.Machine

/-! ## Runs -/

/-- A step is safe when it answers a next state. -/
def Safe (o : Out) : Prop := ∃ t, o = .next t

/-! ## Issue -/

/-- The batch `I` of `s` issues an instruction of form `F` in this cycle, some fibre is not excluded by a PRED hint, no register
of the instruction has a variable-latency write pending (R20), and no check of R43 refuses the instruction for any of its
fibres. -/
structure Ready (F : Form) (s : State) (I : Issue) : Prop where
  issuer : s.issuer = some I
  first  : I.first = true
  active : I.act ≠ []
  landed : F.blocked I.hv I.G I.lanes I.act = false
  batch  : F.check I.hv I.G.budget (s.ctx I.x) = none
  fibres : ∀ l ∈ I.act, F.checkLane I.hv (s.ctx I.x).scoreboard I.G I.act l = none

/-- The batch `I` of `s` waits at its instruction, for no far target (R277), and is tried again. -/
structure Again (s : State) (I : Issue) : Prop where
  issuer : s.issuer = some I
  later  : I.first = false
  active : I.act ≠ []
  near   : ∀ n far, I.B.wait ≠ some (.remote n far)

/-- The state in which the issue of an instruction of form `F` has been accounted for: the gap holds the group, and its
give-way mark takes bit Y of the word (R16, R235). -/
def Form.slot (F : Form) (s : State) (I : Issue) : State :=
  s.account I.core I.g (F.gap I.hv) (some (F.c.toNat % 2 == 1))

/-- Every fibre of the batch is a live fibre of its group. -/
def Issue.Lives (I : Issue) : Prop := ∀ l ∈ I.lanes, (I.G.lane l).live = true

/-- No fibre traps, parks or ends. -/
def GoesOn (outs : List LaneOut) : Prop := ∀ o ∈ outs, o.trap = none ∧ o.park = none ∧ o.ends = false

/-! ## Frames -/

/-- From `s` to `t` nothing changes but the group in group context `g` of core `c`, which quadrants have issued, and the
delays that variable-latency results have used: every
byte of memory, every other group, every scratchpad, die, context, team, launch and host session stays. -/
structure Elsewhere (c g : Nat) (s t : State) : Prop where
  rest   : { t with cores := s.cores, issued := s.issued, delays := s.delays } = s
  bytes  : ∀ a, t.rd8 a = s.rd8 a
  groups : ∀ d h, ¬(d = c ∧ h = g) → t.group? d h = s.group? d h
  cores  : ∀ d, { t.core d with groups := (s.core d).groups } = s.core d

/-- From `G` to `H` a group keeps everything but its lanes, its batches, its writes in flight or pending and what accounts for
its issues. -/
def Group.SameBut (G H : Group) : Prop :=
  { H with lanes := G.lanes, batches := G.batches, inflight := G.inflight, pending := G.pending, lastIssue := G.lastIssue,
           nextIssue := G.nextIssue, giveWay := G.giveWay } = G

/-- From `L` to `M` a fibre keeps everything but its PC and the address from which it came there. -/
def Lane.SameBut (L M : Lane) : Prop := { M with pc := L.pc, via := L.via } = L

/-- The registers of an operand of a fibre. -/
def Opnd.refs (o : Opnd) (l : Nat) : List RegRef := (o.regs l).map (·.1)

/-- The registers that a form writes for a fibre: its first operand, and p30 for VADDC (R14, R85). -/
def Form.dests (F : Form) (l : Nat) : List RegRef :=
  ((F.ops.take 1).flatMap fun o => o.refs l) ++
    (match F.ins with
     | .vaddc _ _ _ _ => [.p l 30]
     | _ => [])

/-! ## The host link -/

/-- The request numbered `seq` of session `k` has arrived in its turn, from a session `S` that may be served: the host
port is up and frames can be protected (R436), the number is the one that the session expects, none is held ahead of it, and the session is neither frozen
nor without a valid credential. -/
structure State.InTurn (s : State) (k seq : Nat) (S : Session) : Prop where
  heard : s.host.hears = true
  named : tget? s.host.sessions k = some S
  turn  : S.next = seq
  small : seq < 2 ^ 32
  none  : S.ahead = []
  thawn : S.frozen = false
  valid : s.ptp < S.expiry

/-- The state with the reply to request `seq` of session `k` sent and kept, and the session expecting the next request. -/
def State.replied (s : State) (k seq type status : Nat) (payload : List Byte) : State :=
  let reply : Reply := { seq := seq, type := type, status := status, payload := payload }
  (s.modSession k fun S : Session =>
    { S with next := (seq + 1) % 2 ^ 32, kept := (S.kept ++ [reply]).drop (S.kept.length + 1 - 64) }).modHost fun H =>
      { H with sent := H.sent ++ [(k, reply)] }

/-! ## What every step keeps -/

/-- Global memory and every storage beside it are in canonical form, so that storages that read alike are equal. -/
def State.MemOk (s : State) : Prop := Memory.wf s.mem = true ∧ ∀ x : Scr, Memory.wf (s.scr x) = true

end Sys2Proof.Machine
end

