-- ==== Sys2Proof/Certificates/Slice0/Obligations.lean ====
section
/-!
DEFINITION. Statements about the machine, for the provers.
-/

open Sys2Proof Sys2Proof.Machine

/-! ## Encoding -/

/-- R12, R30-R42, and the encoding tables of 01_word.md and after: the word of an instruction decodes to it, whatever its
fields hold. -/
def Obligations.DecodeOfEncode : Prop :=
  ∀ (i : Instr) (w : Nat), i.encode = some w → w < 2 ^ 32 ∧ decodeWord w = .instr i

/-- R30-R42: a 32-bit word that decodes to an instruction is the word of that instruction, so no two words stand for one
instruction and no bit of a word is dropped. -/
def Obligations.EncodeOfDecode : Prop :=
  ∀ (w : Nat) (i : Instr), w < 2 ^ 32 → decodeWord w = .instr i → i.encode = some w

/-- Words written out bit by bit from the encodings of the spec decode to what they stand for: one of each kind of word.
R31, R32, R41: a word with a reserved major decodes to nothing, and so does a word whose reserved bits are not zero in
the rows named; what R24 and R42 make of such a word is `TrapInstructions`. -/
def Obligations.DecodeWords : Prop :=
  (decodeWord 0x00000000 = .instr (.ill 0) ∧
   decodeWord 0x58081FFB = .instr (.vaddi 1 1 0x1FF 3) ∧
   decodeWord 0x38142813 = .instr (.vadd 10 10 2 3) ∧
   decodeWord 0x51020403 = .instr (.vcmp 1 0 1 1 0 3) ∧
   decodeWord 0x0443FEC3 = .instr (.brp 1 0x3FD8 3)) ∧
  ((∀ w, w / 2 ^ 26 % 64 ∈ [10, 11, 29, 30, 31, 58, 59, 60, 61, 62] → decodeWord w = .reject .reservedMajor) ∧
   (∀ w, w / 2 ^ 26 % 64 = 63 → w / 2 ^ 23 % 8 = 7 → decodeWord w = .reject .reservedHint) ∧
   (∀ w, w / 2 ^ 26 % 64 = 0 → w / 2 ^ 21 % 32 = 1 → w / 8 % 2 ^ 18 ≠ 0 → decodeWord w = .reject .reservedEncoding))

/-! ## Issue and its checks -/

/-- R43, R24: when the checks of the whole batch refuse an instruction (its hints, its fields, its registers, its feature,
in this order), its issue slot is accounted for and every active fibre takes the trap of the first check that fails.
It has no other effect, whatever the instruction. That a hint run which is ill formed traps no fibre which a PRED hint of
the run excludes is the model's choice (log entry 67). R43 step 5: an instruction that needs handler mode raises PRIV in
every fibre when no fibre of the batch is in handler mode, and has no effect. R19: with the checking scoreboard on, an
instruction traps GAPFAULT in every fibre when a fixed-latency write to the first of its operands is in flight, and
has no effect; the detail names the register. Here for one source of SMOV. R20: an instruction that reads or writes a
register with a variable-latency write pending does not issue: its batch waits, and the quadrant's issue slot stays
free. -/
def Obligations.RefusedInstructionTraps : Prop :=
  ((∀ (F : Form) (v : HintView) (n : Nat) (c : Ctx), F.check v n c =
     if F.hintsOk v = false then some (mkTrap fcIllop 0 0)
     else if F.ins.wellFormed = false then some (mkTrap fcIllop 0 0)
     else if F.ops.all (Opnd.ok n) = false then some (mkTrap fcIllop 0 0)
     else if c.hasFeature F.feat = false then some (mkTrap fcUnfeatured F.feat 0) else none) ∧
   (∀ (i : Instr) (s : State) (F : Form) (I : Issue) (t : Trap), formOf i s = some F → s.issuer = some I →
     I.first = true → F.blocked I.hv I.G I.lanes I.act = false → F.check I.hv I.G.budget (s.ctx I.x) = some t →
     exec i s = .next ((F.slot s I).finish I F.lat (I.act.map fun l => { lane := l, trap := some t })))) ∧
  (∀ (i : Instr) (s : State) (F : Form) (I : Issue), formOf i s = some F → s.issuer = some I → I.first = true →
     F.blocked I.hv I.G I.lanes I.act = true → exec i s = .next (s.stall I)) ∧
  (∀ (i : Instr) (s : State) (F : Form) (I : Issue), formOf i s = some F → F.priv = true → s.issuer = some I →
     I.first = true → F.blocked I.hv I.G I.lanes I.act = false → F.check I.hv I.G.budget (s.ctx I.x) = none → (∀ l ∈ I.act, (I.G.lane l).handler = false) →
     exec i s = .next ((F.slot s I).finish I F.lat (I.act.map fun l => { lane := l, trap := some (mkTrap fcPriv 0 0) }))) ∧
  (∀ (s : State) (I : Issue) (d a : BitVec 6) (c : BitVec 3) (F : Form), formOf (.smov d a c) s = some F →
     s.issuer = some I → I.first = true → F.blocked I.hv I.G I.lanes I.act = false →
     F.check I.hv I.G.budget (s.ctx I.x) = none → (s.ctx I.x).scoreboard = true →
     (∀ f ∈ I.G.inflight, f.ref ≠ .s d.toNat) → (∃ f ∈ I.G.inflight, f.ref = .s a.toNat) →
     exec (.smov d a c) s = .next ((F.slot s I).finish I (some 4)
       (I.act.map fun l => { lane := l, trap := some (mkTrap fcGapfault (256 + a.toNat) 0) })))

/-- R21, R24: a hint word joins the run of its batch, its fibres go on behind it, and nothing else changes but the account
of the issue. -/
def Obligations.HintsJoinTheRun : Prop :=
  ∀ (s : State) (I : Issue), s.issuer = some I →
    let joined (k p : Nat) : Out := .next ((s.account I.core I.g 0 none).modGroup I.core I.g fun G =>
      let H := I.lanes.foldl (fun H l => H.modLane l fun L => { L with pc := I.pc + 4 }) G
      { H with batches := H.batches.modify I.bi fun B =>
          { B with hints := B.hints ++ [{ pc := I.pc, kind := k, payload := p }] } })
    (∀ p : BitVec 23, exec (.hntImm p) s = joined 0 p.toNat) ∧
    (∀ g : BitVec 8, exec (.hntGap g) s = joined 1 g.toNat) ∧
    (∀ (o : BitVec 1) (p : BitVec 5), exec (.hntPred o p) s = joined 2 (o ++ p).toNat) ∧
    (∀ m : BitVec 2, exec (.hntRnd m) s = joined 3 m.toNat) ∧
    (∀ k : BitVec 3, exec (.hntScope k) s = joined 4 k.toNat) ∧
    (∀ m : BitVec 7, exec (.hntMod m) s = joined 5 m.toNat) ∧
    exec .hntRelax s = joined 6 0

/-- R57, R275, R32: when the choice falls on a quadrant and the word at the PC of the batch it chose decodes to an
instruction, the step is the meaning of that instruction in the state in which the batch is named, the quadrant has
issued, and the choice is consumed. Around it the step only lets the batches that have to wait for a register be known
(R20) and the sequencers observe the launch queues (R224). That a step is the move of one party, chosen by `State.sched`,
after what is due and what has come from outside, and that the observation is part of it, is the model's choice (log
entries 3, 44). -/
def Obligations.StepRunsDecoded : Prop :=
  ∀ (s t u : State) (core q x pc w : Nat) (i : Instr),
    s.phase = .body → s.prompts = [] → s.heldNext s.servesNow = none → s.inboxTake s.takesNow = none →
    s.candidates[s.sched.headD 0 % s.candidates.length]? = some (.issue core q) →
    ({ s with sched := s.sched.drop 1 } : State).choose core q = some t →
    ({ t with issued := (core * 4 + q) :: t.issued } : State).fetchCur = some (x, pc, u, .word w) →
    (u.ctx x).onyxAt pc = none → decodeWord w = .instr i →
    step s = onNext (fun t => t.scoreAll.observeAll) (exec i u)

/-- R275, R12, R58: a fetch whose address has a page with X and no O, at an address that answers and holds no
uncorrectable data, finds the four bytes that stand there, the lowest first, when its line is not in the instruction
cache and it need not wait for it. R2: a fetch whose line is in the cache finds the word of that line. A fetch that finds
a word changes no byte of memory beyond what its translation does, and no fetch changes a group. R2 gives the cache its
size alone: what a line keeps and how long a miss takes is the model's choice (log entry 69). -/
def Obligations.FetchReadsMemory : Prop :=
  (∀ (s t : State) (core x va pa : Nat) (w : Bool) (l : Leaf) (f : Nat), s.codeLeaf core x va w = (t, some l) →
    l.flags.testBit 5 = false → t.leafResult x l va .fetch = .ok pa f → pa % 4 = 0 → va % 128 = pa % 128 →
    ((t.core core).codeLine x va pa = none → (w = true ∨ t.delays.headD 0 = 0) → t.reach (pa / 128 * 128) = .ok →
      t.bad pa 4 = false → (s.fetch core x va w).2 = .word (bytesWord (t.rd pa 4))) ∧
    (∀ c, (t.core core).codeLine x va pa = some c → s.fetch core x va w = (t, .word (c.word va)))) ∧
  (∀ (s : State) (core x va : Nat) (w : Bool),
    (∀ v, (s.fetch core x va w).2 = .word v → (s.fetch core x va w).1.mem = (s.codeLeaf core x va w).1.mem) ∧
    ∀ c g, (s.fetch core x va w).1.group? c g = s.group? c g)

/-! ## Results of the instructions on registers -/

/-- R82-R84, R53: a scalar instruction is performed once, and its result, computed by bit-vector arithmetic, is the one
write of the issue, of latency 4. -/
def Obligations.ScalarResults : Prop :=
  ∀ (i : Instr) (s : State) (I : Issue) (F : Form) (d : Nat) (v : Word), formOf i s = some F →
    scalarResult i I = some (d, v) → Ready F s I →
    exec i s = .next ((F.slot s I).finish I (some 4) [{ lane := I.low, writes := [(.s d, v)] }])

/-- R85-R90: what a vector integer instruction does to each active fibre, computed by bit-vector arithmetic. -/
def Obligations.VectorResults : Prop :=
  ∀ (i : Instr) (s : State) (I : Issue) (F : Form) (f : Nat → LaneOut), formOf i s = some F →
    (∀ l, vectorResult i I l = some (f l)) → Ready F s I →
    exec i s = .next ((F.slot s I).finish I F.lat (I.act.map f))

/-- R68-R70, R81: what predicate operations, exchanges, elections and votes do to each active fibre. R57-R59: where
branches, calls, returns and indexed jumps take each active fibre, the register pair that a call writes, and the trap
of a malformed address or of an Onyx code page without R (R357). -/
def Obligations.PredicateAndTransferResults : Prop :=
  (∀ (i : Instr) (s : State) (I : Issue) (F : Form) (f : Nat → LaneOut), formOf i s = some F →
     (∀ l, predicateResult i I l = some (f l)) → Ready F s I →
     exec i s = .next ((F.slot s I).finish I F.lat (I.act.map f))) ∧
  (∀ (i : Instr) (s : State) (I : Issue) (F : Form) (f : Nat → LaneOut), formOf i s = some F →
     (∀ l, transferResult (s.barred I.core I.x) i I l = some (f l)) → Ready F s I →
     exec i s = .next ((F.slot s I).finish I none (I.act.map f)))

/-- R91-R101: a floating-point instruction gives each active fibre the value and the flags of its operation under the
rounding mode and the modifiers in force. -/
def Obligations.FloatResults : Prop :=
  ∀ (i : Instr) (s : State) (I : Issue) (F : Form) (f : Nat → LaneOut), formOf i s = some F →
    (∀ l, floatResult i I l = some (f l)) → Ready F s I →
    exec i s = .next ((F.slot s I).finish I F.lat (I.act.map f))

/-- R102-R110: a conversion reads a narrow operand from the half that H names, and merges a narrow result into the
destination, whose other bits stay. R106-R108: QNT gives each element of a block the low byte of its register, under
the block's shared byte. The elements of the block are those of its lanes, inactive ones entering as +0.0, rounded to
nearest even unless a RND hint says otherwise. -/
def Obligations.ConvertResults : Prop :=
  (∀ (i : Instr) (s : State) (I : Issue) (F : Form) (f : Nat → LaneOut), formOf i s = some F →
     (∀ l, convertResult i I l = some (f l)) → Ready F s I →
     exec i s = .next ((F.slot s I).finish I (some 6) (I.act.map f))) ∧
  (∀ (d a : BitVec 7) (f : BitVec 5) (c : BitVec 3) (s : State) (I : Issue) (F : Form), formOf (.qnt d a f c) s = some F →
     Ready F s I →
     let blocks : List (List Nat) :=
       if f.extractLsb' 0 2 = 0 then [List.range 16, (List.range 16).map (· + 16)] else [List.range 32]
     let regs : Nat := if f.extractLsb' 0 2 = 2 then 2 else 1
     let elems (ls : List Nat) : List (Nat × Nat) := ls.flatMap fun l => (List.range regs).map fun k => (l, k)
     let quant (ls : List Nat) := qntBlock (I.hv.rnd.getD 0) f.toNat ((elems ls).map fun e =>
       if e.1 ∈ I.act then fp32.decode I.fenv.daz (I.R.v e.1 (a.toNat + e.2)).toNat else .fin false 0 0)
     exec (.qnt d a f c) s = .next ((F.slot s I).finish I (some 6) (blocks.flatMap fun ls =>
       (ls.filter fun l => I.act.contains l).map fun l =>
         { lane := l, flags := (quant ls).2.2,
           writes := (((elems ls).zip (quant ls).2.1).filter fun r => r.1.1 == l).map fun r =>
             (.v l (d.toNat + r.1.2), BitVec.ofNat 32 ((quant ls).1 * 256 + r.2)) })))

/-! ## System instructions -/

/-- R31, R42, R189, R190: ILL, TRAP, BKPT and every word with a reserved encoding complete by trapping in every active
fibre, with the code and the detail that the spec gives them. A reserved hint word joins the run instead, and the
instruction behind it traps. -/
def Obligations.TrapInstructions : Prop :=
  (∀ (i : Instr) (s : State) (I : Issue) (F : Form), formOf i s = some F → Ready F s I →
    let traps (code detail : Nat) : Out :=
      .next ((F.slot s I).finish I none (I.act.map fun l => { lane := l, trap := some (mkTrap code detail 0) }))
    (∀ x, i = .ill x → exec i s = traps 1 0) ∧
    (∀ k c, i = .trap k c → exec i s = traps 17 k.toNat) ∧
    (∀ k c, i = .bkpt k c → exec i s = traps 16 k.toNat)) ∧
  (∀ (w : BitVec 32) (s : State) (I : Issue), s.issuer = some I →
    (w.extractLsb' 26 6 ≠ 63 →
      exec (.reservedEncoding w) s = .next
        ((s.account I.core I.g (I.hv.gap.getD (w.extractLsb' 1 2).toNat) (some (w.getLsbD 0))).finish I none
          (I.act.map fun l => { lane := l, trap := some (mkTrap 1 0 0) }))) ∧
    (w.extractLsb' 26 6 = 63 →
      exec (.reservedEncoding w) s = .next ((s.account I.core I.g 0 none).modGroup I.core I.g fun G =>
        let H := I.lanes.foldl (fun H l => H.modLane l fun L => { L with pc := I.pc + 4 }) G
        { H with batches := H.batches.modify I.bi fun B =>
            { B with hints := B.hints ++
                [{ pc := I.pc, kind := (w.extractLsb' 23 3).toNat, payload := (w.extractLsb' 0 23).toNat }] } })))

/-- R191: ERET takes each active fibre in handler mode back to the address in its sr.trappc and leaves handler mode, with
the place in Onyx code that the trap saved; a fibre whose sr.trappc is no instruction address, or lies in an Onyx code
page without R (R357), stays in handler mode and traps. -/
def Obligations.EretReturns : Prop :=
  ∀ (c : BitVec 3) (s : State) (I : Issue) (F : Form), formOf (.eret c) s = some F → Ready F s I →
    let to_ (l : Nat) : Nat := (I.G.lane l).trappc.toNat
    let good (l : Nat) : Bool := to_ l % 4 == 0 && to_ l < 2 ^ 52 && !s.barred I.core I.x (to_ l)
    exec (.eret c) s = .next
      (((F.slot s I).modGroup I.core I.g fun G => (I.act.filter good).foldl (fun H l => H.modLane l fun L =>
          { L with handler := false, pc := L.trappc.toNat, depth := L.depthBack, granule := L.granuleBack }) G).finish I none
        (I.act.map fun l =>
          if good l then { lane := l, next := some (to_ l) }
          else if to_ l % 4 ≠ 0 then { lane := l, trap := some (mkTrap 8 0 (to_ l)) }
          else if 2 ^ 52 ≤ to_ l then { lane := l, trap := some (mkTrap 6 2 (to_ l)) }
          else { lane := l, trap := some (mkTrap 7 0 (to_ l)) }))

/-- R27, R192, R193, R44: what MFS, MFS.V, MFS.B, FEAT and CLK write. Every special register of R27 is read, and each
fibre reads its own lane number and saved trap registers. R27-R29, R241, R360, R361, R192: what MTS, MTS.V and MTS.B
write. The reserved bits of sr.fpmode, sr.fpflags, sr.compat and sr.trapcause are not written; a reserved value of sr.compat, or
of a buffer record, raises ILLOP; a buffer record is written for the whole team and ends its touch entries. MTS.V writes a
register of the group with the value of the lowest active lane. A 32-bit move writes the low word of sr.trappc and
sr.trapaddr; the high word that it leaves is a free value of each fibre, whatever it is. -/
def Obligations.SpecialRegisterMoves : Prop :=
  (∀ (i : Instr) (s : State) (I : Issue) (F : Form), formOf i s = some F → Ready F s I →
     let ans (lat : Option Nat) (outs : List LaneOut) : Out := .next ((F.slot s I).finish I lat outs)
     let once (lat : Option Nat) (ws : List (RegRef × Word)) : Out := ans lat [{ lane := I.low, writes := ws }]
     let sr (l k : Nat) : Nat :=
       (((([l, I.g, I.T.index % 2 ^ 32, I.T.grid % 2 ^ 32, I.G.role, I.core, I.core / 24, s.idForce.toNat % 1024, I.x,
         s.coreCycle I.core % 2 ^ 64, I.G.fpmode.toNat, I.G.fpflags.toNat, I.G.compat.toNat, (I.G.lane l).trapcause.toNat,
         (I.G.lane l).trappc.toNat, (I.G.lane l).trapaddr.toNat,
         ((I.G.regions.head?.map (·.toNat)).getD 0) + 65536 * I.G.regions.length] : List Nat)[k]?).getD 0))
     (∀ d k c, i = .mfs d k 0 c → exec i s = once (some 4) [(.s d.toNat, BitVec.ofNat 32 (sr I.low k.toNat))]) ∧
     (∀ d k c, i = .mfs d k 1 c → exec i s = once (some 4) [(.s d.toNat, BitVec.ofNat 32 (sr I.low k.toNat)),
       (.s (d.toNat + 1), BitVec.ofNat 32 (sr I.low k.toNat / 2 ^ 32))]) ∧
     (∀ d k c, i = .mfsV d k 0 c → exec i s = ans (some 4) (I.act.map fun l =>
       { lane := l, writes := [(.v l d.toNat, BitVec.ofNat 32 (sr l k.toNat))] })) ∧
     (∀ d k c, i = .mfsV d k 1 c → exec i s = ans (some 4) (I.act.map fun l =>
       { lane := l, writes := [(.v l d.toNat, BitVec.ofNat 32 (sr l k.toNat)),
           (.v l (d.toNat + 1), BitVec.ofNat 32 (sr l k.toNat / 2 ^ 32))] })) ∧
     (∀ d b c, i = .mfsB d b c → exec i s = once (some 4) ((List.range 8).map fun n =>
       (.s (d.toNat + n), (tget I.T.recs b.toNat 0).extractLsb' (32 * n) 32))) ∧
     (∀ d n m c, i = .feat d n m c → exec i s = once none
       [(.s d.toNat, if (s.ctx I.x).hasFeature (m ++ n).toNat then 1 else 0)]) ∧
     (∀ d c, i = .clk d c → exec i s = once (some 4)
       [(.s d.toNat, BitVec.ofNat 32 (s.coreCycle I.core)), (.s (d.toNat + 1), BitVec.ofNat 32 (s.coreCycle I.core / 2 ^ 32))])) ∧
  (∀ (i : Instr) (s : State) (I : Issue) (F : Form), formOf i s = some F → Ready F s I →
     let put (f : Group → Group) : Out := .next (((F.slot s I).modGroup I.core I.g f).finish I none [])
     let each (f : Nat → Lane → Lane) : Out := .next
       ((I.act.foldl (fun t l => t.modGroup I.core I.g fun G => G.modLane l (f l)) (F.slot s I)).finish I none [])
     let illop (a : Nat) : Out :=
       .next ((F.slot s I).finish I none (I.act.map fun l => { lane := l, trap := some (mkTrap 1 0 a) }))
     let low (pc : Bool) (hi : Nat → Word) (v : Nat → Word) : Out :=
       let t := I.act.zipIdx.foldl (fun t e => t.modGroup I.core I.g fun G => G.modLane e.1 fun L =>
         if pc then { L with trappc := hi e.2 ++ v e.1 } else { L with trapaddr := hi e.2 ++ v e.1 }) (F.slot s I)
       .next (({ t with fresh := s.fresh + I.act.length } : State).finish I none [])
     (∀ d c, i = .mts d 0x0A 0 c → exec i s = put fun G => { G with fpmode := I.R.s d.toNat &&& 15 }) ∧
     (∀ d c, i = .mts d 0x0B 0 c → exec i s = put fun G => { G with fpflags := I.R.s d.toNat &&& 255 }) ∧
     (∀ d c, i = .mts d 0x0C 0 c → exec i s =
       if compatOk (I.R.s d.toNat).toNat then put fun G => { G with compat := I.R.s d.toNat &&& 0xFFFF }
       else illop (I.R.s d.toNat).toNat) ∧
     (∀ d c, i = .mts d 0x0D 0 c → exec i s =
       each fun _ L => { L with trapcause := I.R.s d.toNat &&& 0x03FFFFFF }) ∧
     (∀ d c, i = .mts d 0x0E 1 c → exec i s = each fun _ L => { L with trappc := BitVec.ofNat 64 (I.R.spair d.toNat) }) ∧
     (∀ d c, i = .mts d 0x0F 1 c → exec i s = each fun _ L => { L with trapaddr := BitVec.ofNat 64 (I.R.spair d.toNat) }) ∧
     (∀ d c, i = .mtsV d 0x0A 0 c → exec i s = put fun G => { G with fpmode := I.R.v I.low d.toNat &&& 15 }) ∧
     (∀ d c, i = .mtsV d 0x0B 0 c → exec i s = put fun G => { G with fpflags := I.R.v I.low d.toNat &&& 255 }) ∧
     (∀ d c, i = .mtsV d 0x0C 0 c → exec i s =
       if compatOk (I.R.v I.low d.toNat).toNat then put fun G => { G with compat := I.R.v I.low d.toNat &&& 0xFFFF }
       else illop (I.R.v I.low d.toNat).toNat) ∧
     (∀ (pc : Bool) d c, i = .mts d (if pc then 0x0E else 0x0F) 0 c → ∃ hi, exec i s = low pc hi fun _ => I.R.s d.toNat) ∧
     (∀ (pc : Bool) d c, i = .mtsV d (if pc then 0x0E else 0x0F) 0 c → ∃ hi, exec i s = low pc hi fun l => I.R.v l d.toNat) ∧
     (∀ d c, i = .mtsV d 0x0D 0 c → exec i s =
       each fun l L => { L with trapcause := I.R.v l d.toNat &&& 0x03FFFFFF }) ∧
     (∀ d c, i = .mtsV d 0x0E 1 c → exec i s =
       each fun l L => { L with trappc := BitVec.ofNat 64 (I.R.vpair l d.toNat) }) ∧
     (∀ d c, i = .mtsV d 0x0F 1 c → exec i s =
       each fun l L => { L with trapaddr := BitVec.ofNat 64 (I.R.vpair l d.toNat) }) ∧
     (∀ d b c, i = .mtsB d b c → exec i s =
       if recValid (octet I.R d.toNat) then .next ((((F.slot s I).modTeam I.tid fun T =>
           { T with recs := tput T.recs b.toNat (octet I.R d.toNat) 0 }).endSlot I.tid b.toNat).finish I none [])
       else illop 0))

/-- R194-R196, R315, R418-R422: NOP does nothing; FENCE and FENCE.AX perform every store of the group and, with no
far store outstanding, publish the group's stores at their scope, make it see those published to it, and complete at once;
SLEEP and SLEEP.LV suspend the group for the count of cycles in the register; MARK writes a trace record when its class is
enabled; REGE pushes a region and drops the 17th, REGL pops one. The clauses for REGE and REGL are for a context with no
region stop that matches. The cycle in which a sleep ends is the model's choice (log entry 65), as are the wait of a marker
for earlier accounts (log entry 76) and what a FENCE makes its group see at once (log entry 8). -/
def Obligations.PauseAndTrace : Prop :=
  ∀ (i : Instr) (s : State) (I : Issue) (F : Form), formOf i s = some F → Ready F s I →
    let on (t : State) : Out := .next (t.finish I none [])
    let s0 := F.slot s I
    let drained := s0.drainWc I.core I.g
    let fenced (k : BitVec 3) : State :=
      let scope := I.hv.scope.getD k.toNat
      (drained.publish I.party none scope fun _ => true).acquire I.party none scope
    let pause (n : BitVec 7) (low : Bool) : Out :=
      if (I.R.s n.toNat).toNat = 0 ∨ s0.drainSeen I.x I.tid = true then on s0
      else on (s0.modGroup I.core I.g fun G =>
        { G with sleep := some (s.pulses I.core + 1 + (I.R.s n.toNat).toNat, low) })
    (∀ c, i = .nop c → exec i s = on s0) ∧
    (∀ k c, i = .fence k c → drained.farStores I.core I.g = false → exec i s = on (fenced k)) ∧
    (∀ k c, i = .fenceAx k c → drained.farStores I.core I.g = false → exec i s = on (fenced k)) ∧
    (∀ n c, i = .sleep n c → exec i s = pause n false) ∧
    (∀ n c, i = .sleepLv n c → exec i s = pause n true) ∧
    (∀ n k c, i = .mark n k c → ((s.ctx I.x).word 0x088).testBit 5 = false → exec i s = on s0) ∧
    (∀ n k c, i = .mark n k c → ((s.ctx I.x).word 0x088).testBit 5 = true →
      let w : TraceWait :=
        { ctx := I.x, die := I.core / 24, cycle := s.coreCycle I.core, cls := 1, kind := 0, src := I.core,
          bytes := traceHeader (s.coreCycle I.core) I.core (I.g / 16) (I.g % 16) 1 ++ tracePc I.pc k.toNat I.G.regions ++
            leBytes 4 (I.R.s n.toNat).toNat ++ leBytes 4 (maskOf I.act).toNat }
      exec i s = on (s0.logTrace w)) ∧
    (∀ r c, i = .rege r c → (s.ctx I.x).stopsAt true r = false → exec i s =
      on (s0.modGroup I.core I.g fun G => { G with regions := (r :: I.G.regions).take 16 })) ∧
    (∀ c, i = .regl c → I.G.regions = [] → exec i s = on s0) ∧
    (∀ c r rs, i = .regl c → I.G.regions = r :: rs → (s.ctx I.x).stopsAt false r = false → exec i s =
      on (s0.modGroup I.core I.g fun G => { G with regions := rs }))

/-- R197, R452: CSW in handler mode with a legal word hands its request to Agate and waits; a reserved kind raises ILLOP.
When Agate installs the default image, the request is over, the context goes back to that image, and the group's
register takes the status 0. -/
def Obligations.ControlStoreWrite : Prop :=
  (∀ (n d : BitVec 7) (c : BitVec 3) (s : State) (I : Issue) (F : Form), formOf (.csw n d c) s = some F →
    Ready F s I →
    let w := I.R.s n.toNat
    exec (.csw n d c) s =
      if w.extractLsb' 4 28 = 0 ∧ (w.extractLsb' 0 3).toNat < 5 then
        .next (({ F.slot s I with csws := s.csws ++
          [{ core := I.core, g := I.g, ctx := I.x, kind := (w.extractLsb' 0 3).toNat, dflt := w.getLsbD 3,
             va := I.R.spair (n.toNat + 1), len := (I.R.s (n.toNat + 3)).toNat, dst := d.toNat,
             lanes := I.B.lanes }] } : State).hold I (some (.csw n d c)) .csw [])
      else .next ((F.slot s I).finish I none
        (I.act.map fun l => { lane := l, trap := some (mkTrap 1 0 w.toNat) }))) ∧
  (∀ (core g : Nat) (s : State) (q : CswReq), s.csws.find? (fun r => r.core == core && r.g == g) = some q →
    q.dflt = true → ∃ t, exec (.cswInstall core g) s = .next t ∧
      t.csws = delFirst (fun r => r.core == core && r.g == g) s.csws ∧
      (∀ a, t.rd8 a = s.rd8 a) ∧
      (∀ x, t.ctx x = if x = q.ctx then { s.ctx x with images := tdel (s.ctx x).images q.kind } else s.ctx x) ∧
      (∀ G, s.group? core g = some G → ∃ H, t.group? core g = some H ∧ H.s q.dst = 0))

/-! ## Fibres and groups -/

/-- R60-R62: FORK gives each active fibre, in ascending lane order, a child in the lowest free lane while lanes last: the
child starts at the target with the parent's v0 to v7 but for the destination, which tells it its parent. The parent
reads the child's lane, or all ones, here for a result that comes without delay. Nothing outside the group changes. R62: FEND ends its active fibres. While
another fibre of the group lives, the others of the batch go on and every other lane is as it was; when the last fibre
of a group ends, its context is free (the fragment role's groups, which wait for their tile, aside). -/
def Obligations.FibresForkAndEnd : Prop :=
  (∀ (d n : BitVec 7) (c : BitVec 3) (s : State) (I : Issue) (F : Form), formOf (.fork d n c) s = some F →
     Ready F s I → I.Lives → s.delays.headD 0 = 0 → I.R.spair n.toNat % 4 = 0 → I.R.spair n.toNat < 2 ^ 52 →
     let pairs := I.act.zip ((List.range 32).filter fun l => !(I.G.lane l).live)
     ∃ t H, exec (.fork d n c) s = .next t ∧ t.group? I.core I.g = some H ∧ Elsewhere I.core I.g s t ∧
       (∀ e ∈ pairs, (H.lane e.2).live = true ∧ (H.lane e.2).pc = I.R.spair n.toNat ∧ (H.lane e.2).parked = none ∧
         (H.lane e.2).handler = false ∧ H.v e.2 d.toNat = BitVec.ofNat 32 (2 ^ 31 + e.1) ∧
         H.v e.1 d.toNat = BitVec.ofNat 32 e.2 ∧ ∀ k < 8, k ≠ d.toNat → H.v e.2 k = I.R.v e.1 k) ∧
       (∀ l ∈ I.act, l ∉ pairs.map (·.1) → H.v l d.toNat = 0xFFFFFFFF) ∧
       (∀ l ∈ I.lanes, (H.lane l).pc = I.pc + 4)) ∧
  (∀ (c : BitVec 3) (s : State) (I : Issue) (F : Form), formOf (.fend c) s = some F → Ready F s I → I.Lives →
     ((∃ l, (I.G.lane l).live = true ∧ l ∉ I.act) →
       ∃ t H, exec (.fend c) s = .next t ∧ t.group? I.core I.g = some H ∧ Elsewhere I.core I.g s t ∧
         (∀ l ∈ I.act, (H.lane l).live = false) ∧
         (∀ l ∈ I.lanes, l ∉ I.act → (H.lane l).live = true ∧ (H.lane l).pc = I.pc + 4) ∧
         (∀ l, l ∉ I.lanes → H.lane l = I.G.lane l)) ∧
     ((∀ l, (I.G.lane l).live = true → l ∈ I.act) → s.fragRole I.tid ≠ some I.G.role →
       ∃ t, exec (.fend c) s = .next t ∧ t.group? I.core I.g = none))

/-- R63, R64, R67: RCV and YIELD first make their batch wait; tried again when every batch of the group waits at that
address and no fibre is parked, they merge all the batches into one behind the instruction. YIELD then ends the touch
entries of the group, and takes it to the boundary wait at a team boundary. R64: when the batches of the group wait at
different addresses, those at the lowest merge and the others go on waiting as they were, with their fibres; a batch
behind a lower address waits on. -/
def Obligations.ReconvergenceMerges : Prop :=
  (∀ (i : Instr) (s : State) (I : Issue) (F : Form), formOf i s = some F → Ready F s I →
    (∀ c, i = .rcv c → exec i s = .next ((F.slot s I).hold I (some i) (.rcv I.pc false) [])) ∧
    (∀ c, i = .yield c → exec i s = .next ((F.slot s I).hold I (some i) (.rcv I.pc true) []))) ∧
  (∀ (s : State) (I : Issue), Again s I → (∀ e ∈ I.G.lanes, e.2.live = true → e.2.parked = none) →
    (∀ B ∈ I.G.batches, ∃ y, B.wait = some (.rcv I.pc y)) →
    let all := I.G.batches.foldl (fun m B => m ||| B.lanes) 0
    (∀ c, ∃ t H, exec (.rcv c) s = .next t ∧ t.group? I.core I.g = some H ∧ Elsewhere I.core I.g s t ∧
      H.batches = [Batch.fresh all] ∧ (∀ l, l < 32 → all.getLsbD l = true → (H.lane l).pc = I.pc + 4) ∧
      H.touches = I.G.touches ∧ H.st = I.G.st) ∧
    (∀ c, ∃ t H, exec (.yield c) s = .next t ∧ t.group? I.core I.g = some H ∧ Elsewhere I.core I.g s t ∧
      H.batches = [Batch.fresh all] ∧ (∀ l, l < 32 → all.getLsbD l = true → (H.lane l).pc = I.pc + 4) ∧
      H.touches = [] ∧ H.st = if s.atBoundary I then .boundary else I.G.st)) ∧
  (∀ (s : State) (I : Issue) (c : BitVec 3), Again s I → (∀ e ∈ I.G.lanes, e.2.live = true → e.2.parked = none) →
    I.B.rcvAt = some I.pc →
    ((∀ B ∈ I.G.batches, ∃ a y, B.wait = some (.rcv a y) ∧ I.pc ≤ a) →
      let all := (I.G.batches.filter fun B => B.rcvAt == some I.pc).foldl (fun m B => m ||| B.lanes) 0
      ∃ t H, exec (.rcv c) s = .next t ∧ t.group? I.core I.g = some H ∧ Elsewhere I.core I.g s t ∧
        (H.batches.filter fun B => B.wait.isSome) = (I.G.batches.filter fun B => B.rcvAt != some I.pc) ∧
        (H.batches.filter fun B => B.wait.isNone) = [Batch.fresh all] ∧
        (∀ l, l < 32 → all.getLsbD l = true → (H.lane l).pc = I.pc + 4) ∧
        (∀ l, l < 32 → all.getLsbD l = false → H.lane l = I.G.lane l)) ∧
    ((∃ B ∈ I.G.batches, ∃ a y, B.wait = some (.rcv a y) ∧ a < I.pc) →
      exec (.rcv c) s = .next (s.hold I (some (.rcv c)) (.rcv I.pc false) [])))

/-- R65, R66, R205: SPAWN and SPAWN.T with a well-formed target place a new group of the team when a context, its
registers and its lane slice are free in a quadrant and the team has fewer than 32 groups: one fibre for each active
one, in its lane, at the target, with eight registers of its parent. SPAWN.T tells the outcome; SPAWN waits for room. R65
names the context and the count of groups: that the lane slice needs room as well is the model's choice (log entry 32). -/
def Obligations.SpawnCreatesGroups : Prop :=
  ∀ (i : Instr) (s : State) (I : Issue) (F : Form), formOf i s = some F → Ready F s I →
    let tell (k : BitVec 3) (b : Bool) : List LaneOut := I.act.map fun l => { lane := l, writes := [wpred l k.toNat b] }
    (∀ a n c u, i = .spawn a n c → I.R.spair n.toNat % 4 = 0 → I.R.spair n.toNat < 2 ^ 52 →
      (F.slot s I).trySpawn I a n = some u → exec i s = .next (u.finish I none [])) ∧
    (∀ a n c, i = .spawn a n c → I.R.spair n.toNat % 4 = 0 → I.R.spair n.toNat < 2 ^ 52 →
      (F.slot s I).trySpawn I a n = none → exec i s = .next ((F.slot s I).hold I (some i) (.poll 15) [])) ∧
    (∀ k a n c u, i = .spawnT k a n c → I.R.spair n.toNat % 4 = 0 → I.R.spair n.toNat < 2 ^ 52 →
      (F.slot s I).trySpawn I a n = some u → exec i s = .next (u.finish I none (tell k true))) ∧
    (∀ k a n c, i = .spawnT k a n c → I.R.spair n.toNat % 4 = 0 → I.R.spair n.toNat < 2 ^ 52 →
      (F.slot s I).trySpawn I a n = none → exec i s = .next ((F.slot s I).finish I none (tell k false))) ∧
    (∀ (a n : BitVec 7) (u : State), (F.slot s I).trySpawn I a n = some u →
      ∃ g K, s.group? I.core g = none ∧ u.group? I.core g = some K ∧ K.tid = I.tid ∧ K.ctx = I.x ∧
        K.role = I.G.role ∧ K.budget = I.G.budget ∧ K.live = I.act ∧ K.sregs = I.R.sregs ∧
        ∀ l ∈ I.act, (K.lane l).pc = I.R.spair n.toNat ∧ ∀ k < 8, K.v l k = I.R.v l (a.toNat + k))

/-! ## Queues and barriers -/

/-- R71-R75, R215-R217: the queue instructions on a descriptor that can be read and is well formed. QPOP and QPOP.T take
up to one entry for each active fibre, in lane order, and write `head` and the above-high state; the pushers of a queue
whose depth is below `low` may go on. A pop that receives an entry is an acquire of the queue's object. QPOP waits on an
empty queue while no pre-emption is asked for. QPUSH is a release of the queue's object and appends one entry for each
active fibre while the depth stays within `high`, and is descheduled above it; after its return it appends without that
test when the entries fit, and waits while they do not. It waits for far stores of the group. QSTAT reads the depth, the
free space and the flags. R72, R215: a queue instruction whose index lies past the table of the context raises OOB in every
active fibre, and changes no memory. That a pop which takes nothing ends an above-high state whose depth is below `low`
already is the model's choice (log entry 81). -/
def Obligations.QueuesMoveEntries : Prop :=
  (∀ (i : Instr) (s : State) (I : Issue) (F : Form), formOf i s = some F → Ready F s I →
     let s0 := F.slot s I
     let at_ (q : BitVec 6) : Nat := (I.R.s q.toNat).toNat
     let taken (u : State) (q : BitVec 6) (Q : QueueDesc) (n : Nat) : State :=
       let v := u.modGroup I.core I.g fun G => { G with lastQueue := some (at_ q) }
       let overs := Q.overs && decide (Q.low ≤ Q.depth - n)
       let w := if n = 0 ∧ overs = Q.overs then v else v.corePut I (u.queueVa I.x (at_ q) + 20)
         (leBytes 4 (Q.overWord overs) ++ leBytes 4 ((Q.head + n) % 2 ^ 32))
       if Q.overs && !overs then w.freePushers I.x (some (at_ q)) else w
     (∀ k d q c t Q, i = .qpop k d q c → s0.queueDesc I .atomic (at_ q) = (t, .ok Q) → Q.depth = 0 →
       t.drainSeen I.x I.tid = false → exec i s = .next ((taken t q Q 0).hold I (some i) (.poll 7) [])) ∧
     (∀ (pop : Bool) k d q c t Q u es, i = (if pop then .qpop k d q c else .qpopT k d q c) →
       s0.queueDesc I .atomic (at_ q) = (t, .ok Q) → (pop = false ∨ Q.depth ≠ 0 ∨ t.drainSeen I.x I.tid = true) →
       let drain := t.drainSeen I.x I.tid
       let n := if drain then 0 else min Q.depth I.act.length
       t.coreReads I .read 32 ((List.range n).map fun j => Q.base + 32 * ((Q.head + j) % 2 ^ 32 % Q.cap)) =
         (u, .ok es) →
       let y := taken u q Q n
       let z := if n = 0 then y else y.acquire I.party (some (Q.word % 2 ^ 20)) (Q.word / 2 ^ 20 % 8)
       exec i s = .next (z.finish I none (I.act.zipIdx.map fun (l, j) =>
         { lane := l
           writes := (match es[j]? with
             | some e => wregs l d.toNat (bytesWords 8 e) ++ [wpred l k.toNat false]
             | none => [wpred l k.toNat true]) ++ [wpred l (k.toNat + 8) drain] }))) ∧
     (∀ a q c t Q, i = .qpush a q c → s0.queueDesc I .atomic (at_ q) = (t, .ok Q) →
       (I.retested = true → Q.cap - Q.depth < I.act.length → exec i s = .next (t.hold I (some i) (.poll 15) [])) ∧
       ((if I.retested then I.act.length ≤ Q.cap - Q.depth else Q.depth + I.act.length ≤ Q.high) →
         let es := I.act.zipIdx.map fun (l, j) => (Q.base + 32 * ((Q.tail + j) % 2 ^ 32 % Q.cap),
           wordsBytes ((List.range 8).map fun r => I.R.v l (a.toNat + r)))
         ∀ u, t.corePlaces I (es.map (·.1)) = (u, none) →
           (u.farStores I.core I.g = true → exec i s = .next (u.hold I (some i) (.poll 15) [])) ∧
           (u.farStores I.core I.g = false →
             let v := es.foldl (fun v e => v.corePut I e.1 e.2)
               ((u.noteObj I (Q.word % 2 ^ 20)).release I.core I.g I.x I.T I.tid (Q.word % 2 ^ 20) (Q.word / 2 ^ 20 % 8))
             exec i s = .next (((v.corePut I (v.queueVa I.x (at_ q) + 28)
               (leBytes 4 ((Q.tail + I.act.length) % 2 ^ 32))).modGroup I.core I.g (·.pushed I.act)).finish I none []))) ∧
       (I.retested = false → Q.high < Q.depth + I.act.length →
         let u := t.corePut I (t.queueVa I.x (at_ q) + 20) (leBytes 4 (Q.overWord true))
         let due := if u.draining I.x then some (u.pulses I.core + 64) else none
         exec i s = .next (({ u.modGroup I.core I.g fun G => { G with st := .descheduled (at_ q) u.nextOp due } with
           nextOp := u.nextOp + 1 } : State).hold I (some i) (.push (at_ q)) []))) ∧
     (∀ q d c t Q, s0.queueDesc I .read (at_ q) = (t, .ok Q) →
       let ans (v : Nat) : Out := .next (t.finish I none [{ lane := I.low, writes := [(.s d, BitVec.ofNat 32 v)] }])
       (∀ e : BitVec 6, e.toNat = d → i = .qstatDepth e q c → exec i s = ans Q.depth) ∧
       (∀ e : BitVec 6, e.toNat = d → i = .qstatFree e q c → exec i s = ans (Q.cap - Q.depth)) ∧
       (∀ e : BitVec 6, e.toNat = d → i = .qstatFlags e q c →
         exec i s = ans ((if t.drainSeen I.x I.tid then 1 else 0) + if Q.overs then 2 else 0)))) ∧
  (∀ (i : Instr) (s : State) (I : Issue) (F : Form) (q : BitVec 6), formOf i s = some F → Ready F s I →
     ((∃ k d c, i = .qpop k d q c ∨ i = .qpopT k d q c) ∨ (∃ a c, i = .qpush a q c) ∨
       (∃ d c, i = .qstatDepth d q c ∨ i = .qstatFree d q c ∨ i = .qstatFlags d q c)) →
     (s.ctx I.x).word 0x188 ≤ (I.R.s q.toNat).toNat →
     exec i s = .next ((F.slot s I).finish I none
       (I.act.map fun l => { lane := l, trap := some (mkTrap 5 0 (I.R.s q.toNat).toNat) })))

/-- R76-R80: the barriers, when every live fibre of the group is at the instruction. BAR and BARV perform the group's
stores to tile memory and arrive with the count in the register; BAR then waits for the phase of its arrival and BARV records it and goes on. BARW goes on when that
phase has completed. A count above 32 raises OOB; a group of which a live fibre is missing gathers. R77, R78: the
phases of a barrier. The count of the first arrival of a phase governs it, 0 standing for the groups then resident; it
completes at the arrival that makes up the count; an arrival of a group that was not resident at the first belongs to the
following phase; and the exit of a group that has not arrived lowers a count given as 0. That a BARV record stays until
every live fibre has been served is the model's choice (log entry 23), as is the register that gives the count when no
fibre executes the arrival (log entry 68). -/
def Obligations.BarriersArrive : Prop :=
  (∀ (i : Instr) (s : State) (I : Issue) (F : Form), formOf i s = some F → Ready F s I →
     let s0 := F.slot s I
     let missing (k : BitVec 3) : Bool := maskOf I.G.live &&& ~~~(I.G.gathered I.bi k.toNat I.pc) != 0
     let cnt (n : BitVec 7) : Nat := (I.R.s n.toNat).toNat
     let s1 := s0.releaseTile I.core I.g
     let arr (k : BitVec 3) (n : BitVec 7) := (I.T.bar k.toNat).arrive I.g (cnt n) ((s0.teamGroups I.tid).map (·.1))
     let after (k : BitVec 3) (n : BitVec 7) : State :=
       s1.modTeam I.tid fun T => { T with bars := tset T.bars k.toNat (arr k n).1 }
     (∀ k n z c, i = .bar k n z c → cnt n ≤ 32 → missing k = false → exec i s = .next
       (((after k n).modGroup I.core I.g fun G => G.gatherDone I.bi k.toNat I.pc fun H j =>
         { H with batches := H.batches.modify j fun B =>
             { B with wait := some (.phase k.toNat (arr k n).2 none) } }).hold I (some i)
         (.phase k.toNat (arr k n).2 none) [])) ∧
     (∀ k n z c, i = .barv k n z c → cnt n ≤ 32 → missing k = false → exec i s = .next
       (((after k n).modGroup I.core I.g fun G =>
         let H := G.gatherDone I.bi k.toNat I.pc Group.proceed
         { H with barv := tset H.barv k.toNat ((arr k n).2, 0) }).finish I none [])) ∧
     (∀ k n z c, (i = .bar k n z c ∨ i = .barv k n z c) → cnt n ≤ 32 → missing k = true → exec i s = .next
       (s0.hold I (some i) (.gather k.toNat I.pc) [])) ∧
     (∀ k n z c, (i = .bar k n z c ∨ i = .barv k n z c) → 32 < cnt n → exec i s = .next
       (s0.finish I none (I.act.map fun l => { lane := l, trap := some (mkTrap 5 0 (cnt n)) }))) ∧
     (∀ k z c, i = .barw k z c → tget? I.G.barv k.toNat = none → exec i s = .next
       ((s0.modGroup I.core I.g fun G => G).hold I (some i) (.phase k.toNat (I.T.bar k.toNat).phase none) [])) ∧
     (∀ k z c p m, i = .barw k z c → tget? I.G.barv k.toNat = some (p, m) →
       let t := s0.modGroup I.core I.g fun G =>
         { G with barv := if maskOf G.live &&& ~~~(m ||| I.B.lanes) == 0 then tdel G.barv k.toNat
                          else tset G.barv k.toNat (p, m ||| I.B.lanes) }
       exec i s = .next (if p < (I.T.bar k.toNat).phase then t.finish I none []
         else t.hold I (some i) (.phase k.toNat p none) []))) ∧
  ((∀ (b : Bar) (n g cnt : Nat) (rs : List Nat), b.cur.count = some n → b.later = [] → g ∈ b.cur.all →
     b.cur.arrivals + 1 < n → b.arrive g cnt rs =
       ({ b with cur := { b.cur with arrivals := b.cur.arrivals + 1, due := b.cur.due.filter (· != g) } }, b.phase)) ∧
   (∀ (b : Bar) (n g cnt : Nat) (rs : List Nat), b.cur.count = some n → b.later = [] → g ∈ b.cur.all →
     b.cur.arrivals + 1 = n → b.arrive g cnt rs = ({ Bar.start with phase := b.phase + 1 }, b.phase)) ∧
   (∀ (b : Bar) (g cnt : Nat) (rs : List Nat), b.cur = BarPhase.start → b.later = [] →
     let n := if cnt = 0 then rs.length else cnt
     b.arrive g cnt rs =
       (if 1 < n then { b with cur := { arrivals := 1, count := some n, auto := cnt == 0, all := rs, due := rs.filter (· != g) } }
        else { Bar.start with phase := b.phase + 1 }, b.phase)) ∧
   (∀ (b : Bar) (n g cnt : Nat) (rs : List Nat), b.cur.count = some n → b.cur.arrivals < n → b.later = [] → g ∉ b.cur.all →
     b.arrive g cnt rs = ({ b with later := [BarPhase.start.arrive g cnt rs] }, b.phase + 1)) ∧
   (∀ (b : Bar) (n g : Nat), b.cur.count = some n → b.cur.arrivals + 1 = n → b.cur.auto = true → g ∈ b.cur.due →
     b.later = [] → b.exit g = { Bar.start with phase := b.phase + 1 }) ∧
   (∀ (b : Bar) (n g : Nat), b.cur.count = some n → b.cur.arrivals + 1 < n → b.cur.auto = true → g ∈ b.cur.due →
     (b.exit g).cur.count = some (n - 1)))

/-! ## Global memory -/

/-- R114, R117, R118, R120, R128, R5: LDG whose active fibres are all covered, at addresses that answer and hold no
uncorrectable data, gives each fibre the bytes of memory under its group's own held stores, the lowest byte in the
lowest byte of the lowest register, here for data that comes without delay, for a volatile load or a group from which no
store is hidden. It changes no other register of the group's fibres and no byte of memory. R310-R312: whatever is hidden, the
fibres read in lane order, each the newest value or an older one; a load that goes no store back has seen all, and one that
goes back over a single hidden store returns what the bytes held before it. R117, R114: an access of LDG or STG that no live touch entry covers raises WINDOW with its address, for the fibres
concerned, when no fibre of the instruction is covered; memory is unchanged by the access. That a load is performed at its
issue, under the group's own held stores, and that `State.backs` picks the older value, is the model's choice (log entries
8, 70), as is the address that WINDOW gives, the one before the swizzle (log entry 28). -/
def Obligations.LoadsReadMemory : Prop :=
  (∀ (d a : BitVec 7) (sf : BitVec 4) (w : BitVec 2) (k c : BitVec 3) (s : State) (I : Issue) (F : Form),
     formOf (.ldg d a sf w k c) s = some F → Ready F s I → I.Lives →
     let n := 4 * 2 ^ w.toNat
     let at_ (l : Nat) : Cover := accessLane I (s.pulses I.core) sf.toNat l (I.R.v l a.toNat).toNat n false none
     (∀ l ∈ I.act, ∃ pva pa, at_ l = .hit pva pa ∧ s.reach pa = .ok ∧ s.badUnder I.G.held pa n = false) →
     s.delays.headD 0 = 0 → (k = 2 ∨ ∀ e ∈ s.past, I.party ∉ e.unseen) →
     ∃ t H, exec (.ldg d a sf w k c) s = .next t ∧ t.group? I.core I.g = some H ∧
       (∀ l ∈ I.act, ∀ pva pa, at_ l = .hit pva pa → ∀ j < n,
         (H.v l (d.toNat + j / 4)).extractLsb' (8 * (j % 4)) 8 = (overlay I.G.held none pa (s.rd pa n)).getD j 0) ∧
       (∀ l r, (l ∉ I.act ∨ r < d.toNat ∨ d.toNat + 2 ^ w.toNat ≤ r) → H.v l r = I.G.v l r) ∧
       (∀ l r, H.p l r = I.G.p l r) ∧ (∀ r, H.s r = I.G.s r) ∧ H.fpflags = I.G.fpflags ∧
       (∀ l ∈ I.lanes, (H.lane l).pc = I.pc + 4) ∧ t.mem = s.mem ∧
       (∀ x g, ¬(x = I.core ∧ g = I.g) → t.group? x g = s.group? x g)) ∧
  (∀ (d a : BitVec 7) (sf : BitVec 4) (w : BitVec 2) (k c : BitVec 3) (s : State) (I : Issue) (F : Form) (pa : Nat → Nat),
     formOf (.ldg d a sf w k c) s = some F → Ready F s I →
     let n := 4 * 2 ^ w.toNat
     let at_ (l : Nat) : Cover := accessLane I (s.pulses I.core) sf.toNat l (I.R.v l a.toNat).toNat n false none
     (∀ l ∈ I.act, ∃ pva, at_ l = .hit pva (pa l) ∧ s.reach (pa l) = .ok ∧ s.badUnder I.G.held (pa l) n = false) →
     let r := I.act.foldl (fun (u : State × List LaneOut) l =>
       let q := u.1.readSeen I.party (k == 2) none (pa l) n
       (q.1, u.2 ++ [{ lane := l, writes := wregs l d.toNat (loadWords n (overlay I.G.held none (pa l) q.2)) }]))
       ((F.slot s I).request I 0 (k == 2) (accessLines (F.slot s I) (I.act.map fun l => (l, at_ l))), [])
     exec (.ldg d a sf w k c) s = .next (r.1.finish I none r.2)) ∧
  (∀ (s : State) (p : Party) (vol : Bool) (pa n : Nat),
     ((vol = true ∨ ∀ e ∈ s.past, p ∉ e.unseen) → (s.readSeen p vol none pa n).2 = s.rd pa n) ∧
     (∀ e, s.past = [e] → e.hits none (s.ownAddr pa) n = true → p ∈ e.unseen → vol = false →
       (s.readSeen p vol none pa n).2 =
         (if s.backs.headD 0 = 0 then s.rd pa n else e.undo (s.ownAddr pa) (s.rd pa n)) ∧
       (s.backs.headD 0 = 0 → ∀ f ∈ (s.readSeen p vol none pa n).1.past, p ∉ f.unseen) ∧
       (s.readSeen p vol none pa n).1.mem = s.mem)) ∧
  (∀ (i : Instr) (s : State) (I : Issue) (F : Form) (d a : BitVec 7) (sf : BitVec 4) (w : BitVec 2) (k c : BitVec 3),
     formOf i s = some F → Ready F s I → (i = .ldg d a sf w k c ∨ i = .stg d a sf w k c) → I.G.touches = [] →
     let n := 4 * 2 ^ w.toNat
     let at_ (l : Nat) : Nat := (I.R.v l a.toNat).toNat
     let rec_ := I.T.rec_ sf.toNat
     (∀ l ∈ I.act, at_ l * rec_.stride + n ≤ rec_.extent ∧ (rec_.base + at_ l * rec_.stride) % n = 0) →
     exec i s = .next (((F.slot s I).serveLines I.core I.x []).finish I none
       (I.act.map fun l => { lane := l, trap := some (mkTrap 9 0 (rec_.base + at_ l * rec_.stride)) })))

/-- R115, R116: TCH whose active fibres all have a permitted address that translates records one touch entry, with the
address of each fibre; a dropped fibre's share says so. At most eight entries live. -/
def Obligations.TouchRecords : Prop :=
  ∀ (a : BitVec 7) (sf : BitVec 4) (w : BitVec 2) (k : BitVec 1) (c : BitVec 3) (s : State) (I : Issue) (F : Form),
    formOf (.tch a sf w k c) s = some F → Ready F s I →
    let n := 4 * 2 ^ w.toNat
    let at_ (l : Nat) := (I.T.rec_ sf.toNat).addr (I.R.v l a.toNat).toNat n (k == 0) (k == 1)
    let lines := I.act.filterMap fun l => match at_ l with
      | .ok (some (_, pva)) => some (pva / 128 * 128)
      | _ => none
    let tr := (F.slot s I).xlateLines I.core I.x (if k == 1 then .write else .read) lines
    ∀ share : Nat → TouchShare,
    (∀ l ∈ I.act, (at_ l = .ok none ∧ share l = { lane := l, dropped := true, va := 0, pa := 0 }) ∨
      (∃ va pva pa f, at_ l = .ok (some (va, pva)) ∧ lineResult tr.2 pva = .ok pa f ∧
        share l = { lane := l, dropped := false, va := pva, pa := pa })) →
    exec (.tch a sf w k c) s = .next ((tr.1.modGroup I.core I.g fun G =>
      let live := G.touches.filter fun t => s.pulses I.core ≤ t.issued + 256
      { G with touches := live.drop (live.length - 7) ++
          [{ slot := sf.toNat, write := k == 1, width := n, issued := s.pulses I.core,
             shares := I.act.map share }] }).finish I none (I.act.map fun l => { lane := l }))

/-- R114, R117, R118, R120, R121: STG, when every active fibre is covered by an entry for writing or dropped, its targets
answer, its group holds no store, and its stores are performed at once. Each byte of memory that a fibre covers takes the byte of its
registers, that of the highest lane where several cover it; every other byte of memory, and every register, is
unchanged. Stored to are the bytes from the physical address that the entry of the fibre gives. R121, R309-R311: a
non-temporal STG that fills no line, and a plain one that stays on its way, leave memory as it is: the group holds the
store, with the object of its record, the RELAX hint and the scope of a SCOPE hint. That a plain store may stay on its way,
as `State.stays` has it, is the model's choice (log entry 70). -/
def Obligations.StoresWriteMemory : Prop :=
  (∀ (d a : BitVec 7) (sf : BitVec 4) (w : BitVec 2) (k c : BitVec 3) (s : State) (I : Issue) (F : Form),
     formOf (.stg d a sf w k c) s = some F → Ready F s I → I.Lives → k ≠ 1 → I.G.held = [] →
     (k = 2 ∨ ∀ b ∈ s.stays, b = false) →
     let n := 4 * 2 ^ w.toNat
     let at_ (l : Nat) : Cover := accessLane I (s.pulses I.core) sf.toNat l (I.R.v l a.toNat).toNat n true none
     let to_ (l b : Nat) : Prop := ∃ pva pa, at_ l = .hit pva pa ∧ s.ownAddr pa ≤ b ∧ b < s.ownAddr pa + n
     (∀ l ∈ I.act, at_ l = .dropped ∨ ∃ pva pa, at_ l = .hit pva pa ∧ s.reach pa = .ok) →
     ∃ t H, exec (.stg d a sf w k c) s = .next t ∧ t.group? I.core I.g = some H ∧
       (∀ l ∈ I.act, ∀ pva pa, at_ l = .hit pva pa → ∀ j < n,
         (∀ m ∈ I.act, l < m → ¬to_ m (s.ownAddr pa + j)) →
         Memory.read t.mem (s.ownAddr pa + j) = (I.R.v l (d.toNat + j / 4)).extractLsb' (8 * (j % 4)) 8) ∧
       (∀ b, (∀ l ∈ I.act, ¬to_ l b) → Memory.read t.mem b = Memory.read s.mem b) ∧
       (∀ l r, H.v l r = I.G.v l r ∧ H.p l r = I.G.p l r) ∧ (∀ r, H.s r = I.G.s r) ∧ H.fpflags = I.G.fpflags ∧
       (∀ l ∈ I.lanes, (H.lane l).pc = I.pc + 4) ∧
       (∀ x g, ¬(x = I.core ∧ g = I.g) → t.group? x g = s.group? x g)) ∧
  (∀ (d a : BitVec 7) (sf : BitVec 4) (w : BitVec 2) (k c : BitVec 3) (s : State) (I : Issue) (F : Form) (l pva pa : Nat),
     formOf (.stg d a sf w k c) s = some F → Ready F s I → I.Lives → I.act = [l] →
     (k = 1 ∨ k ≠ 2 ∧ s.stays.headD false = true) →
     let n := 4 * 2 ^ w.toNat
     accessLane I (s.pulses I.core) sf.toNat l (I.R.v l a.toNat).toNat n true none = .hit pva pa → s.reach pa = .ok →
     let h : HeldStore := { since := s.coreCycle I.core, scr := none, pa := pa, bytes := storeData I.R l d.toNat n, nt := k == 1,
                            sobj := (I.T.rec_ sf.toNat).sobj, relax := I.hv.relax, scope := I.hv.scope }
     (k = 1 → lineFull (I.G.held ++ [h]) (lineOf pa) = false) →
     ∃ t H, exec (.stg d a sf w k c) s = .next t ∧ t.group? I.core I.g = some H ∧ H.held = I.G.held ++ [h] ∧
       t.mem = s.mem)

/-- R123-R125: ATG and ATGC, when the data registers fit the width of the record and every active fibre is covered at an
address that answers. The fibres act in ascending lane order, each on what the one before it left: it reads the value
in memory, writes the result of the operation there, and its registers take the value read. ATGC compares with its
first operand and writes its second. R124: the operations of the integer atomics on a value of `n` bytes, 4 or 8: 0 adds,
1 to 4 take the signed and unsigned minimum and maximum, 5 to 7 combine bits, 8 exchanges. That the stores which the group
holds to the bytes are performed first, and that the atomic is performed at its issue on the newest value, is the model's
choice (log entries 8, 70). -/
def Obligations.AtomicsUpdateMemory : Prop :=
  (∀ (i : Instr) (s : State) (I : Issue) (F : Form) (d a : BitVec 7) (sf : BitVec 4) (c : BitVec 3),
     formOf i s = some F → Ready F s I →
     let n := (I.T.rec_ sf.toNat).atomWidth
     let at_ (wd : Option Nat) (l : Nat) : Cover :=
       accessLane I (s.pulses I.core) sf.toNat l (I.R.v l a.toNat).toNat n true wd
     let covered (wd : Option Nat) (pa : Nat → Nat) : Prop := ∀ l ∈ I.act, ∃ pva, at_ wd l = .hit pva (pa l) ∧
       s.reach (pa l) = .ok ∧ s.bad (pa l) n = false
     let lines (vol : Bool) (wd : Option Nat) : State :=
       (F.slot s I).request I 2 vol (accessLines (F.slot s I) (I.act.map fun l => (l, at_ wd l)))
     let result (t : State) (pa : Nat → Nat) (f : Nat → Nat → Nat) : Out :=
       let r := I.act.foldl (fun (u : State × List LaneOut) l =>
         let v := (u.1.drainFor I.core I.g (pa l) n).seen I.party [(pa l, n)]
         let old := v.rdNat (pa l) n
         (if f l old = old then v else v.wr (pa l) (leBytes n (f l old)),
           u.2 ++ [{ lane := l, writes := wregs l d.toNat (loadWords n (leBytes n old)) }])) (t, [])
       .next (r.1.finish I none r.2)
     (∀ o pa, i = .atg d a sf o c → d.toNat % (n / 4) = 0 → d.toNat + n / 4 ≤ I.G.budget → covered (some n) pa →
       exec i s = result (lines false (some n)) pa fun l old => atomStep o.toNat n old (regValue I.R l d.toNat n)) ∧
     (∀ k pa, i = .atgc d a sf k c → d.toNat % (n / 2) = 0 → d.toNat + n / 2 ≤ I.G.budget → covered none pa →
       exec i s = result (lines (k == 2) none) pa fun l old =>
         if old = regValue I.R l d.toNat n then regValue I.R l (d.toNat + n / 4) n else old)) ∧
  (∀ n, (n = 4 ∨ n = 8) → ∀ old x : BitVec (8 * n), atomStep 0 n old.toNat x.toNat = (old + x).toNat ∧
     atomStep 1 n old.toNat x.toNat = (if x.slt old then x else old).toNat ∧
     atomStep 2 n old.toNat x.toNat = (if x.ult old then x else old).toNat ∧
     atomStep 3 n old.toNat x.toNat = (if old.slt x then x else old).toNat ∧
     atomStep 4 n old.toNat x.toNat = (if old.ult x then x else old).toNat ∧
     atomStep 5 n old.toNat x.toNat = (old &&& x).toNat ∧ atomStep 6 n old.toNat x.toNat = (old ||| x).toNat ∧
     atomStep 7 n old.toNat x.toNat = (old ^^^ x).toNat ∧ atomStep 8 n old.toNat x.toNat = x.toNat)

/-- R126, R127: MCS, RDS and RDS.F. An empty mask does nothing; a mask with a bit above 15 raises ILLOP. When the data
registers fit and every check of every active fibre passes, each fibre in ascending lane order acts on its
destinations in ascending slot order: MCS stores its registers, bound to the object of the destination's record (R319),
RDS adds them to the integer there and RDS.F to the number. That equal lines are one request for every class is the
model's choice (log entry 71), and that a block which the issuing generator team fills itself acts as FILLED is another (log
entry 29). -/
def Obligations.MultiDestinationStores : Prop :=
  ∀ (i : Instr) (s : State) (I : Issue) (F : Form) (d a : BitVec 7) (m : BitVec 4) (k c : BitVec 3),
    formOf i s = some F → Ready F s I → (i = .mcs d a m k c ∨ i = .rds d a m k c ∨ i = .rdsF d a m k c) →
    let mask := (I.R.s m.toNat).toNat
    let s0 := F.slot s I
    (mask = 0 → exec i s = .next (s0.finish I none [])) ∧
    (2 ^ 16 ≤ mask → exec i s = .next (s0.finish I none
      (I.act.map fun l => { lane := l, trap := some (mkTrap 1 0 mask) }))) ∧
    (∀ j0 js, mask < 2 ^ 16 → (List.range 16).filter (fun j => mask.testBit j) = j0 :: js →
      let n := (I.T.rec_ j0).atomWidth
      let idx (l : Nat) : Nat := (I.R.v l a.toNat).toNat
      let lines := I.act.flatMap fun l => (j0 :: js).filterMap fun j =>
        match (I.T.rec_ j).place (idx l) n with
        | .ok (some (_, pva)) => some (lineOf pva)
        | _ => none
      let reads : Bool := i != .mcs d a m k c
      let tr := s0.xlateLines I.core I.x (if reads then .atomic else .write) lines
      let D (l : Nat) : Dests :=
        checkDests I (tr.2.map fun e => (e.1, tr.1.ownBlock I.x I.T.gen e.1 e.2)) (j0 :: js) (idx l) n reads
      d.toNat % (n / 4) = 0 → d.toNat + n / 4 ≤ I.G.budget →
      (∀ l ∈ I.act, (D l).trap = none ∧ (D l).fill = none ∧
        (reads = false ∨ ∀ h ∈ (D l).hits, tr.1.reach h.2.2 = .ok ∧ tr.1.bad h.2.2 n = false)) →
      let u := tr.1.lineRequests I 3 none ((I.act.flatMap fun l =>
        (D l).hits.map fun h => (lineOf h.2.1, s0.ownAddr (lineOf h.2.2))).eraseDups)
      let put (v : State) (l j pa : Nat) : State :=
        if reads = false then v.storeBytes I (classKind k false (I.T.rec_ j).sobj I.hv.scope) pa (storeData I.R l d.toNat n)
        else
          let v1 := v.drainFor I.core I.g pa n
          v1.wr pa (leBytes n (atomStep (if i = .rds d a m k c then 0 else 9) n (v1.rdNat pa n)
            (regValue I.R l d.toNat n)))
      exec i s = .next ((I.act.foldl (fun v l => (D l).hits.foldl (fun v h => put v l h.1 h.2.2) v) u).finish I none []))

/-! ## Scratchpads -/

/-- R128-R131, R268-R271: loads, stores and atomics on a scratchpad level and on a lane slice, when every active fibre's
offset is aligned and within the allocation and no uncorrectable byte is read. The byte addressed is the base of the
allocation plus the offset, under the swizzle; fibres act in ascending lane order, and a 2-byte load zero-extends. A load
finds the stores that its own group holds, over the newest value or an older one that R311 lets it return (log entry 8),
and an atomic performs those that meet its bytes first; that a store to a level stays on its way or is performed, as
`State.stays` has it, is the model's choice (log entry 70). -/
def Obligations.ScratchpadAccesses : Prop :=
  ∀ (i : Instr) (s : State) (I : Issue) (F : Form), formOf i s = some F → Ready F s I →
    let s0 := F.slot s I
    let width (w : BitVec 2) : Nat := if w = 0 then 4 else if w = 1 then 8 else if w = 2 then 16 else 2
    let off (a : BitVec 7) (o l : Nat) : Nat := (I.R.v l a.toNat).toNat + 16 * o
    let fits (p : Nat → Place) (n : Nat) (a : BitVec 7) (o : Nat) : Prop :=
      ∀ l ∈ I.act, off a o l + n ≤ (p l).2.2 ∧ off a o l % n = 0
    let pa (p : Nat → Place) (sw : Nat) (a : BitVec 7) (o l : Nat) : Nat := swizzle ((p l).2.1 + off a o l) sw
    let clean (p : Nat → Place) (n sw : Nat) (a : BitVec 7) (o : Nat) : Prop :=
      ∀ l ∈ I.act, s.scrBadUnder I.G.held (p l).1 (pa p sw a o l) n = false
    let loads (p : Nat → Place) (n sw : Nat) (d a : BitVec 7) (o : Nat) : Out :=
      let r := I.act.foldl (fun (u : State × List LaneOut) l =>
        let q := u.1.readSeen I.party false (some (p l).1) (pa p sw a o l) n
        (q.1, u.2 ++ [{ lane := l, writes := wregs l d.toNat (loadWords n
          (overlay I.G.held (some (p l).1) (pa p sw a o l) q.2)) }])) (s0, [])
      .next (r.1.finish I none r.2)
    let stores (put : State → Scr → Nat → List Byte → State) (p : Nat → Place) (n sw : Nat) (d a : BitVec 7) (o : Nat) : Out :=
      .next ((I.act.foldl (fun t l => put t (p l).1 (pa p sw a o l) (storeData I.R l d.toNat n)) s0).finish I none
        (I.act.map fun l => { lane := l }))
    let slice (l : Nat) : Place := (.slice I.core, 4096 * (32 * (I.g / 16) + l) + I.G.lbase, I.T.lsize)
    (∀ d a lv sw w o c, i = .ldx d a lv sw w o c →
      let p (_ : Nat) : Place := I.T.level lv.toNat
      fits p (width w) a o.toNat → clean p (width w) sw.toNat a o.toNat →
      exec i s = loads p (width w) sw.toNat d a o.toNat) ∧
    (∀ d a lv sw w o c, i = .stx d a lv sw w o c →
      let p (_ : Nat) : Place := I.T.level lv.toNat
      fits p (width w) a o.toNat →
      exec i s = stores (fun u x b bs => u.storeScr I x b bs) p (width w) sw.toNat d a o.toNat) ∧
    (∀ d a w o c, i = .ldl d a w o c → fits slice (width w) a o.toNat → clean slice (width w) 0 a o.toNat →
      exec i s = loads slice (width w) 0 d a o.toNat) ∧
    (∀ d a w o c, i = .stl d a w o c → fits slice (width w) a o.toNat →
      exec i s = stores State.scrWrite slice (width w) 0 d a o.toNat) ∧
    (∀ d a lv q w r c, i = .atx d a lv q w r c →
      let n := if w = 0 then 4 else 8
      let p (_ : Nat) : Place := I.T.level lv.toNat
      fits p n a 0 → clean p n 0 a 0 →
      let res := I.act.foldl (fun (u : State × List LaneOut) l =>
        let v := u.1.performHeld I.core I.g fun h => h.meets (some (p l).1) (pa p 0 a 0 l) n
        let old := leNat (v.scrRead (p l).1 (pa p 0 a 0 l) n)
        (v.scrWrite (p l).1 (pa p 0 a 0 l) (leBytes n (atomStep (q ++ r).toNat n old (regValue I.R l d.toNat n))),
          u.2 ++ [{ lane := l, writes := wregs l d.toNat (loadWords n (leBytes n old)) }])) (s0, [])
      exec i s = .next (res.1.finish I none res.2))

/-! ## Sync objects and rings -/

/-- R135, R137-R140, R301-R304: the instructions on a valid sync object. ACQ takes a free lock that no earlier ACQ waits
for, and waits for one that is held; REL frees the lock of its own group; ARV and ARV.X arrive at a barrier, with the
count in the register or with bytes declared, and add to a counter; WAITP and WAITP.NF go on when a barrier has left
the phase or a counter has reached the value, WAITP with the trap of the object when its FAULT bit is set; SOFLG reads
a word, SOFLG.FLAG.C reads the flags and clears them. An instruction that does not fit the object, a WAITP on a lock
among them, sets MISUSE; a WAITP on a counter that has not reached the value waits. R314: a release by a group none of
whose far stores is outstanding has performed the stores that it publishes; one by a group with such a store waits. R308,
R310, R315: a release or FENCE of one party makes a store of it seen by the party that acquires the object, or makes a
FENCE, afterwards, when the scope of each includes the other and the stated scope of the store includes the acquirer; else
the store stays unseen. Which older value a load then returns is open (log entry 8). R138, R148, R300: a barrier object advances by as many phases as its target goes into the arrivals while no byte is pending,
and by none while bytes are; arrivals declare bytes, contributions take them away. -/
def Obligations.SyncObjectsAct : Prop :=
  (∀ (i : Instr) (s t : State) (I : Issue) (F : Form) (r : BitVec 7) (pa : Nat) (ob : Obj), formOf i s = some F →
     Ready F s I → (F.slot s I).objFor I (I.R.s r.toNat).toNat = (t, .ok (pa, ob)) →
     let k := (I.R.s r.toNat).toNat
     let on (u : State) : Out := .next (u.finish I none [])
     let reads (u : State) (d : BitVec 7) (v : Nat) : Out :=
       .next (u.finish I none [{ lane := I.low, writes := [(.s d.toNat, BitVec.ofNat 32 v)] }])
     let scope (sf : BitVec 3) : Nat := I.hv.scope.getD sf.toNat
     let rel (sf : BitVec 3) : State := t.release I.core I.g I.x I.T I.tid k (scope sf)
     let acq (u : State) (sf : BitVec 3) : State := u.acquire I.party (some k) (scope sf)
     let near := t.farStores I.core I.g = false
     let misuse (u : State) : State := u.wr pa ({ ob with flags := ob.flags ||| 2 ^ 11 } : Obj).bytes
     let val (n : BitVec 7) : Nat := (I.R.s n.toNat).toNat
     let mine := I.g + 64 * I.core
     (∀ sf c, i = .acq sf r c → ob.kind = 1 → ob.state = 0xFFFFFFFF → t.lockAhead I.x k t.nextOp = false →
       exec i s = on (acq (t.wr pa ({ ob with state := mine } : Obj).bytes) sf)) ∧
     (∀ sf c, i = .acq sf r c → ob.kind = 1 → ob.state ≠ 0xFFFFFFFF →
       exec i s = .next (({ t with nextOp := t.nextOp + 1 } : State).hold I (some i) (.lock k t.nextOp) [])) ∧
     (∀ sf c, i = .acq sf r c → ob.kind ≠ 1 → exec i s = on (acq t sf)) ∧
     (∀ sf c, i = .rel sf r c → near → ob.kind = 1 → ob.state = mine →
       exec i s = on ((rel sf).wr pa ({ ob with state := 0xFFFFFFFF } : Obj).bytes)) ∧
     (∀ sf c, i = .rel sf r c → near → ob.kind = 1 → ob.state ≠ mine → exec i s = on (misuse (rel sf))) ∧
     (∀ sf c, i = .rel sf r c → near → ob.kind ≠ 1 → exec i s = on (rel sf)) ∧
     (∀ sf n c, i = .arv sf n r c → near → ob.kind = 0 →
       exec i s = reads ((rel sf).wr pa (ob.arrive (val n) 0).bytes) n ob.state) ∧
     (∀ sf n c, i = .arv sf n r c → near → ob.kind = 2 →
       exec i s = reads ((rel sf).wr pa ({ ob with state := (ob.state + val n) % 2 ^ 32 } : Obj).bytes) n
         ((ob.state + val n) % 2 ^ 32)) ∧
     (∀ sf n c, i = .arv sf n r c → ob.kind = 1 → exec i s = on (misuse t)) ∧
     (∀ sf n c, i = .arvX sf n r c → near → ob.kind = 0 →
       exec i s = reads ((rel sf).wr pa (ob.arrive 1 (val n)).bytes) n ob.state) ∧
     (∀ sf n c, i = .arvX sf n r c → ob.kind ≠ 0 → exec i s = on (misuse t)) ∧
     (∀ sf n c, (i = .rel sf r c ∨ i = .arv sf n r c ∧ ob.kind ≠ 1 ∨ i = .arvX sf n r c ∧ ob.kind = 0) →
       t.farStores I.core I.g = true → exec i s = .next (t.hold I (some i) (.poll 15) [])) ∧
     (∀ sf p c, (i = .waitp sf p r c ∧ ob.flags.testBit 8 = false ∨ i = .waitpNf sf p r c) →
       (ob.kind = 0 ∧ ob.state ≠ val p ∨ ob.kind = 2 ∧ sub32 ob.state (val p) < 2 ^ 31) → exec i s = on (acq t sf)) ∧
     (∀ sf p c, i = .waitp sf p r c → ob.flags.testBit 8 = true →
       (ob.kind = 0 ∧ ob.state ≠ val p ∨ ob.kind = 2 ∧ sub32 ob.state (val p) < 2 ^ 31) →
       exec i s = .next (t.finish I none (I.act.map fun l =>
         { lane := l, trap := some { code := ob.flags / 2 ^ 16 % 256, detail := 0, addr := k, obj := true, nested := false,
                                     onyx := none } }))) ∧
     (∀ sf p c, (i = .waitp sf p r c ∨ i = .waitpNf sf p r c) → ob.kind = 0 → ob.state = val p →
       exec i s = .next (t.hold I (some i) (.object k (val p) none) [])) ∧
     (∀ sf p c, (i = .waitp sf p r c ∨ i = .waitpNf sf p r c) → ob.kind = 2 → 2 ^ 31 ≤ sub32 ob.state (val p) →
       exec i s = .next (t.hold I (some i) (.poll 4) [])) ∧
     (∀ sf p c, (i = .waitp sf p r c ∨ i = .waitpNf sf p r c) → ob.kind = 1 → exec i s = on (misuse t)) ∧
     (∀ d c, i = .soflg 0 d r c → exec i s = reads t d ob.flags) ∧
     (∀ d c, i = .soflg 1 d r c → exec i s = reads t d ob.state) ∧
     (∀ d c, i = .soflg 2 d r c → exec i s = reads t d (if ob.kind = 0 then ob.arrivals else 0)) ∧
     (∀ d c, i = .soflg 3 d r c → exec i s = reads t d (if ob.kind = 0 then (ob.pending % 2 ^ 32).toNat else 0)) ∧
     (∀ d c, i = .soflgFlagC d r c →
       exec i s = reads (t.wr pa ({ ob with flags := 0 } : Obj).bytes) d ob.flags)) ∧
  (∀ (o : Obj) (n b : Nat), o.kind = 0 → 0 < o.target →
     (o.arrive n b).pending = o.pending + b ∧ (o.contribute b).pending = o.pending - b ∧
     (o.pending + b ≠ 0 → (o.arrive n b).state = o.state ∧ (o.arrive n b).arrivals = o.arrivals + n) ∧
     (o.pending + b = 0 → (o.arrive n b).state = (o.state + (o.arrivals + n) / o.target) % 2 ^ 32 ∧
       (o.arrive n b).arrivals = (o.arrivals + n) % o.target)) ∧
  (∀ (s : State) (q : Party) (obj : Option Nat) (r a : Nat) (mine : Past → Bool) (e : Past), s.past = [e] → e.pubs = [] →
     q ∈ e.unseen → mine e = true → obj ≠ some 0 →
     let t := (s.publish e.by_ obj r mine).acquire q obj a
     if scopeIncludes e.scope e.by_ q && scopeIncludes r e.by_ q && scopeIncludes a q e.by_ then
       ∀ f ∈ t.past, q ∉ f.unseen
     else ∃ f ∈ t.past, q ∈ f.unseen)

/-- R141, R142, R296: the ring instructions on a valid ring. RCLM and RCLM.T claim the slot of the write counter while one
is free; RPUB publishes claimed slots; RGET and RGET.T take the slot of the read counter while one is filled; RPUT
frees slots taken; both are releases of the ring's object (R314) and wait for far stores of the group. RGET is an acquire
of it (R307). A count of 0 does nothing. Without a slot the plain forms wait and the .T forms give all ones; a count too
large raises OOB. -/
def Obligations.RingsAct : Prop :=
  ∀ (i : Instr) (s t : State) (I : Issue) (F : Form) (r : BitVec 7) (pa : Nat) (rg : Ring), formOf i s = some F →
    Ready F s I → (F.slot s I).ringFor I (I.R.s r.toNat).toNat = (t, .ok (pa, rg)) →
    let put (u : State) (g : Ring) : State :=
      u.wr (pa + 16) (leBytes 4 g.w ++ leBytes 4 g.rd ++ leBytes 4 g.f ++ leBytes 4 g.fr)
    let gives (u : State) (d : BitVec 7) (v : Nat) : Out :=
      .next (u.finish I none [{ lane := I.low, writes := [(.s d.toNat, BitVec.ofNat 32 v)] }])
    let claimed : Ring := { rg with w := (rg.w + 1) % 2 ^ 32, fr := rg.fr - 1 }
    let taken : Ring := { rg with rd := (rg.rd + 1) % 2 ^ 32, f := rg.f - 1 }
    let out := (rg.w + (2 ^ 32 - rg.rd % 2 ^ 32)) % 2 ^ 32
    let rel (sf : BitVec 3) : State := t.release I.core I.g I.x I.T I.tid rg.fobj (I.hv.scope.getD sf.toNat)
    let near := t.farStores I.core I.g = false
    (∀ sf d c, (i = .rclm sf d r c ∨ i = .rclmT sf d r c) → rg.fr ≠ 0 →
      exec i s = gives (put t claimed) d (rg.w % rg.c)) ∧
    (∀ sf d c, (i = .rget sf d r c ∨ i = .rgetT sf d r c) → rg.f ≠ 0 →
      exec i s = gives ((put t taken).acquire I.party (some rg.fobj) (I.hv.scope.getD sf.toNat)) d (rg.rd % rg.c)) ∧
    (∀ sf d c, i = .rclm sf d r c → rg.fr = 0 → exec i s = .next (t.hold I (some i) (.poll 5) [])) ∧
    (∀ sf d c, i = .rget sf d r c → rg.f = 0 → exec i s = .next (t.hold I (some i) (.poll 5) [])) ∧
    (∀ sf d c, i = .rclmT sf d r c → rg.fr = 0 → exec i s = gives t d 0xFFFFFFFF) ∧
    (∀ sf d c, i = .rgetT sf d r c → rg.f = 0 → exec i s = gives t d 0xFFFFFFFF) ∧
    (∀ sf n c, (i = .rpub sf n r c ∨ i = .rput sf n r c) → (I.R.s n.toNat).toNat = 0 →
      exec i s = .next (t.finish I none [])) ∧
    (∀ sf n c, (i = .rpub sf n r c ∧ (I.R.s n.toNat).toNat ≤ out - rg.f ∨
        i = .rput sf n r c ∧ (I.R.s n.toNat).toNat ≤ rg.c - rg.fr - out) → (I.R.s n.toNat).toNat ≠ 0 →
      t.farStores I.core I.g = true → exec i s = .next (t.hold I (some i) (.poll 15) [])) ∧
    (∀ sf n c, i = .rpub sf n r c → near → (I.R.s n.toNat).toNat ≠ 0 → (I.R.s n.toNat).toNat ≤ out - rg.f →
      exec i s = .next ((put (rel sf) { rg with f := rg.f + (I.R.s n.toNat).toNat }).finish I none [])) ∧
    (∀ sf n c, i = .rput sf n r c → near → (I.R.s n.toNat).toNat ≠ 0 → (I.R.s n.toNat).toNat ≤ rg.c - rg.fr - out →
      exec i s = .next ((put (rel sf) { rg with fr := rg.fr + (I.R.s n.toNat).toNat }).finish I none [])) ∧
    (∀ sf n c, (i = .rpub sf n r c ∧ out - rg.f < (I.R.s n.toNat).toNat ∨
        i = .rput sf n r c ∧ rg.c - rg.fr - out < (I.R.s n.toNat).toNat) →
      exec i s = .next (t.finish I none
        (I.act.map fun l => { lane := l, trap := some (mkTrap 5 0 (I.R.s n.toNat).toNat) })))

/-! ## Engines, names and generators -/

/-- R133, R134, R143-R146, R148, R291: copies, decode operations, table loads and tile moves whose checks pass and whose
die's queue has room enter that queue, with the group's held stores in memory first, and the batch goes on; TMOV.W
waits for the end of its operation and, tried again, goes on when it has ended and waits on when it has not. The order of the
issue checks, which a well-formed operation passes all, and the fault of a CTAB offset or of a CPYD count that is no
multiple are the model's choice (log entries 31, 72). -/
def Obligations.CopiesEnterTheQueue : Prop :=
  (∀ (s : State) (I : Issue) (n m : BitVec 7) (c : BitVec 3) (tk : Nat), Again s I → I.B.wait = some (.op tk 15) →
    exec (.tmovW n m c) s = .next
      (if (tget? s.tickets tk).isSome then ({ s with tickets := tdel s.tickets tk } : State).finish I none []
       else s.hold I (some (.tmovW n m c)) (.op tk 15) [])) ∧
  ∀ (i : Instr) (s : State) (I : Issue) (F : Form), formOf i s = some F → Ready F s I →
    let s0 := F.slot s I
    let r (n : BitVec 7) (j : Nat) : Nat := (I.R.s (n.toNat + j)).toNat
    let room (t : State) : Prop := t.queueRoom (I.core / 24) I.x 1 = true
    let fits (a : SideArg) (write : Bool) : Prop := a.oob I = none ∧ a.prot I write = none
    (∀ n m c k ob t, i = .tmov n m c → tmovOp false n m I = .ok (k, ob) → s0.checkObj I ob = (t, none) → room t →
      exec i s = .next ((t.enqueue I 0x2D 0 k ob (I.hv.scope.getD 2) 1 false).finish I none [])) ∧
    (∀ n m c k ob, i = .tmovW n m c → tmovOp true n m I = .ok (k, ob) → room s0 →
      exec i s = .next ((s0.enqueue I 0x2D 0 k 0 (I.hv.scope.getD 2) 1 true).hold I (some i) (.op s.nextOp 15) [])) ∧
    (∀ sf n m c t, i = .cpyb sf n m c → r n 0 / 2 ^ 19 = 0 →
      let slot := (r n 0).testBit 18
      let S : SideArg := { space := r n 0 / 2 ^ 8 % 4, slot := r n 0 % 16, swz := r n 0 / 2 ^ 12 % 8, off := r n 1,
                           len := r n 3 }
      let D : SideArg := { space := r n 0 / 2 ^ 10 % 4, slot := r n 0 / 16 % 16, swz := r n 0 / 2 ^ 15 % 8, off := r n 2,
                           len := r n 3 }
      (S.space = 0 → S.swz = 0) → (D.space = 0 → D.swz = 0) → r m 0 < 2 ^ 20 → fits S false →
      (slot = false → fits D true) → (slot = true → D.space = 0 ∧ D.slot = 0 ∧ r n 2 = 0 ∧ r m 1 ≠ 0) →
      r n 1 % 4 = 0 → r n 2 % 4 = 0 → r n 3 % 4 = 0 →
      s0.checkNames I (r m 0) (r m 1) (if slot then some (r n 3) else none) = (t, none) → room t →
      exec i s = .next ((t.enqueue I 0x30 1 (.copy (S.side I) (D.side I) (r n 3) (r m 1) slot) (r m 0)
        (I.hv.scope.getD sf.toNat) 1 false).finish I none [])) ∧
    (∀ sf n m c t, i = .cpyd sf n m c → (r n 0).testBit 12 = false → r n 0 / 2 ^ 23 = 0 → r n 0 / 2 ^ 10 % 4 < 3 →
      r n 0 / 2 ^ 13 % 8 < 4 → r n 3 ≠ 0 → r n 3 % (64 * 2 ^ (r n 0 / 2 ^ 13 % 8)) = 0 → r m 0 < 2 ^ 20 →
      let cb := r n 0 / 2 ^ 10 % 4 + 2
      let S : SideArg := { space := 0, slot := r n 0 % 16, swz := 0, off := r n 1,
                           len := ((r n 3 * cb + 7) / 8 + 3) / 4 * 4 }
      let D : SideArg := { space := r n 0 / 2 ^ 8 % 4, slot := r n 0 / 16 % 16, swz := r n 0 / 2 ^ 20 % 8, off := r n 2,
                           len := 2 * r n 3 }
      (D.space = 0 → D.swz = 0) → fits S false → fits D true → r n 1 % 4 = 0 → r n 2 % 4 = 0 →
      s0.checkNames I (r m 0) (r m 1) none = (t, none) → room t →
      exec i s = .next ((t.enqueue I 0x31 0 (.decode ((I.T.rec_ S.slot).base + r n 1) (D.side I) cb
        (64 * 2 ^ (r n 0 / 2 ^ 13 % 8)) (r n 3) (r n 0 / 2 ^ 16 % 16) (r m 1) (I.T.rec_ S.slot).swz) (r m 0)
        (I.hv.scope.getD sf.toNat) 1 false).finish I none [])) ∧
    (∀ n c, i = .ctab n c → r n 0 / 2 ^ 14 = 0 → 1 ≤ r n 0 / 2 ^ 8 % 32 → r n 0 / 2 ^ 8 % 32 ≤ 16 →
      let S : SideArg := { space := 0, slot := r n 0 % 16, swz := 0, off := r n 1, len := 4 * (r n 0 / 2 ^ 8 % 32) }
      let key := I.x * 16 + r n 0 / 16 % 16
      fits S false → r n 1 % 4 = 0 → room s0 → ((s.die (I.core / 24)).stream key).tables.length < 4 →
      exec i s = .next (((s0.modDie (I.core / 24) fun D => { D with streams := tset D.streams key { D.stream key with
          tables := (D.stream key).tables ++ [{ op := s.nextOp, ready := false, failed := none, entries := [] }] } }).enqueue
        I 0x31 1 (.table ((I.T.rec_ S.slot).base + r n 1) (r n 0 / 2 ^ 8 % 32) (r n 0 / 16 % 16) ((r n 0).testBit 13)
          (I.T.rec_ S.slot).swz) 0 0 1 false).finish I none [])) ∧
    (∀ w a n c t, i = .cpy w a n c → r n 0 / 2 ^ 10 = 0 → r n 0 / 16 % 4 < 3 → r n 1 < 2 ^ 20 →
      s0.checkObj I (r n 1) = (t, none) →
      let width := 4 * 2 ^ w.toNat
      let toMem := (r n 0).testBit 6
      let at_ (l : Nat) := (I.T.rec_ (r n 0 % 16)).addr (I.R.v l (a.toNat + 1)).toNat width (!toMem) toMem
      let lines := I.act.filterMap fun l => match at_ l with
        | .ok (some (_, pva)) => some (lineOf pva)
        | _ => none
      let tr := t.xlateLines I.core I.x (if toMem then .write else .read) lines
      let p := I.T.level (r n 0 / 16 % 4)
      let o (l : Nat) : Nat := (I.R.v l a.toNat).toNat
      ∀ f : Nat → Transfer,
      (∀ l ∈ I.act, o l + width ≤ p.2.2 ∧ o l % width = 0 ∧ ∃ va pva pa fl, at_ l = .ok (some (va, pva)) ∧
        lineResult tr.2 pva = .ok pa fl ∧
        f l = { va := pva, pa := pa, scr := swizzle (p.2.1 + o l) (r n 0 / 2 ^ 7 % 8) }) →
      let glines := ((I.act.map f).map fun e => (lineOf e.va, lineOf e.pa)).eraseDups
      tr.1.queueRoom (I.core / 24) I.x glines.length = true →
      exec i s = .next (((tr.1.enqueue I 0x30 0 (.cpy (!toMem) (r n 0 / 16 % 4) width (I.act.map f)) (r n 1)
        (I.hv.scope.getD 2) glines.length false).lineRequests I 4 (some tr.1.nextOp) glines).finish I
        none (I.act.map fun l => { lane := l })))

/-- R150-R154, R386-R397: the name instructions with a name and a reach that the context may use. INTR with a legal
destination and object makes an interest in the lowest free place of its die; ANNC enters the die's queue; NRET sends
a retirement to every router of its reach and waits; NPRB tells whether a copy is held, whether the name is retired
and whether an interest is pending, at the routers of the reach in its operand whatever a SCOPE hint says (R113). That an
interest is pending in the state Waiting alone is the model's choice (log entry 74). -/
def Obligations.NamesAct : Prop :=
  ∀ (i : Instr) (s : State) (I : Issue) (F : Form) (n : BitVec 7) (r : BitVec 3), formOf i s = some F → Ready F s I →
    let s0 := F.slot s I
    let name := I.R.spair n.toNat
    let reach := I.hv.scope.getD r.toNat
    let die := I.core / 24
    let may (k : Nat) : Prop := 2 ≤ k ∧ k ≤ 4 ∧ (k = 4 → (s.ctx I.x).fabric = true)
    name / 2 ^ 44 % 2 ^ 20 < (s.ctx I.x).ntens →
    let v (m : BitVec 7) (j : Nat) : Nat := (I.R.s (m.toNat + j)).toNat
    let side (m : BitVec 7) : SideArg := { space := v m 0 / 16 % 4, slot := v m 0 % 16, swz := v m 0 / 64 % 8,
                                           off := v m 1, len := v m 2 }
    let legal (m : BitVec 7) (write : Bool) : Prop := ((side m).space = 0 → (side m).swz = 0) ∧ 4 ≤ v m 2 ∧
      v m 2 ≤ 65536 ∧ v m 3 < 2 ^ 20 ∧ (side m).oob I = none ∧ (side m).prot I write = none ∧ v m 1 % 4 = 0 ∧
      v m 2 % 4 = 0
    (∀ m c t u e, i = .intr r n m c → may reach → v m 0 / 2 ^ 9 % 2 ^ 7 = 0 → legal m true → v m 3 ≠ 0 →
      s0.checkObj I (v m 3) = (t, none) → t.touchRange I ((side m).side I) (v m 2) = (u, none) →
      tfree (u.die die).interests 0 4096 = some e →
      exec i s = .next ((u.addInterest die e
        { ctx := I.x, tid := I.tid, name := name, reach := reach, dst := (side m).side I, cap := v m 2, obj := v m 3,
          scope := reach, core := I.core, expires := u.ptp + 1000 * (v m 0 / 2 ^ 16 % 2 ^ 16), st := .waiting,
          sent := false, origin := I.origin } (v m 0 / 2 ^ 16 % 2 ^ 16)).finish I none [])) ∧
    (∀ m c t, i = .annc r n m c → may reach → v m 0 / 2 ^ 9 = 0 → legal m false → s0.checkObj I (v m 3) = (t, none) →
      t.queueRoom die I.x 1 = true →
      exec i s = .next ((t.enqueue I 0x32 1 (.announce ((side m).side I) (v m 2) reach name) (v m 3) reach 1 false).finish
        I none [])) ∧
    (∀ c, i = .nret r n c → may reach → s0.farStores I.core I.g = false →
      let s1 : State := { s0.drainWc I.core I.g with nextOp := (s0.drainWc I.core I.g).nextOp + 1 }
      exec i s = .next (((s1.retireCtxs I.x reach).foldl (fun u y => (reachRouters reach die).foldl (fun w q =>
          { w with nextOp := w.nextOp + 1
                   retires := w.retires ++ [{ id := w.nextOp, ctx := y, tensor := name / 2 ^ 44 % 2 ^ 20,
                                              iter := name % 2 ^ 16, router := q, ticket := s.nextOp,
                                              since := s.now }] }) u) s1).hold I
        (some i) (.op s.nextOp 15) [])) ∧
    (∀ d c, i = .nprb r n d c → may r.toNat →
      let qs := if r.toNat = 2 then [die] else List.range 10
      let bitOf (b : Bool) (k : Nat) : Nat := if b then k else 0
      exec i s = .next (s0.finish I none [{ lane := I.low, writes := [(.s d.toNat, BitVec.ofNat 32
        (bitOf (qs.any fun q => (s0.findCopy q I.x name).isSome) 1 +
         bitOf (qs.any fun q =>
           s0.retiredAt I.x q (name / 2 ^ 44 % 2 ^ 20) (name % 2 ^ 16)) 2 +
         bitOf ((qs.filter (· < 8)).any fun q => (s.die q).interests.any fun e =>
           s0.shareNames I.x e.2.ctx && e.2.name == name && decide (e.2.st = .waiting)) 4))] }]))

/-- R155-R157, R385, R400-R406: GREQ tells the state of the block at its address: 5 when the fibre is dropped, 4 for
memory that is not procedural, 2 for a filled block and for one that an eviction is about to take (R404), 3 for a POISONED
one; for one that is FILLING it tells 1, and for one that is UNFILLED it starts the fill and tells 0, unless the chain or the
depth of a generator team forbids it (R402), which raises FILL. That the block which a generator team fills itself acts as
FILLED for it is the model's choice (log entry 29). GDONE and GFAIL give a generator's verdict, the first in its
team, once no store of the group to a far target is outstanding (R314); a team that is no generator raises PROT. -/
def Obligations.GeneratorsAct : Prop :=
  ∀ (i : Instr) (s : State) (I : Issue) (F : Form), formOf i s = some F → Ready F s I →
    let s0 := F.slot s I
    let ctl (n : BitVec 7) : Nat := (I.R.s n.toNat).toNat
    let at_ (n : BitVec 7) := (I.T.rec_ (ctl n)).addr (I.R.s (n.toNat + 1)).toNat 4 true false
    let tells (u : State) (d : BitVec 7) (x : Nat) : Out :=
      .next (u.finish I none [{ lane := I.low, writes := [(.s d.toNat, BitVec.ofNat 32 x)] }])
    let drained := s0.drainWc I.core I.g
    let verdict (v : Option Nat) (g : GenFill) : State :=
      drained.modTeam I.tid fun T => { T with gen := some { g with verdict := some v } }
    (∀ n d c, i = .greq n d c → ctl n < 16 → at_ n = .ok none → exec i s = tells s0 d 5) ∧
    (∀ n d c va pva t pa flags, i = .greq n d c → ctl n < 16 → at_ n = .ok (some (va, pva)) →
      s0.xlateCore I.core I.x (lineOf pva) .read = (t, .ok pa flags) →
      exec i s = tells t d (if flags.testBit 7 then 2 else 4)) ∧
    (∀ n d c va pva t b fs, i = .greq n d c → ctl n < 16 → at_ n = .ok (some (va, pva)) →
      s0.xlateCore I.core I.x (lineOf pva) .read = (t, .proc b fs) → I.T.gen.map (·.block) ≠ some b →
      ((t.ctx I.x).evictsBlock b = true → exec i s = tells t d 2) ∧
      ((t.ctx I.x).evictsBlock b = false → fs = fsPoisoned → exec i s = tells t d 3) ∧
      ((t.ctx I.x).evictsBlock b = false → fs = fsUnfilled →
        (∀ g, I.T.gen = some g → g.depth < (t.ctx I.x).depthLimit) → exec i s = tells (t.beginFill I.x I.T.gen b) d 0) ∧
      ((t.ctx I.x).evictsBlock b = false → fs = fsFilling → (∀ g, I.T.gen = some g → t.inChain I.x g b = false) →
        exec i s = tells t d 1) ∧
      (∀ g, I.T.gen = some g → (t.ctx I.x).evictsBlock b = false →
        (fs = fsUnfilled ∧ (t.ctx I.x).depthLimit ≤ g.depth ∨ fs = fsFilling ∧ t.inChain I.x g b = true) →
        exec i s = .next (t.finish I none (I.act.map fun l =>
          { lane := l, trap := some (mkTrap fcFill (if fs = fsUnfilled then 0xFFFE else 0xFFFD) va) })))) ∧
    (∀ c g, i = .gdone c → s0.farStores I.core I.g = false → I.T.gen = some g → g.decided = false → g.verdict = none →
      exec i s = .next ((verdict none g).finish I none [])) ∧
    (∀ k c g, i = .gfail k c → s0.farStores I.core I.g = false → I.T.gen = some g → g.decided = false → (g.verdict = none ∨ g.verdict = some none) →
      exec i s = .next ((verdict (some ((I.R.s k.toNat).toNat % 65536)) g).finish I none [])) ∧
    (((∃ c, i = .gdone c) ∨ ∃ k c, i = .gfail k c) → I.T.gen = none →
      exec i s = .next (s0.finish I none (I.act.map fun l => { lane := l, trap := some (mkTrap 7 0 0) })))

/-! ## The matrix unit -/

/-- R158-R162, R381, R382: a matrix instruction whose parameter block lies aligned in the team's unit scratchpad and
passes the checks of its operation, with a valid object, enters the queue of its core when that holds fewer than eight
operations, with the words of its block as they stand behind the group's earlier stores. The batch goes on; under a .W
form it waits for the end. That the array takes the oldest operation of its queue when it is free, here at the issue, is the
model's choice (log entries 17, 37). -/
def Obligations.MatrixOperationsEnterTheQueue : Prop :=
  ∀ (i : Instr) (s t : State) (I : Issue) (F : Form) (kind : Nat) (sf : BitVec 3) (n : BitVec 7)
    (o : Option (BitVec 7)) (c : BitVec 3), formOf i s = some F → Ready F s I → kind < 5 →
    (i = match kind, o with
      | 0, some r => .mbld sf n r c
      | 0, none => .mbldW sf n c
      | 1, some r => .mmul sf n r c
      | 1, none => .mmulW sf n c
      | 2, some r => .mhad sf n r c
      | 2, none => .mhadW sf n c
      | 3, some r => .msca sf n r c
      | 3, none => .mscaW sf n c
      | _, some r => .mqnt sf n r c
      | _, none => .mqntW sf n c) →
    let off := (I.R.s n.toNat).toNat
    let bytes := if kind = 3 then 64 else if kind = 4 then 48 else 32
    let ob := match o with
      | some r => (I.R.s r.toNat).toNat
      | none => 0
    let s0 := (F.slot s I).drainWc I.core I.g
    off % 64 = 0 → off + bytes ≤ I.T.usize → s0.scrBad (.unit I.T.core) (I.T.ubase + off) bytes = false →
    let ws := bytesWords (bytes / 4) (s0.scrRead (.unit I.T.core) (I.T.ubase + off) bytes)
    (∀ c ∈ matrixChecks kind I.T ws, c = none) → ob < 2 ^ 20 → s0.checkObj I ob = (t, none) →
    (t.core I.core).mqueue.length < 8 →
    let chan := bits (mword ws 0) 28 4
    let counts : Bool := kind == 3 && ((t.ctx I.x).channel chan).testBit 0
    let cnt := if counts then (tget (t.core I.core).mscas (mscaKey I.x chan) 0 + 1) % 2 ^ 32 else 0
    let e : MatrixOp :=
      { ctx := I.x, tid := I.tid, gctx := I.g, gage := I.G.age, kind := kind, words := ws, fpmode := I.R.fpmode,
        rnd := I.hv.rnd, obj := ob, scope := sf.toNat, ticket := if o = none then t.nextOp else 0,
        chan := BitVec.ofNat 32 ((t.ctx I.x).channel chan), count := cnt, origin := I.origin }
    let u := (({ t with nextOp := t.nextOp + 1 } : State).modCore I.core fun C =>
      { C with mqueue := C.mqueue ++ [e],
               mscas := if counts then tset C.mscas (mscaKey I.x chan) cnt else C.mscas }).takeMatrix I.core
    exec i s = .next (if o = none then u.hold I (some i) (.op t.nextOp 6) [] else u.finish I none [])

/-! ## Graphics -/

/-- R173, R174, R330-R332: MOUT copies the vertices of the team's scratchpad into the lowest free meshlet slot of the core
and gives its number. PRIM with a meshlet of the team, indices within it and primitives in the team's range, after its
last, sends one record for each primitive that the default binning keeps to the binners of the pass, and waits while
they have no room. The group's own stores to the unit scratchpad come first. -/
def Obligations.GeometryFeedsTheBinners : Prop :=
  ∀ (i : Instr) (s : State) (I : Issue) (F : Form), formOf i s = some F → Ready F s I →
    let s0 := (F.slot s I).landUnit I
    let r (n : BitVec 7) (j : Nat) : Nat := (I.R.s (n.toNat + j)).toNat
    (∀ n d c k, i = .mout n d c →
      let off := r n 0
      let cnt := r n 1 % 2 ^ 9
      let na := r n 1 / 2 ^ 9 % 2 ^ 5
      let stride := r n 2
      let last := off + (cnt - 1) * stride + 16 + 4 * na
      1 ≤ cnt → cnt ≤ 256 → na ≤ 16 → r n 1 / 2 ^ 14 = 0 → stride % 16 = 0 → 16 + 4 * na ≤ stride → r n 3 = 0 →
      off % 16 = 0 → last ≤ I.T.usize → s0.scrBad (.unit I.core) (I.T.ubase + off) (last - off) = false →
      (List.range 16).find? (fun k => (tget? (s0.core I.core).meshlets k).isNone) = some k →
      let verts := (List.range cnt).map fun v =>
        let ws := bytesWords (4 + na) (s0.scrRead (.unit I.core) (I.T.ubase + (off + v * stride)) (4 * (4 + na)))
        (ws.take 4, ws.drop 4)
      I.T.core = I.core →
      exec i s = .next ((s0.modCore I.core fun C =>
          { C with meshlets := tset C.meshlets k { tid := I.tid, attrs := na, verts := verts } }).finish I none
        [{ lane := I.low, writes := [(.s d.toNat, BitVec.ofNat 32 k)] }])) ∧
    (∀ n c M lid b P, i = .prim n c →
      let h := r n 0 % 16
      let topo := r n 0 / 2 ^ 5 % 4
      let cull := r n 0 / 2 ^ 7 % 4
      let cnt := r n 2 % 2 ^ 16
      let per := 3 - topo
      let base := r n 3
      let idx := (s0.scrRead (.unit I.core) (I.T.ubase + r n 1) (cnt * per)).map (·.toNat)
      topo ≠ 3 → cull ≠ 3 → r n 0 / 2 ^ 9 = 0 → 1 ≤ cnt → cnt ≤ 256 → r n 2 / 2 ^ 16 = 0 →
      tget? (s0.core I.core).meshlets h = some M → M.tid = I.tid → r n 1 + cnt * per ≤ I.T.usize →
      s0.scrBad (.unit I.core) (I.T.ubase + r n 1) (cnt * per) = false → (∀ j ∈ idx, j < M.verts.length) →
      (∀ p, I.T.lastPrim = some p → p < base) → s0.batchPass I.T = some (lid, b, P) → P.closed = false →
      tget? P.images 1 = none →
      (∀ j < cnt, (primSpan P.rs.pspan I.T.index).1 ≤ base + j ∧ base + j < (primSpan P.rs.pspan I.T.index).2) →
      let s1 := s0.modTeam I.tid fun T => { T with lastPrim := some (base + cnt - 1) }
      let s2 := if (r n 0).testBit 4 then s1.modCore I.core fun C => { C with meshlets := tdel C.meshlets h } else s1
      let recs := (primVerts M per idx cnt).zipIdx.filterMap fun e =>
        (binDefault P.rs topo cull (e.1.map (·.1))).map fun q =>
          ({ batchSeq := b, team := I.T.index, prim := base + e.2, topo := topo,
             verts := { xyzw := q.1, attrs := e.1.map (·.2) }, tiles := q.2 } : PrimRec)
      exec i s = .next (if P.admits b I.T.index recs then
          ({ s2 with passes := tset s2.passes lid (P.submit recs) } : State).finish I none []
        else s2.hold I (some i) (.prim recs) []))

/-- R175-R182, R321, R323, R338, R339: the tile instructions of a team that holds a tile. TLD and TST move a pixel between
registers and the plane, helpers storing nothing; BLND blends and DPTH tests, each fibre in key order at its pixel,
and both wait for lower keys; DISC ends the active fibres; TRET hands the tile over once every fragment fibre has
ended. The group's own stores to the unit scratchpad come first. R180: one fibre at DPTH. A passing depth is stored and the predicate tells the outcome; a failing one, and a
test form, store nothing. A helper writes 0 to the predicate and stores nothing. -/
def Obligations.TileInstructionsAct : Prop :=
  (∀ (i : Instr) (s : State) (I : Issue) (F : Form) (tile : TileTask) (P : Pass), formOf i s = some F → Ready F s I →
     tget? s.passes I.T.lid = some P → I.T.tile = some tile → tile.held = true →
     let s0 := (F.slot s I).landUnit I
     let pix (a : BitVec 7) (l : Nat) : Nat := (I.R.v l a.toNat).toNat % 1024
     let at_ (p : Plane) (a : BitVec 7) (l : Nat) : Nat := I.T.ubase + p.at_ (pix a l)
     let done (r : Ordered) : Out :=
       .next (if r.left then r.s.hold I (some i) (.order r.served) r.outs else r.s.finish I none r.outs)
     (∀ k d a c p, i = .tld k d a c → P.rs.plane k.toNat = some p → d.toNat % planeRegs p.fmt = 0 →
       (∀ l ∈ I.act, s0.scrBad (.unit I.core) (at_ p a l) (planeSize p.fmt) = false) →
       exec i s = .next (s0.finish I none (I.act.map fun l =>
         { lane := l, writes := wregs l d.toNat (loadWords (planeSize p.fmt)
             (s0.scrRead (.unit I.core) (at_ p a l) (planeSize p.fmt))) }))) ∧
     (∀ k d a c p, i = .tst k d a c → P.rs.plane k.toNat = some p → d.toNat % planeRegs p.fmt = 0 →
       exec i s = .next (((I.act.filter fun l => !(I.G.lane l).helper).foldl (fun u l =>
         u.scrWrite (.unit I.core) (at_ p a l) (storeData I.R l d.toNat (planeSize p.fmt))) s0).finish I none [])) ∧
     (∀ k d a c p, i = .blnd k d a c → P.rs.plane k.toNat = some p → 1 ≤ p.fmt → p.fmt ≤ 3 →
       exec i s = done ((byKey I.G I.act).foldl (orderStep I a (blendLane I p d a))
         { s := s0, served := 0, outs := [], left := false })) ∧
     (∀ k d a c p test, (i = .dpth k d a c ∧ test = false ∨ i = .dpthT k d a c ∧ test = true) →
       P.rs.depth = some p → P.rs.hsr = false →
       exec i s = done ((byKey I.G I.act).foldl (orderStep I a (depthLane I p test k.toNat d a))
         { s := s0, served := 0, outs := [], left := false })) ∧
     (∀ c, i = .disc c → P.rs.hsr = false →
       exec i s = .next ((F.slot s I).finish I none (I.act.map fun l => { lane := l, ends := true }))) ∧
     (∀ n c t p, i = .tret n c →
       let w := (I.R.s n.toNat).toNat
       let ob := (I.R.s (n.toNat + 1)).toNat
       w / 8 = 0 → ob < 2 ^ 20 → P.rs.plane (w % 8) = some p → (F.slot s I).checkObj I ob = (t, none) →
       let u := t.landUnit I
       u.heldTile I.T = some (tile, P) →
       exec i s = .next (if u.tileDone I.tid tile then
           (u.modTeam I.tid fun T =>
             { T with tile := some { tile with held := false, tret := some (w % 8, ob, I.origin) } }).finish I none []
         else u.hold I (some i) (.poll 15) []))) ∧
  (∀ (I : Issue) (p : Plane) (test : Bool) (k : Nat) (d a : BitVec 7) (l : Nat) (s : State) (G : Group),
     s.group? I.core I.g = some G → k < 31 →
     let o := I.T.ubase + p.at_ ((I.R.v l a.toNat).toNat % 1024)
     let z := I.R.v l d.toNat
     let old := BitVec.ofNat 32 (leNat (s.scrRead (.unit I.core) o 4))
     s.scrBad (.unit I.core) o 4 = false →
     ∃ t H, depthLane I p test k d a l s = (t, none) ∧ t.group? I.core I.g = some H ∧
       (H.p l k = if (I.G.lane l).helper then false else depthPass p.cmp z old) ∧
       t.scrRead (.unit I.core) o 4 =
         (if !(I.G.lane l).helper && depthPass p.cmp z old && !test then leBytes 4 z.toNat
          else s.scrRead (.unit I.core) o 4) ∧
       t.mem = s.mem)

/-- R183-R186: IPOL of a triangle's fragment is the interpolation of the attribute at its barycentrics; a fibre without a
fragment traps. The sampling instructions with a valid descriptor sample for each active fibre in turn, when no texel lies
at a far target; a descriptor with a reserved value raises ILLOP (R340), and one beyond the table OOB. -/
def Obligations.SamplingActs : Prop :=
  ∀ (i : Instr) (s : State) (I : Issue) (F : Form), formOf i s = some F → Ready F s I →
    let s0 := F.slot s I
    (∀ j d a h c, i = .ipol j d a h c → (∀ l ∈ I.act, ∃ f, (I.G.lane l).frag = some f ∧ f.verts.attrs.length = 3) →
      exec i s = .next (s0.finish I none (I.act.map fun l =>
        match (I.G.lane l).frag with
        | some f => { lane := l, writes := [(.v l d.toNat,
            ipolWord f.verts (h ++ j).toNat (I.R.v l a.toNat) (I.R.v l (a.toNat + 1)))] }
        | none => { lane := l }))) ∧
    (∀ j d a h c, i = .ipol j d a h c → (∀ l ∈ I.act, (I.G.lane l).frag = none) →
      exec i s = .next (s0.finish I none (I.act.map fun l => { lane := l, trap := some (mkTrap 1 0 0) }))) ∧
    (∀ (gather grad : Bool) t d a c u b x,
      i = (if gather then (if grad then .smpgG t d a c else .smpg t d a c)
           else if grad then .smplG t d a c else .smpl t d a c) →
      let k := (I.R.s t.toNat).toNat
      let c0 := s.ctx I.x
      k < c0.word 0x1C0 % 2 ^ 20 → (s0.reload I.core I.x 2).unitFetch I I.low (c0.dword 0x1B8 % 2 ^ 52 + 64 * k) 64 =
        (u, .ok b) → tget? c0.images 2 = none →
      let r := I.act.foldl (fun (q : State × List LaneOut) l =>
        let v := sampleLane { x with lodr := 0 } gather grad d.toNat a.toNat I l q.1
        (v.1, q.2 ++ [v.2])) (u, [])
      (parseTex b = some x → (∀ o ∈ r.2, o.far = none) → exec i s = .next (r.1.finish I none r.2)) ∧
      (parseTex b = none → exec i s = .next (u.finish I none
        (I.act.map fun l => { lane := l, trap := some (mkTrap 1 0 k) })))) ∧
    (∀ t d a c, (i = .smpl t d a c ∨ i = .smplG t d a c ∨ i = .smpg t d a c ∨ i = .smpgG t d a c) →
      (s.ctx I.x).word 0x1C0 % 2 ^ 20 ≤ (I.R.s t.toNat).toNat →
      exec i s = .next (s0.finish I none
        (I.act.map fun l => { lane := l, trap := some (mkTrap 5 0 (I.R.s t.toNat).toNat) })))

/-- R187, R188: RAYQ and RAYQ.O with a structure that can be read start a query for each active fibre in turn; RAYC and
RAYA reject and accept the candidate of each fibre and go on with its query, when nothing that they read lies at a far
target. A fibre without a candidate traps. R343: under the default image an entry of the table whose bytes 8 to 31 are not
all zero holds a reserved value (log entry 78). -/
def Obligations.RaysAct : Prop :=
  ∀ (i : Instr) (s : State) (I : Issue) (F : Form), formOf i s = some F → Ready F s I →
    let s0 := F.slot s I
    let each (u : State) (f : Nat → State → State × LaneOut) : Out :=
      let r := I.act.foldl (fun (q : State × List LaneOut) l => ((f l q.1).1, q.2 ++ [(f l q.1).2])) (u, [])
      .next (r.1.finish I none r.2)
    let near (u : State) (f : Nat → State → State × LaneOut) : Prop :=
      ∀ o ∈ (I.act.foldl (fun (q : State × List LaneOut) l => ((f l q.1).1, q.2 ++ [(f l q.1).2])) (u, [])).2, o.far = none
    (∀ (opq : Bool) sr d a c u b, i = (if opq then .rayqO sr d a c else .rayq sr d a c) →
      let k := (I.R.s sr.toNat).toNat
      let c0 := s.ctx I.x
      k < c0.word 0x1C4 % 2 ^ 20 → (s0.reload I.core I.x 3).unitFetch I I.low (c0.dword 0x1C8 % 2 ^ 52 + 32 * k) 32 =
        (u, .ok b) →
      let f (l : Nat) (v : State) : State × LaneOut :=
        rayqLane opq (c0.dword 0x1C8 % 2 ^ 52 + 32 * k) (byteField b 0 8)
          ((tget? c0.images 3).isSome || (b.drop 8).all (· == 0)) d.toNat a.toNat I l v
      near u f → exec i s = each u f) ∧
    (∀ (opq : Bool) sr d a c, i = (if opq then .rayqO sr d a c else .rayq sr d a c) →
      (s.ctx I.x).word 0x1C4 % 2 ^ 20 ≤ (I.R.s sr.toNat).toNat →
      exec i s = .next (s0.finish I none
        (I.act.map fun l => { lane := l, trap := some (mkTrap 5 0 (I.R.s sr.toNat).toNat) }))) ∧
    (∀ d c (q : Nat → RayQuery) (h : Nat → RayHit), i = .rayc d c →
      (∀ l ∈ I.act, (I.G.lane l).ray = some (q l) ∧ (q l).cand = some (h l)) →
      let f (l : Nat) (v : State) : State × LaneOut := rayGo I l d.toNat { q l with cand := none } v
      near (s0.reload I.core I.x 3) f → exec i s = each (s0.reload I.core I.x 3) f) ∧
    (∀ d c (q : Nat → RayQuery) (h : Nat → RayHit), i = .raya d c →
      (∀ l ∈ I.act, (I.G.lane l).ray = some (q l) ∧ (q l).cand = some (h l)) →
      let f (l : Nat) (v : State) : State × LaneOut := rayGo I l d.toNat (({ q l with cand := none }).commit (h l)) v
      near (s0.reload I.core I.x 3) f → exec i s = each (s0.reload I.core I.x 3) f) ∧
    (∀ d c, (i = .rayc d c ∨ i = .raya d c) → (∀ l ∈ I.act, (I.G.lane l).ray = none) →
      exec i s = .next ((s0.reload I.core I.x 3).finish I none
        (I.act.map fun l => { lane := l, trap := some (mkTrap 1 0 0) })))

/-! ## Launches, teams and contexts -/

/-- R211, R214, R223-R234, R326, R329, R333: the steps of the launch sequencers and of Agate's binding, where they are
due. The block at a queue's head becomes a launch and the head moves on with its evaluation; a launch whose
predecessors have counted is evaluated, and one of whose predecessors is no counter any more is Invalid; a geometry launch joins the open pass as its next batch; a bind record is
stored and launches that can run become Running; a pass opens with a list store on each binning die; a core takes an
index and admits its team; a persistent grid starts when whole; a launch that has ended makes its done action and
leaves, at once when it names no object. -/
def Obligations.LaunchStepsAct : Prop :=
  (∀ (s t u : State) (x q : Nat) (Q : LaunchQueue) (bs : List Byte) (b : Block), s.headQueue x q = some Q →
    s.servedRead (.launch x q) none x none (Q.block Q.head) 256 = (t, .ok bs) →
    t.checkBlock (.launch x q) x bs = (u, .ok b) →
    let L : Launch := { ctx := x, queue := q, index := Q.head, st := .waiting, block := b, grid := 0, tickets := [],
                        gated := false, failed := none, batchOf := none, stores := [] }
    let v : State := { u.clearFaults (.launch x q) with nextLid := u.nextLid + 1, launches := tset u.launches u.nextLid L }
    exec (.launchHeadRead x q) s = .next (if v.predsDone L then v.evaluate u.nextLid L else v)) ∧
  (∀ (s : State) (lid : Nat) (L : Launch), tget? s.launches lid = some L → L.st = .waiting →
    (s.ctx L.ctx).holdsTraps = false → s.pendingFault (.launch L.ctx L.queue) = false → s.predsDone L = true →
    exec (.predecessorTest lid) s = .next (s.evaluate lid L)) ∧
  (∀ (s : State) (lid o : Nat) (L : Launch), tget? s.launches lid = some L → L.st = .waiting →
    (s.ctx L.ctx).holdsTraps = false → s.pendingFault (.launch L.ctx L.queue) = false → s.predBad L = some o →
    exec (.predecessorTest lid) s =
      .next ((s.leaveHead lid L).invalidLaunch L.ctx L.queue L.index L.block.done o 0 0)) ∧
  (∀ (s : State) (lid p : Nat) (L : Launch) (P : Pass), tget? s.launches lid = some L → L.st = .evaluated →
    (s.ctx L.ctx).holdsTraps = false → s.passFor L.ctx L.queue = some (p, P) →
    let P' : Pass := { P with taken := P.taken + 1, batches := P.batches ++ [(P.taken, lid)],
                              sizes := P.sizes ++ [L.block.teams] }
    exec (.geometryBatchTake lid) s =
      .next (({ s with passes := tset s.passes p P' } : State).toPending lid { L with batchOf := some (p, P.taken) })) ∧
  (∀ (s : State) (die slot : Nat) (v : BitVec 128), die < 8 → slot < 64 →
    ((parseBind v).valid = false ∨ s.heeds (parseBind v) = true) → tget? (s.die die).slots slot = none →
    exec (.bindRecordWrite die slot v) s = .next ((s.modDie die fun D =>
      { D with slots := if v = 0 then tdel D.slots slot else tset D.slots slot { record := v, admitted := 0 } }).runLaunches)) ∧
  (∀ (s t : State) (lid : Nat) (L : Launch) (bs : List Byte) (bases : List Nat), tget? s.launches lid = some L →
    s.needsStores lid L = true → L.block.rstate % 64 = 0 →
    s.servedRead (.pass lid) none L.ctx none L.block.rstate 320 = (t, .ok bs) →
    firstBad (renderChecks bs L.block ((t.ctx L.ctx).word 0x1F0)) = none →
    let rs := parseRender bs
    let dies := (List.range 8).filter fun d => rs.binmask.testBit d
    let u : State := { t.clearFaults (.pass lid) with
      passes := tset t.passes lid (Pass.start L.ctx rs)
      launches := tset t.launches lid { L with stores := dies.zip bases } }
    bases.length = dies.length → t.basesOk L.ctx rs.lsize bases = true → u.passReady lid L = true →
    exec (.listStoreAlloc lid bases) s = .next (u.tryRun lid)) ∧
  (∀ (s t : State) (core slot lid : Nat) (L : Launch) (ts : List (Nat × Nat)),
    s.chooseTake core = some (slot, lid, L, ts, t) →
    exec (.indexTake core) s = .next
      (({ t with launches := tset t.launches lid { L with tickets := ts } } : State).modDie (core / 24) fun D =>
        { D with slots := tmod D.slots slot fun u => { u with admitted := u.admitted + 1 } })) ∧
  (∀ (s : State) (lid : Nat) (L : Launch), tget? s.launches lid = some L → L.gated = true → L.st = .running →
    let ts := s.teams.filter fun e => e.2.lid == lid
    (ts.map (·.2.index)).eraseDups.length = L.block.teams →
    exec (.persistentGridStart lid) s = .next ((ts.map (·.2.core)).foldl State.settleArmed { s with
      launches := tset s.launches lid { L with gated := false }
      teams := s.teams.map fun e =>
        (e.1, if e.2.lid == lid then { e.2 with begun := true, begunAt := s.now } else e.2) })) ∧
  (∀ (s : State) (lid : Nat) (L : Launch), tget? s.launches lid = some L → s.launchEnded lid L = true →
    exec (.launchCompletion lid) s = .next
      ((({ s with launches := tset s.launches lid { L with st := .completing } } : State).addDone L.ctx L.queue L.index
        L.block.done none).sweepCompleting) ∧
    (L.block.done = 0 → (∀ c ∈ s.contribs, c.2.ctx = L.ctx → c.2.done ≠ some (L.queue, L.index)) →
      ∃ t, exec (.launchCompletion lid) s = .next t ∧ tget? t.launches lid = none ∧ tget? t.passes lid = none ∧
        t.contribs = s.contribs))

/-- R255, R259, R260: what the requests of Agate and of the owner make of a context's state. A pre-emption request drains
an Active context and sets its deadline, 2 ms where none is given; a withdrawal makes it Active; a resume and a thaw
take it back where it stood; a clear makes a Lost one Active and empty; a reset makes it Lost, its features unlocked.
R217, R236-R246, R253, R256-R260: the steps of pre-emption and of traps, where they are due. A deadline resets its
context; a saved team leaves its core and stands among the context's saved ones; a saved team whose slot can be read returns
whole to a bound core that has room for it, and its context is Active; a Saved context without saved teams becomes Active; parked traps are disposed of; a fault of fibres is settled, forwarded or declared unresolvable; a
migration is asked for and withdrawn; the partition register is written, and the balancer sets its next time. That a Saved
context without saved teams becomes Active (log entry 50), what the settling of a page does with fibres and that it goes on
while the page resolves (log entry 52), what a reset and a clear keep (log entry 53: a clear keeps what a block's descriptor
counts), and that bmin and bmax stand for at most 64 (log entry 87) are the model's choices. -/
def Obligations.PreemptionStepsAct : Prop :=
  (∀ (s : State) (x : Nat),
     ((s.ctx x).st = .active → ((s.preempt x).ctx x).st = .draining ∧ ((s.preempt x).ctx x).deadline =
       some (s.ptp + 1000 * (if (s.ctx x).word 0x01C = 0 then 2000 else (s.ctx x).word 0x01C))) ∧
     (∀ q, (s.ctx x).st = .active → exec (.requestPreemption 0 q x) s = .next (s.preempt x)) ∧
     ((s.ctx x).st ≠ .active → s.preempt x = s) ∧
     ((s.ctx x).st = .draining → ((s.withdraw x).ctx x).st = .active ∧ ((s.withdraw x).ctx x).deadline = none) ∧
     ((s.ctx x).st = .stopped → ((s.resume x).ctx x).st = (s.ctx x).back) ∧
     ((s.ctx x).st = .frozen → ((s.thaw x).ctx x).st = (s.ctx x).back) ∧
     ((s.ctx x).st = .lost → ((s.clear x).ctx x).st = .active ∧ ((s.clear x).ctx x).queues = [] ∧
       ((s.clear x).ctx x).filled = (s.ctx x).filled) ∧
     (∀ k, ((s.resetCtx x k).ctx x).st = .lost ∧ ((s.resetCtx x k).ctx x).features = none ∧
       ((s.resetCtx x k).ctx x).saved = [])) ∧
  ((∀ (s : State) (x d : Nat), (s.ctx x).st = .draining → (s.ctx x).deadline = some d → d ≤ s.ptp →
     ∃ t, exec (.deadlineExpiry x) s = .next t ∧ (t.ctx x).st = .lost ∧ (t.ctx x).saved = []) ∧
   (∀ (s t : State) (tid : Nat) (T : Team) (L : Launch) (ps : List (Nat × Nat)), s.savable tid = true →
     s.pendingFault (.save tid) = false → tget? s.teams tid = some T → (s.ctx T.ctx).doomed = false → tget? s.launches T.lid = some L →
     s.served (.save tid) none T.ctx none (wants .write (slotVa L.block T.index) (slotSize L.block)) = (t, .ok ps) →
     ∃ u S, exec (.teamSave tid) s = .next u ∧ tget? u.teams tid = none ∧
       (u.core T.core).groups.filter (fun e => e.2.tid == tid) = [] ∧
       tget? (u.ctx T.ctx).saved tid = some S ∧ S.team = { T with migrate := none }) ∧
   (∀ (s : State) (x core : Nat), s.findSaved (2 ^ 32 + x) = none → (s.ctx x).st = .saved → (s.ctx x).saved = [] →
     exec (.teamRestore (2 ^ 32 + x) core) s = .next (s.reactivate x)) ∧
   (∀ (s t u : State) (x tid core : Nat) (S : SavedTeam) (L : Launch) (ps : List (Nat × Nat)) (news : List Nat),
     s.findSaved tid = some (x, S) → tget? s.launches S.team.lid = some L →
     ((s.ctx x).st = .saved ∨ (s.ctx x).st = .active) → s.pendingFault (.save tid) = false →
     (core, S.team.part) ∈ s.boundCores S.team.lid →
     s.served (.save tid) none x none (wants .read (slotVa L.block S.team.index) (slotSize L.block)) = (t, .ok ps) →
     (t.clearFaults (.save tid)).placeSaved core tid S = some (u, news) →
     let v := (u.refillTeam (withOffsets ps 0) L.block.bmax tid S news).modCore core fun C =>
       { C with meshlets := S.meshes.foldl (fun m e => tset m e.1 e.2) C.meshlets }
     let w := v.modTeam tid fun T =>
       { T with bars := T.bars.map fun e => (e.1, e.2.renumber (renumber (S.order.map fun e => e.2.1) news)) }
     exec (.teamRestore tid core) s =
       .next ((w.modCtx x fun c => { c with saved := tdel c.saved tid }).reactivate x)) ∧
   (∀ (s : State) (core g l pc r : Nat) (G : Group) (t : Trap), s.group? core g = some G →
     (s.ctx G.ctx).holdsTraps = false → G.undisposed = [(l, pc, r, t)] →
     exec (.trapDisposition core g) s = .next (s.disposeAll core g pc r [(l, t)])) ∧
   (∀ (s : State) (tok : Nat) (f : FaultRec) (c g : Nat), tget? s.faults tok = some f → f.who = .fibres c g →
     f.due s = true →
     exec (.pageService tok) s = .next
       (if f.denied = true then s.denyFault tok f
        else if f.settled = true ∨ f.fill = true ∨ s.resolved f.ctx f.va = true then s.settleFault tok f
        else if ((s.ctx f.ctx).word 0x050).testBit 1 then s.forwardFault tok f else s.denyFault tok f)) ∧
   (∀ (s : State) (tid : Nat) (T : Team), tget? s.teams tid = some T → T.begun = true → T.ended = false →
     T.gen = none → T.migrate = none → T.placedAt + 5000000 ≤ s.ptp →
     exec (.migrationRequest tid) s = .next (s.modTeam tid fun T => { T with migrate := some (s.ptp + 2000000) })) ∧
   (∀ (s : State) (tid d : Nat) (T : Team), tget? s.teams tid = some T → T.migrate = some d → d ≤ s.ptp →
     s.savable tid = false → s.draining T.ctx = true →
     exec (.migrationWithdraw tid) s = .next (s.modTeam tid fun T => { T with migrate := none })) ∧
   (∀ (s : State) (core : Nat) (v : BitVec 32), v.extractLsb' 8 7 ≤ v.extractLsb' 16 7 →
     ∃ t, exec (.partitionControlWrite core v) s = .next t ∧ (t.core core).bmin = min 64 (v.extractLsb' 8 7).toNat ∧
       (t.core core).bmax = min 64 (v.extractLsb' 16 7).toNat ∧ (t.core core).auto = v.getLsbD 24 ∧
       (t.core core).boundary = (s.core core).boundary ∧ ∀ c, c ≠ core → t.core c = s.core c) ∧
   (∀ (s : State) (die : Nat), die < 8 → (s.die die).balance ≤ s.now →
     ∃ t, exec (.balancerEvaluate die) s = .next t ∧ (t.die die).balance = (s.die die).balance + 57600 ∧
       ∀ c, c / 24 ≠ die → t.core c = s.core c))

/-- R116, R121, R195, R217, R427: the timers of a group. A descheduled pusher whose queue is below its watermark becomes
Resident and pushes anew; touch entries end after 256 counted cycles; non-temporal stores held for 4,096 cycles go to memory; a
sleep ends at its cycle; a wave releases its batches behind their barrier. -/
def Obligations.GroupTimersAct : Prop :=
  (∀ (s : State) (core g : Nat) (G : Group), s.group? core g = some G → (s.ctx G.ctx).st.issues = true →
    s.pusherReady G = true →
    exec (.pusherReschedule core g) s =
      .next (s.setGroup core g G.repush) ∧ G.repush.st = .resident ∧ G.repush.batches = G.batches ∧
      ∀ B ∈ G.batches, B.pushes = true → ∀ l ∈ lanesOf B.lanes, (G.repush.lane l).retested = some (G.lane l).pc) ∧
  (∀ (s : State) (core g : Nat) (G : Group), s.group? core g = some G →
    ∃ t H, exec (.touchEntryExpiry core g) s = .next t ∧ t.group? core g = some H ∧
      (∀ e, e ∈ H.touches ↔ e ∈ G.touches ∧ s.pulses core ≤ e.issued + 256) ∧ { H with touches := G.touches } = G) ∧
  (∀ (s : State) (core g : Nat) (G : Group) (h : HeldStore), s.group? core g = some G → G.held = [h] →
    h.nt = true → h.scr = none → s.reach h.pa = .ok → h.since + 4096 ≤ s.coreCycle core →
    ∃ t H, exec (.wcBufferTimeout core g) s = .next t ∧ t.group? core g = some H ∧ H.held = [] ∧
      t.mem = Memory.writeList s.mem (s.ownAddr h.pa) h.bytes) ∧
  (∀ (s : State) (core g d : Nat) (low : Bool) (G : Group), s.group? core g = some G → G.sleep = some (d, low) →
    ∃ t H, exec (.sleepEnd core g) s = .next t ∧ t.group? core g = some H ∧
      H.sleep = if d ≤ s.pulses core then none else some (d, low)) ∧
  (∀ (s : State) (core g k ph due : Nat) (G : Group) (B : Batch), (s.core core).groups = [(g, G)] →
    (s.ctx G.ctx).st.issues = true → G.batches = [B] → B.wait = some (.phase k ph (some due)) → due ≤ s.coreCycle core →
    ∃ t H, exec (.barrierWaveRelease core) s = .next t ∧ t.group? core g = some H ∧
      H.batches = [Batch.fresh B.lanes] ∧ ∀ l ∈ lanesOf B.lanes, (H.lane l).pc = G.batchPc B + 4)

/-! ## Engines, rendering and routers -/

/-- R146, R148, R160-R162, R253, R264-R266, R277, R291-R300: the steps of the engines and of the matrix units, where they
are due. R134, R162, R153: a batch that waits at TMOV.W, NRET or a waiting matrix form goes on when its operation has
ended; where a matrix operation has failed, its fibres raise POISON with the failing address (R240). How a far request ends
(log entry 35), when a matrix operation takes its operands and what runs beside it (log entry 37), and how the service of an
engine's fault is settled (log entry 52) are the model's choices. -/
def Obligations.EngineStepsAct : Prop :=
  ((∀ (s : State) (die : Nat) (o : EngineOp), s.nextTake die = some o → o.kind.ring = 0 →
     exec (.engineTake die o.id) s = .next (s.markTaken die o id)) ∧
   (∀ (s : State) (die op : Nat) (o : EngineOp), (s.die die).ops.find? (·.id == op) = some o → s.opDue die o = true →
     exec (.operationCompletion die op) s = .next (if o.finished then s.publishOp die o else s.runOp die o)) ∧
   (∀ (s : State) (tok : Nat) (f : FaultRec), tget? s.faults tok = some f → f.who.isFibres = false → f.due s = true →
     exec (.engineLineService tok) s = .next
       (if f.denied = true then s.denyFault tok f
        else if f.settled = true ∨ f.fill = true ∨ s.resolved f.ctx f.va = true then s.settleFault tok f
        else if ((s.ctx f.ctx).word 0x050).testBit 1 then s.forwardFault tok f else s.denyFault tok f)) ∧
   (∀ (s t : State) (die x stream src n st swz : Nat) (bf : Bool) (o : EngineOp) (ps : Parts) (bs : List Byte),
     s.tableDue die (16 * x + stream) = some o → o.kind = .table src n st bf swz →
     let S : Side := { space := 0, base := src, swizzle := swz }
     s.reachOp die o (S.wants .read (4 * n) 0 false) = (t, .ok ps) →
     t.sideWords o.core ps S ((List.range n).map (4 * ·)) = .ok bs →
     exec (.tableReady die x stream) s = .next
       ((t.setTable die (16 * x + stream) o (.ok ((bytesWords n bs).map fun w => tableEntry bf w.toNat))).endOp die o none)) ∧
   (∀ (s : State) (die x stream : Nat), (s.die die).stalled (16 * x + stream) = true →
     ((s.die die).stream (16 * x + stream)).lastWr + 65536 ≤ s.cycle die →
     exec (.streamStatusWrite die x stream) s = .next (s.writeStatus die (16 * x + stream))) ∧
   (∀ (s : State) (n : Nat) (c : Contribution), tget? s.contribs n = some c → s.pendingFault (.contribution n) = false →
     exec (.byteContribution n) s = .next (s.makeStep n c).sweepCompleting) ∧
   (∀ (s : State) (core : Nat) (m : MatrixOp) (rest : List MatrixOp), (s.core core).mqueue = m :: rest →
     (s.core core).matrixDue (s.coreCycle core) = true →
     let r := runMatrix s (s.team m.tid) m
     let u := r.s.modCore core fun C => { C with mqueue := rest, mbegan := none }
     exec (.matrixOpComplete core) s =
       .next (((if r.bad = none then u.recompute core (s.team m.tid) m r.els else u).endMatrix core m r).takeMatrix core)) ∧
   (∀ (s : State) (n : Nat) (r : Remote), tget? s.remotes n = some r → r.due ≤ s.now → r.ended = false →
     ∃ t, exec (.remoteTimeout n) s = .next t ∧
       tget? t.remotes n = match r.who with
         | none => none
         | some (.posted _ _ _) => none
         | some _ => some { r with ended := true })) ∧
  (∀ (i : Instr) (s : State) (I : Issue) (tk rs : Nat), Again s I → I.B.wait = some (.op tk rs) →
     (∀ n m c, i = .tmovW n m c → (tget? s.tickets tk).isSome = true →
       exec i s = .next (({ s with tickets := tdel s.tickets tk } : State).finish I none [])) ∧
     (∀ r n c, i = .nret r n c → s.retiring tk I.x (I.hv.scope.getD r.toNat)
         ((I.R.spair n.toNat) / 2 ^ 44 % 2 ^ 20) (I.R.spair n.toNat % 2 ^ 16) = false →
       exec i s = .next (s.finish I none [])) ∧
     (∀ sf n c, (i = .mbldW sf n c ∨ i = .mmulW sf n c ∨ i = .mhadW sf n c ∨ i = .mscaW sf n c ∨ i = .mqntW sf n c) →
       (tget? s.tickets tk = some none →
         exec i s = .next (({ s with tickets := tdel s.tickets tk } : State).finish I none [])) ∧
       ∀ a, tget? s.tickets tk = some (some a) →
         exec i s = .next (({ s with tickets := tdel s.tickets tk } : State).finish I none
           (I.act.map fun l => { lane := l, trap := some (mkTrap 13 0 a) }))))

/-- R320-R323, R332, R333, R336-R339, R349, R350, R362: the steps of rendering, each where the state lets it act. A binner
appends an entry of the record whose turn it is to the first of its tiles, and the batch's teams are reaped; a path that
has not delivered fails its pass and is logged; a tile's next task is admitted on a bound core with room, its planes
holding the clear values or the spilled ones; the raster sequencer resolves hidden surfaces, skips an entry without a
fragment, or creates the fibres of a quad; a final TRET writes its colour plane to the frame and retires the tile; a
prefix TRET writes the spill slot and keeps the planes; a hung sequencer's operation is ended; and a granule of Onyx code
is translated for the batches that wait for it. The bytes of a spill slot (log entry 19), an entry of a list for each append
and a reload that fails (log entry 56), and that a translation is installed in one step, for the address that its oldest
waiting batch entered by (log entries 12 and 64), are the model's choices. -/
def Obligations.RenderStepsAct : Prop :=
  (∀ (s : State) (die lid : Nat) (L : Launch) (P : Pass) (r : PrimRec), tget? s.launches lid = some L → L.st = .running →
    (s.ctx L.ctx).holdsTraps = false → tget? s.passes lid = some P → P.nextRec die = some r →
    let u := ({ s with passes := tset s.passes lid (P.append die r) } : State).modDie die fun D =>
      { D with images := withImage (withImage D.images 1 (tget? P.images 1)) 4 (tget? P.images 4) }
    exec (.binnerAppend die lid) s = .next
      (match P.batches.find? fun b => b.1 == r.batchSeq with
       | some b => (u.launchTeams b.2).foldl (fun v e => v.reapTeam e.1) u
       | none => u)) ∧
  (∀ (P : Pass) (die t : Nat) (ts : List Nat) (r : PrimRec), r.tiles = t :: ts →
    ((P.append die r).tile t).entries = (P.tile t).entries ++ [{ r with tiles := [] }] ∧
    ∀ k, k ≠ t → ((P.append die r).tile k).entries = (P.tile k).entries) ∧
  (∀ (s : State) (lid src dst : Nat) (L : Launch) (P : Pass), tget? s.launches lid = some L →
    tget? s.passes lid = some P →
    exec (.linkFailed lid src dst) s = .next
      (({ s with passes := tmod s.passes lid fun P => { P with failed := some 13 } } : State).logError L.ctx 8 0
        (srcDie src) L.grid (src % 16 + dst % 16 * 16) 0)) ∧
  (∀ (s u v w : State) (lid tile core lo hi part : Nat) (fin : Bool) (L : Launch) (P : Pass) (bs : List (BitVec 8)),
    tget? s.launches lid = some L → s.passOpen lid = some P → (s.ctx L.ctx).st = .active → tile < P.ntiles →
    s.pendingFault (.reload lid tile) = false → P.nextTask tile = some (lo, hi, fin) →
    (s.boundCores lid).find? (fun c => c.1 == core) = some (core, part) →
    let task : TileTask :=
      { tile := tile, final := fin, lo := lo, hi := hi, at_ := lo, quad := 0, winners := none,
        image := tget? (s.ctx L.ctx).images 0, held := true, tret := none, failed := none }
    let atStart (t : State) : Option State := t.admitGrid core part lid L.ctx L.grid tile L.block (!L.gated) (some P.rs.frole)
      fun T => { T with tile := some task }
    atStart s = some w → s.loadPlanes lid L.ctx tile (core / 24) P = (u, some bs) → atStart u = some v →
    ((P.tile tile).spilled = false → u = s ∧ bs = P.rs.clears) ∧
    exec (.tileTaskAdmit lid tile core) s = .next
      ((v.setPlanes (v.team s.nextTid) (if bs.isEmpty then [] else P.rs.described) bs).modTile lid tile fun r =>
        { r with served := hi, cuts := if fin then r.cuts else r.cuts.drop 1,
                 st := if fin then .finalRunning else .prefixRunning })) ∧
  (∀ (s : State) (tid : Nat) (T : Team) (t : TileTask) (P : Pass), tget? s.teams tid = some T → T.tile = some t →
    tget? s.passes T.lid = some P → T.begun = true → t.held = true → t.at_ < t.hi → (s.ctx T.ctx).st.issues = true →
    let u := s.rasterImage T t
    (∀ p, P.rs.depth = some p → P.rs.hsr = true → t.image = none → t.winners = none →
      exec (.fragmentCreate tid) s = .next (u.resolve tid T t P p)) ∧
    ((P.rs.depth = none ∨ P.rs.hsr = false ∨ t.image ≠ none ∨ t.winners ≠ none) →
      (∀ r, (P.tile t.tile).entries[t.at_]? = some r → u.nextQuad T t P r = none →
        exec (.fragmentCreate tid) s =
          .next (u.modTeam tid fun T => { T with tile := some { t with at_ := t.at_ + 1, quad := 0 } })) ∧
      (∀ r q g l0 L d, (P.tile t.tile).entries[t.at_]? = some r → u.nextQuad T t P r = some q →
        u.freeQuad tid P.rs.frole = some (g, l0) → tget? s.launches T.lid = some L → L.block.roles[P.rs.frole]? = some d →
        exec (.fragmentCreate tid) s = .next (u.createQuad tid g l0 q T t P r (L.block.cbase + d.pcoff))))) ∧
  (∀ (s : State) (tid k ob : Nat) (o : Origin) (T : Team) (t : TileTask) (P : Pass) (p : Plane),
    tget? s.teams tid = some T → T.tile = some t → t.tret = some (k, ob, o) → tget? s.passes T.lid = some P →
    s.pendingFault (.tile tid) = false →
    (t.final = true → P.failed = none → (P.tile t.tile).bad = none → P.rs.plane k = some p → s.planesBad T [p] = false →
      let n := planeSize p.fmt
      let rows := exportRows P.rs t.tile p (s.scrRead (.unit T.core) (T.ubase + p.offset) (1024 * n))
      ∀ u ps, s.served (.tile tid) (some (T.core / 24)) T.ctx none (rows.flatMap fun r => wants .write r.1 r.2.length) =
          (u, .ok ps) →
        exec (.tileExport tid) s = .next ((u.wrReach ps (rows.flatMap (·.2))).endExport tid T t o ob n none)) ∧
    (t.final = true → P.failed = none → (P.tile t.tile).bad = none → P.rs.plane k = some p → s.planesBad T [p] = true →
      exec (.tileExport tid) s = .next (s.endExport tid T t o ob (planeSize p.fmt)
        (some { code := 13, addr := s.planeBad T p, cause := 0, detail := 0 }))) ∧
    (t.final = false → s.planesBad T P.rs.described = false →
      ∀ u ps, s.served (.tile tid) (some (T.core / 24)) T.ctx none (wants .atomic (P.rs.slotVa t.tile) P.rs.slotSize) =
          (u, .ok ps) →
        exec (.tileSpill tid) s = .next
          ((u.wrReach ps ((List.range P.rs.slotSize).map (Config.spillByte (u.getPlanes T P.rs)))).endTask tid T t fun r =>
            { r.endPrefix t.hi P.closed with spilled := true, planes := u.getPlanes T P.rs }))) ∧
  (∀ (s u : State) (kind core g img : Nat) (G : Group) (I : Issue), (kind = 2 ∨ kind = 3) → s.group? core g = some G →
    tget? (s.ctx G.ctx).images kind = some img → s.atSequencer kind core g = some u → u.issuer = some I →
    let v := if kind = 3 then I.act.foldl (fun w l => w.modGroup core g fun H => H.modLane l fun M => { M with ray := none }) u
      else u
    exec (.seqHang kind core g) s = .next
      (((v.account core g 0 none).finish I none (I.act.map fun l => { lane := l, trap := some (mkTrap 13 0 0) })).logError
        G.ctx 9 0 (srcCore core) kind 0 0)) ∧
  (∀ (s : State) (kind core g lid img : Nat) (L : Launch), kind ≠ 2 → kind ≠ 3 → s.hangPass kind core g = some lid →
    s.hangImage kind core g lid = some img → tget? s.launches lid = some L →
    exec (.seqHang kind core g) s =
      .next ((s.failPass lid).logError L.ctx 9 0 (if kind = 0 then srcCore core else srcDie core) kind 0 0)) ∧
  (∀ (s : State) (x pa core g : Nat) (mode : BitVec 32) (G : Group) (B : Batch),
    s.onyxWaiters x pa mode = [(core, g, G)] → G.batches = [B] → B.waitsOnyx pa mode = true →
    s.group? core g = some G → (s.ctx x).onyxTr pa mode = none → (s.ctx x).onyxRoom = true →
    exec (.onyxTranslate x pa mode) s = .next
      ((s.installOnyx x pa (G.batchPc B / 4096 * 4096) mode).modGroup core g fun G =>
        { G with batches := G.batches.map fun B => if B.waitsOnyx pa mode then Batch.fresh B.lanes else B }))

/-- R149-R153, R285, R385-R397, R400-R404: the steps of the routers, of fills and of invalidations, each where the state lets
it act. The request of an interest goes up to its package home: it is served from a stored copy, widens the outstanding
request of its die, or is recorded; a tile that arrives on its way up is discarded at a router that has retired its name
or holds a copy, and else is stored, satisfies what waits and goes on, and one on its way down is given to its die; the
name engine writes a tile and the interest contributes; a lifetime that is over fails its interest with NEVER; a
retirement sets its router's mark, drops copies and fails interests; a generator team starts on a core with room; a block
over its range's budget is evicted, and one whose eviction the owner asked for; an invalidation with no line left ends. That
a request is served from the copy of its package home, and widens the outstanding request of its die, are the model's
choices (log entry 55). -/
def Obligations.RouterAndFillStepsAct : Prop :=
  (∀ (s : State) (die e : Nat) (i : Interest), tget? (s.die die).interests e = some i → i.st = .waiting → i.sent = false →
    3 ≤ i.reach →
    let q := 8 + i.name / 2 ^ 44 % 2
    let t := s.modDie die fun D => { D with interests := tmod D.interests e fun j => { j with sent := true } }
    (∀ c, s.findCopy q i.ctx i.name = some c → exec (.interestForward die e) s =
      .next ((t.touchCopy q c).sendDown i.ctx i.name i.reach die c.bytes)) ∧
    (s.findCopy q i.ctx i.name = none → s.outstanding die i = true → exec (.interestForward die e) s =
      .next (t.modHdie (q - 8) fun H => { H with requests := H.requests.map fun r =>
        if r.ctx == i.ctx && r.name == i.name && r.child == die then { r with reach := max r.reach i.reach } else r })) ∧
    (s.findCopy q i.ctx i.name = none → s.outstanding die i = false → (s.hdie (q - 8)).requests.length < 16384 →
      exec (.interestForward die e) s = .next (t.modHdie (q - 8) fun H =>
        { H with requests := H.requests ++ [{ ctx := i.ctx, name := i.name, child := die, reach := i.reach }] }))) ∧
  (∀ (s : State) (n : Nat) (f : Flight), s.flights.find? (fun f => f.id == n) = some f → s.arrivalDue f = true →
    let t : State := { s with flights := s.flights.filter fun g => g.id != n }
    let gone := s.retiredAt f.ctx f.at_ (f.name / 2 ^ 44 % 2 ^ 20) (f.name % 2 ^ 16)
    (f.up = true → gone = true → exec (.tileArrival n) s = .next (t.endAnnounce f ofRetired)) ∧
    (f.up = true → gone = false → (t.findCopy f.at_ f.ctx f.name).isSome = true →
      exec (.tileArrival n) s = .next (t.endAnnounce f ofDup)) ∧
    (f.up = true → gone = false → t.findCopy f.at_ f.ctx f.name = none →
      let u := t.storeCopy f.at_ f
      exec (.tileArrival n) s = .next
        (if 8 ≤ f.at_ then (u.giveRequests f).endAnnounce f 0
         else if f.reach = 2 then (u.giveTile f).endAnnounce f 0
         else (u.giveTile f).addFlight { f with at_ := 8 + f.name / 2 ^ 44 % 2 })) ∧
    (f.up = false → exec (.tileArrival n) s = .next (if gone = true then t else t.giveTile f))) ∧
  (∀ (s t : State) (die e since : Nat) (i : Interest) (bs : List Byte) (ps : List (Nat × Nat)),
    tget? (s.die die).interests e = some i → i.st = .writing bs since → since < s.now → bs.length ≤ i.cap →
    s.pendingFault (.interest die e) = false →
    let ws := (i.dst.wants .write bs.length 0 false).map (·.2)
    s.served (.interest die e) (some die) i.ctx (s.team i.tid).gen ws = (t, .ok ps) →
    let u := (List.range (bs.length / 4)).foldl (fun u k => u.sideWrite i.core (ws.zip (ps.map (·.1))) i.dst
      (4 * k) (sliceBytes bs (4 * k) 4)) (t.clearFaults (.interest die e))
    exec (.interestWriteDone die e) s = .next (u.endInterest die e 0 0 0)) ∧
  (∀ (s : State) (die e : Nat) (i : Interest), tget? (s.die die).interests e = some i → i.st = .waiting →
    i.expires ≤ s.ptp →
    ∃ t j, exec (.interestLifetimeEnd die e) s = .next t ∧ tget? (t.die die).interests e = some j ∧
      j = { i with st := .ending 11 } ∧ t.mem = s.mem) ∧
  (∀ (s : State) (n : Nat) (r : Retire), s.retires.find? (fun r => r.id == n) = some r →
    r.since < s.now →
    let t := ({ s with retires := s.retires.filter fun q => q.id != n } : State).setMark r.ctx r.router r.tensor r.iter
    let u := t.setCopies r.router ((t.copies r.router).filter fun c => !r.covers c.ctx c.name)
    (8 ≤ r.router → exec (.retirementApply n) s = .next u) ∧
    (r.router < 8 → exec (.retirementApply n) s = .next ((u.die r.router).interests.foldl (fun v e =>
      if e.2.failsBy s.now && r.covers e.2.ctx e.2.name then v.endInterest r.router e.1 11 e.2.name 0 else v) u))) ∧
  (∀ (s t v : State) (x va core : Nat) (f : FillRec) (r : RangeDesc) (b : Block), core < 192 →
    (s.ctx x).st.issues = true → s.pendingFault (.generator x va) = false →
    (s.ctx x).fills.find? (fun f => f.block == va && !f.evicting && !f.started) = some f →
    s.rangeDesc x f.range = some r → s.readGenerator x f r.gen = (t, .ok b) →
    let u := (t.clearFaults (.generator x va)).freeGrid x
    let g : GenFill :=
      { block := f.block, range := f.range, depth := f.depth, fill := f.id, chain := f.chain, verdict := none,
        decided := false }
    u.1.admitGrid core 1 0 x u.2 0 (b.forFill f.block r.bsize ((f.block - r.base) / r.bsize)) true none
      (fun T => { T with gen := some g }) = some v →
    exec (.generatorStart x va core) s = .next (v.modCtx x fun c =>
      { c with fills := modFirst (fun e => e.block == f.block) (fun e => { e with started := true }) c.fills })) ∧
  (∀ (s : State) (x range just b : Nat) (r : RangeDesc), (s.ctx x).gdone.find? (fun e => e.1 == range) = some (range, just) →
    (∀ e ∈ (s.ctx x).evictq, e.2.1 ≠ range) → (s.ctx x).evicts range = false → (s.ctx x).holdsTraps = false →
    s.rangeDesc x range = some r → r.budget ≠ 0 → r.budget < r.filled → s.victim x r just = some b →
    exec (.procEviction x range) s = .next ((s.modCtx x fun c =>
      { c with gdone := delFirst (fun e => e.1 == range) c.gdone }).startEvict x b range r.bsize none)) ∧
  (∀ (s : State) (x range va bsize seq : Nat) (l : Leaf),
    (s.ctx x).evictq.find? (fun e => e.2.1 == range) = some (va, range, bsize, seq) →
    (s.ctx x).evicts range = false → (s.ctx x).holdsTraps = false →
    let u := s.modCtx x fun c => { c with evictq := delFirst (· = (va, range, bsize, seq)) c.evictq }
    s.procLeaf x va = some l → s.fillState x l = 2 →
    exec (.procEviction x range) s = .next (u.startEvict x va range bsize (some (9, 0, seq)))) ∧
  (∀ (s : State) (n : Nat) (v : Inval), s.invals.find? (fun i => i.id == n) = some v → s.holdsLine v = false →
    let s1 : State := { s.drainCtx v.ctx with invals := s.invals.filter fun j => j.id != n }
    let s2 := match v.evict with
      | some (b, r) => s1.endEvict v.ctx b r
      | none => s1
    exec (.invalidationComplete n) s = .next (match v.cmd with
      | some (op, st, seq) => s2.cmdDone v.ctx op st seq
      | none => s2))

/-! ## Observation, power and the device -/

/-- R409-R413, R415-R417, R423, R424, R436: the steps of observation, where they are due. A sampling period that expires
starts again, and samples the next eligible group where there is one; a sync packet goes to each context that asks for
one in a cycle of its die's clock; a sampled request's account goes to its context's trace ring, and the records of its die
that waited for it follow (log entry 76); a PTP message sets global time and a loss of lock
leaves it running. R425-R435: the steps of power. A written clock pattern waits for a multiple of 32 cycles, and a
throttling pattern is part of the one it narrows; slope and power registers take legal values, whatever their Reserved bits hold (R6); islands enter and leave
near-threshold mode, and quadrants go from Hold to Off and, one at a time, through the ramp; the floor governs when
the budget's lease has ended; the supply only rises and the frequency only falls as a die ages. A ramp admitted 40 cycles
after its request, one at a time (log entry 40), which plan a re-plan makes of the monitors (log entry 59), 2 us and 1.2 us
as 7,200 and 4,320 ticks (log entry 7), and that a change of frequency raises its sync packet at once (log entry 58), are the
model's choices. -/
def Obligations.ObservationAndPowerStepsAct : Prop :=
  ((∀ (s : State) (core due : Nat), (s.core core).sampling.getLsbD 20 = true → (s.core core).expiry = some due →
     due ≤ s.coreCycle core → s.clocked core = true →
     let t := s.modCore core fun C => { C with expiry := some (due + (C.sampling.extractLsb' 0 20).toNat) }
     (s.nextSampled core = none → exec (.sampleExpiry core) s = .next t) ∧
     (∀ g G, s.nextSampled core = some (g, G) →
       exec (.sampleExpiry core) s = .next (t.takeSample core g G))) ∧
   (∀ (s : State) (die : Nat), (s.die die).edge = true → ((s.die die).sync.1 = true ∨ (s.die die).sync.2 = true) →
     exec (.syncPacket die) s = .next (((tkeys s.ctxs).filter fun x => ((s.ctx x).word 0x088).testBit 6).foldl
       (fun u x => u.logTrace { ctx := x, die := die, cycle := s.cycle die, cls := 2, kind := 1, src := die,
                                bytes := s.syncBytes die s.fresh })
       (({ s with fresh := s.fresh + 1 } : State).modDie die fun D => { D with sync := (false, false) }))) ∧
   (∀ (s : State) (n : Nat) (L : LatReq), s.replyDue n = some L →
     exec (.latencyAccount n) s =
       .next ((({ s with lats := tdel s.lats n } : State).putTrace
         { ctx := L.ctx, die := L.core / 24, cycle := L.cycle, cls := 3, kind := 0, src := L.core, bytes := s.latBytes L }).flushTraces
         L.ctx (L.core / 24))) ∧
   (∀ (s : State) (ns : Nat), ns < 2 ^ 64 →
     exec (.ptpMessage ns) s = .next { s with ptpBase := ns, ptpCycle := s.now, ptpLocked := true }) ∧
   (∀ s : State, exec .ptpLockLoss s = .next { s with ptpLocked := false })) ∧
  ((∀ (s : State) (cl : Nat) (v : BitVec 32), v ≠ 0 →
     exec (.clockPatternWrite cl v) s = .next (s.modCluster cl fun C => { C with next := some v })) ∧
   (∀ (s : State) (cl : Nat) (v : BitVec 32), v ≠ 0 → v &&& (s.cluster cl).pattern = v →
     exec (.thermalThrottle cl v) s = .next (s.modCluster cl fun C => { C with next := some v })) ∧
   (∀ (s : State) (cl : Nat) (v : BitVec 32), v.extractLsb' 0 6 ≠ 0 → v.extractLsb' 8 8 ≠ 0 →
     exec (.currentSlopeWrite cl v) s = .next (s.modCluster cl fun C => { C with slope := v &&& 0xFF3F })) ∧
   (∀ (s : State) (die : Nat) (v : BitVec 32), 256 ≤ (v.extractLsb' 0 16).toNat →
     exec (.powerRegisterWrite die v) s = .next (s.modDie die fun D => { D with power := v &&& 0x1FFFF })) ∧
   (∀ (s : State) (core q k : Nat), s.ntDue core q k = true →
     exec (.ntEntry core q k) s = .next (s.modQuad core q fun I => { I with nt := I.nt.set k true })) ∧
   (∀ (s : State) (core q k t : Nat), (s.quad core q).leaving[k]? = some (some t) → t ≤ s.now →
     exec (.ntExit core q k) s = .next (s.modQuad core q fun I =>
       { I with nt := I.nt.set k false, leaving := I.leaving.set k none })) ∧
   (∀ (s : State) (core q t : Nat), core < 192 → q < 4 → (s.quad core q).st = .hold t → t + 7200 ≤ s.now →
     (∀ e ∈ (s.core core).groups, e.1 / 16 ≠ q) → s.downQuads (core / 24) ≤ 1 →
     exec (.holdExpiry core q) s = .next (s.modQuad core q fun I => { I with st := .off })) ∧
   (∀ (s : State) (die core q t : Nat) (rest : List (Nat × Nat × Nat)), (s.die die).ramps = (core, q, t) :: rest →
     t + 40 ≤ s.cycle die → s.ramps die = false →
     exec (.rampAdmit die) s = .next ((s.modQuad core q fun I => { I with st := .ramping s.now }).modDie die fun D =>
       { D with ramps := D.ramps.drop 1 })) ∧
   (∀ (s : State) (core q t : Nat), (s.quad core q).st = .ramping t → t + 4320 ≤ s.now →
     exec (.rampDone core q) s = .next (s.modQuad core q fun I => { I with st := .nominal })) ∧
   (∀ (s : State) (t : Nat), s.host.budgetEnd = some t → t ≤ s.ptp →
     exec .budgetLeaseEnd s = .next { s with host := { s.host with budget := s.host.floor, budgetEnd := none } }) ∧
   (∀ (s : State) (die mv mhz : Nat), (s.die die).replan ≤ s.ptp → (s.die die).planOk mv mhz = true →
     ∃ t, exec (.ageingReplan die mv mhz) s = .next t ∧ (t.die die).mv = mv ∧
       (t.die die).khz = (s.die die).khz - 1000 * ((s.die die).khz / 1000 - mhz) ∧ s.ptp < (t.die die).replan ∧
       (t.die die).replan ≤ s.ptp + 21600000000000 ∧ ((t.die die).replan - (s.die die).replan) % 21600000000000 = 0) ∧
   (∀ (D : Die) (n : Nat), D.mv ≤ 540 → D.mv % 5 = 0 → D.planOk (D.plan n).1 (D.plan n).2 = true) ∧
   (∀ (s : State) (die khz : Nat), khz ≠ 0 → khz ≤ 3600000 →
     ∃ t, exec (.dieFrequencyChange die khz) s = .next t ∧ (t.die die).khz = khz ∧
       ((s.die die).khz ≠ khz → (t.die die).sync.2 = true)))

/-- R290, R394, R435, R436, R441, R449, R451, R452, R454: the steps of the device. A reset and a thermal trip leave the
machine as after power-on, a trip with every context Lost; links go down and up and the sessions hear of it; the
settings of the tile store and of the package identifier take effect when no team and no launch stands. That a reset and a
trip leave memory and the rest of the state as after power-on, and that a port that comes up is reported both as a retrain
and as a port up, are the model's choices (log entry 63). -/
def Obligations.DeviceStepsAct : Prop :=
  (∀ (s : State) (image : List (BitVec 8)), ∃ t, exec (.deviceReset image) s = .next t ∧ t.mem = State.reset.mem ∧
    t.ctxs = State.reset.ctxs ∧ t.cores = State.reset.cores ∧ t.dies = State.reset.dies ∧ t.host.sessions = [] ∧
    t.host.owner = none ∧ t.host.boot = bootStatus image ∧
    t.host.firmware = if bootStatus image = 0 then some (Config.sha384 image) else none) ∧
  (∀ s : State, ∃ t, exec .thermalTrip s = .next t ∧ t.mem = State.reset.mem ∧ t.host.sessions = [] ∧ t.teams = [] ∧
    t.launches = [] ∧ ∀ x < 4096, (t.ctx x).st = .lost) ∧
  (∀ (s : State) (port : Nat), port < 96 → s.fabricUp port = true →
    ∃ t, exec (.linkLoss port) s = .next t ∧ t.fabricUp port = false ∧ t = (s.setFabric port false).linkEvent port 0 0) ∧
  (∀ (s : State) (port ns : Nat), port < 96 → s.fabricUp port = false →
    ∃ t, exec (.linkRetrainDone port ns) s = .next t ∧ t.fabricUp port = true ∧
      t = ((s.setFabric port true).linkEvent port 2 ns).linkEvent port 1 0) ∧
  (∀ (s : State) (h ns : Nat), h < 2 → (s.hdie h).cxlUp = false →
    ∃ t, exec (.linkRetrainDone (0x100 + h) ns) s = .next t ∧ (t.hdie h).cxlUp = true) ∧
  (∀ (s : State) (h : Nat), h < 2 → (s.hdie h).cxlUp = true →
    ∃ t, exec (.cxlLinkDown h) s = .next t ∧ (t.hdie h).cxlUp = false) ∧
  (∀ (s : State) (up : Bool) (ns : Nat), s.host.portUp ≠ up →
    ∃ t, exec (.hostPortLinkChange up ns) s = .next t ∧ t.host.portUp = up) ∧
  (∀ s : State, exec .frameDiscard s = .next { s with host := { s.host with discards := s.host.discards + 1 } }) ∧
  (∀ (s : State) (key : BitVec 384), key ∉ s.host.keys →
    exec (.macsecKeyAgreement key) s = .next { s with host := { s.host with keys := s.host.keys ++ [key] } }) ∧
  (∀ s : State, s.tsWritten ≠ s.tsForce → s.quiet = true →
    ∃ t, exec .tileStoreSizeEffect s = .next t ∧ t.tsForce = s.tsWritten ∧ t.mem = s.mem) ∧
  (∀ s : State, s.idWritten ≠ s.idForce → s.quiet = true →
    exec .packageIdEffect s = .next { s with idForce := s.idWritten })

/-! ## The host link -/

/-- R437-R445, R448, R450, R452: the requests of a session, in its turn. Each answers OK and the reply is kept: the
offered features are read, and accepted once for a context; a claim is live for 500 ms, and wins where no session is
owner; the owner hands over to a live session and renews its lease; power budgets are taken with the right. R439,
R440, R224, R452: READ gives the bytes at the translated addresses; WRITE stores them there; SUBMIT writes its blocks
behind the tail of an open queue and moves the tail; an image is placed and verified in recovery. -/
def Obligations.SessionRequestsServed : Prop :=
  (∀ (s : State) (k seq : Nat) (S : Session), s.InTurn k seq S →
     let h := s.hear k
     (s.host.boot = 0 → exec (.featureRead k seq) s = .next (h.replied k seq 2 0 (leBytes 32 0x3FF))) ∧
     (∀ (x : Nat) (f : BitVec 256), s.host.boot = 0 → s.host.owner = some k → x < 4096 → (s.ctx x).features = none →
       f.getLsbD 0 = true → f &&& 0x3FF = f →
       exec (.featureAccept k seq x f) s =
         .next ((h.modCtx x fun c => { c with features := some f }).replied k seq 2 0 [])) ∧
     (∀ u : State, u = (h.modSession k fun S => { S with claim := some (s.ptp + 500000000) }) →
       (s.host.owner = none → exec (.claim k seq) s = .next ((u.setOwner k 0).replied k seq 3 0 [1, 0, 0, 0])) ∧
       (s.host.owner ≠ none → exec (.claim k seq) s =
         .next (u.replied k seq 3 0 [if s.host.owner = some k then 1 else 0, 0, 0, 0]))) ∧
     (∀ (to_ : Nat) (N : Session), s.host.owner = some k → tget? s.host.sessions to_ = some N →
       N.candidate s.ptp = true → s.host.boot = 0 → exec (.handover k seq to_) s = .next ((h.setOwner to_ 1).replied k seq 4 0 [])) ∧
     (∀ fin : Nat, fin = max s.host.leaseEnd (s.ptp + 500000000) →
       s.host.owner = some k → exec (.lease k seq) s =
         .next ((h.modHost fun H => { H with leaseEnd := fin }).replied k seq 5 0 (leBytes 8 fin))) ∧
     (∀ p : List (BitVec 8), s.host.boot = 0 → S.power = true → p.length = 16 →
       exec (.power k seq p) s = .next ((h.modHost fun H => H.takeBudget s.ptp p).replied k seq 10 0 [])) ∧
     (∀ target N, s.host.boot = 0 → s.host.owner = some k → target < 2 ^ 32 →
       tget? s.host.sessions target = some N → N.frozen = true →
       exec (.sessionThaw k seq target) s =
         .next ((h.modHost fun H => { H with sessions := tset H.sessions target { N with frozen := false } }).replied k seq 7 0 []))) ∧
  (∀ (s : State) (k seq : Nat) (S : Session), s.InTurn k seq S →
     let h := s.hear k
     (∀ x va n bs, s.host.boot = 0 → x < 4096 → 0 < n → n ≤ 8192 → va + n ≤ 2 ^ 52 → h.vaRead x va n = .ok bs →
       exec (.read k seq 0 x va n) s = .next (h.replied k seq 6 0 bs)) ∧
     (∀ x va (bs : List (BitVec 8)) t, s.host.boot = 0 → s.host.owner = some k → x < 4096 → bs ≠ [] → bs.length ≤ 8192 →
       va + bs.length ≤ 2 ^ 52 → h.vaWrite x va bs = .ok t →
       exec (.write k seq 0 x va bs) s = .next (t.replied k seq 7 0 [])) ∧
     (∀ x q (blocks : List (List (BitVec 8))) Q t, s.host.boot = 0 → s.host.owner = some k → x < 4096 → q < 16 →
       blocks ≠ [] → blocks.length ≤ 32 → (∀ b ∈ blocks, b.length = 256) → (s.ctx x).st ≠ .lost →
       h.launchQueue x q = some Q → Q.enabled = true → Q.stopped = false → Q.waiting + blocks.length ≤ Q.cap →
       h.putBlocks x Q Q.tail blocks = .ok t →
       exec (.submit k seq x q blocks) s = .next ((t.wr (Q.pa + 12) (leBytes 4 ((Q.tail + blocks.length) % 2 ^ 32))).replied
         k seq 8 0 (leBytes 4 Q.tail))) ∧
     (∀ addr (bs : List (BitVec 8)), s.host.boot ≠ 0 → s.host.owner = some k → bs ≠ [] → bs.length ≤ 8192 →
       addr + bs.length ≤ 67108864 →
       exec (.firmwareImageWrite k seq addr bs) s = .next ((h.modHost fun H =>
         { H with image := Memory.writeList H.image addr bs, imageSize := max H.imageSize (addr + bs.length) }).replied
           k seq 7 0 [])) ∧
     (s.host.boot ≠ 0 → s.host.owner = some k →
       exec (.firmwareVerify k seq s.host.imageSize) s = .next ((h.modHost HostState.verify).replied k seq 7 0 [])))

/-- R447: the commands of the owner, in turn, each with its completion event and a kept reply of status OK. R404: the eviction
of a block begins at once, or waits for another eviction of its range. -/
def Obligations.CommandsServed : Prop :=
  ∀ (s : State) (k seq x : Nat) (S : Session), s.InTurn k seq S → s.host.boot = 0 → s.host.owner = some k → x < 4096 →
    let h := s.hear k
    let done (op : Nat) (t : State) : Out := .next ((t.cmdDone x op 0 seq).replied k seq 7 0 [])
    (∀ f : BitVec 256, (s.ctx x).features = none → f.getLsbD 0 = true → f &&& 0x3FF = f →
      exec (.create k seq x f) s =
        done 1 ((h.modCtx x fun c => { c with features := some f }).clearCounts x (List.range 16))) ∧
    (k ≠ 0 → (s.ctx x).st = .active → exec (.requestPreemption k seq x) s = done 2 (h.preempt x)) ∧
    ((s.ctx x).st = .draining → exec (.withdraw k seq x) s = done 3 (h.withdraw x)) ∧
    ((s.ctx x).st = .stopped → exec (.resume k seq x) s = done 4 (h.resume x)) ∧
    ((s.ctx x).st = .frozen → exec (.thaw k seq x) s = done 5 (h.thaw x)) ∧
    (exec (.reset k seq x) s = done 6 (h.resetCtx x 0)) ∧
    ((s.ctx x).st = .lost → exec (.clear k seq x) s = done 7 (h.clear x)) ∧
    (exec (.invalidate k seq x 0 0) s = .next ((h.startInval x none (some (8, 0, seq)) none).replied k seq 7 0 [])) ∧
    (∀ va len, len ≠ 0 → va + len ≤ 2 ^ 52 → exec (.invalidate k seq x va len) s =
      .next ((h.startInval x (some (va, len)) (some (8, 0, seq)) none).replied k seq 7 0 [])) ∧
    (∀ va l r, va < 2 ^ 52 → h.procLeaf x va = some l → h.rangeOf x va = some r → h.registered x l = true →
      h.fillState x l = fsFilled → (∀ f ∈ (s.ctx x).fills, f.block ≠ l.va) → exec (.evictBlock k seq x va) s =
      .next ((if (s.ctx x).evicts r.idx then
          h.modCtx x fun c => { c with evictq := c.evictq ++ [(l.va, r.idx, r.bsize, seq)] }
        else h.startEvict x l.va r.idx r.bsize (some (9, 0, seq))).replied k seq 7 0 [])) ∧
    (exec (.flushRegion k seq x) s = done 10 (h.modCtx x fun c => { c with onyx := [], onyxUsed := 0 })) ∧
    (exec (.tearDown k seq x) s = done 11 (h.resetCtx x 0)) ∧
    (∀ tok F, tok < 2 ^ 64 → tget? s.faults tok = some F → F.ctx = x → F.forwarded = true → F.denied = false →
      F.settled = false → exec (.retryFault k seq x tok) s = done 12 (h.settleFault tok F) ∧
      exec (.declareUnresolvable k seq x tok) s = done 13 (h.denyFault tok F))

/-- R248, R251, R286, R381, R389, R413, R418, R446: a write of the owner, in turn, to a block of a context's control space
or to the device's control space, whose words the block may take: the words are written and the reply is OK. -/
def Obligations.ControlWritesServed : Prop :=
  ∀ (s : State) (k seq : Nat) (S : Session), s.InTurn k seq S → s.host.boot = 0 → s.host.owner = some k →
    let h := s.hear k
    (∀ (i : Instr) x off (bs : List (BitVec 8)) base t,
      (i = .trapControlWrite k seq x off bs ∧ base = 0x000 ∨ i = .translationBlockWrite k seq x off bs ∧ base = 0x040 ∨
        i = .sampleBlockWrite k seq x off bs ∧ base = 0x060 ∨ i = .traceControlWrite k seq x off bs ∧ base = 0x080 ∨
        i = .nameControlWrite k seq x off bs ∧ base = 0x0C0 ∨ i = .telemetryControlWrite k seq x off bs ∧ base = 0x100 ∨
        i = .contextTablesWrite k seq x off bs ∧ base = 0x180 ∨ i = .errorLogControlWrite k seq x off bs ∧ base = 0x240) →
      x < 4096 → bs ≠ [] → bs.length ≤ 4096 → bs.length % 4 = 0 → off % 4 = 0 →
      (base + off + bs.length ≤ 0x200 ∨ 0x240 ≤ base + off ∧ base + off + bs.length ≤ 4096) →
      h.writeSpace x (base + off) bs = some t → exec i s = .next (t.replied k seq 7 0 [])) ∧
    (∀ core (v : BitVec 32), core < 192 →
      (v.getLsbD 20 = true → 16 ≤ (v.extractLsb' 0 20).toNat) →
      exec (.samplingControlWrite k seq core v) s = .next ((h.writeSampling core v.toNat).replied k seq 7 0 [])) ∧
    (∀ mib ≤ 16, exec (.tileStoreSizeWrite k seq mib) s =
      .next (({ h with tsWritten := mib } : State).replied k seq 7 0 [])) ∧
    (∀ id : BitVec 32, id.toNat < 1024 → exec (.packageIdWrite k seq id) s =
      .next (({ h with idWritten := id } : State).replied k seq 7 0 [])) ∧
    (∀ w, 500 ≤ w → w ≤ 2000 → exec (.powerFloorWrite k seq w) s =
      .next ((h.modHost fun H => { H with floor := w, budget := if H.budgetEnd.isSome then H.budget else w }).replied
        k seq 7 0 []))

/-- R438, R440-R443, R449, R453: HELLO with a valid credential opens a session with the next identifier and is
answered, as a reply to session 0; one whose payload does not fit receives INVALID, and one with any other credential opens
nothing and is not answered, which is the model's choice (log entry 61); an owner whose lease or credential has ended loses ownership to the election; a session silent
for 10 s is closed; an acknowledged event is gone, and one not acknowledged is sent every 10 ms, 50 times more: 10 ms count
as 36,000,000 ticks (log entry 7). -/
def Obligations.SessionStepsAct : Prop :=
  (∀ (s : State) (seq : Nat) (cred nonce : List (BitVec 8)), s.host.hears = true →
    ∃ t, exec (.hello seq cred nonce) s = .next t ∧ { t with host := s.host } = s ∧
      (∀ j, j ≠ s.host.nextSess → tget? t.host.sessions j = tget? s.host.sessions j) ∧
      (if credentialFits cred = false ∨ nonce.length ≠ 32 then t.host.nextSess = s.host.nextSess ∧
         t.host.sessions = s.host.sessions ∧ t.host.sent = [(0, { seq := seq % 2 ^ 32, type := 1, status := 4, payload := [] })]
       else if credentialOk cred s.ptp = true then t.host.nextSess = s.host.nextSess + 1 ∧
         tget? t.host.sessions s.host.nextSess = some (s.newSession seq cred) ∧
         t.host.sent = [(0, s.helloReply s.host.nextSess seq nonce)]
       else t = s.modHost fun h => { h with sent := [] })) ∧
  (∀ (s : State) (k : Nat), s.host.owner = some k → s.host.leaseEnd ≤ s.ptp → exec .ownerLeaseEnd s = .next s.elect) ∧
  (∀ (s : State) (k : Nat) (S : Session), s.host.owner = some k → tget? s.host.sessions k = some S → S.expiry ≤ s.ptp →
    exec (.credentialExpiry k) s = .next s.elect) ∧
  (∀ (s : State), (∀ e ∈ s.host.sessions, e.2.candidate s.ptp = false) → s.elect.host.owner = none) ∧
  (∀ (s : State) (k : Nat) (S : Session), s.host.sessions = [(k, S)] → S.candidate s.ptp = true →
    s.elect.host.owner = some k ∧ s.elect.host.leaseEnd = s.ptp + 500000000) ∧
  (∀ (s : State) (k : Nat) (S : Session), tget? s.host.sessions k = some S → S.heard + 10000000000 ≤ s.ptp →
    exec (.sessionTimeout k) s =
      .next ((s.clearFaults (.host k)).modHost fun h => { h with sessions := tdel h.sessions k })) ∧
  (∀ (s : State) (k num : Nat), s.host.hears = true →
    ∃ t, exec (.eventAck k num) s = .next t ∧ t.host.events = s.host.events.filter (fun e => !(e.num == num && e.session == k))) ∧
  (∀ (s : State) (e : EventRec), s.host.events = [e] → e.sent + 36000000 ≤ s.now →
    exec (.eventResend e.num) s = .next { s with host := { s.host with
      events := if 51 ≤ e.times then [] else [{ e with sent := s.now, times := e.times + 1 }] } })

/-! ## The word of ILL, and batches without an active fibre -/

/-- R42: the word 0 is ILL, and so is every word with major 0 and op 0; an ILL raises ILLOP in every active fibre of its
batch. -/
def Obligations.IllWords : Prop :=
  decodeWord 0 = .instr (.ill 0) ∧
  (∀ w, w < 2 ^ 32 → w / 2 ^ 26 = 0 → w / 2 ^ 21 % 32 = 0 → ∃ x, decodeWord w = .instr (.ill x)) ∧
  (∀ (x : BitVec 21) (s : State) (I : Issue) (F : Form), formOf (.ill x) s = some F → s.issuer = some I → I.first = true →
    (F.check I.hv I.G.budget (s.ctx I.x) = none ∨ F.hintsOk I.hv = false) →
    F.blocked I.hv I.G I.lanes I.act = false → (∀ l ∈ I.act, F.checkLane I.hv (s.ctx I.x).scoreboard I.G I.act l = none) →
    exec (.ill x) s = .next ((F.slot s I).finish I none (I.act.map fun l => { lane := l, trap := some (mkTrap 1 0 0) })))

/-- R456, R53: an instruction whose PRED hint leaves its batch without an active fibre does nothing, whatever the
instruction: no register, no byte of memory, no object and no other part of the machine changes, nothing is started,
no fibre traps, and the batch goes on behind it. Only its issue is accounted for. -/
def Obligations.InactiveBatchesDoNothing : Prop :=
  ∀ (i : Instr) (s : State) (F : Form) (I : Issue), formOf i s = some F → s.issuer = some I → I.first = true → I.Lives →
    I.act = [] → F.blocked I.hv I.G I.lanes I.act = false →
    ∃ t H, exec i s = .next t ∧ t.group? I.core I.g = some H ∧ Elsewhere I.core I.g s t ∧ Group.SameBut I.G H ∧
      H.inflight = I.G.inflight ∧ (∀ l ∈ I.lanes, (H.lane l).pc = I.pc + 4 ∧ Lane.SameBut (I.G.lane l) (H.lane l)) ∧
      (∀ l, l ∉ I.lanes → H.lane l = I.G.lane l)

/-! ## What an instruction may change -/

/-- R17, R20, R53, R59: the frame of every instruction whose fibres go on. When the answers `outs` of the fibres of a
batch take effect, nothing changes outside the group, and of the group only its batches, the PCs of the batch's fibres
and the registers written. Writes of a fixed latency go behind those in flight. Writes of a variable latency show at
once, or, where the next of the delays left open (log entry 5) is not 0, are pending for so many cycles. Each fibre goes
on where its answer says, or behind the instruction. A discarded write is no write. -/
def Obligations.FinishFrame : Prop :=
  ∀ (s : State) (I : Issue) (outs : List LaneOut), s.issuer = some I → I.Lives → GoesOn outs →
    let ws := (I.lanes.map (outOf outs)).flatMap (·.writes)
    let fl : Nat := (I.lanes.map (outOf outs)).foldl (fun a o => a ||| o.flags) 0
    let late : Nat := if ws = [] ∧ fl = 0 then 0 else s.delays.headD 0
    let moved (H : Group) : Prop := (∀ l ∈ I.lanes, (H.lane l).pc = (outOf outs l).next.getD (I.pc + 4)) ∧
      (∀ l, l ∉ I.lanes → (H.lane l).pc = (I.G.lane l).pc)
    (∀ n, ∃ H, (s.finish I (some n) outs).group? I.core I.g = some H ∧ Elsewhere I.core I.g s (s.finish I (some n) outs) ∧
      Group.SameBut I.G H ∧ moved H ∧ (∀ l, Lane.SameBut (I.G.lane l) (H.lane l)) ∧
      H.inflight = I.G.inflight ++ ((ws.filter fun w => !w.1.discards).map fun w =>
        { due := s.coreCycle I.core + n, ref := w.1, val := w.2 }) ++
        (if fl = 0 then [] else [{ due := s.coreCycle I.core + n, ref := .flags, val := BitVec.ofNat 32 fl }])) ∧
    (late = 0 → ∃ H, (s.finish I none outs).group? I.core I.g = some H ∧ Elsewhere I.core I.g s (s.finish I none outs) ∧ moved H ∧
      { H with lanes := I.G.lanes, batches := I.G.batches, inflight := I.G.inflight, sregs := I.G.sregs,
               fpflags := I.G.fpflags } = I.G ∧
      (∀ l k, (∀ w ∈ ws, w.1.whole ≠ .v l k) → H.v l k = I.G.v l k) ∧
      (∀ l k, (∀ w ∈ ws, w.1 ≠ .p l k) → H.p l k = I.G.p l k) ∧ (∀ k, (∀ w ∈ ws, w.1 ≠ .s k) → H.s k = I.G.s k) ∧
      (∀ l k x, (.v l k, x) ∈ ws → (∀ w ∈ ws, w.1.whole = .v l k → w = (.v l k, x)) → H.v l k = x) ∧
      (∀ l k x, k < 31 → (.p l k, x) ∈ ws → (∀ w ∈ ws, w.1 = .p l k → w = (.p l k, x)) → H.p l k = (x != 0)) ∧
      (∀ k x, k ≠ 63 → (.s k, x) ∈ ws → (∀ w ∈ ws, w.1 = .s k → w = (.s k, x)) → H.s k = x) ∧
      ((∀ w ∈ ws, w.1 ≠ .flags) → H.fpflags = I.G.fpflags ||| (BitVec.ofNat 32 fl &&& 0xFF))) ∧
    (late ≠ 0 → ∃ H, (s.finish I none outs).group? I.core I.g = some H ∧ Elsewhere I.core I.g s (s.finish I none outs) ∧
      moved H ∧ (∀ l k, H.v l k = I.G.v l k ∧ H.p l k = I.G.p l k) ∧ (∀ k, H.s k = I.G.s k) ∧
      { H with lanes := I.G.lanes, batches := I.G.batches, inflight := I.G.inflight, pending := I.G.pending,
               fpflags := I.G.fpflags } = I.G ∧
      H.pending = I.G.pending ++ (ws.filter fun w => w.1 != .flags && !w.1.discards).map fun w =>
        { due := s.coreCycle I.core + late, ref := w.1, val := w.2 })

/-- R17, R53: every instruction of fixed latency, when no check refuses it, completes: all it does is in the answers of
its active fibres, which write nothing but its destinations, and take effect under `FinishFrame`. -/
def Obligations.FixedLatencyCompletes : Prop :=
  ∀ (i : Instr) (s : State) (F : Form) (I : Issue) (n : Nat), formOf i s = some F → F.lat = some n → Ready F s I →
    ∃ outs, exec i s = .next ((F.slot s I).finish I (some n) outs) ∧ (∀ o ∈ outs, o.lane ∈ I.act) ∧
      ∀ o ∈ outs, o.trap = none ∧ o.park = none ∧ o.ends = false ∧ o.next = none ∧
        ∀ w ∈ o.writes, w.1.whole ∈ F.dests o.lane

/-- R18, R20, R25, R102: a write in flight or pending does not show in its register. In the cycle in which writes have
landed, a register holds the value of the one that landed last, whichever issued first, and each predicate bit likewise;
a register with no landing write keeps its value, and a write of some bits keeps the other bits as they are when it
lands. A pending write shows when it lands, and a batch that waited for pending writes is tried again. s63 reads zero and
p31 reads 1 whatever is written. -/
def Obligations.WritesLandInOrder : Prop :=
  (∀ (G : Group) (fs : List InFlight) (l k : Nat),
    ({ G with inflight := fs } : Group).v l k = G.v l k ∧ ({ G with inflight := fs } : Group).p l k = G.p l k ∧
    ({ G with inflight := fs } : Group).s k = G.s k) ∧
  (∀ (G : Group) (n : Nat) (f : InFlight), f ∈ G.inflight → f.due ≤ n →
    (∀ h ∈ G.inflight, h.ref.whole = f.ref.whole → h ≠ f → h.due ≤ n → h.due < f.due) →
    (∀ l k, f.ref = .v l k → (G.settle n).v l k = f.val) ∧
    (∀ l k, k < 31 → f.ref = .p l k → (G.settle n).p l k = (f.val != 0)) ∧
    (∀ k, k ≠ 63 → f.ref = .s k → (G.settle n).s k = f.val)) ∧
  (∀ (G : Group) (n : Nat),
    (∀ l k, (∀ f ∈ G.inflight, f.ref.whole = .v l k → n < f.due) → (G.settle n).v l k = G.v l k) ∧
    (∀ l k lo len, ∀ f ∈ G.inflight, f.ref = .vbits l k lo len → f.due ≤ n →
      G.inflight.filter (fun h => h.ref.whole = .v l k && h.due ≤ n) = [f] →
      (G.settle n).v l k = mergeBits (G.v l k) lo len f.val) ∧
    (∀ l k, (∀ f ∈ G.inflight, f.ref = .p l k → n < f.due) → (G.settle n).p l k = G.p l k) ∧
    (∀ k, (∀ f ∈ G.inflight, f.ref = .s k → n < f.due) → (G.settle n).s k = G.s k) ∧
    (G.settle n).inflight = G.inflight.filter fun f => n < f.due) ∧
  (∀ (G : Group) (fs : List InFlight) (l k : Nat), ({ G with pending := fs } : Group).v l k = G.v l k ∧
    ({ G with pending := fs } : Group).p l k = G.p l k ∧ ({ G with pending := fs } : Group).s k = G.s k) ∧
  (∀ (G : Group) (n : Nat), (G.land n).pending = (G.pending.filter fun f => n < f.due) ∧
    (∀ f ∈ G.pending, f.due ≤ n → (∀ B ∈ (G.land n).batches, B.wait ≠ some .score) ∧
      ((∀ h ∈ G.pending, h.ref.whole = f.ref.whole → h = f) →
        (∀ l k, f.ref = .v l k → (G.land n).v l k = f.val) ∧
        (∀ l k, k < 31 → f.ref = .p l k → (G.land n).p l k = (f.val != 0)) ∧
        (∀ k, k ≠ 63 → f.ref = .s k → (G.land n).s k = f.val))) ∧
    (∀ l k, (∀ f ∈ G.pending, f.ref.whole = .v l k → n < f.due) → (G.land n).v l k = G.v l k)) ∧
  (∀ (G : Group) (ws : List (RegRef × Word)) (l : Nat), (G.write ws).s 63 = 0 ∧ (G.write ws).p l 31 = true)

/-! ## Taking a trap -/

/-- R240-R242, R244, R246, R247: TRAP k, where the trap control block of the context gives code 17 to a handler. Each
active fibre outside handler mode is delivered to it: its cause, the PC that is reported and the address 0 are saved,
it enters handler mode at the handler's address, and the fibres delivered form the youngest batch. Fibres in handler
mode are not delivered: the context stops. Fibres with a variable-latency write pending are disposed of when it has
landed (R242). -/
def Obligations.SoftwareTrapsDelivered : Prop :=
  ∀ (k : BitVec 14) (c : BitVec 3) (s : State) (I : Issue) (F : Form), formOf (.trap k c) s = some F → Ready F s I → I.Lives →
    let C := s.ctx I.x
    C.st ≠ .frozen → C.st ≠ .lost → I.T.gen = none → I.G.owes I.act = false →
    (C.word 0x00C).testBit 17 = false → (C.word 0x008).testBit 17 = true → C.dword 0x000 ≠ 0 →
    ((∀ l ∈ I.act, (I.G.lane l).handler = false) →
      ∃ t H, exec (.trap k c) s = .next t ∧ t.group? I.core I.g = some H ∧
        (∀ l ∈ I.act, (H.lane l).trapcause = BitVec.ofNat 32 (17 + 256 * k.toNat) ∧
          (H.lane l).trappc = BitVec.ofNat 64 I.rpc ∧ (H.lane l).trapaddr = 0 ∧ (H.lane l).handler = true ∧
          (H.lane l).pc = C.dword 0x000 ∧ (H.lane l).parked = none) ∧
        (∀ l r, H.v l r = I.G.v l r ∧ H.p l r = I.G.p l r) ∧ (∀ r, H.s r = I.G.s r) ∧
        H.batches.getLast? = some (Batch.fresh (maskOf I.act))) ∧
    ((∀ l ∈ I.act, (I.G.lane l).handler = true) → C.st.issues = true →
      ∃ t H, exec (.trap k c) s = .next t ∧ t.group? I.core I.g = some H ∧ (t.ctx I.x).st = .stopped ∧
        ∀ l ∈ I.act, (H.lane l).parked.isSome = true ∧ (H.lane l).pc = I.rpc ∧
          (H.lane l).trapcause = (I.G.lane l).trapcause ∧ (H.lane l).trappc = (I.G.lane l).trappc)

/-! ## The machine at reset, and what every step keeps -/

/-- R236, R414, R425-R429, R433, R441, R449, R454: the values that the spec gives for reset. The cycle count and the
package identifier are 0; every core's partition boundary is 32; every cluster's clock pattern lets every pulse pass
and its waves hold 8 groups, 4 cycles apart; every die's islands wait 4,096 cycles and may enter near-threshold mode;
no session is open; memory is in canonical form. -/
def Obligations.ResetValues : Prop :=
  State.reset.now = 0 ∧ State.reset.idForce = 0 ∧
  (∀ c, (State.reset.core c).boundary = 32) ∧
  (∀ cl, (State.reset.cluster cl).pattern = 0xFFFFFFFF ∧ (State.reset.cluster cl).slope = 0x0408) ∧
  (∀ d, (State.reset.die d).power = 0x00011000) ∧
  State.reset.host.eventNum = 0 ∧ State.reset.host.sessions = [] ∧ State.reset.host.owner = none ∧
  (∀ c g, State.reset.group? c g = none) ∧ State.reset.MemOk

/-- The canonical form of memory and of every storage beside it is an invariant: no step loses it. -/
def Obligations.StepKeepsMemOk : Prop :=
  ∀ s t : State, s.MemOk → step s = .next t → t.MemOk

/-- No step stops: in every state the machine has a next state, whatever stands in memory and whatever comes from outside. -/
def Obligations.StepNeverStops : Prop :=
  ∀ s : State, ∃ t, step s = .next t

/-- Memories in canonical form that read alike are equal, and a write gives back the bytes written and leaves every other
byte as it was, in canonical form. -/
def Obligations.MemoryIsCanonical : Prop :=
  (∀ m n : List Host.Cell, Memory.wf m = true → Memory.wf n = true → (∀ a, Memory.read m a = Memory.read n a) → m = n) ∧
  (∀ (m : List Host.Cell) (a : Nat) (bs : List (BitVec 8)), Memory.wf m = true →
    Memory.wf (Memory.writeList m a bs) = true ∧
    (∀ j < bs.length, Memory.read (Memory.writeList m a bs) (a + j) = bs.getD j 0) ∧
    (∀ b, (b < a ∨ a + bs.length ≤ b) → Memory.read (Memory.writeList m a bs) b = Memory.read m b))
end

