-- ==== Sys2Proof/Laws/Exec.lean ====
section
/-!
SUPPORT. The arm of `exec` for every instruction, one equation each, and the issue behind it.
-/

namespace Sys2Proof.Machine

variable (s : State)

@[simp] theorem exec_ill (x : BitVec 21) : exec (.ill x) s =
    execIll x s := rfl
@[simp] theorem exec_nop (c : BitVec 3) : exec (.nop c) s =
    execNop c s := rfl
@[simp] theorem exec_trap (k : BitVec 14) (c : BitVec 3) : exec (.trap k c) s =
    execTrap k c s := rfl
@[simp] theorem exec_eret (c : BitVec 3) : exec (.eret c) s =
    execEret c s := rfl
@[simp] theorem exec_mfs (d sf : BitVec 7) (w : BitVec 1) (c : BitVec 3) : exec (.mfs d sf w c) s =
    execMfs d sf w c s := rfl
@[simp] theorem exec_mfsV (d sf : BitVec 7) (w : BitVec 1) (c : BitVec 3) : exec (.mfsV d sf w c) s =
    execMfsV d sf w c s := rfl
@[simp] theorem exec_mfsB (d : BitVec 7) (b : BitVec 4) (c : BitVec 3) : exec (.mfsB d b c) s =
    execMfsB d b c s := rfl
@[simp] theorem exec_mts (d sf : BitVec 7) (w : BitVec 1) (c : BitVec 3) : exec (.mts d sf w c) s =
    execMts d sf w c s := rfl
@[simp] theorem exec_mtsV (d sf : BitVec 7) (w : BitVec 1) (c : BitVec 3) : exec (.mtsV d sf w c) s =
    execMtsV d sf w c s := rfl
@[simp] theorem exec_mtsB (d : BitVec 7) (b : BitVec 4) (c : BitVec 3) : exec (.mtsB d b c) s =
    execMtsB d b c s := rfl
@[simp] theorem exec_feat (d n : BitVec 7) (m : BitVec 1) (c : BitVec 3) : exec (.feat d n m c) s =
    execFeat d n m c s := rfl
@[simp] theorem exec_clk (d : BitVec 7) (c : BitVec 3) : exec (.clk d c) s =
    execClk d c s := rfl
@[simp] theorem exec_fence (sf c : BitVec 3) : exec (.fence sf c) s =
    execFence sf c s := rfl
@[simp] theorem exec_fenceAx (sf c : BitVec 3) : exec (.fenceAx sf c) s =
    execFenceAx sf c s := rfl
@[simp] theorem exec_sleep (n : BitVec 7) (c : BitVec 3) : exec (.sleep n c) s =
    execSleep n c s := rfl
@[simp] theorem exec_sleepLv (n : BitVec 7) (c : BitVec 3) : exec (.sleepLv n c) s =
    execSleepLv n c s := rfl
@[simp] theorem exec_bkpt (k : BitVec 14) (c : BitVec 3) : exec (.bkpt k c) s =
    execBkpt k c s := rfl
@[simp] theorem exec_mark (n k : BitVec 7) (c : BitVec 3) : exec (.mark n k c) s =
    execMark n k c s := rfl
@[simp] theorem exec_rege (im : BitVec 16) (c : BitVec 3) : exec (.rege im c) s =
    execRege im c s := rfl
@[simp] theorem exec_regl (c : BitVec 3) : exec (.regl c) s =
    execRegl c s := rfl
@[simp] theorem exec_csw (n d : BitVec 7) (c : BitVec 3) : exec (.csw n d c) s =
    execCsw n d c s := rfl
@[simp] theorem exec_bra (t : BitVec 14) (c : BitVec 3) : exec (.bra t c) s =
    execBra t c s := rfl
@[simp] theorem exec_brp (p : BitVec 5) (t : BitVec 14) (c : BitVec 3) : exec (.brp p t c) s =
    execBrp p t c s := rfl
@[simp] theorem exec_brn (p : BitVec 5) (t : BitVec 14) (c : BitVec 3) : exec (.brn p t c) s =
    execBrn p t c s := rfl
@[simp] theorem exec_brpAny (p : BitVec 5) (t : BitVec 14) (c : BitVec 3) : exec (.brpAny p t c) s =
    execBrpAny p t c s := rfl
@[simp] theorem exec_brpAll (p : BitVec 5) (t : BitVec 14) (c : BitVec 3) : exec (.brpAll p t c) s =
    execBrpAll p t c s := rfl
@[simp] theorem exec_call (l : BitVec 5) (t : BitVec 14) (c : BitVec 3) : exec (.call l t c) s =
    execCall l t c s := rfl
@[simp] theorem exec_calli (l t : BitVec 5) (c : BitVec 3) : exec (.calli l t c) s =
    execCalli l t c s := rfl
@[simp] theorem exec_ret (p : BitVec 5) (c : BitVec 3) : exec (.ret p c) s =
    execRet p c s := rfl
@[simp] theorem exec_jmpi (t : BitVec 5) (c : BitVec 3) : exec (.jmpi t c) s =
    execJmpi t c s := rfl
@[simp] theorem exec_brx (im n : BitVec 7) (c : BitVec 3) : exec (.brx im n c) s =
    execBrx im n c s := rfl
@[simp] theorem exec_fork (d n : BitVec 7) (c : BitVec 3) : exec (.fork d n c) s =
    execFork d n c s := rfl
@[simp] theorem exec_fend (c : BitVec 3) : exec (.fend c) s =
    execFend c s := rfl
@[simp] theorem exec_rcv (c : BitVec 3) : exec (.rcv c) s =
    execRcv c s := rfl
@[simp] theorem exec_spawn (a n : BitVec 7) (c : BitVec 3) : exec (.spawn a n c) s =
    execSpawn a n c s := rfl
@[simp] theorem exec_spawnT (k : BitVec 3) (a n : BitVec 7) (c : BitVec 3) : exec (.spawnT k a n c) s =
    execSpawnT k a n c s := rfl
@[simp] theorem exec_yield (c : BitVec 3) : exec (.yield c) s =
    execYield c s := rfl
@[simp] theorem exec_shfl (d a b : BitVec 7) (c : BitVec 3) : exec (.shfl d a b c) s =
    execShfl d a b c s := rfl
@[simp] theorem exec_elect (k : BitVec 5) (c : BitVec 3) : exec (.elect k c) s =
    execElect k c s := rfl
@[simp] theorem exec_voteAny (k j : BitVec 5) (c : BitVec 3) : exec (.voteAny k j c) s =
    execVoteAny k j c s := rfl
@[simp] theorem exec_voteAll (k j : BitVec 5) (c : BitVec 3) : exec (.voteAll k j c) s =
    execVoteAll k j c s := rfl
@[simp] theorem exec_voteBallot (d : BitVec 7) (j : BitVec 5) (c : BitVec 3) : exec (.voteBallot d j c) s =
    execVoteBallot d j c s := rfl
@[simp] theorem exec_shflX (d a : BitVec 7) (m : BitVec 5) (c : BitVec 3) : exec (.shflX d a m c) s =
    execShflX d a m c s := rfl
@[simp] theorem exec_qpop (k : BitVec 3) (d : BitVec 7) (q : BitVec 6) (c : BitVec 3) : exec (.qpop k d q c) s =
    execQpop k d q c s := rfl
@[simp] theorem exec_qpopT (k : BitVec 3) (d : BitVec 7) (q : BitVec 6) (c : BitVec 3) : exec (.qpopT k d q c) s =
    execQpopT k d q c s := rfl
@[simp] theorem exec_qpush (a : BitVec 7) (q : BitVec 6) (c : BitVec 3) : exec (.qpush a q c) s =
    execQpush a q c s := rfl
@[simp] theorem exec_qstatDepth (d q : BitVec 6) (c : BitVec 3) : exec (.qstatDepth d q c) s =
    execQstatDepth d q c s := rfl
@[simp] theorem exec_qstatFree (d q : BitVec 6) (c : BitVec 3) : exec (.qstatFree d q c) s =
    execQstatFree d q c s := rfl
@[simp] theorem exec_qstatFlags (d q : BitVec 6) (c : BitVec 3) : exec (.qstatFlags d q c) s =
    execQstatFlags d q c s := rfl
@[simp] theorem exec_bar (k : BitVec 3) (n : BitVec 7) (z : BitVec 1) (c : BitVec 3) : exec (.bar k n z c) s =
    execBar k n z c s := rfl
@[simp] theorem exec_barv (k : BitVec 3) (n : BitVec 7) (z : BitVec 1) (c : BitVec 3) : exec (.barv k n z c) s =
    execBarv k n z c s := rfl
@[simp] theorem exec_barw (k : BitVec 3) (z : BitVec 1) (c : BitVec 3) : exec (.barw k z c) s =
    execBarw k z c s := rfl
@[simp] theorem exec_pand (k : BitVec 5) (m : BitVec 1) (im : BitVec 5) (n : BitVec 1) (j : BitVec 5) (c : BitVec 3) : exec (.pand k m im n j c) s =
    execPand k m im n j c s := rfl
@[simp] theorem exec_por (k : BitVec 5) (m : BitVec 1) (im : BitVec 5) (n : BitVec 1) (j : BitVec 5) (c : BitVec 3) : exec (.por k m im n j c) s =
    execPor k m im n j c s := rfl
@[simp] theorem exec_pxor (k : BitVec 5) (m : BitVec 1) (im : BitVec 5) (n : BitVec 1) (j : BitVec 5) (c : BitVec 3) : exec (.pxor k m im n j c) s =
    execPxor k m im n j c s := rfl
@[simp] theorem exec_pnot (k : BitVec 5) (m : BitVec 1) (im : BitVec 5) (c : BitVec 3) : exec (.pnot k m im c) s =
    execPnot k m im c s := rfl
@[simp] theorem exec_pset (k : BitVec 5) (a : BitVec 7) (c : BitVec 3) : exec (.pset k a c) s =
    execPset k a c s := rfl
@[simp] theorem exec_sadd (d a b : BitVec 6) (c : BitVec 3) : exec (.sadd d a b c) s =
    execSadd d a b c s := rfl
@[simp] theorem exec_ssub (d a b : BitVec 6) (c : BitVec 3) : exec (.ssub d a b c) s =
    execSsub d a b c s := rfl
@[simp] theorem exec_smul (d a b : BitVec 6) (c : BitVec 3) : exec (.smul d a b c) s =
    execSmul d a b c s := rfl
@[simp] theorem exec_smulh (d a b : BitVec 6) (u : BitVec 1) (c : BitVec 3) : exec (.smulh d a b u c) s =
    execSmulh d a b u c s := rfl
@[simp] theorem exec_sand (d a b : BitVec 6) (c : BitVec 3) : exec (.sand d a b c) s =
    execSand d a b c s := rfl
@[simp] theorem exec_sor (d a b : BitVec 6) (c : BitVec 3) : exec (.sor d a b c) s =
    execSor d a b c s := rfl
@[simp] theorem exec_sxor (d a b : BitVec 6) (c : BitVec 3) : exec (.sxor d a b c) s =
    execSxor d a b c s := rfl
@[simp] theorem exec_sshl (d a b : BitVec 6) (c : BitVec 3) : exec (.sshl d a b c) s =
    execSshl d a b c s := rfl
@[simp] theorem exec_sshr (d a b : BitVec 6) (c : BitVec 3) : exec (.sshr d a b c) s =
    execSshr d a b c s := rfl
@[simp] theorem exec_ssra (d a b : BitVec 6) (c : BitVec 3) : exec (.ssra d a b c) s =
    execSsra d a b c s := rfl
@[simp] theorem exec_smin (d a b : BitVec 6) (u : BitVec 1) (c : BitVec 3) : exec (.smin d a b u c) s =
    execSmin d a b u c s := rfl
@[simp] theorem exec_smax (d a b : BitVec 6) (u : BitVec 1) (c : BitVec 3) : exec (.smax d a b u c) s =
    execSmax d a b u c s := rfl
@[simp] theorem exec_scmp (d a b : BitVec 6) (u : BitVec 2) (c : BitVec 3) : exec (.scmp d a b u c) s =
    execScmp d a b u c s := rfl
@[simp] theorem exec_ssel (d a b : BitVec 6) (c : BitVec 3) : exec (.ssel d a b c) s =
    execSsel d a b c s := rfl
@[simp] theorem exec_smov (d a : BitVec 6) (c : BitVec 3) : exec (.smov d a c) s =
    execSmov d a c s := rfl
@[simp] theorem exec_slea (d a b : BitVec 6) (h : BitVec 2) (c : BitVec 3) : exec (.slea d a b h c) s =
    execSlea d a b h c s := rfl
@[simp] theorem exec_saddi (d a : BitVec 6) (im : BitVec 11) (c : BitVec 3) : exec (.saddi d a im c) s =
    execSaddi d a im c s := rfl
@[simp] theorem exec_sxori (d a : BitVec 6) (im : BitVec 11) (c : BitVec 3) : exec (.sxori d a im c) s =
    execSxori d a im c s := rfl
@[simp] theorem exec_vadd (d a b : BitVec 7) (c : BitVec 3) : exec (.vadd d a b c) s =
    execVadd d a b c s := rfl
@[simp] theorem exec_vsub (d a b : BitVec 7) (c : BitVec 3) : exec (.vsub d a b c) s =
    execVsub d a b c s := rfl
@[simp] theorem exec_vmul (d a b : BitVec 7) (c : BitVec 3) : exec (.vmul d a b c) s =
    execVmul d a b c s := rfl
@[simp] theorem exec_vmad (d a b : BitVec 7) (c : BitVec 3) : exec (.vmad d a b c) s =
    execVmad d a b c s := rfl
@[simp] theorem exec_vmulhS (d a b : BitVec 7) (c : BitVec 3) : exec (.vmulhS d a b c) s =
    execVmulhS d a b c s := rfl
@[simp] theorem exec_vmulhU (d a b : BitVec 7) (c : BitVec 3) : exec (.vmulhU d a b c) s =
    execVmulhU d a b c s := rfl
@[simp] theorem exec_vaddc (d a b : BitVec 7) (c : BitVec 3) : exec (.vaddc d a b c) s =
    execVaddc d a b c s := rfl
@[simp] theorem exec_vabs (d a : BitVec 7) (c : BitVec 3) : exec (.vabs d a c) s =
    execVabs d a c s := rfl
@[simp] theorem exec_vclz (d a : BitVec 7) (c : BitVec 3) : exec (.vclz d a c) s =
    execVclz d a c s := rfl
@[simp] theorem exec_vpopc (d a : BitVec 7) (c : BitVec 3) : exec (.vpopc d a c) s =
    execVpopc d a c s := rfl
@[simp] theorem exec_vbrev (d a : BitVec 7) (c : BitVec 3) : exec (.vbrev d a c) s =
    execVbrev d a c s := rfl
@[simp] theorem exec_vmov (d a : BitVec 7) (c : BitVec 3) : exec (.vmov d a c) s =
    execVmov d a c s := rfl
@[simp] theorem exec_vmovs (d : BitVec 7) (sf : BitVec 6) (c : BitVec 3) : exec (.vmovs d sf c) s =
    execVmovs d sf c s := rfl
@[simp] theorem exec_vand (d a b : BitVec 7) (c : BitVec 3) : exec (.vand d a b c) s =
    execVand d a b c s := rfl
@[simp] theorem exec_vor (d a b : BitVec 7) (c : BitVec 3) : exec (.vor d a b c) s =
    execVor d a b c s := rfl
@[simp] theorem exec_vxor (d a b : BitVec 7) (c : BitVec 3) : exec (.vxor d a b c) s =
    execVxor d a b c s := rfl
@[simp] theorem exec_vbfe (d a b : BitVec 7) (c : BitVec 3) : exec (.vbfe d a b c) s =
    execVbfe d a b c s := rfl
@[simp] theorem exec_vshl (d a b : BitVec 7) (c : BitVec 3) : exec (.vshl d a b c) s =
    execVshl d a b c s := rfl
@[simp] theorem exec_vshr (d a b : BitVec 7) (c : BitVec 3) : exec (.vshr d a b c) s =
    execVshr d a b c s := rfl
@[simp] theorem exec_vsra (d a b : BitVec 7) (c : BitVec 3) : exec (.vsra d a b c) s =
    execVsra d a b c s := rfl
@[simp] theorem exec_vbfi (d a b : BitVec 7) (c : BitVec 3) : exec (.vbfi d a b c) s =
    execVbfi d a b c s := rfl
@[simp] theorem exec_vminS (d a b : BitVec 7) (c : BitVec 3) : exec (.vminS d a b c) s =
    execVminS d a b c s := rfl
@[simp] theorem exec_vminU (d a b : BitVec 7) (c : BitVec 3) : exec (.vminU d a b c) s =
    execVminU d a b c s := rfl
@[simp] theorem exec_vmaxS (d a b : BitVec 7) (c : BitVec 3) : exec (.vmaxS d a b c) s =
    execVmaxS d a b c s := rfl
@[simp] theorem exec_vmaxU (d a b : BitVec 7) (c : BitVec 3) : exec (.vmaxU d a b c) s =
    execVmaxU d a b c s := rfl
@[simp] theorem exec_vdivS (d a b : BitVec 7) (c : BitVec 3) : exec (.vdivS d a b c) s =
    execVdivS d a b c s := rfl
@[simp] theorem exec_vdivU (d a b : BitVec 7) (c : BitVec 3) : exec (.vdivU d a b c) s =
    execVdivU d a b c s := rfl
@[simp] theorem exec_vremS (d a b : BitVec 7) (c : BitVec 3) : exec (.vremS d a b c) s =
    execVremS d a b c s := rfl
@[simp] theorem exec_vremU (d a b : BitVec 7) (c : BitVec 3) : exec (.vremU d a b c) s =
    execVremU d a b c s := rfl
@[simp] theorem exec_vcmp (n m : BitVec 2) (k : BitVec 5) (a b : BitVec 7) (c : BitVec 3) : exec (.vcmp n m k a b c) s =
    execVcmp n m k a b c s := rfl
@[simp] theorem exec_vsel (d a b : BitVec 7) (c : BitVec 3) : exec (.vsel d a b c) s =
    execVsel d a b c s := rfl
@[simp] theorem exec_vaddi (d a : BitVec 7) (im : BitVec 9) (c : BitVec 3) : exec (.vaddi d a im c) s =
    execVaddi d a im c s := rfl
@[simp] theorem exec_vshli (d a : BitVec 7) (n : BitVec 5) (c : BitVec 3) : exec (.vshli d a n c) s =
    execVshli d a n c s := rfl
@[simp] theorem exec_vshri (d a : BitVec 7) (n : BitVec 5) (c : BitVec 3) : exec (.vshri d a n c) s =
    execVshri d a n c s := rfl
@[simp] theorem exec_vsrai (d a : BitVec 7) (n : BitVec 5) (c : BitVec 3) : exec (.vsrai d a n c) s =
    execVsrai d a n c s := rfl
@[simp] theorem exec_fadd (d a b : BitVec 7) (c : BitVec 3) : exec (.fadd d a b c) s =
    execFadd d a b c s := rfl
@[simp] theorem exec_fsub (d a b : BitVec 7) (c : BitVec 3) : exec (.fsub d a b c) s =
    execFsub d a b c s := rfl
@[simp] theorem exec_fmul (d a b : BitVec 7) (c : BitVec 3) : exec (.fmul d a b c) s =
    execFmul d a b c s := rfl
@[simp] theorem exec_ffma (d a b : BitVec 7) (c : BitVec 3) : exec (.ffma d a b c) s =
    execFfma d a b c s := rfl
@[simp] theorem exec_ffms (d a b : BitVec 7) (c : BitVec 3) : exec (.ffms d a b c) s =
    execFfms d a b c s := rfl
@[simp] theorem exec_fmin (d a b : BitVec 7) (c : BitVec 3) : exec (.fmin d a b c) s =
    execFmin d a b c s := rfl
@[simp] theorem exec_fmax (d a b : BitVec 7) (c : BitVec 3) : exec (.fmax d a b c) s =
    execFmax d a b c s := rfl
@[simp] theorem exec_fldexp (d a b : BitVec 7) (c : BitVec 3) : exec (.fldexp d a b c) s =
    execFldexp d a b c s := rfl
@[simp] theorem exec_frnd (d a : BitVec 7) (m : BitVec 2) (c : BitVec 3) : exec (.frnd d a m c) s =
    execFrnd d a m c s := rfl
@[simp] theorem exec_ffrac (d a : BitVec 7) (c : BitVec 3) : exec (.ffrac d a c) s =
    execFfrac d a c s := rfl
@[simp] theorem exec_fclass (d a : BitVec 7) (c : BitVec 3) : exec (.fclass d a c) s =
    execFclass d a c s := rfl
@[simp] theorem exec_fexpo (d a : BitVec 7) (c : BitVec 3) : exec (.fexpo d a c) s =
    execFexpo d a c s := rfl
@[simp] theorem exec_hadd2 (d a b : BitVec 7) (c : BitVec 3) : exec (.hadd2 d a b c) s =
    execHadd2 d a b c s := rfl
@[simp] theorem exec_hmul2 (d a b : BitVec 7) (c : BitVec 3) : exec (.hmul2 d a b c) s =
    execHmul2 d a b c s := rfl
@[simp] theorem exec_hfma2 (d a b : BitVec 7) (c : BitVec 3) : exec (.hfma2 d a b c) s =
    execHfma2 d a b c s := rfl
@[simp] theorem exec_bfma2 (d a b : BitVec 7) (c : BitVec 3) : exec (.bfma2 d a b c) s =
    execBfma2 d a b c s := rfl
@[simp] theorem exec_fcmp (n m : BitVec 2) (k : BitVec 5) (a b : BitVec 7) (c : BitVec 3) : exec (.fcmp n m k a b c) s =
    execFcmp n m k a b c s := rfl
@[simp] theorem exec_dadd (d a b : BitVec 7) (c : BitVec 3) : exec (.dadd d a b c) s =
    execDadd d a b c s := rfl
@[simp] theorem exec_dmul (d a b : BitVec 7) (c : BitVec 3) : exec (.dmul d a b c) s =
    execDmul d a b c s := rfl
@[simp] theorem exec_dfma (d a b : BitVec 7) (c : BitVec 3) : exec (.dfma d a b c) s =
    execDfma d a b c s := rfl
@[simp] theorem exec_dcmp (n m : BitVec 2) (k : BitVec 5) (a b : BitVec 7) (c : BitVec 3) : exec (.dcmp n m k a b c) s =
    execDcmp n m k a b c s := rfl
@[simp] theorem exec_fdiv (d a b : BitVec 7) (c : BitVec 3) : exec (.fdiv d a b c) s =
    execFdiv d a b c s := rfl
@[simp] theorem exec_frcp (d a : BitVec 7) (c : BitVec 3) : exec (.frcp d a c) s =
    execFrcp d a c s := rfl
@[simp] theorem exec_frsq (d a : BitVec 7) (c : BitVec 3) : exec (.frsq d a c) s =
    execFrsq d a c s := rfl
@[simp] theorem exec_fsqrt (d a : BitVec 7) (c : BitVec 3) : exec (.fsqrt d a c) s =
    execFsqrt d a c s := rfl
@[simp] theorem exec_fexp2 (d a : BitVec 7) (c : BitVec 3) : exec (.fexp2 d a c) s =
    execFexp2 d a c s := rfl
@[simp] theorem exec_flog2 (d a : BitVec 7) (c : BitVec 3) : exec (.flog2 d a c) s =
    execFlog2 d a c s := rfl
@[simp] theorem exec_fsin (d a : BitVec 7) (c : BitVec 3) : exec (.fsin d a c) s =
    execFsin d a c s := rfl
@[simp] theorem exec_fcos (d a : BitVec 7) (c : BitVec 3) : exec (.fcos d a c) s =
    execFcos d a c s := rfl
@[simp] theorem exec_cvtf (d a : BitVec 7) (h : BitVec 1) (sf t c : BitVec 3) : exec (.cvtf d a h sf t c) s =
    execCvtf d a h sf t c s := rfl
@[simp] theorem exec_cvti (d a : BitVec 7) (h : BitVec 1) (sf t c : BitVec 3) : exec (.cvti d a h sf t c) s =
    execCvti d a h sf t c s := rfl
@[simp] theorem exec_cvtn (d a : BitVec 7) (h : BitVec 1) (sf t c : BitVec 3) : exec (.cvtn d a h sf t c) s =
    execCvtn d a h sf t c s := rfl
@[simp] theorem exec_qnt (d a : BitVec 7) (f : BitVec 5) (c : BitVec 3) : exec (.qnt d a f c) s =
    execQnt d a f c s := rfl
@[simp] theorem exec_dqnt (d a : BitVec 7) (f : BitVec 5) (c : BitVec 3) : exec (.dqnt d a f c) s =
    execDqnt d a f c s := rfl
@[simp] theorem exec_pack2 (d a : BitVec 7) (f c : BitVec 3) : exec (.pack2 d a f c) s =
    execPack2 d a f c s := rfl
@[simp] theorem exec_unpk (d a : BitVec 7) (f c : BitVec 3) : exec (.unpk d a f c) s =
    execUnpk d a f c s := rfl
@[simp] theorem exec_ldg (d a : BitVec 7) (sf : BitVec 4) (w : BitVec 2) (k c : BitVec 3) : exec (.ldg d a sf w k c) s =
    execLdg d a sf w k c s := rfl
@[simp] theorem exec_stg (d a : BitVec 7) (sf : BitVec 4) (w : BitVec 2) (k c : BitVec 3) : exec (.stg d a sf w k c) s =
    execStg d a sf w k c s := rfl
@[simp] theorem exec_tch (a : BitVec 7) (sf : BitVec 4) (w : BitVec 2) (k : BitVec 1) (c : BitVec 3) : exec (.tch a sf w k c) s =
    execTch a sf w k c s := rfl
@[simp] theorem exec_atg (d a : BitVec 7) (sf : BitVec 4) (o : BitVec 5) (c : BitVec 3) : exec (.atg d a sf o c) s =
    execAtg d a sf o c s := rfl
@[simp] theorem exec_atgc (d a : BitVec 7) (sf : BitVec 4) (k c : BitVec 3) : exec (.atgc d a sf k c) s =
    execAtgc d a sf k c s := rfl
@[simp] theorem exec_mcs (d a : BitVec 7) (m : BitVec 4) (k c : BitVec 3) : exec (.mcs d a m k c) s =
    execMcs d a m k c s := rfl
@[simp] theorem exec_rds (d a : BitVec 7) (m : BitVec 4) (k c : BitVec 3) : exec (.rds d a m k c) s =
    execRds d a m k c s := rfl
@[simp] theorem exec_rdsF (d a : BitVec 7) (m : BitVec 4) (k c : BitVec 3) : exec (.rdsF d a m k c) s =
    execRdsF d a m k c s := rfl
@[simp] theorem exec_ldx (d a : BitVec 7) (l : BitVec 2) (sf : BitVec 3) (w o : BitVec 2) (c : BitVec 3) : exec (.ldx d a l sf w o c) s =
    execLdx d a l sf w o c s := rfl
@[simp] theorem exec_stx (d a : BitVec 7) (l : BitVec 2) (sf : BitVec 3) (w o : BitVec 2) (c : BitVec 3) : exec (.stx d a l sf w o c) s =
    execStx d a l sf w o c s := rfl
@[simp] theorem exec_atx (d a : BitVec 7) (l : BitVec 2) (p : BitVec 3) (w : BitVec 1) (q : BitVec 2) (c : BitVec 3) : exec (.atx d a l p w q c) s =
    execAtx d a l p w q c s := rfl
@[simp] theorem exec_ldl (d a : BitVec 7) (w o : BitVec 2) (c : BitVec 3) : exec (.ldl d a w o c) s =
    execLdl d a w o c s := rfl
@[simp] theorem exec_stl (d a : BitVec 7) (w o : BitVec 2) (c : BitVec 3) : exec (.stl d a w o c) s =
    execStl d a w o c s := rfl
@[simp] theorem exec_tmov (n m : BitVec 7) (c : BitVec 3) : exec (.tmov n m c) s =
    execTmov n m c s := rfl
@[simp] theorem exec_tmovW (n m : BitVec 7) (c : BitVec 3) : exec (.tmovW n m c) s =
    execTmovW n m c s := rfl
@[simp] theorem exec_acq (sf : BitVec 3) (o : BitVec 7) (c : BitVec 3) : exec (.acq sf o c) s =
    execAcq sf o c s := rfl
@[simp] theorem exec_rel (sf : BitVec 3) (o : BitVec 7) (c : BitVec 3) : exec (.rel sf o c) s =
    execRel sf o c s := rfl
@[simp] theorem exec_arv (sf : BitVec 3) (n o : BitVec 7) (c : BitVec 3) : exec (.arv sf n o c) s =
    execArv sf n o c s := rfl
@[simp] theorem exec_arvX (sf : BitVec 3) (n o : BitVec 7) (c : BitVec 3) : exec (.arvX sf n o c) s =
    execArvX sf n o c s := rfl
@[simp] theorem exec_waitp (sf : BitVec 3) (p o : BitVec 7) (c : BitVec 3) : exec (.waitp sf p o c) s =
    execWaitp sf p o c s := rfl
@[simp] theorem exec_waitpNf (sf : BitVec 3) (p o : BitVec 7) (c : BitVec 3) : exec (.waitpNf sf p o c) s =
    execWaitpNf sf p o c s := rfl
@[simp] theorem exec_soflg (l : BitVec 3) (d o : BitVec 7) (c : BitVec 3) : exec (.soflg l d o c) s =
    execSoflg l d o c s := rfl
@[simp] theorem exec_soflgFlagC (d o : BitVec 7) (c : BitVec 3) : exec (.soflgFlagC d o c) s =
    execSoflgFlagC d o c s := rfl
@[simp] theorem exec_rget (sf : BitVec 3) (d r : BitVec 7) (c : BitVec 3) : exec (.rget sf d r c) s =
    execRget sf d r c s := rfl
@[simp] theorem exec_rgetT (sf : BitVec 3) (d r : BitVec 7) (c : BitVec 3) : exec (.rgetT sf d r c) s =
    execRgetT sf d r c s := rfl
@[simp] theorem exec_rput (sf : BitVec 3) (n r : BitVec 7) (c : BitVec 3) : exec (.rput sf n r c) s =
    execRput sf n r c s := rfl
@[simp] theorem exec_rclm (sf : BitVec 3) (d r : BitVec 7) (c : BitVec 3) : exec (.rclm sf d r c) s =
    execRclm sf d r c s := rfl
@[simp] theorem exec_rclmT (sf : BitVec 3) (d r : BitVec 7) (c : BitVec 3) : exec (.rclmT sf d r c) s =
    execRclmT sf d r c s := rfl
@[simp] theorem exec_rpub (sf : BitVec 3) (n r : BitVec 7) (c : BitVec 3) : exec (.rpub sf n r c) s =
    execRpub sf n r c s := rfl
@[simp] theorem exec_cpy (w : BitVec 2) (a n : BitVec 7) (c : BitVec 3) : exec (.cpy w a n c) s =
    execCpy w a n c s := rfl
@[simp] theorem exec_cpyb (sf : BitVec 3) (n m : BitVec 7) (c : BitVec 3) : exec (.cpyb sf n m c) s =
    execCpyb sf n m c s := rfl
@[simp] theorem exec_cpyd (sf : BitVec 3) (n m : BitVec 7) (c : BitVec 3) : exec (.cpyd sf n m c) s =
    execCpyd sf n m c s := rfl
@[simp] theorem exec_ctab (n : BitVec 7) (c : BitVec 3) : exec (.ctab n c) s =
    execCtab n c s := rfl
@[simp] theorem exec_intr (r : BitVec 3) (n m : BitVec 7) (c : BitVec 3) : exec (.intr r n m c) s =
    execIntr r n m c s := rfl
@[simp] theorem exec_annc (r : BitVec 3) (n m : BitVec 7) (c : BitVec 3) : exec (.annc r n m c) s =
    execAnnc r n m c s := rfl
@[simp] theorem exec_nret (r : BitVec 3) (n : BitVec 7) (c : BitVec 3) : exec (.nret r n c) s =
    execNret r n c s := rfl
@[simp] theorem exec_nprb (r : BitVec 3) (n d : BitVec 7) (c : BitVec 3) : exec (.nprb r n d c) s =
    execNprb r n d c s := rfl
@[simp] theorem exec_greq (n d : BitVec 7) (c : BitVec 3) : exec (.greq n d c) s =
    execGreq n d c s := rfl
@[simp] theorem exec_gdone (c : BitVec 3) : exec (.gdone c) s =
    execGdone c s := rfl
@[simp] theorem exec_gfail (k : BitVec 7) (c : BitVec 3) : exec (.gfail k c) s =
    execGfail k c s := rfl
@[simp] theorem exec_mbld (sf : BitVec 3) (n o : BitVec 7) (c : BitVec 3) : exec (.mbld sf n o c) s =
    execMbld sf n o c s := rfl
@[simp] theorem exec_mbldW (sf : BitVec 3) (n : BitVec 7) (c : BitVec 3) : exec (.mbldW sf n c) s =
    execMbldW sf n c s := rfl
@[simp] theorem exec_mmul (sf : BitVec 3) (n o : BitVec 7) (c : BitVec 3) : exec (.mmul sf n o c) s =
    execMmul sf n o c s := rfl
@[simp] theorem exec_mmulW (sf : BitVec 3) (n : BitVec 7) (c : BitVec 3) : exec (.mmulW sf n c) s =
    execMmulW sf n c s := rfl
@[simp] theorem exec_mhad (sf : BitVec 3) (n o : BitVec 7) (c : BitVec 3) : exec (.mhad sf n o c) s =
    execMhad sf n o c s := rfl
@[simp] theorem exec_mhadW (sf : BitVec 3) (n : BitVec 7) (c : BitVec 3) : exec (.mhadW sf n c) s =
    execMhadW sf n c s := rfl
@[simp] theorem exec_msca (sf : BitVec 3) (n o : BitVec 7) (c : BitVec 3) : exec (.msca sf n o c) s =
    execMsca sf n o c s := rfl
@[simp] theorem exec_mscaW (sf : BitVec 3) (n : BitVec 7) (c : BitVec 3) : exec (.mscaW sf n c) s =
    execMscaW sf n c s := rfl
@[simp] theorem exec_mqnt (sf : BitVec 3) (n o : BitVec 7) (c : BitVec 3) : exec (.mqnt sf n o c) s =
    execMqnt sf n o c s := rfl
@[simp] theorem exec_mqntW (sf : BitVec 3) (n : BitVec 7) (c : BitVec 3) : exec (.mqntW sf n c) s =
    execMqntW sf n c s := rfl
@[simp] theorem exec_mout (n d : BitVec 7) (c : BitVec 3) : exec (.mout n d c) s =
    execMout n d c s := rfl
@[simp] theorem exec_prim (n : BitVec 7) (c : BitVec 3) : exec (.prim n c) s =
    execPrim n c s := rfl
@[simp] theorem exec_tld (k : BitVec 3) (d a : BitVec 7) (c : BitVec 3) : exec (.tld k d a c) s =
    execTld k d a c s := rfl
@[simp] theorem exec_tst (k : BitVec 3) (d a : BitVec 7) (c : BitVec 3) : exec (.tst k d a c) s =
    execTst k d a c s := rfl
@[simp] theorem exec_blnd (k : BitVec 3) (d a : BitVec 7) (c : BitVec 3) : exec (.blnd k d a c) s =
    execBlnd k d a c s := rfl
@[simp] theorem exec_dpth (k : BitVec 3) (d a : BitVec 7) (c : BitVec 3) : exec (.dpth k d a c) s =
    execDpth k d a c s := rfl
@[simp] theorem exec_dpthT (k : BitVec 3) (d a : BitVec 7) (c : BitVec 3) : exec (.dpthT k d a c) s =
    execDpthT k d a c s := rfl
@[simp] theorem exec_disc (c : BitVec 3) : exec (.disc c) s =
    execDisc c s := rfl
@[simp] theorem exec_tret (n : BitVec 7) (c : BitVec 3) : exec (.tret n c) s =
    execTret n c s := rfl
@[simp] theorem exec_ipol (j : BitVec 3) (d a : BitVec 7) (h : BitVec 1) (c : BitVec 3) : exec (.ipol j d a h c) s =
    execIpol j d a h c s := rfl
@[simp] theorem exec_smpl (t : BitVec 3) (d a : BitVec 7) (c : BitVec 3) : exec (.smpl t d a c) s =
    execSmpl t d a c s := rfl
@[simp] theorem exec_smplG (t : BitVec 3) (d a : BitVec 7) (c : BitVec 3) : exec (.smplG t d a c) s =
    execSmplG t d a c s := rfl
@[simp] theorem exec_smpg (t : BitVec 3) (d a : BitVec 7) (c : BitVec 3) : exec (.smpg t d a c) s =
    execSmpg t d a c s := rfl
@[simp] theorem exec_smpgG (t : BitVec 3) (d a : BitVec 7) (c : BitVec 3) : exec (.smpgG t d a c) s =
    execSmpgG t d a c s := rfl
@[simp] theorem exec_rayq (sf : BitVec 3) (d a : BitVec 7) (c : BitVec 3) : exec (.rayq sf d a c) s =
    execRayq sf d a c s := rfl
@[simp] theorem exec_rayqO (sf : BitVec 3) (d a : BitVec 7) (c : BitVec 3) : exec (.rayqO sf d a c) s =
    execRayqO sf d a c s := rfl
@[simp] theorem exec_rayc (d : BitVec 7) (c : BitVec 3) : exec (.rayc d c) s =
    execRayc d c s := rfl
@[simp] theorem exec_raya (d : BitVec 7) (c : BitVec 3) : exec (.raya d c) s =
    execRaya d c s := rfl
@[simp] theorem exec_hntImm (p : BitVec 23) : exec (.hntImm p) s =
    execHntImm p s := rfl
@[simp] theorem exec_hntGap (g : BitVec 8) : exec (.hntGap g) s =
    execHntGap g s := rfl
@[simp] theorem exec_hntPred (o : BitVec 1) (p : BitVec 5) : exec (.hntPred o p) s =
    execHntPred o p s := rfl
@[simp] theorem exec_hntRnd (m : BitVec 2) : exec (.hntRnd m) s =
    execHntRnd m s := rfl
@[simp] theorem exec_hntScope (sf : BitVec 3) : exec (.hntScope sf) s =
    execHntScope sf s := rfl
@[simp] theorem exec_hntMod (m : BitVec 7) : exec (.hntMod m) s =
    execHntMod m s := rfl
@[simp] theorem exec_hntRelax  : exec (.hntRelax) s =
    execHntRelax s := rfl
@[simp] theorem exec_launchHeadRead (ctx q : Nat) : exec (.launchHeadRead ctx q) s =
    execLaunchHeadRead ctx q s := rfl
@[simp] theorem exec_predecessorTest (lid : Nat) : exec (.predecessorTest lid) s =
    execPredecessorTest lid s := rfl
@[simp] theorem exec_geometryBatchTake (lid : Nat) : exec (.geometryBatchTake lid) s =
    execGeometryBatchTake lid s := rfl
@[simp] theorem exec_bindRecordWrite (die slot : Nat) (rec : BitVec 128) : exec (.bindRecordWrite die slot rec) s =
    execBindRecordWrite die slot rec s := rfl
@[simp] theorem exec_listStoreAlloc (lid : Nat) (bases : List Nat) : exec (.listStoreAlloc lid bases) s =
    execListStoreAlloc lid bases s := rfl
@[simp] theorem exec_indexTake (core : Nat) : exec (.indexTake core) s =
    execIndexTake core s := rfl
@[simp] theorem exec_persistentGridStart (lid : Nat) : exec (.persistentGridStart lid) s =
    execPersistentGridStart lid s := rfl
@[simp] theorem exec_launchCompletion (lid : Nat) : exec (.launchCompletion lid) s =
    execLaunchCompletion lid s := rfl
@[simp] theorem exec_balancerEvaluate (die : Nat) : exec (.balancerEvaluate die) s =
    execBalancerEvaluate die s := rfl
@[simp] theorem exec_partitionControlWrite (core : Nat) (v : BitVec 32) : exec (.partitionControlWrite core v) s =
    execPartitionControlWrite core v s := rfl
@[simp] theorem exec_migrationRequest (tid : Nat) : exec (.migrationRequest tid) s =
    execMigrationRequest tid s := rfl
@[simp] theorem exec_migrationWithdraw (tid : Nat) : exec (.migrationWithdraw tid) s =
    execMigrationWithdraw tid s := rfl
@[simp] theorem exec_trapDisposition (core g : Nat) : exec (.trapDisposition core g) s =
    execTrapDisposition core g s := rfl
@[simp] theorem exec_pageService (token : Nat) : exec (.pageService token) s =
    execPageService token s := rfl
@[simp] theorem exec_teamSave (tid : Nat) : exec (.teamSave tid) s =
    execTeamSave tid s := rfl
@[simp] theorem exec_teamRestore (tid core : Nat) : exec (.teamRestore tid core) s =
    execTeamRestore tid core s := rfl
@[simp] theorem exec_deadlineExpiry (ctx : Nat) : exec (.deadlineExpiry ctx) s =
    execDeadlineExpiry ctx s := rfl
@[simp] theorem exec_pusherReschedule (core g : Nat) : exec (.pusherReschedule core g) s =
    execPusherReschedule core g s := rfl
@[simp] theorem exec_touchEntryExpiry (core g : Nat) : exec (.touchEntryExpiry core g) s =
    execTouchEntryExpiry core g s := rfl
@[simp] theorem exec_wcBufferTimeout (core g : Nat) : exec (.wcBufferTimeout core g) s =
    execWcBufferTimeout core g s := rfl
@[simp] theorem exec_sleepEnd (core g : Nat) : exec (.sleepEnd core g) s =
    execSleepEnd core g s := rfl
@[simp] theorem exec_barrierWaveRelease (core : Nat) : exec (.barrierWaveRelease core) s =
    execBarrierWaveRelease core s := rfl
@[simp] theorem exec_engineTake (die op : Nat) : exec (.engineTake die op) s =
    execEngineTake die op s := rfl
@[simp] theorem exec_engineLineService (token : Nat) : exec (.engineLineService token) s =
    execEngineLineService token s := rfl
@[simp] theorem exec_tableReady (die ctx stream : Nat) : exec (.tableReady die ctx stream) s =
    execTableReady die ctx stream s := rfl
@[simp] theorem exec_streamStatusWrite (die ctx stream : Nat) : exec (.streamStatusWrite die ctx stream) s =
    execStreamStatusWrite die ctx stream s := rfl
@[simp] theorem exec_operationCompletion (die op : Nat) : exec (.operationCompletion die op) s =
    execOperationCompletion die op s := rfl
@[simp] theorem exec_byteContribution (n : Nat) : exec (.byteContribution n) s =
    execByteContribution n s := rfl
@[simp] theorem exec_matrixOpComplete (core : Nat) : exec (.matrixOpComplete core) s =
    execMatrixOpComplete core s := rfl
@[simp] theorem exec_tileExport (tid : Nat) : exec (.tileExport tid) s =
    execTileExport tid s := rfl
@[simp] theorem exec_tileSpill (tid : Nat) : exec (.tileSpill tid) s =
    execTileSpill tid s := rfl
@[simp] theorem exec_remoteTimeout (n : Nat) : exec (.remoteTimeout n) s =
    execRemoteTimeout n s := rfl
@[simp] theorem exec_binnerAppend (die lid : Nat) : exec (.binnerAppend die lid) s =
    execBinnerAppend die lid s := rfl
@[simp] theorem exec_linkFailed (lid src dst : Nat) : exec (.linkFailed lid src dst) s =
    execLinkFailed lid src dst s := rfl
@[simp] theorem exec_tileTaskAdmit (lid tile core : Nat) : exec (.tileTaskAdmit lid tile core) s =
    execTileTaskAdmit lid tile core s := rfl
@[simp] theorem exec_fragmentCreate (tid : Nat) : exec (.fragmentCreate tid) s =
    execFragmentCreate tid s := rfl
@[simp] theorem exec_seqHang (kind core g : Nat) : exec (.seqHang kind core g) s =
    execSeqHang kind core g s := rfl
@[simp] theorem exec_cswInstall (core g : Nat) : exec (.cswInstall core g) s =
    execCswInstall core g s := rfl
@[simp] theorem exec_onyxTranslate (ctx pa : Nat) (mode : BitVec 32) : exec (.onyxTranslate ctx pa mode) s =
    execOnyxTranslate ctx pa mode s := rfl
@[simp] theorem exec_interestForward (die e : Nat) : exec (.interestForward die e) s =
    execInterestForward die e s := rfl
@[simp] theorem exec_tileArrival (n : Nat) : exec (.tileArrival n) s =
    execTileArrival n s := rfl
@[simp] theorem exec_interestWriteDone (die e : Nat) : exec (.interestWriteDone die e) s =
    execInterestWriteDone die e s := rfl
@[simp] theorem exec_interestLifetimeEnd (die e : Nat) : exec (.interestLifetimeEnd die e) s =
    execInterestLifetimeEnd die e s := rfl
@[simp] theorem exec_retirementApply (n : Nat) : exec (.retirementApply n) s =
    execRetirementApply n s := rfl
@[simp] theorem exec_generatorStart (ctx va core : Nat) : exec (.generatorStart ctx va core) s =
    execGeneratorStart ctx va core s := rfl
@[simp] theorem exec_procEviction (ctx range : Nat) : exec (.procEviction ctx range) s =
    execProcEviction ctx range s := rfl
@[simp] theorem exec_invalidationComplete (n : Nat) : exec (.invalidationComplete n) s =
    execInvalidationComplete n s := rfl
@[simp] theorem exec_latencyAccount (n : Nat) : exec (.latencyAccount n) s =
    execLatencyAccount n s := rfl
@[simp] theorem exec_sampleExpiry (core : Nat) : exec (.sampleExpiry core) s =
    execSampleExpiry core s := rfl
@[simp] theorem exec_syncPacket (die : Nat) : exec (.syncPacket die) s =
    execSyncPacket die s := rfl
@[simp] theorem exec_clockPatternWrite (cluster : Nat) (v : BitVec 32) : exec (.clockPatternWrite cluster v) s =
    execClockPatternWrite cluster v s := rfl
@[simp] theorem exec_currentSlopeWrite (cluster : Nat) (v : BitVec 32) : exec (.currentSlopeWrite cluster v) s =
    execCurrentSlopeWrite cluster v s := rfl
@[simp] theorem exec_powerRegisterWrite (die : Nat) (v : BitVec 32) : exec (.powerRegisterWrite die v) s =
    execPowerRegisterWrite die v s := rfl
@[simp] theorem exec_ntEntry (core quad island : Nat) : exec (.ntEntry core quad island) s =
    execNtEntry core quad island s := rfl
@[simp] theorem exec_ntExit (core quad island : Nat) : exec (.ntExit core quad island) s =
    execNtExit core quad island s := rfl
@[simp] theorem exec_holdExpiry (core quad : Nat) : exec (.holdExpiry core quad) s =
    execHoldExpiry core quad s := rfl
@[simp] theorem exec_rampAdmit (die : Nat) : exec (.rampAdmit die) s =
    execRampAdmit die s := rfl
@[simp] theorem exec_rampDone (core quad : Nat) : exec (.rampDone core quad) s =
    execRampDone core quad s := rfl
@[simp] theorem exec_budgetLeaseEnd  : exec (.budgetLeaseEnd) s =
    execBudgetLeaseEnd s := rfl
@[simp] theorem exec_ageingReplan (die mv mhz : Nat) : exec (.ageingReplan die mv mhz) s =
    execAgeingReplan die mv mhz s := rfl
@[simp] theorem exec_thermalThrottle (cluster : Nat) (v : BitVec 32) : exec (.thermalThrottle cluster v) s =
    execThermalThrottle cluster v s := rfl
@[simp] theorem exec_thermalTrip  : exec (.thermalTrip) s =
    execThermalTrip s := rfl
@[simp] theorem exec_deviceReset (image : List (BitVec 8)) : exec (.deviceReset image) s =
    execDeviceReset image s := rfl
@[simp] theorem exec_frameDiscard  : exec (.frameDiscard) s =
    execFrameDiscard s := rfl
@[simp] theorem exec_ptpMessage (ns : Nat) : exec (.ptpMessage ns) s =
    execPtpMessage ns s := rfl
@[simp] theorem exec_linkLoss (port : Nat) : exec (.linkLoss port) s =
    execLinkLoss port s := rfl
@[simp] theorem exec_linkRetrainDone (port ns : Nat) : exec (.linkRetrainDone port ns) s =
    execLinkRetrainDone port ns s := rfl
@[simp] theorem exec_cxlLinkDown (hdie : Nat) : exec (.cxlLinkDown hdie) s =
    execCxlLinkDown hdie s := rfl
@[simp] theorem exec_hello (seq : Nat) (cred nonce : List (BitVec 8)) : exec (.hello seq cred nonce) s =
    execHello seq cred nonce s := rfl
@[simp] theorem exec_featureRead (sess seq : Nat) : exec (.featureRead sess seq) s =
    execFeatureRead sess seq s := rfl
@[simp] theorem exec_featureAccept (sess seq ctx : Nat) (feats : BitVec 256) : exec (.featureAccept sess seq ctx feats) s =
    execFeatureAccept sess seq ctx feats s := rfl
@[simp] theorem exec_claim (sess seq : Nat) : exec (.claim sess seq) s =
    execClaim sess seq s := rfl
@[simp] theorem exec_handover (sess seq to_ : Nat) : exec (.handover sess seq to_) s =
    execHandover sess seq to_ s := rfl
@[simp] theorem exec_lease (sess seq : Nat) : exec (.lease sess seq) s =
    execLease sess seq s := rfl
@[simp] theorem exec_read (sess seq space ctx addr len : Nat) : exec (.read sess seq space ctx addr len) s =
    execRead sess seq space ctx addr len s := rfl
@[simp] theorem exec_write (sess seq space ctx addr : Nat) (data : List (BitVec 8)) : exec (.write sess seq space ctx addr data) s =
    execWrite sess seq space ctx addr data s := rfl
@[simp] theorem exec_submit (sess seq ctx q : Nat) (blocks : List (List (BitVec 8))) : exec (.submit sess seq ctx q blocks) s =
    execSubmit sess seq ctx q blocks s := rfl
@[simp] theorem exec_eventAck (sess num : Nat) : exec (.eventAck sess num) s =
    execEventAck sess num s := rfl
@[simp] theorem exec_eventResend (num : Nat) : exec (.eventResend num) s =
    execEventResend num s := rfl
@[simp] theorem exec_power (sess seq : Nat) (payload : List (BitVec 8)) : exec (.power sess seq payload) s =
    execPower sess seq payload s := rfl
@[simp] theorem exec_sessionTimeout (sess : Nat) : exec (.sessionTimeout sess) s =
    execSessionTimeout sess s := rfl
@[simp] theorem exec_ownerLeaseEnd  : exec (.ownerLeaseEnd) s =
    execOwnerLeaseEnd s := rfl
@[simp] theorem exec_credentialExpiry (sess : Nat) : exec (.credentialExpiry sess) s =
    execCredentialExpiry sess s := rfl
@[simp] theorem exec_create (sess seq ctx : Nat) (feats : BitVec 256) : exec (.create sess seq ctx feats) s =
    execCreate sess seq ctx feats s := rfl
@[simp] theorem exec_requestPreemption (sess seq ctx : Nat) : exec (.requestPreemption sess seq ctx) s =
    execRequestPreemption sess seq ctx s := rfl
@[simp] theorem exec_withdraw (sess seq ctx : Nat) : exec (.withdraw sess seq ctx) s =
    execWithdraw sess seq ctx s := rfl
@[simp] theorem exec_resume (sess seq ctx : Nat) : exec (.resume sess seq ctx) s =
    execResume sess seq ctx s := rfl
@[simp] theorem exec_thaw (sess seq ctx : Nat) : exec (.thaw sess seq ctx) s =
    execThaw sess seq ctx s := rfl
@[simp] theorem exec_reset (sess seq ctx : Nat) : exec (.reset sess seq ctx) s =
    execReset sess seq ctx s := rfl
@[simp] theorem exec_clear (sess seq ctx : Nat) : exec (.clear sess seq ctx) s =
    execClear sess seq ctx s := rfl
@[simp] theorem exec_invalidate (sess seq ctx va len : Nat) : exec (.invalidate sess seq ctx va len) s =
    execInvalidate sess seq ctx va len s := rfl
@[simp] theorem exec_evictBlock (sess seq ctx va : Nat) : exec (.evictBlock sess seq ctx va) s =
    execEvictBlock sess seq ctx va s := rfl
@[simp] theorem exec_flushRegion (sess seq ctx : Nat) : exec (.flushRegion sess seq ctx) s =
    execFlushRegion sess seq ctx s := rfl
@[simp] theorem exec_tearDown (sess seq ctx : Nat) : exec (.tearDown sess seq ctx) s =
    execTearDown sess seq ctx s := rfl
@[simp] theorem exec_retryFault (sess seq ctx token : Nat) : exec (.retryFault sess seq ctx token) s =
    execRetryFault sess seq ctx token s := rfl
@[simp] theorem exec_declareUnresolvable (sess seq ctx token : Nat) : exec (.declareUnresolvable sess seq ctx token) s =
    execDeclareUnresolvable sess seq ctx token s := rfl
@[simp] theorem exec_sessionThaw (sess seq target : Nat) : exec (.sessionThaw sess seq target) s =
    execSessionThaw sess seq target s := rfl
@[simp] theorem exec_trapControlWrite (sess seq ctx off : Nat) (data : List (BitVec 8)) : exec (.trapControlWrite sess seq ctx off data) s =
    execTrapControlWrite sess seq ctx off data s := rfl
@[simp] theorem exec_translationBlockWrite (sess seq ctx off : Nat) (data : List (BitVec 8)) : exec (.translationBlockWrite sess seq ctx off data) s =
    execTranslationBlockWrite sess seq ctx off data s := rfl
@[simp] theorem exec_sampleBlockWrite (sess seq ctx off : Nat) (data : List (BitVec 8)) : exec (.sampleBlockWrite sess seq ctx off data) s =
    execSampleBlockWrite sess seq ctx off data s := rfl
@[simp] theorem exec_traceControlWrite (sess seq ctx off : Nat) (data : List (BitVec 8)) : exec (.traceControlWrite sess seq ctx off data) s =
    execTraceControlWrite sess seq ctx off data s := rfl
@[simp] theorem exec_nameControlWrite (sess seq ctx off : Nat) (data : List (BitVec 8)) : exec (.nameControlWrite sess seq ctx off data) s =
    execNameControlWrite sess seq ctx off data s := rfl
@[simp] theorem exec_telemetryControlWrite (sess seq ctx off : Nat) (data : List (BitVec 8)) : exec (.telemetryControlWrite sess seq ctx off data) s =
    execTelemetryControlWrite sess seq ctx off data s := rfl
@[simp] theorem exec_contextTablesWrite (sess seq ctx off : Nat) (data : List (BitVec 8)) : exec (.contextTablesWrite sess seq ctx off data) s =
    execContextTablesWrite sess seq ctx off data s := rfl
@[simp] theorem exec_errorLogControlWrite (sess seq ctx off : Nat) (data : List (BitVec 8)) : exec (.errorLogControlWrite sess seq ctx off data) s =
    execErrorLogControlWrite sess seq ctx off data s := rfl
@[simp] theorem exec_samplingControlWrite (sess seq core : Nat) (v : BitVec 32) : exec (.samplingControlWrite sess seq core v) s =
    execSamplingControlWrite sess seq core v s := rfl
@[simp] theorem exec_tileStoreSizeWrite (sess seq mib : Nat) : exec (.tileStoreSizeWrite sess seq mib) s =
    execTileStoreSizeWrite sess seq mib s := rfl
@[simp] theorem exec_tileStoreSizeEffect  : exec (.tileStoreSizeEffect) s =
    execTileStoreSizeEffect s := rfl
@[simp] theorem exec_packageIdWrite (sess seq : Nat) (id : BitVec 32) : exec (.packageIdWrite sess seq id) s =
    execPackageIdWrite sess seq id s := rfl
@[simp] theorem exec_packageIdEffect  : exec (.packageIdEffect) s =
    execPackageIdEffect s := rfl
@[simp] theorem exec_powerFloorWrite (sess seq watts : Nat) : exec (.powerFloorWrite sess seq watts) s =
    execPowerFloorWrite sess seq watts s := rfl
@[simp] theorem exec_firmwareImageWrite (sess seq addr : Nat) (data : List (BitVec 8)) : exec (.firmwareImageWrite sess seq addr data) s =
    execFirmwareImageWrite sess seq addr data s := rfl
@[simp] theorem exec_firmwareVerify (sess seq addr : Nat) : exec (.firmwareVerify sess seq addr) s =
    execFirmwareVerify sess seq addr s := rfl
@[simp] theorem exec_reservedEncoding (w : BitVec 32) : exec (.reservedEncoding w) s =
    execReservedEncoding w s := rfl
@[simp] theorem exec_ptpLockLoss  : exec (.ptpLockLoss) s =
    execPtpLockLoss s := rfl
@[simp] theorem exec_hostPortLinkChange (up : Bool) (ns : Nat) : exec (.hostPortLinkChange up ns) s =
    execHostPortLinkChange up ns s := rfl
@[simp] theorem exec_dieFrequencyChange (die khz : Nat) : exec (.dieFrequencyChange die khz) s =
    execDieFrequencyChange die khz s := rfl
@[simp] theorem exec_macsecKeyAgreement (key : BitVec 384) : exec (.macsecKeyAgreement key) s =
    execMacsecKeyAgreement key s := rfl

/-- An instruction with a form is issued by that form. -/
theorem exec_issue (i : Instr) (s : State) (F : Form) (h : formOf i s = some F) : ∃ run, exec i s = issue F run s := by
  cases i <;> cases h <;>
    (simp only [exec, branch, scalar3, scalar2, vec3, vecPlain, vecDiv, vec2, float1, float2, float3, floatFn, double3,
      convert, pred2, qstat, allMods, imm11Hint,
      execBra, execBrp, execBrn, execBrpAny, execBrpAll, execCall, execCalli, execRet, execJmpi, execBrx, execQpop,
      execQpopT, execQpush, execQstatDepth, execQstatFree, execQstatFlags, execPand, execPor, execPxor, execPnot,
      execPset, execSadd, execSsub, execSmul, execSmulh, execSand, execSor, execSxor, execSshl, execSshr, execSsra,
      execSmin, execSmax, execScmp, execSsel, execSmov, execSlea, execSaddi, execSxori, execVadd, execVsub,
      execVmul, execVmad, execVmulhS, execVmulhU, execVaddc, execVabs, execVclz, execVpopc, execVbrev, execVmov,
      execVmovs, execVand, execVor, execVxor, execVbfe, execVshl, execVshr, execVsra, execVbfi, execVminS,
      execVminU, execVmaxS, execVmaxU, execVdivS, execVdivU, execVremS, execVremU, execVcmp, execVsel, execVaddi,
      execVshli, execVshri, execVsrai, execFadd, execFsub, execFmul, execFfma, execFfms, execFmin, execFmax,
      execFldexp, execFrnd, execFfrac, execFclass, execFexpo, execHadd2, execHmul2, execHfma2, execBfma2, execFcmp,
      execDadd, execDmul, execDfma, execDcmp, execFdiv, execFrcp, execFrsq, execFsqrt, execFexp2, execFlog2,
      execFsin, execFcos, execCvtf, execCvti, execCvtn, execQnt, execDqnt, execPack2, execUnpk, execAtg, execAtgc, execAtx,
      execTld, execTst]
     exact ⟨_, rfl⟩)

end Sys2Proof.Machine
end

