-- ==== Sys2Proof/Laws/Tables.lean ====
section
/-!
SUPPORT. Reading a sparse table after it has changed. The laws hold of every table, sorted or not.
-/

namespace Sys2Proof.Machine

variable {α : Type}

theorem tget?_tset (t : Tbl α) (k q : Nat) (v : α) : tget? (tset t k v) q = if k = q then some v else tget? t q := by
  induction t with
  | nil => by_cases h : k = q <;> simp [tset, tget?, h]
  | cons e t ih =>
    obtain ⟨j, u⟩ := e
    simp only [tset]
    split
    · by_cases h : k = q <;> simp [tget?, h]
    · split
      · next h1 h2 =>
        have hj : j = k := by simpa using h2
        subst hj
        by_cases h : j = q <;> simp [tget?, h]
      · next h1 h2 =>
        have hj : j ≠ k := by simpa using h2
        simp only [tget?, ih]
        by_cases h : j = q
        · subst h; simp [Ne.symm hj]
        · simp [h]

@[simp] theorem tget?_tset_self (t : Tbl α) (k : Nat) (v : α) : tget? (tset t k v) k = some v := by simp [tget?_tset]

theorem tget?_tset_of_ne (t : Tbl α) {k q : Nat} (v : α) (h : k ≠ q) : tget? (tset t k v) q = tget? t q := by
  simp [tget?_tset, h]

theorem tget_tset (t : Tbl α) (k q : Nat) (v d : α) : tget (tset t k v) q d = if k = q then v else tget t q d := by
  by_cases h : k = q <;> simp [tget, tget?_tset, h]

@[simp] theorem tget_tset_self (t : Tbl α) (k : Nat) (v d : α) : tget (tset t k v) k d = v := by simp [tget_tset]

theorem tget?_tdel (t : Tbl α) (k q : Nat) : tget? (tdel t k) q = if k = q then none else tget? t q := by
  induction t with
  | nil => simp [tdel, tget?]
  | cons e t ih =>
    obtain ⟨j, u⟩ := e
    simp only [tdel] at ih ⊢
    by_cases hj : j = k
    · subst hj
      by_cases h : j = q
      · subst h; simpa [tget?] using ih
      · simp [tget?, h, ih]
    · by_cases h : j = q
      · subst h; simp [tget?, hj, Ne.symm hj]
      · simp [tget?, hj, h, ih]

theorem tget_tput [DecidableEq α] (t : Tbl α) (k q : Nat) (v d : α) :
    tget (tput t k v d) q d = if k = q then v else tget t q d := by
  unfold tput
  split
  · next h => by_cases hk : k = q <;> simp [tget, tget?_tdel, hk, h]
  · exact tget_tset t k q v d

theorem tget?_tmod (t : Tbl α) (k q : Nat) (f : α → α) :
    tget? (tmod t k f) q = if k = q then (tget? t q).map f else tget? t q := by
  induction t with
  | nil => simp [tmod, tget?]
  | cons e t ih =>
    obtain ⟨j, u⟩ := e
    simp only [tmod, beq_iff_eq] at ih ⊢
    by_cases hj : j = k
    · subst hj
      by_cases h : j = q
      · subst h; simp [tget?]
      · simp [tget?, h, ih]
    · by_cases h : j = q
      · subst h; simp [tget?, hj, Ne.symm hj]
      · simp [tget?, hj, h, ih]

@[simp] theorem tget?_tmod_self (t : Tbl α) (k : Nat) (f : α → α) : tget? (tmod t k f) k = (tget? t k).map f := by
  simp [tget?_tmod]

theorem tget?_tmod_of_ne (t : Tbl α) {k q : Nat} (f : α → α) (h : k ≠ q) : tget? (tmod t k f) q = tget? t q := by
  simp [tget?_tmod, h]

end Sys2Proof.Machine
end

