-- ==== Sys2Proof/Laws/State.lean ====
section
/-!
SUPPORT. What each named update of the state leaves as it was, field by field, and what reading a table gives after it.
-/

namespace Sys2Proof.Machine

variable (s : State)

/-! ## `State.wr` -/

@[simp] theorem State.wr_now (pa : Nat) (bs : List Byte) : (s.wr pa bs).now = s.now := rfl
@[simp] theorem State.wr_ptpBase (pa : Nat) (bs : List Byte) : (s.wr pa bs).ptpBase = s.ptpBase := rfl
@[simp] theorem State.wr_ptpCycle (pa : Nat) (bs : List Byte) : (s.wr pa bs).ptpCycle = s.ptpCycle := rfl
@[simp] theorem State.wr_ptpLocked (pa : Nat) (bs : List Byte) : (s.wr pa bs).ptpLocked = s.ptpLocked := rfl
@[simp] theorem State.wr_scrPoison (pa : Nat) (bs : List Byte) : (s.wr pa bs).scrPoison = s.scrPoison := rfl
@[simp] theorem State.wr_cxl (pa : Nat) (bs : List Byte) : (s.wr pa bs).cxl = s.cxl := rfl
@[simp] theorem State.wr_cores (pa : Nat) (bs : List Byte) : (s.wr pa bs).cores = s.cores := rfl
@[simp] theorem State.wr_clusters (pa : Nat) (bs : List Byte) : (s.wr pa bs).clusters = s.clusters := rfl
@[simp] theorem State.wr_dies (pa : Nat) (bs : List Byte) : (s.wr pa bs).dies = s.dies := rfl
@[simp] theorem State.wr_hdies (pa : Nat) (bs : List Byte) : (s.wr pa bs).hdies = s.hdies := rfl
@[simp] theorem State.wr_ctxs (pa : Nat) (bs : List Byte) : (s.wr pa bs).ctxs = s.ctxs := rfl
@[simp] theorem State.wr_teams (pa : Nat) (bs : List Byte) : (s.wr pa bs).teams = s.teams := rfl
@[simp] theorem State.wr_nextTid (pa : Nat) (bs : List Byte) : (s.wr pa bs).nextTid = s.nextTid := rfl
@[simp] theorem State.wr_launches (pa : Nat) (bs : List Byte) : (s.wr pa bs).launches = s.launches := rfl
@[simp] theorem State.wr_nextLid (pa : Nat) (bs : List Byte) : (s.wr pa bs).nextLid = s.nextLid := rfl
@[simp] theorem State.wr_passes (pa : Nat) (bs : List Byte) : (s.wr pa bs).passes = s.passes := rfl
@[simp] theorem State.wr_faults (pa : Nat) (bs : List Byte) : (s.wr pa bs).faults = s.faults := rfl
@[simp] theorem State.wr_nextTok (pa : Nat) (bs : List Byte) : (s.wr pa bs).nextTok = s.nextTok := rfl
@[simp] theorem State.wr_contribs (pa : Nat) (bs : List Byte) : (s.wr pa bs).contribs = s.contribs := rfl
@[simp] theorem State.wr_nextCon (pa : Nat) (bs : List Byte) : (s.wr pa bs).nextCon = s.nextCon := rfl
@[simp] theorem State.wr_flights (pa : Nat) (bs : List Byte) : (s.wr pa bs).flights = s.flights := rfl
@[simp] theorem State.wr_retires (pa : Nat) (bs : List Byte) : (s.wr pa bs).retires = s.retires := rfl
@[simp] theorem State.wr_tickets (pa : Nat) (bs : List Byte) : (s.wr pa bs).tickets = s.tickets := rfl
@[simp] theorem State.wr_nextOp (pa : Nat) (bs : List Byte) : (s.wr pa bs).nextOp = s.nextOp := rfl
@[simp] theorem State.wr_invals (pa : Nat) (bs : List Byte) : (s.wr pa bs).invals = s.invals := rfl
@[simp] theorem State.wr_remotes (pa : Nat) (bs : List Byte) : (s.wr pa bs).remotes = s.remotes := rfl
@[simp] theorem State.wr_lats (pa : Nat) (bs : List Byte) : (s.wr pa bs).lats = s.lats := rfl
@[simp] theorem State.wr_traces (pa : Nat) (bs : List Byte) : (s.wr pa bs).traces = s.traces := rfl
@[simp] theorem State.wr_csws (pa : Nat) (bs : List Byte) : (s.wr pa bs).csws = s.csws := rfl
@[simp] theorem State.wr_tsWritten (pa : Nat) (bs : List Byte) : (s.wr pa bs).tsWritten = s.tsWritten := rfl
@[simp] theorem State.wr_tsForce (pa : Nat) (bs : List Byte) : (s.wr pa bs).tsForce = s.tsForce := rfl
@[simp] theorem State.wr_idWritten (pa : Nat) (bs : List Byte) : (s.wr pa bs).idWritten = s.idWritten := rfl
@[simp] theorem State.wr_idForce (pa : Nat) (bs : List Byte) : (s.wr pa bs).idForce = s.idForce := rfl
@[simp] theorem State.wr_ownerKey (pa : Nat) (bs : List Byte) : (s.wr pa bs).ownerKey = s.ownerKey := rfl
@[simp] theorem State.wr_heatDrop (pa : Nat) (bs : List Byte) : (s.wr pa bs).heatDrop = s.heatDrop := rfl
@[simp] theorem State.wr_host (pa : Nat) (bs : List Byte) : (s.wr pa bs).host = s.host := rfl
@[simp] theorem State.wr_cur (pa : Nat) (bs : List Byte) : (s.wr pa bs).cur = s.cur := rfl
@[simp] theorem State.wr_issued (pa : Nat) (bs : List Byte) : (s.wr pa bs).issued = s.issued := rfl
@[simp] theorem State.wr_inbox (pa : Nat) (bs : List Byte) : (s.wr pa bs).inbox = s.inbox := rfl
@[simp] theorem State.wr_phase (pa : Nat) (bs : List Byte) : (s.wr pa bs).phase = s.phase := rfl
@[simp] theorem State.wr_sched (pa : Nat) (bs : List Byte) : (s.wr pa bs).sched = s.sched := rfl
@[simp] theorem State.wr_fresh (pa : Nat) (bs : List Byte) : (s.wr pa bs).fresh = s.fresh := rfl
@[simp] theorem State.wr_delays (pa : Nat) (bs : List Byte) : (s.wr pa bs).delays = s.delays := rfl
@[simp] theorem State.wr_stays (pa : Nat) (bs : List Byte) : (s.wr pa bs).stays = s.stays := rfl
@[simp] theorem State.wr_backs (pa : Nat) (bs : List Byte) : (s.wr pa bs).backs = s.backs := rfl

/-! ## `State.setCore` -/

@[simp] theorem State.setCore_now (c : Nat) (C : Core) : (s.setCore c C).now = s.now := rfl
@[simp] theorem State.setCore_ptpBase (c : Nat) (C : Core) : (s.setCore c C).ptpBase = s.ptpBase := rfl
@[simp] theorem State.setCore_ptpCycle (c : Nat) (C : Core) : (s.setCore c C).ptpCycle = s.ptpCycle := rfl
@[simp] theorem State.setCore_ptpLocked (c : Nat) (C : Core) : (s.setCore c C).ptpLocked = s.ptpLocked := rfl
@[simp] theorem State.setCore_mem (c : Nat) (C : Core) : (s.setCore c C).mem = s.mem := rfl
@[simp] theorem State.setCore_poison (c : Nat) (C : Core) : (s.setCore c C).poison = s.poison := rfl
@[simp] theorem State.setCore_scrPoison (c : Nat) (C : Core) : (s.setCore c C).scrPoison = s.scrPoison := rfl
@[simp] theorem State.setCore_cxl (c : Nat) (C : Core) : (s.setCore c C).cxl = s.cxl := rfl
@[simp] theorem State.setCore_clusters (c : Nat) (C : Core) : (s.setCore c C).clusters = s.clusters := rfl
@[simp] theorem State.setCore_dies (c : Nat) (C : Core) : (s.setCore c C).dies = s.dies := rfl
@[simp] theorem State.setCore_hdies (c : Nat) (C : Core) : (s.setCore c C).hdies = s.hdies := rfl
@[simp] theorem State.setCore_ctxs (c : Nat) (C : Core) : (s.setCore c C).ctxs = s.ctxs := rfl
@[simp] theorem State.setCore_teams (c : Nat) (C : Core) : (s.setCore c C).teams = s.teams := rfl
@[simp] theorem State.setCore_nextTid (c : Nat) (C : Core) : (s.setCore c C).nextTid = s.nextTid := rfl
@[simp] theorem State.setCore_launches (c : Nat) (C : Core) : (s.setCore c C).launches = s.launches := rfl
@[simp] theorem State.setCore_nextLid (c : Nat) (C : Core) : (s.setCore c C).nextLid = s.nextLid := rfl
@[simp] theorem State.setCore_passes (c : Nat) (C : Core) : (s.setCore c C).passes = s.passes := rfl
@[simp] theorem State.setCore_faults (c : Nat) (C : Core) : (s.setCore c C).faults = s.faults := rfl
@[simp] theorem State.setCore_nextTok (c : Nat) (C : Core) : (s.setCore c C).nextTok = s.nextTok := rfl
@[simp] theorem State.setCore_contribs (c : Nat) (C : Core) : (s.setCore c C).contribs = s.contribs := rfl
@[simp] theorem State.setCore_nextCon (c : Nat) (C : Core) : (s.setCore c C).nextCon = s.nextCon := rfl
@[simp] theorem State.setCore_flights (c : Nat) (C : Core) : (s.setCore c C).flights = s.flights := rfl
@[simp] theorem State.setCore_retires (c : Nat) (C : Core) : (s.setCore c C).retires = s.retires := rfl
@[simp] theorem State.setCore_tickets (c : Nat) (C : Core) : (s.setCore c C).tickets = s.tickets := rfl
@[simp] theorem State.setCore_nextOp (c : Nat) (C : Core) : (s.setCore c C).nextOp = s.nextOp := rfl
@[simp] theorem State.setCore_invals (c : Nat) (C : Core) : (s.setCore c C).invals = s.invals := rfl
@[simp] theorem State.setCore_remotes (c : Nat) (C : Core) : (s.setCore c C).remotes = s.remotes := rfl
@[simp] theorem State.setCore_lats (c : Nat) (C : Core) : (s.setCore c C).lats = s.lats := rfl
@[simp] theorem State.setCore_traces (c : Nat) (C : Core) : (s.setCore c C).traces = s.traces := rfl
@[simp] theorem State.setCore_csws (c : Nat) (C : Core) : (s.setCore c C).csws = s.csws := rfl
@[simp] theorem State.setCore_tsWritten (c : Nat) (C : Core) : (s.setCore c C).tsWritten = s.tsWritten := rfl
@[simp] theorem State.setCore_tsForce (c : Nat) (C : Core) : (s.setCore c C).tsForce = s.tsForce := rfl
@[simp] theorem State.setCore_idWritten (c : Nat) (C : Core) : (s.setCore c C).idWritten = s.idWritten := rfl
@[simp] theorem State.setCore_idForce (c : Nat) (C : Core) : (s.setCore c C).idForce = s.idForce := rfl
@[simp] theorem State.setCore_ownerKey (c : Nat) (C : Core) : (s.setCore c C).ownerKey = s.ownerKey := rfl
@[simp] theorem State.setCore_heatDrop (c : Nat) (C : Core) : (s.setCore c C).heatDrop = s.heatDrop := rfl
@[simp] theorem State.setCore_host (c : Nat) (C : Core) : (s.setCore c C).host = s.host := rfl
@[simp] theorem State.setCore_cur (c : Nat) (C : Core) : (s.setCore c C).cur = s.cur := rfl
@[simp] theorem State.setCore_issued (c : Nat) (C : Core) : (s.setCore c C).issued = s.issued := rfl
@[simp] theorem State.setCore_inbox (c : Nat) (C : Core) : (s.setCore c C).inbox = s.inbox := rfl
@[simp] theorem State.setCore_phase (c : Nat) (C : Core) : (s.setCore c C).phase = s.phase := rfl
@[simp] theorem State.setCore_sched (c : Nat) (C : Core) : (s.setCore c C).sched = s.sched := rfl
@[simp] theorem State.setCore_fresh (c : Nat) (C : Core) : (s.setCore c C).fresh = s.fresh := rfl
@[simp] theorem State.setCore_delays (c : Nat) (C : Core) : (s.setCore c C).delays = s.delays := rfl
@[simp] theorem State.setCore_stays (c : Nat) (C : Core) : (s.setCore c C).stays = s.stays := rfl
@[simp] theorem State.setCore_past (c : Nat) (C : Core) : (s.setCore c C).past = s.past := rfl
@[simp] theorem State.setCore_backs (c : Nat) (C : Core) : (s.setCore c C).backs = s.backs := rfl

/-! ## `State.modCore` -/

@[simp] theorem State.modCore_now (c : Nat) (f : Core → Core) : (s.modCore c f).now = s.now := rfl
@[simp] theorem State.modCore_ptpBase (c : Nat) (f : Core → Core) : (s.modCore c f).ptpBase = s.ptpBase := rfl
@[simp] theorem State.modCore_ptpCycle (c : Nat) (f : Core → Core) : (s.modCore c f).ptpCycle = s.ptpCycle := rfl
@[simp] theorem State.modCore_ptpLocked (c : Nat) (f : Core → Core) : (s.modCore c f).ptpLocked = s.ptpLocked := rfl
@[simp] theorem State.modCore_mem (c : Nat) (f : Core → Core) : (s.modCore c f).mem = s.mem := rfl
@[simp] theorem State.modCore_poison (c : Nat) (f : Core → Core) : (s.modCore c f).poison = s.poison := rfl
@[simp] theorem State.modCore_scrPoison (c : Nat) (f : Core → Core) : (s.modCore c f).scrPoison = s.scrPoison := rfl
@[simp] theorem State.modCore_cxl (c : Nat) (f : Core → Core) : (s.modCore c f).cxl = s.cxl := rfl
@[simp] theorem State.modCore_clusters (c : Nat) (f : Core → Core) : (s.modCore c f).clusters = s.clusters := rfl
@[simp] theorem State.modCore_dies (c : Nat) (f : Core → Core) : (s.modCore c f).dies = s.dies := rfl
@[simp] theorem State.modCore_hdies (c : Nat) (f : Core → Core) : (s.modCore c f).hdies = s.hdies := rfl
@[simp] theorem State.modCore_ctxs (c : Nat) (f : Core → Core) : (s.modCore c f).ctxs = s.ctxs := rfl
@[simp] theorem State.modCore_teams (c : Nat) (f : Core → Core) : (s.modCore c f).teams = s.teams := rfl
@[simp] theorem State.modCore_nextTid (c : Nat) (f : Core → Core) : (s.modCore c f).nextTid = s.nextTid := rfl
@[simp] theorem State.modCore_launches (c : Nat) (f : Core → Core) : (s.modCore c f).launches = s.launches := rfl
@[simp] theorem State.modCore_nextLid (c : Nat) (f : Core → Core) : (s.modCore c f).nextLid = s.nextLid := rfl
@[simp] theorem State.modCore_passes (c : Nat) (f : Core → Core) : (s.modCore c f).passes = s.passes := rfl
@[simp] theorem State.modCore_faults (c : Nat) (f : Core → Core) : (s.modCore c f).faults = s.faults := rfl
@[simp] theorem State.modCore_nextTok (c : Nat) (f : Core → Core) : (s.modCore c f).nextTok = s.nextTok := rfl
@[simp] theorem State.modCore_contribs (c : Nat) (f : Core → Core) : (s.modCore c f).contribs = s.contribs := rfl
@[simp] theorem State.modCore_nextCon (c : Nat) (f : Core → Core) : (s.modCore c f).nextCon = s.nextCon := rfl
@[simp] theorem State.modCore_flights (c : Nat) (f : Core → Core) : (s.modCore c f).flights = s.flights := rfl
@[simp] theorem State.modCore_retires (c : Nat) (f : Core → Core) : (s.modCore c f).retires = s.retires := rfl
@[simp] theorem State.modCore_tickets (c : Nat) (f : Core → Core) : (s.modCore c f).tickets = s.tickets := rfl
@[simp] theorem State.modCore_nextOp (c : Nat) (f : Core → Core) : (s.modCore c f).nextOp = s.nextOp := rfl
@[simp] theorem State.modCore_invals (c : Nat) (f : Core → Core) : (s.modCore c f).invals = s.invals := rfl
@[simp] theorem State.modCore_remotes (c : Nat) (f : Core → Core) : (s.modCore c f).remotes = s.remotes := rfl
@[simp] theorem State.modCore_lats (c : Nat) (f : Core → Core) : (s.modCore c f).lats = s.lats := rfl
@[simp] theorem State.modCore_traces (c : Nat) (f : Core → Core) : (s.modCore c f).traces = s.traces := rfl
@[simp] theorem State.modCore_csws (c : Nat) (f : Core → Core) : (s.modCore c f).csws = s.csws := rfl
@[simp] theorem State.modCore_tsWritten (c : Nat) (f : Core → Core) : (s.modCore c f).tsWritten = s.tsWritten := rfl
@[simp] theorem State.modCore_tsForce (c : Nat) (f : Core → Core) : (s.modCore c f).tsForce = s.tsForce := rfl
@[simp] theorem State.modCore_idWritten (c : Nat) (f : Core → Core) : (s.modCore c f).idWritten = s.idWritten := rfl
@[simp] theorem State.modCore_idForce (c : Nat) (f : Core → Core) : (s.modCore c f).idForce = s.idForce := rfl
@[simp] theorem State.modCore_ownerKey (c : Nat) (f : Core → Core) : (s.modCore c f).ownerKey = s.ownerKey := rfl
@[simp] theorem State.modCore_heatDrop (c : Nat) (f : Core → Core) : (s.modCore c f).heatDrop = s.heatDrop := rfl
@[simp] theorem State.modCore_host (c : Nat) (f : Core → Core) : (s.modCore c f).host = s.host := rfl
@[simp] theorem State.modCore_cur (c : Nat) (f : Core → Core) : (s.modCore c f).cur = s.cur := rfl
@[simp] theorem State.modCore_issued (c : Nat) (f : Core → Core) : (s.modCore c f).issued = s.issued := rfl
@[simp] theorem State.modCore_inbox (c : Nat) (f : Core → Core) : (s.modCore c f).inbox = s.inbox := rfl
@[simp] theorem State.modCore_phase (c : Nat) (f : Core → Core) : (s.modCore c f).phase = s.phase := rfl
@[simp] theorem State.modCore_sched (c : Nat) (f : Core → Core) : (s.modCore c f).sched = s.sched := rfl
@[simp] theorem State.modCore_fresh (c : Nat) (f : Core → Core) : (s.modCore c f).fresh = s.fresh := rfl
@[simp] theorem State.modCore_delays (c : Nat) (f : Core → Core) : (s.modCore c f).delays = s.delays := rfl
@[simp] theorem State.modCore_stays (c : Nat) (f : Core → Core) : (s.modCore c f).stays = s.stays := rfl
@[simp] theorem State.modCore_past (c : Nat) (f : Core → Core) : (s.modCore c f).past = s.past := rfl
@[simp] theorem State.modCore_backs (c : Nat) (f : Core → Core) : (s.modCore c f).backs = s.backs := rfl

/-! ## `State.setGroup` -/

@[simp] theorem State.setGroup_now (c g : Nat) (G : Group) : (s.setGroup c g G).now = s.now := rfl
@[simp] theorem State.setGroup_ptpBase (c g : Nat) (G : Group) : (s.setGroup c g G).ptpBase = s.ptpBase := rfl
@[simp] theorem State.setGroup_ptpCycle (c g : Nat) (G : Group) : (s.setGroup c g G).ptpCycle = s.ptpCycle := rfl
@[simp] theorem State.setGroup_ptpLocked (c g : Nat) (G : Group) : (s.setGroup c g G).ptpLocked = s.ptpLocked := rfl
@[simp] theorem State.setGroup_mem (c g : Nat) (G : Group) : (s.setGroup c g G).mem = s.mem := rfl
@[simp] theorem State.setGroup_poison (c g : Nat) (G : Group) : (s.setGroup c g G).poison = s.poison := rfl
@[simp] theorem State.setGroup_scrPoison (c g : Nat) (G : Group) : (s.setGroup c g G).scrPoison = s.scrPoison := rfl
@[simp] theorem State.setGroup_cxl (c g : Nat) (G : Group) : (s.setGroup c g G).cxl = s.cxl := rfl
@[simp] theorem State.setGroup_clusters (c g : Nat) (G : Group) : (s.setGroup c g G).clusters = s.clusters := rfl
@[simp] theorem State.setGroup_dies (c g : Nat) (G : Group) : (s.setGroup c g G).dies = s.dies := rfl
@[simp] theorem State.setGroup_hdies (c g : Nat) (G : Group) : (s.setGroup c g G).hdies = s.hdies := rfl
@[simp] theorem State.setGroup_ctxs (c g : Nat) (G : Group) : (s.setGroup c g G).ctxs = s.ctxs := rfl
@[simp] theorem State.setGroup_teams (c g : Nat) (G : Group) : (s.setGroup c g G).teams = s.teams := rfl
@[simp] theorem State.setGroup_nextTid (c g : Nat) (G : Group) : (s.setGroup c g G).nextTid = s.nextTid := rfl
@[simp] theorem State.setGroup_launches (c g : Nat) (G : Group) : (s.setGroup c g G).launches = s.launches := rfl
@[simp] theorem State.setGroup_nextLid (c g : Nat) (G : Group) : (s.setGroup c g G).nextLid = s.nextLid := rfl
@[simp] theorem State.setGroup_passes (c g : Nat) (G : Group) : (s.setGroup c g G).passes = s.passes := rfl
@[simp] theorem State.setGroup_faults (c g : Nat) (G : Group) : (s.setGroup c g G).faults = s.faults := rfl
@[simp] theorem State.setGroup_nextTok (c g : Nat) (G : Group) : (s.setGroup c g G).nextTok = s.nextTok := rfl
@[simp] theorem State.setGroup_contribs (c g : Nat) (G : Group) : (s.setGroup c g G).contribs = s.contribs := rfl
@[simp] theorem State.setGroup_nextCon (c g : Nat) (G : Group) : (s.setGroup c g G).nextCon = s.nextCon := rfl
@[simp] theorem State.setGroup_flights (c g : Nat) (G : Group) : (s.setGroup c g G).flights = s.flights := rfl
@[simp] theorem State.setGroup_retires (c g : Nat) (G : Group) : (s.setGroup c g G).retires = s.retires := rfl
@[simp] theorem State.setGroup_tickets (c g : Nat) (G : Group) : (s.setGroup c g G).tickets = s.tickets := rfl
@[simp] theorem State.setGroup_nextOp (c g : Nat) (G : Group) : (s.setGroup c g G).nextOp = s.nextOp := rfl
@[simp] theorem State.setGroup_invals (c g : Nat) (G : Group) : (s.setGroup c g G).invals = s.invals := rfl
@[simp] theorem State.setGroup_remotes (c g : Nat) (G : Group) : (s.setGroup c g G).remotes = s.remotes := rfl
@[simp] theorem State.setGroup_lats (c g : Nat) (G : Group) : (s.setGroup c g G).lats = s.lats := rfl
@[simp] theorem State.setGroup_traces (c g : Nat) (G : Group) : (s.setGroup c g G).traces = s.traces := rfl
@[simp] theorem State.setGroup_csws (c g : Nat) (G : Group) : (s.setGroup c g G).csws = s.csws := rfl
@[simp] theorem State.setGroup_tsWritten (c g : Nat) (G : Group) : (s.setGroup c g G).tsWritten = s.tsWritten := rfl
@[simp] theorem State.setGroup_tsForce (c g : Nat) (G : Group) : (s.setGroup c g G).tsForce = s.tsForce := rfl
@[simp] theorem State.setGroup_idWritten (c g : Nat) (G : Group) : (s.setGroup c g G).idWritten = s.idWritten := rfl
@[simp] theorem State.setGroup_idForce (c g : Nat) (G : Group) : (s.setGroup c g G).idForce = s.idForce := rfl
@[simp] theorem State.setGroup_ownerKey (c g : Nat) (G : Group) : (s.setGroup c g G).ownerKey = s.ownerKey := rfl
@[simp] theorem State.setGroup_heatDrop (c g : Nat) (G : Group) : (s.setGroup c g G).heatDrop = s.heatDrop := rfl
@[simp] theorem State.setGroup_host (c g : Nat) (G : Group) : (s.setGroup c g G).host = s.host := rfl
@[simp] theorem State.setGroup_cur (c g : Nat) (G : Group) : (s.setGroup c g G).cur = s.cur := rfl
@[simp] theorem State.setGroup_issued (c g : Nat) (G : Group) : (s.setGroup c g G).issued = s.issued := rfl
@[simp] theorem State.setGroup_inbox (c g : Nat) (G : Group) : (s.setGroup c g G).inbox = s.inbox := rfl
@[simp] theorem State.setGroup_phase (c g : Nat) (G : Group) : (s.setGroup c g G).phase = s.phase := rfl
@[simp] theorem State.setGroup_sched (c g : Nat) (G : Group) : (s.setGroup c g G).sched = s.sched := rfl
@[simp] theorem State.setGroup_fresh (c g : Nat) (G : Group) : (s.setGroup c g G).fresh = s.fresh := rfl
@[simp] theorem State.setGroup_delays (c g : Nat) (G : Group) : (s.setGroup c g G).delays = s.delays := rfl
@[simp] theorem State.setGroup_stays (c g : Nat) (G : Group) : (s.setGroup c g G).stays = s.stays := rfl
@[simp] theorem State.setGroup_past (c g : Nat) (G : Group) : (s.setGroup c g G).past = s.past := rfl
@[simp] theorem State.setGroup_backs (c g : Nat) (G : Group) : (s.setGroup c g G).backs = s.backs := rfl

/-! ## `State.modGroup` -/

@[simp] theorem State.modGroup_now (c g : Nat) (f : Group → Group) : (s.modGroup c g f).now = s.now := rfl
@[simp] theorem State.modGroup_ptpBase (c g : Nat) (f : Group → Group) : (s.modGroup c g f).ptpBase = s.ptpBase := rfl
@[simp] theorem State.modGroup_ptpCycle (c g : Nat) (f : Group → Group) : (s.modGroup c g f).ptpCycle = s.ptpCycle := rfl
@[simp] theorem State.modGroup_ptpLocked (c g : Nat) (f : Group → Group) : (s.modGroup c g f).ptpLocked = s.ptpLocked := rfl
@[simp] theorem State.modGroup_mem (c g : Nat) (f : Group → Group) : (s.modGroup c g f).mem = s.mem := rfl
@[simp] theorem State.modGroup_poison (c g : Nat) (f : Group → Group) : (s.modGroup c g f).poison = s.poison := rfl
@[simp] theorem State.modGroup_scrPoison (c g : Nat) (f : Group → Group) : (s.modGroup c g f).scrPoison = s.scrPoison := rfl
@[simp] theorem State.modGroup_cxl (c g : Nat) (f : Group → Group) : (s.modGroup c g f).cxl = s.cxl := rfl
@[simp] theorem State.modGroup_clusters (c g : Nat) (f : Group → Group) : (s.modGroup c g f).clusters = s.clusters := rfl
@[simp] theorem State.modGroup_dies (c g : Nat) (f : Group → Group) : (s.modGroup c g f).dies = s.dies := rfl
@[simp] theorem State.modGroup_hdies (c g : Nat) (f : Group → Group) : (s.modGroup c g f).hdies = s.hdies := rfl
@[simp] theorem State.modGroup_ctxs (c g : Nat) (f : Group → Group) : (s.modGroup c g f).ctxs = s.ctxs := rfl
@[simp] theorem State.modGroup_teams (c g : Nat) (f : Group → Group) : (s.modGroup c g f).teams = s.teams := rfl
@[simp] theorem State.modGroup_nextTid (c g : Nat) (f : Group → Group) : (s.modGroup c g f).nextTid = s.nextTid := rfl
@[simp] theorem State.modGroup_launches (c g : Nat) (f : Group → Group) : (s.modGroup c g f).launches = s.launches := rfl
@[simp] theorem State.modGroup_nextLid (c g : Nat) (f : Group → Group) : (s.modGroup c g f).nextLid = s.nextLid := rfl
@[simp] theorem State.modGroup_passes (c g : Nat) (f : Group → Group) : (s.modGroup c g f).passes = s.passes := rfl
@[simp] theorem State.modGroup_faults (c g : Nat) (f : Group → Group) : (s.modGroup c g f).faults = s.faults := rfl
@[simp] theorem State.modGroup_nextTok (c g : Nat) (f : Group → Group) : (s.modGroup c g f).nextTok = s.nextTok := rfl
@[simp] theorem State.modGroup_contribs (c g : Nat) (f : Group → Group) : (s.modGroup c g f).contribs = s.contribs := rfl
@[simp] theorem State.modGroup_nextCon (c g : Nat) (f : Group → Group) : (s.modGroup c g f).nextCon = s.nextCon := rfl
@[simp] theorem State.modGroup_flights (c g : Nat) (f : Group → Group) : (s.modGroup c g f).flights = s.flights := rfl
@[simp] theorem State.modGroup_retires (c g : Nat) (f : Group → Group) : (s.modGroup c g f).retires = s.retires := rfl
@[simp] theorem State.modGroup_tickets (c g : Nat) (f : Group → Group) : (s.modGroup c g f).tickets = s.tickets := rfl
@[simp] theorem State.modGroup_nextOp (c g : Nat) (f : Group → Group) : (s.modGroup c g f).nextOp = s.nextOp := rfl
@[simp] theorem State.modGroup_invals (c g : Nat) (f : Group → Group) : (s.modGroup c g f).invals = s.invals := rfl
@[simp] theorem State.modGroup_remotes (c g : Nat) (f : Group → Group) : (s.modGroup c g f).remotes = s.remotes := rfl
@[simp] theorem State.modGroup_lats (c g : Nat) (f : Group → Group) : (s.modGroup c g f).lats = s.lats := rfl
@[simp] theorem State.modGroup_traces (c g : Nat) (f : Group → Group) : (s.modGroup c g f).traces = s.traces := rfl
@[simp] theorem State.modGroup_csws (c g : Nat) (f : Group → Group) : (s.modGroup c g f).csws = s.csws := rfl
@[simp] theorem State.modGroup_tsWritten (c g : Nat) (f : Group → Group) : (s.modGroup c g f).tsWritten = s.tsWritten := rfl
@[simp] theorem State.modGroup_tsForce (c g : Nat) (f : Group → Group) : (s.modGroup c g f).tsForce = s.tsForce := rfl
@[simp] theorem State.modGroup_idWritten (c g : Nat) (f : Group → Group) : (s.modGroup c g f).idWritten = s.idWritten := rfl
@[simp] theorem State.modGroup_idForce (c g : Nat) (f : Group → Group) : (s.modGroup c g f).idForce = s.idForce := rfl
@[simp] theorem State.modGroup_ownerKey (c g : Nat) (f : Group → Group) : (s.modGroup c g f).ownerKey = s.ownerKey := rfl
@[simp] theorem State.modGroup_heatDrop (c g : Nat) (f : Group → Group) : (s.modGroup c g f).heatDrop = s.heatDrop := rfl
@[simp] theorem State.modGroup_host (c g : Nat) (f : Group → Group) : (s.modGroup c g f).host = s.host := rfl
@[simp] theorem State.modGroup_cur (c g : Nat) (f : Group → Group) : (s.modGroup c g f).cur = s.cur := rfl
@[simp] theorem State.modGroup_issued (c g : Nat) (f : Group → Group) : (s.modGroup c g f).issued = s.issued := rfl
@[simp] theorem State.modGroup_inbox (c g : Nat) (f : Group → Group) : (s.modGroup c g f).inbox = s.inbox := rfl
@[simp] theorem State.modGroup_phase (c g : Nat) (f : Group → Group) : (s.modGroup c g f).phase = s.phase := rfl
@[simp] theorem State.modGroup_sched (c g : Nat) (f : Group → Group) : (s.modGroup c g f).sched = s.sched := rfl
@[simp] theorem State.modGroup_fresh (c g : Nat) (f : Group → Group) : (s.modGroup c g f).fresh = s.fresh := rfl
@[simp] theorem State.modGroup_delays (c g : Nat) (f : Group → Group) : (s.modGroup c g f).delays = s.delays := rfl
@[simp] theorem State.modGroup_stays (c g : Nat) (f : Group → Group) : (s.modGroup c g f).stays = s.stays := rfl
@[simp] theorem State.modGroup_past (c g : Nat) (f : Group → Group) : (s.modGroup c g f).past = s.past := rfl
@[simp] theorem State.modGroup_backs (c g : Nat) (f : Group → Group) : (s.modGroup c g f).backs = s.backs := rfl

/-! ## `State.modCluster` -/

@[simp] theorem State.modCluster_now (c : Nat) (f : Cluster → Cluster) : (s.modCluster c f).now = s.now := rfl
@[simp] theorem State.modCluster_ptpBase (c : Nat) (f : Cluster → Cluster) : (s.modCluster c f).ptpBase = s.ptpBase := rfl
@[simp] theorem State.modCluster_ptpCycle (c : Nat) (f : Cluster → Cluster) : (s.modCluster c f).ptpCycle = s.ptpCycle := rfl
@[simp] theorem State.modCluster_ptpLocked (c : Nat) (f : Cluster → Cluster) : (s.modCluster c f).ptpLocked = s.ptpLocked := rfl
@[simp] theorem State.modCluster_mem (c : Nat) (f : Cluster → Cluster) : (s.modCluster c f).mem = s.mem := rfl
@[simp] theorem State.modCluster_poison (c : Nat) (f : Cluster → Cluster) : (s.modCluster c f).poison = s.poison := rfl
@[simp] theorem State.modCluster_scrPoison (c : Nat) (f : Cluster → Cluster) : (s.modCluster c f).scrPoison = s.scrPoison := rfl
@[simp] theorem State.modCluster_cxl (c : Nat) (f : Cluster → Cluster) : (s.modCluster c f).cxl = s.cxl := rfl
@[simp] theorem State.modCluster_cores (c : Nat) (f : Cluster → Cluster) : (s.modCluster c f).cores = s.cores := rfl
@[simp] theorem State.modCluster_dies (c : Nat) (f : Cluster → Cluster) : (s.modCluster c f).dies = s.dies := rfl
@[simp] theorem State.modCluster_hdies (c : Nat) (f : Cluster → Cluster) : (s.modCluster c f).hdies = s.hdies := rfl
@[simp] theorem State.modCluster_ctxs (c : Nat) (f : Cluster → Cluster) : (s.modCluster c f).ctxs = s.ctxs := rfl
@[simp] theorem State.modCluster_teams (c : Nat) (f : Cluster → Cluster) : (s.modCluster c f).teams = s.teams := rfl
@[simp] theorem State.modCluster_nextTid (c : Nat) (f : Cluster → Cluster) : (s.modCluster c f).nextTid = s.nextTid := rfl
@[simp] theorem State.modCluster_launches (c : Nat) (f : Cluster → Cluster) : (s.modCluster c f).launches = s.launches := rfl
@[simp] theorem State.modCluster_nextLid (c : Nat) (f : Cluster → Cluster) : (s.modCluster c f).nextLid = s.nextLid := rfl
@[simp] theorem State.modCluster_passes (c : Nat) (f : Cluster → Cluster) : (s.modCluster c f).passes = s.passes := rfl
@[simp] theorem State.modCluster_faults (c : Nat) (f : Cluster → Cluster) : (s.modCluster c f).faults = s.faults := rfl
@[simp] theorem State.modCluster_nextTok (c : Nat) (f : Cluster → Cluster) : (s.modCluster c f).nextTok = s.nextTok := rfl
@[simp] theorem State.modCluster_contribs (c : Nat) (f : Cluster → Cluster) : (s.modCluster c f).contribs = s.contribs := rfl
@[simp] theorem State.modCluster_nextCon (c : Nat) (f : Cluster → Cluster) : (s.modCluster c f).nextCon = s.nextCon := rfl
@[simp] theorem State.modCluster_flights (c : Nat) (f : Cluster → Cluster) : (s.modCluster c f).flights = s.flights := rfl
@[simp] theorem State.modCluster_retires (c : Nat) (f : Cluster → Cluster) : (s.modCluster c f).retires = s.retires := rfl
@[simp] theorem State.modCluster_tickets (c : Nat) (f : Cluster → Cluster) : (s.modCluster c f).tickets = s.tickets := rfl
@[simp] theorem State.modCluster_nextOp (c : Nat) (f : Cluster → Cluster) : (s.modCluster c f).nextOp = s.nextOp := rfl
@[simp] theorem State.modCluster_invals (c : Nat) (f : Cluster → Cluster) : (s.modCluster c f).invals = s.invals := rfl
@[simp] theorem State.modCluster_remotes (c : Nat) (f : Cluster → Cluster) : (s.modCluster c f).remotes = s.remotes := rfl
@[simp] theorem State.modCluster_lats (c : Nat) (f : Cluster → Cluster) : (s.modCluster c f).lats = s.lats := rfl
@[simp] theorem State.modCluster_traces (c : Nat) (f : Cluster → Cluster) : (s.modCluster c f).traces = s.traces := rfl
@[simp] theorem State.modCluster_csws (c : Nat) (f : Cluster → Cluster) : (s.modCluster c f).csws = s.csws := rfl
@[simp] theorem State.modCluster_tsWritten (c : Nat) (f : Cluster → Cluster) : (s.modCluster c f).tsWritten = s.tsWritten := rfl
@[simp] theorem State.modCluster_tsForce (c : Nat) (f : Cluster → Cluster) : (s.modCluster c f).tsForce = s.tsForce := rfl
@[simp] theorem State.modCluster_idWritten (c : Nat) (f : Cluster → Cluster) : (s.modCluster c f).idWritten = s.idWritten := rfl
@[simp] theorem State.modCluster_idForce (c : Nat) (f : Cluster → Cluster) : (s.modCluster c f).idForce = s.idForce := rfl
@[simp] theorem State.modCluster_ownerKey (c : Nat) (f : Cluster → Cluster) : (s.modCluster c f).ownerKey = s.ownerKey := rfl
@[simp] theorem State.modCluster_heatDrop (c : Nat) (f : Cluster → Cluster) : (s.modCluster c f).heatDrop = s.heatDrop := rfl
@[simp] theorem State.modCluster_host (c : Nat) (f : Cluster → Cluster) : (s.modCluster c f).host = s.host := rfl
@[simp] theorem State.modCluster_cur (c : Nat) (f : Cluster → Cluster) : (s.modCluster c f).cur = s.cur := rfl
@[simp] theorem State.modCluster_issued (c : Nat) (f : Cluster → Cluster) : (s.modCluster c f).issued = s.issued := rfl
@[simp] theorem State.modCluster_inbox (c : Nat) (f : Cluster → Cluster) : (s.modCluster c f).inbox = s.inbox := rfl
@[simp] theorem State.modCluster_phase (c : Nat) (f : Cluster → Cluster) : (s.modCluster c f).phase = s.phase := rfl
@[simp] theorem State.modCluster_sched (c : Nat) (f : Cluster → Cluster) : (s.modCluster c f).sched = s.sched := rfl
@[simp] theorem State.modCluster_fresh (c : Nat) (f : Cluster → Cluster) : (s.modCluster c f).fresh = s.fresh := rfl
@[simp] theorem State.modCluster_delays (c : Nat) (f : Cluster → Cluster) : (s.modCluster c f).delays = s.delays := rfl
@[simp] theorem State.modCluster_stays (c : Nat) (f : Cluster → Cluster) : (s.modCluster c f).stays = s.stays := rfl
@[simp] theorem State.modCluster_past (c : Nat) (f : Cluster → Cluster) : (s.modCluster c f).past = s.past := rfl
@[simp] theorem State.modCluster_backs (c : Nat) (f : Cluster → Cluster) : (s.modCluster c f).backs = s.backs := rfl

/-! ## `State.modDie` -/

@[simp] theorem State.modDie_now (d : Nat) (f : Die → Die) : (s.modDie d f).now = s.now := rfl
@[simp] theorem State.modDie_ptpBase (d : Nat) (f : Die → Die) : (s.modDie d f).ptpBase = s.ptpBase := rfl
@[simp] theorem State.modDie_ptpCycle (d : Nat) (f : Die → Die) : (s.modDie d f).ptpCycle = s.ptpCycle := rfl
@[simp] theorem State.modDie_ptpLocked (d : Nat) (f : Die → Die) : (s.modDie d f).ptpLocked = s.ptpLocked := rfl
@[simp] theorem State.modDie_mem (d : Nat) (f : Die → Die) : (s.modDie d f).mem = s.mem := rfl
@[simp] theorem State.modDie_poison (d : Nat) (f : Die → Die) : (s.modDie d f).poison = s.poison := rfl
@[simp] theorem State.modDie_scrPoison (d : Nat) (f : Die → Die) : (s.modDie d f).scrPoison = s.scrPoison := rfl
@[simp] theorem State.modDie_cxl (d : Nat) (f : Die → Die) : (s.modDie d f).cxl = s.cxl := rfl
@[simp] theorem State.modDie_cores (d : Nat) (f : Die → Die) : (s.modDie d f).cores = s.cores := rfl
@[simp] theorem State.modDie_clusters (d : Nat) (f : Die → Die) : (s.modDie d f).clusters = s.clusters := rfl
@[simp] theorem State.modDie_hdies (d : Nat) (f : Die → Die) : (s.modDie d f).hdies = s.hdies := rfl
@[simp] theorem State.modDie_ctxs (d : Nat) (f : Die → Die) : (s.modDie d f).ctxs = s.ctxs := rfl
@[simp] theorem State.modDie_teams (d : Nat) (f : Die → Die) : (s.modDie d f).teams = s.teams := rfl
@[simp] theorem State.modDie_nextTid (d : Nat) (f : Die → Die) : (s.modDie d f).nextTid = s.nextTid := rfl
@[simp] theorem State.modDie_launches (d : Nat) (f : Die → Die) : (s.modDie d f).launches = s.launches := rfl
@[simp] theorem State.modDie_nextLid (d : Nat) (f : Die → Die) : (s.modDie d f).nextLid = s.nextLid := rfl
@[simp] theorem State.modDie_passes (d : Nat) (f : Die → Die) : (s.modDie d f).passes = s.passes := rfl
@[simp] theorem State.modDie_faults (d : Nat) (f : Die → Die) : (s.modDie d f).faults = s.faults := rfl
@[simp] theorem State.modDie_nextTok (d : Nat) (f : Die → Die) : (s.modDie d f).nextTok = s.nextTok := rfl
@[simp] theorem State.modDie_contribs (d : Nat) (f : Die → Die) : (s.modDie d f).contribs = s.contribs := rfl
@[simp] theorem State.modDie_nextCon (d : Nat) (f : Die → Die) : (s.modDie d f).nextCon = s.nextCon := rfl
@[simp] theorem State.modDie_flights (d : Nat) (f : Die → Die) : (s.modDie d f).flights = s.flights := rfl
@[simp] theorem State.modDie_retires (d : Nat) (f : Die → Die) : (s.modDie d f).retires = s.retires := rfl
@[simp] theorem State.modDie_tickets (d : Nat) (f : Die → Die) : (s.modDie d f).tickets = s.tickets := rfl
@[simp] theorem State.modDie_nextOp (d : Nat) (f : Die → Die) : (s.modDie d f).nextOp = s.nextOp := rfl
@[simp] theorem State.modDie_invals (d : Nat) (f : Die → Die) : (s.modDie d f).invals = s.invals := rfl
@[simp] theorem State.modDie_remotes (d : Nat) (f : Die → Die) : (s.modDie d f).remotes = s.remotes := rfl
@[simp] theorem State.modDie_lats (d : Nat) (f : Die → Die) : (s.modDie d f).lats = s.lats := rfl
@[simp] theorem State.modDie_traces (d : Nat) (f : Die → Die) : (s.modDie d f).traces = s.traces := rfl
@[simp] theorem State.modDie_csws (d : Nat) (f : Die → Die) : (s.modDie d f).csws = s.csws := rfl
@[simp] theorem State.modDie_tsWritten (d : Nat) (f : Die → Die) : (s.modDie d f).tsWritten = s.tsWritten := rfl
@[simp] theorem State.modDie_tsForce (d : Nat) (f : Die → Die) : (s.modDie d f).tsForce = s.tsForce := rfl
@[simp] theorem State.modDie_idWritten (d : Nat) (f : Die → Die) : (s.modDie d f).idWritten = s.idWritten := rfl
@[simp] theorem State.modDie_idForce (d : Nat) (f : Die → Die) : (s.modDie d f).idForce = s.idForce := rfl
@[simp] theorem State.modDie_ownerKey (d : Nat) (f : Die → Die) : (s.modDie d f).ownerKey = s.ownerKey := rfl
@[simp] theorem State.modDie_heatDrop (d : Nat) (f : Die → Die) : (s.modDie d f).heatDrop = s.heatDrop := rfl
@[simp] theorem State.modDie_host (d : Nat) (f : Die → Die) : (s.modDie d f).host = s.host := rfl
@[simp] theorem State.modDie_cur (d : Nat) (f : Die → Die) : (s.modDie d f).cur = s.cur := rfl
@[simp] theorem State.modDie_issued (d : Nat) (f : Die → Die) : (s.modDie d f).issued = s.issued := rfl
@[simp] theorem State.modDie_inbox (d : Nat) (f : Die → Die) : (s.modDie d f).inbox = s.inbox := rfl
@[simp] theorem State.modDie_phase (d : Nat) (f : Die → Die) : (s.modDie d f).phase = s.phase := rfl
@[simp] theorem State.modDie_sched (d : Nat) (f : Die → Die) : (s.modDie d f).sched = s.sched := rfl
@[simp] theorem State.modDie_fresh (d : Nat) (f : Die → Die) : (s.modDie d f).fresh = s.fresh := rfl
@[simp] theorem State.modDie_delays (d : Nat) (f : Die → Die) : (s.modDie d f).delays = s.delays := rfl
@[simp] theorem State.modDie_stays (d : Nat) (f : Die → Die) : (s.modDie d f).stays = s.stays := rfl
@[simp] theorem State.modDie_past (d : Nat) (f : Die → Die) : (s.modDie d f).past = s.past := rfl
@[simp] theorem State.modDie_backs (d : Nat) (f : Die → Die) : (s.modDie d f).backs = s.backs := rfl

/-! ## `State.modHdie` -/

@[simp] theorem State.modHdie_now (h : Nat) (f : HDie → HDie) : (s.modHdie h f).now = s.now := rfl
@[simp] theorem State.modHdie_ptpBase (h : Nat) (f : HDie → HDie) : (s.modHdie h f).ptpBase = s.ptpBase := rfl
@[simp] theorem State.modHdie_ptpCycle (h : Nat) (f : HDie → HDie) : (s.modHdie h f).ptpCycle = s.ptpCycle := rfl
@[simp] theorem State.modHdie_ptpLocked (h : Nat) (f : HDie → HDie) : (s.modHdie h f).ptpLocked = s.ptpLocked := rfl
@[simp] theorem State.modHdie_mem (h : Nat) (f : HDie → HDie) : (s.modHdie h f).mem = s.mem := rfl
@[simp] theorem State.modHdie_poison (h : Nat) (f : HDie → HDie) : (s.modHdie h f).poison = s.poison := rfl
@[simp] theorem State.modHdie_scrPoison (h : Nat) (f : HDie → HDie) : (s.modHdie h f).scrPoison = s.scrPoison := rfl
@[simp] theorem State.modHdie_cxl (h : Nat) (f : HDie → HDie) : (s.modHdie h f).cxl = s.cxl := rfl
@[simp] theorem State.modHdie_cores (h : Nat) (f : HDie → HDie) : (s.modHdie h f).cores = s.cores := rfl
@[simp] theorem State.modHdie_clusters (h : Nat) (f : HDie → HDie) : (s.modHdie h f).clusters = s.clusters := rfl
@[simp] theorem State.modHdie_dies (h : Nat) (f : HDie → HDie) : (s.modHdie h f).dies = s.dies := rfl
@[simp] theorem State.modHdie_ctxs (h : Nat) (f : HDie → HDie) : (s.modHdie h f).ctxs = s.ctxs := rfl
@[simp] theorem State.modHdie_teams (h : Nat) (f : HDie → HDie) : (s.modHdie h f).teams = s.teams := rfl
@[simp] theorem State.modHdie_nextTid (h : Nat) (f : HDie → HDie) : (s.modHdie h f).nextTid = s.nextTid := rfl
@[simp] theorem State.modHdie_launches (h : Nat) (f : HDie → HDie) : (s.modHdie h f).launches = s.launches := rfl
@[simp] theorem State.modHdie_nextLid (h : Nat) (f : HDie → HDie) : (s.modHdie h f).nextLid = s.nextLid := rfl
@[simp] theorem State.modHdie_passes (h : Nat) (f : HDie → HDie) : (s.modHdie h f).passes = s.passes := rfl
@[simp] theorem State.modHdie_faults (h : Nat) (f : HDie → HDie) : (s.modHdie h f).faults = s.faults := rfl
@[simp] theorem State.modHdie_nextTok (h : Nat) (f : HDie → HDie) : (s.modHdie h f).nextTok = s.nextTok := rfl
@[simp] theorem State.modHdie_contribs (h : Nat) (f : HDie → HDie) : (s.modHdie h f).contribs = s.contribs := rfl
@[simp] theorem State.modHdie_nextCon (h : Nat) (f : HDie → HDie) : (s.modHdie h f).nextCon = s.nextCon := rfl
@[simp] theorem State.modHdie_flights (h : Nat) (f : HDie → HDie) : (s.modHdie h f).flights = s.flights := rfl
@[simp] theorem State.modHdie_retires (h : Nat) (f : HDie → HDie) : (s.modHdie h f).retires = s.retires := rfl
@[simp] theorem State.modHdie_tickets (h : Nat) (f : HDie → HDie) : (s.modHdie h f).tickets = s.tickets := rfl
@[simp] theorem State.modHdie_nextOp (h : Nat) (f : HDie → HDie) : (s.modHdie h f).nextOp = s.nextOp := rfl
@[simp] theorem State.modHdie_invals (h : Nat) (f : HDie → HDie) : (s.modHdie h f).invals = s.invals := rfl
@[simp] theorem State.modHdie_remotes (h : Nat) (f : HDie → HDie) : (s.modHdie h f).remotes = s.remotes := rfl
@[simp] theorem State.modHdie_lats (h : Nat) (f : HDie → HDie) : (s.modHdie h f).lats = s.lats := rfl
@[simp] theorem State.modHdie_traces (h : Nat) (f : HDie → HDie) : (s.modHdie h f).traces = s.traces := rfl
@[simp] theorem State.modHdie_csws (h : Nat) (f : HDie → HDie) : (s.modHdie h f).csws = s.csws := rfl
@[simp] theorem State.modHdie_tsWritten (h : Nat) (f : HDie → HDie) : (s.modHdie h f).tsWritten = s.tsWritten := rfl
@[simp] theorem State.modHdie_tsForce (h : Nat) (f : HDie → HDie) : (s.modHdie h f).tsForce = s.tsForce := rfl
@[simp] theorem State.modHdie_idWritten (h : Nat) (f : HDie → HDie) : (s.modHdie h f).idWritten = s.idWritten := rfl
@[simp] theorem State.modHdie_idForce (h : Nat) (f : HDie → HDie) : (s.modHdie h f).idForce = s.idForce := rfl
@[simp] theorem State.modHdie_ownerKey (h : Nat) (f : HDie → HDie) : (s.modHdie h f).ownerKey = s.ownerKey := rfl
@[simp] theorem State.modHdie_heatDrop (h : Nat) (f : HDie → HDie) : (s.modHdie h f).heatDrop = s.heatDrop := rfl
@[simp] theorem State.modHdie_host (h : Nat) (f : HDie → HDie) : (s.modHdie h f).host = s.host := rfl
@[simp] theorem State.modHdie_cur (h : Nat) (f : HDie → HDie) : (s.modHdie h f).cur = s.cur := rfl
@[simp] theorem State.modHdie_issued (h : Nat) (f : HDie → HDie) : (s.modHdie h f).issued = s.issued := rfl
@[simp] theorem State.modHdie_inbox (h : Nat) (f : HDie → HDie) : (s.modHdie h f).inbox = s.inbox := rfl
@[simp] theorem State.modHdie_phase (h : Nat) (f : HDie → HDie) : (s.modHdie h f).phase = s.phase := rfl
@[simp] theorem State.modHdie_sched (h : Nat) (f : HDie → HDie) : (s.modHdie h f).sched = s.sched := rfl
@[simp] theorem State.modHdie_fresh (h : Nat) (f : HDie → HDie) : (s.modHdie h f).fresh = s.fresh := rfl
@[simp] theorem State.modHdie_delays (h : Nat) (f : HDie → HDie) : (s.modHdie h f).delays = s.delays := rfl
@[simp] theorem State.modHdie_stays (h : Nat) (f : HDie → HDie) : (s.modHdie h f).stays = s.stays := rfl
@[simp] theorem State.modHdie_past (h : Nat) (f : HDie → HDie) : (s.modHdie h f).past = s.past := rfl
@[simp] theorem State.modHdie_backs (h : Nat) (f : HDie → HDie) : (s.modHdie h f).backs = s.backs := rfl

/-! ## `State.modCtx` -/

@[simp] theorem State.modCtx_now (x : Nat) (f : Ctx → Ctx) : (s.modCtx x f).now = s.now := rfl
@[simp] theorem State.modCtx_ptpBase (x : Nat) (f : Ctx → Ctx) : (s.modCtx x f).ptpBase = s.ptpBase := rfl
@[simp] theorem State.modCtx_ptpCycle (x : Nat) (f : Ctx → Ctx) : (s.modCtx x f).ptpCycle = s.ptpCycle := rfl
@[simp] theorem State.modCtx_ptpLocked (x : Nat) (f : Ctx → Ctx) : (s.modCtx x f).ptpLocked = s.ptpLocked := rfl
@[simp] theorem State.modCtx_mem (x : Nat) (f : Ctx → Ctx) : (s.modCtx x f).mem = s.mem := rfl
@[simp] theorem State.modCtx_poison (x : Nat) (f : Ctx → Ctx) : (s.modCtx x f).poison = s.poison := rfl
@[simp] theorem State.modCtx_scrPoison (x : Nat) (f : Ctx → Ctx) : (s.modCtx x f).scrPoison = s.scrPoison := rfl
@[simp] theorem State.modCtx_cxl (x : Nat) (f : Ctx → Ctx) : (s.modCtx x f).cxl = s.cxl := rfl
@[simp] theorem State.modCtx_cores (x : Nat) (f : Ctx → Ctx) : (s.modCtx x f).cores = s.cores := rfl
@[simp] theorem State.modCtx_clusters (x : Nat) (f : Ctx → Ctx) : (s.modCtx x f).clusters = s.clusters := rfl
@[simp] theorem State.modCtx_dies (x : Nat) (f : Ctx → Ctx) : (s.modCtx x f).dies = s.dies := rfl
@[simp] theorem State.modCtx_hdies (x : Nat) (f : Ctx → Ctx) : (s.modCtx x f).hdies = s.hdies := rfl
@[simp] theorem State.modCtx_teams (x : Nat) (f : Ctx → Ctx) : (s.modCtx x f).teams = s.teams := rfl
@[simp] theorem State.modCtx_nextTid (x : Nat) (f : Ctx → Ctx) : (s.modCtx x f).nextTid = s.nextTid := rfl
@[simp] theorem State.modCtx_launches (x : Nat) (f : Ctx → Ctx) : (s.modCtx x f).launches = s.launches := rfl
@[simp] theorem State.modCtx_nextLid (x : Nat) (f : Ctx → Ctx) : (s.modCtx x f).nextLid = s.nextLid := rfl
@[simp] theorem State.modCtx_passes (x : Nat) (f : Ctx → Ctx) : (s.modCtx x f).passes = s.passes := rfl
@[simp] theorem State.modCtx_faults (x : Nat) (f : Ctx → Ctx) : (s.modCtx x f).faults = s.faults := rfl
@[simp] theorem State.modCtx_nextTok (x : Nat) (f : Ctx → Ctx) : (s.modCtx x f).nextTok = s.nextTok := rfl
@[simp] theorem State.modCtx_contribs (x : Nat) (f : Ctx → Ctx) : (s.modCtx x f).contribs = s.contribs := rfl
@[simp] theorem State.modCtx_nextCon (x : Nat) (f : Ctx → Ctx) : (s.modCtx x f).nextCon = s.nextCon := rfl
@[simp] theorem State.modCtx_flights (x : Nat) (f : Ctx → Ctx) : (s.modCtx x f).flights = s.flights := rfl
@[simp] theorem State.modCtx_retires (x : Nat) (f : Ctx → Ctx) : (s.modCtx x f).retires = s.retires := rfl
@[simp] theorem State.modCtx_tickets (x : Nat) (f : Ctx → Ctx) : (s.modCtx x f).tickets = s.tickets := rfl
@[simp] theorem State.modCtx_nextOp (x : Nat) (f : Ctx → Ctx) : (s.modCtx x f).nextOp = s.nextOp := rfl
@[simp] theorem State.modCtx_invals (x : Nat) (f : Ctx → Ctx) : (s.modCtx x f).invals = s.invals := rfl
@[simp] theorem State.modCtx_remotes (x : Nat) (f : Ctx → Ctx) : (s.modCtx x f).remotes = s.remotes := rfl
@[simp] theorem State.modCtx_lats (x : Nat) (f : Ctx → Ctx) : (s.modCtx x f).lats = s.lats := rfl
@[simp] theorem State.modCtx_traces (x : Nat) (f : Ctx → Ctx) : (s.modCtx x f).traces = s.traces := rfl
@[simp] theorem State.modCtx_csws (x : Nat) (f : Ctx → Ctx) : (s.modCtx x f).csws = s.csws := rfl
@[simp] theorem State.modCtx_tsWritten (x : Nat) (f : Ctx → Ctx) : (s.modCtx x f).tsWritten = s.tsWritten := rfl
@[simp] theorem State.modCtx_tsForce (x : Nat) (f : Ctx → Ctx) : (s.modCtx x f).tsForce = s.tsForce := rfl
@[simp] theorem State.modCtx_idWritten (x : Nat) (f : Ctx → Ctx) : (s.modCtx x f).idWritten = s.idWritten := rfl
@[simp] theorem State.modCtx_idForce (x : Nat) (f : Ctx → Ctx) : (s.modCtx x f).idForce = s.idForce := rfl
@[simp] theorem State.modCtx_ownerKey (x : Nat) (f : Ctx → Ctx) : (s.modCtx x f).ownerKey = s.ownerKey := rfl
@[simp] theorem State.modCtx_heatDrop (x : Nat) (f : Ctx → Ctx) : (s.modCtx x f).heatDrop = s.heatDrop := rfl
@[simp] theorem State.modCtx_host (x : Nat) (f : Ctx → Ctx) : (s.modCtx x f).host = s.host := rfl
@[simp] theorem State.modCtx_cur (x : Nat) (f : Ctx → Ctx) : (s.modCtx x f).cur = s.cur := rfl
@[simp] theorem State.modCtx_issued (x : Nat) (f : Ctx → Ctx) : (s.modCtx x f).issued = s.issued := rfl
@[simp] theorem State.modCtx_inbox (x : Nat) (f : Ctx → Ctx) : (s.modCtx x f).inbox = s.inbox := rfl
@[simp] theorem State.modCtx_phase (x : Nat) (f : Ctx → Ctx) : (s.modCtx x f).phase = s.phase := rfl
@[simp] theorem State.modCtx_sched (x : Nat) (f : Ctx → Ctx) : (s.modCtx x f).sched = s.sched := rfl
@[simp] theorem State.modCtx_fresh (x : Nat) (f : Ctx → Ctx) : (s.modCtx x f).fresh = s.fresh := rfl
@[simp] theorem State.modCtx_delays (x : Nat) (f : Ctx → Ctx) : (s.modCtx x f).delays = s.delays := rfl
@[simp] theorem State.modCtx_stays (x : Nat) (f : Ctx → Ctx) : (s.modCtx x f).stays = s.stays := rfl
@[simp] theorem State.modCtx_past (x : Nat) (f : Ctx → Ctx) : (s.modCtx x f).past = s.past := rfl
@[simp] theorem State.modCtx_backs (x : Nat) (f : Ctx → Ctx) : (s.modCtx x f).backs = s.backs := rfl

/-! ## `State.modTeam` -/

@[simp] theorem State.modTeam_now (t : Nat) (f : Team → Team) : (s.modTeam t f).now = s.now := rfl
@[simp] theorem State.modTeam_ptpBase (t : Nat) (f : Team → Team) : (s.modTeam t f).ptpBase = s.ptpBase := rfl
@[simp] theorem State.modTeam_ptpCycle (t : Nat) (f : Team → Team) : (s.modTeam t f).ptpCycle = s.ptpCycle := rfl
@[simp] theorem State.modTeam_ptpLocked (t : Nat) (f : Team → Team) : (s.modTeam t f).ptpLocked = s.ptpLocked := rfl
@[simp] theorem State.modTeam_mem (t : Nat) (f : Team → Team) : (s.modTeam t f).mem = s.mem := rfl
@[simp] theorem State.modTeam_poison (t : Nat) (f : Team → Team) : (s.modTeam t f).poison = s.poison := rfl
@[simp] theorem State.modTeam_scrPoison (t : Nat) (f : Team → Team) : (s.modTeam t f).scrPoison = s.scrPoison := rfl
@[simp] theorem State.modTeam_cxl (t : Nat) (f : Team → Team) : (s.modTeam t f).cxl = s.cxl := rfl
@[simp] theorem State.modTeam_cores (t : Nat) (f : Team → Team) : (s.modTeam t f).cores = s.cores := rfl
@[simp] theorem State.modTeam_clusters (t : Nat) (f : Team → Team) : (s.modTeam t f).clusters = s.clusters := rfl
@[simp] theorem State.modTeam_dies (t : Nat) (f : Team → Team) : (s.modTeam t f).dies = s.dies := rfl
@[simp] theorem State.modTeam_hdies (t : Nat) (f : Team → Team) : (s.modTeam t f).hdies = s.hdies := rfl
@[simp] theorem State.modTeam_ctxs (t : Nat) (f : Team → Team) : (s.modTeam t f).ctxs = s.ctxs := rfl
@[simp] theorem State.modTeam_nextTid (t : Nat) (f : Team → Team) : (s.modTeam t f).nextTid = s.nextTid := rfl
@[simp] theorem State.modTeam_launches (t : Nat) (f : Team → Team) : (s.modTeam t f).launches = s.launches := rfl
@[simp] theorem State.modTeam_nextLid (t : Nat) (f : Team → Team) : (s.modTeam t f).nextLid = s.nextLid := rfl
@[simp] theorem State.modTeam_passes (t : Nat) (f : Team → Team) : (s.modTeam t f).passes = s.passes := rfl
@[simp] theorem State.modTeam_faults (t : Nat) (f : Team → Team) : (s.modTeam t f).faults = s.faults := rfl
@[simp] theorem State.modTeam_nextTok (t : Nat) (f : Team → Team) : (s.modTeam t f).nextTok = s.nextTok := rfl
@[simp] theorem State.modTeam_contribs (t : Nat) (f : Team → Team) : (s.modTeam t f).contribs = s.contribs := rfl
@[simp] theorem State.modTeam_nextCon (t : Nat) (f : Team → Team) : (s.modTeam t f).nextCon = s.nextCon := rfl
@[simp] theorem State.modTeam_flights (t : Nat) (f : Team → Team) : (s.modTeam t f).flights = s.flights := rfl
@[simp] theorem State.modTeam_retires (t : Nat) (f : Team → Team) : (s.modTeam t f).retires = s.retires := rfl
@[simp] theorem State.modTeam_tickets (t : Nat) (f : Team → Team) : (s.modTeam t f).tickets = s.tickets := rfl
@[simp] theorem State.modTeam_nextOp (t : Nat) (f : Team → Team) : (s.modTeam t f).nextOp = s.nextOp := rfl
@[simp] theorem State.modTeam_invals (t : Nat) (f : Team → Team) : (s.modTeam t f).invals = s.invals := rfl
@[simp] theorem State.modTeam_remotes (t : Nat) (f : Team → Team) : (s.modTeam t f).remotes = s.remotes := rfl
@[simp] theorem State.modTeam_lats (t : Nat) (f : Team → Team) : (s.modTeam t f).lats = s.lats := rfl
@[simp] theorem State.modTeam_traces (t : Nat) (f : Team → Team) : (s.modTeam t f).traces = s.traces := rfl
@[simp] theorem State.modTeam_csws (t : Nat) (f : Team → Team) : (s.modTeam t f).csws = s.csws := rfl
@[simp] theorem State.modTeam_tsWritten (t : Nat) (f : Team → Team) : (s.modTeam t f).tsWritten = s.tsWritten := rfl
@[simp] theorem State.modTeam_tsForce (t : Nat) (f : Team → Team) : (s.modTeam t f).tsForce = s.tsForce := rfl
@[simp] theorem State.modTeam_idWritten (t : Nat) (f : Team → Team) : (s.modTeam t f).idWritten = s.idWritten := rfl
@[simp] theorem State.modTeam_idForce (t : Nat) (f : Team → Team) : (s.modTeam t f).idForce = s.idForce := rfl
@[simp] theorem State.modTeam_ownerKey (t : Nat) (f : Team → Team) : (s.modTeam t f).ownerKey = s.ownerKey := rfl
@[simp] theorem State.modTeam_heatDrop (t : Nat) (f : Team → Team) : (s.modTeam t f).heatDrop = s.heatDrop := rfl
@[simp] theorem State.modTeam_host (t : Nat) (f : Team → Team) : (s.modTeam t f).host = s.host := rfl
@[simp] theorem State.modTeam_cur (t : Nat) (f : Team → Team) : (s.modTeam t f).cur = s.cur := rfl
@[simp] theorem State.modTeam_issued (t : Nat) (f : Team → Team) : (s.modTeam t f).issued = s.issued := rfl
@[simp] theorem State.modTeam_inbox (t : Nat) (f : Team → Team) : (s.modTeam t f).inbox = s.inbox := rfl
@[simp] theorem State.modTeam_phase (t : Nat) (f : Team → Team) : (s.modTeam t f).phase = s.phase := rfl
@[simp] theorem State.modTeam_sched (t : Nat) (f : Team → Team) : (s.modTeam t f).sched = s.sched := rfl
@[simp] theorem State.modTeam_fresh (t : Nat) (f : Team → Team) : (s.modTeam t f).fresh = s.fresh := rfl
@[simp] theorem State.modTeam_delays (t : Nat) (f : Team → Team) : (s.modTeam t f).delays = s.delays := rfl
@[simp] theorem State.modTeam_stays (t : Nat) (f : Team → Team) : (s.modTeam t f).stays = s.stays := rfl
@[simp] theorem State.modTeam_past (t : Nat) (f : Team → Team) : (s.modTeam t f).past = s.past := rfl
@[simp] theorem State.modTeam_backs (t : Nat) (f : Team → Team) : (s.modTeam t f).backs = s.backs := rfl

/-! ## `State.addContribution` -/

@[simp] theorem State.addContribution_now (n : Contribution) : (s.addContribution n).now = s.now := rfl
@[simp] theorem State.addContribution_ptpBase (n : Contribution) : (s.addContribution n).ptpBase = s.ptpBase := rfl
@[simp] theorem State.addContribution_ptpCycle (n : Contribution) : (s.addContribution n).ptpCycle = s.ptpCycle := rfl
@[simp] theorem State.addContribution_ptpLocked (n : Contribution) : (s.addContribution n).ptpLocked = s.ptpLocked := rfl
@[simp] theorem State.addContribution_mem (n : Contribution) : (s.addContribution n).mem = s.mem := rfl
@[simp] theorem State.addContribution_poison (n : Contribution) : (s.addContribution n).poison = s.poison := rfl
@[simp] theorem State.addContribution_scrPoison (n : Contribution) : (s.addContribution n).scrPoison = s.scrPoison := rfl
@[simp] theorem State.addContribution_cxl (n : Contribution) : (s.addContribution n).cxl = s.cxl := rfl
@[simp] theorem State.addContribution_cores (n : Contribution) : (s.addContribution n).cores = s.cores := rfl
@[simp] theorem State.addContribution_clusters (n : Contribution) : (s.addContribution n).clusters = s.clusters := rfl
@[simp] theorem State.addContribution_dies (n : Contribution) : (s.addContribution n).dies = s.dies := rfl
@[simp] theorem State.addContribution_hdies (n : Contribution) : (s.addContribution n).hdies = s.hdies := rfl
@[simp] theorem State.addContribution_ctxs (n : Contribution) : (s.addContribution n).ctxs = s.ctxs := rfl
@[simp] theorem State.addContribution_teams (n : Contribution) : (s.addContribution n).teams = s.teams := rfl
@[simp] theorem State.addContribution_nextTid (n : Contribution) : (s.addContribution n).nextTid = s.nextTid := rfl
@[simp] theorem State.addContribution_launches (n : Contribution) : (s.addContribution n).launches = s.launches := rfl
@[simp] theorem State.addContribution_nextLid (n : Contribution) : (s.addContribution n).nextLid = s.nextLid := rfl
@[simp] theorem State.addContribution_passes (n : Contribution) : (s.addContribution n).passes = s.passes := rfl
@[simp] theorem State.addContribution_faults (n : Contribution) : (s.addContribution n).faults = s.faults := rfl
@[simp] theorem State.addContribution_nextTok (n : Contribution) : (s.addContribution n).nextTok = s.nextTok := rfl
@[simp] theorem State.addContribution_flights (n : Contribution) : (s.addContribution n).flights = s.flights := rfl
@[simp] theorem State.addContribution_retires (n : Contribution) : (s.addContribution n).retires = s.retires := rfl
@[simp] theorem State.addContribution_tickets (n : Contribution) : (s.addContribution n).tickets = s.tickets := rfl
@[simp] theorem State.addContribution_nextOp (n : Contribution) : (s.addContribution n).nextOp = s.nextOp := rfl
@[simp] theorem State.addContribution_invals (n : Contribution) : (s.addContribution n).invals = s.invals := rfl
@[simp] theorem State.addContribution_remotes (n : Contribution) : (s.addContribution n).remotes = s.remotes := rfl
@[simp] theorem State.addContribution_lats (n : Contribution) : (s.addContribution n).lats = s.lats := rfl
@[simp] theorem State.addContribution_traces (n : Contribution) : (s.addContribution n).traces = s.traces := rfl
@[simp] theorem State.addContribution_csws (n : Contribution) : (s.addContribution n).csws = s.csws := rfl
@[simp] theorem State.addContribution_tsWritten (n : Contribution) : (s.addContribution n).tsWritten = s.tsWritten := rfl
@[simp] theorem State.addContribution_tsForce (n : Contribution) : (s.addContribution n).tsForce = s.tsForce := rfl
@[simp] theorem State.addContribution_idWritten (n : Contribution) : (s.addContribution n).idWritten = s.idWritten := rfl
@[simp] theorem State.addContribution_idForce (n : Contribution) : (s.addContribution n).idForce = s.idForce := rfl
@[simp] theorem State.addContribution_ownerKey (n : Contribution) : (s.addContribution n).ownerKey = s.ownerKey := rfl
@[simp] theorem State.addContribution_heatDrop (n : Contribution) : (s.addContribution n).heatDrop = s.heatDrop := rfl
@[simp] theorem State.addContribution_host (n : Contribution) : (s.addContribution n).host = s.host := rfl
@[simp] theorem State.addContribution_cur (n : Contribution) : (s.addContribution n).cur = s.cur := rfl
@[simp] theorem State.addContribution_issued (n : Contribution) : (s.addContribution n).issued = s.issued := rfl
@[simp] theorem State.addContribution_inbox (n : Contribution) : (s.addContribution n).inbox = s.inbox := rfl
@[simp] theorem State.addContribution_phase (n : Contribution) : (s.addContribution n).phase = s.phase := rfl
@[simp] theorem State.addContribution_sched (n : Contribution) : (s.addContribution n).sched = s.sched := rfl
@[simp] theorem State.addContribution_fresh (n : Contribution) : (s.addContribution n).fresh = s.fresh := rfl
@[simp] theorem State.addContribution_delays (n : Contribution) : (s.addContribution n).delays = s.delays := rfl
@[simp] theorem State.addContribution_stays (n : Contribution) : (s.addContribution n).stays = s.stays := rfl
@[simp] theorem State.addContribution_past (n : Contribution) : (s.addContribution n).past = s.past := rfl
@[simp] theorem State.addContribution_backs (n : Contribution) : (s.addContribution n).backs = s.backs := rfl

/-! ## `State.account` -/

@[simp] theorem State.account_now (c g gap : Nat) (mark : Option Bool) : (s.account c g gap mark).now = s.now := rfl
@[simp] theorem State.account_ptpBase (c g gap : Nat) (mark : Option Bool) : (s.account c g gap mark).ptpBase = s.ptpBase := rfl
@[simp] theorem State.account_ptpCycle (c g gap : Nat) (mark : Option Bool) : (s.account c g gap mark).ptpCycle = s.ptpCycle := rfl
@[simp] theorem State.account_ptpLocked (c g gap : Nat) (mark : Option Bool) : (s.account c g gap mark).ptpLocked = s.ptpLocked := rfl
@[simp] theorem State.account_mem (c g gap : Nat) (mark : Option Bool) : (s.account c g gap mark).mem = s.mem := rfl
@[simp] theorem State.account_poison (c g gap : Nat) (mark : Option Bool) : (s.account c g gap mark).poison = s.poison := rfl
@[simp] theorem State.account_scrPoison (c g gap : Nat) (mark : Option Bool) : (s.account c g gap mark).scrPoison = s.scrPoison := rfl
@[simp] theorem State.account_cxl (c g gap : Nat) (mark : Option Bool) : (s.account c g gap mark).cxl = s.cxl := rfl
@[simp] theorem State.account_clusters (c g gap : Nat) (mark : Option Bool) : (s.account c g gap mark).clusters = s.clusters := rfl
@[simp] theorem State.account_dies (c g gap : Nat) (mark : Option Bool) : (s.account c g gap mark).dies = s.dies := rfl
@[simp] theorem State.account_hdies (c g gap : Nat) (mark : Option Bool) : (s.account c g gap mark).hdies = s.hdies := rfl
@[simp] theorem State.account_ctxs (c g gap : Nat) (mark : Option Bool) : (s.account c g gap mark).ctxs = s.ctxs := rfl
@[simp] theorem State.account_teams (c g gap : Nat) (mark : Option Bool) : (s.account c g gap mark).teams = s.teams := rfl
@[simp] theorem State.account_nextTid (c g gap : Nat) (mark : Option Bool) : (s.account c g gap mark).nextTid = s.nextTid := rfl
@[simp] theorem State.account_launches (c g gap : Nat) (mark : Option Bool) : (s.account c g gap mark).launches = s.launches := rfl
@[simp] theorem State.account_nextLid (c g gap : Nat) (mark : Option Bool) : (s.account c g gap mark).nextLid = s.nextLid := rfl
@[simp] theorem State.account_passes (c g gap : Nat) (mark : Option Bool) : (s.account c g gap mark).passes = s.passes := rfl
@[simp] theorem State.account_faults (c g gap : Nat) (mark : Option Bool) : (s.account c g gap mark).faults = s.faults := rfl
@[simp] theorem State.account_nextTok (c g gap : Nat) (mark : Option Bool) : (s.account c g gap mark).nextTok = s.nextTok := rfl
@[simp] theorem State.account_contribs (c g gap : Nat) (mark : Option Bool) : (s.account c g gap mark).contribs = s.contribs := rfl
@[simp] theorem State.account_nextCon (c g gap : Nat) (mark : Option Bool) : (s.account c g gap mark).nextCon = s.nextCon := rfl
@[simp] theorem State.account_flights (c g gap : Nat) (mark : Option Bool) : (s.account c g gap mark).flights = s.flights := rfl
@[simp] theorem State.account_retires (c g gap : Nat) (mark : Option Bool) : (s.account c g gap mark).retires = s.retires := rfl
@[simp] theorem State.account_tickets (c g gap : Nat) (mark : Option Bool) : (s.account c g gap mark).tickets = s.tickets := rfl
@[simp] theorem State.account_nextOp (c g gap : Nat) (mark : Option Bool) : (s.account c g gap mark).nextOp = s.nextOp := rfl
@[simp] theorem State.account_invals (c g gap : Nat) (mark : Option Bool) : (s.account c g gap mark).invals = s.invals := rfl
@[simp] theorem State.account_remotes (c g gap : Nat) (mark : Option Bool) : (s.account c g gap mark).remotes = s.remotes := rfl
@[simp] theorem State.account_lats (c g gap : Nat) (mark : Option Bool) : (s.account c g gap mark).lats = s.lats := rfl
@[simp] theorem State.account_traces (c g gap : Nat) (mark : Option Bool) : (s.account c g gap mark).traces = s.traces := rfl
@[simp] theorem State.account_csws (c g gap : Nat) (mark : Option Bool) : (s.account c g gap mark).csws = s.csws := rfl
@[simp] theorem State.account_tsWritten (c g gap : Nat) (mark : Option Bool) : (s.account c g gap mark).tsWritten = s.tsWritten := rfl
@[simp] theorem State.account_tsForce (c g gap : Nat) (mark : Option Bool) : (s.account c g gap mark).tsForce = s.tsForce := rfl
@[simp] theorem State.account_idWritten (c g gap : Nat) (mark : Option Bool) : (s.account c g gap mark).idWritten = s.idWritten := rfl
@[simp] theorem State.account_idForce (c g gap : Nat) (mark : Option Bool) : (s.account c g gap mark).idForce = s.idForce := rfl
@[simp] theorem State.account_ownerKey (c g gap : Nat) (mark : Option Bool) : (s.account c g gap mark).ownerKey = s.ownerKey := rfl
@[simp] theorem State.account_heatDrop (c g gap : Nat) (mark : Option Bool) : (s.account c g gap mark).heatDrop = s.heatDrop := rfl
@[simp] theorem State.account_host (c g gap : Nat) (mark : Option Bool) : (s.account c g gap mark).host = s.host := rfl
@[simp] theorem State.account_cur (c g gap : Nat) (mark : Option Bool) : (s.account c g gap mark).cur = s.cur := rfl
@[simp] theorem State.account_inbox (c g gap : Nat) (mark : Option Bool) : (s.account c g gap mark).inbox = s.inbox := rfl
@[simp] theorem State.account_phase (c g gap : Nat) (mark : Option Bool) : (s.account c g gap mark).phase = s.phase := rfl
@[simp] theorem State.account_sched (c g gap : Nat) (mark : Option Bool) : (s.account c g gap mark).sched = s.sched := rfl
@[simp] theorem State.account_fresh (c g gap : Nat) (mark : Option Bool) : (s.account c g gap mark).fresh = s.fresh := rfl
@[simp] theorem State.account_delays (c g gap : Nat) (mark : Option Bool) : (s.account c g gap mark).delays = s.delays := rfl
@[simp] theorem State.account_stays (c g gap : Nat) (mark : Option Bool) : (s.account c g gap mark).stays = s.stays := rfl
@[simp] theorem State.account_past (c g gap : Nat) (mark : Option Bool) : (s.account c g gap mark).past = s.past := rfl
@[simp] theorem State.account_backs (c g gap : Nat) (mark : Option Bool) : (s.account c g gap mark).backs = s.backs := rfl

/-! ## Lookups -/

theorem State.core_setCore (c d : Nat) (C : Core) : (s.setCore c C).core d = if c = d then C else s.core d :=
  tget_tset _ _ _ _ _

theorem State.core_modCore (c d : Nat) (f : Core → Core) :
    (s.modCore c f).core d = if c = d then f (s.core c) else s.core d := tget_tset _ _ _ _ _

theorem State.cluster_modCluster (c d : Nat) (f : Cluster → Cluster) :
    (s.modCluster c f).cluster d = if c = d then f (s.cluster c) else s.cluster d := tget_tset _ _ _ _ _

theorem State.die_modDie (c d : Nat) (f : Die → Die) :
    (s.modDie c f).die d = if c = d then f (s.die c) else s.die d := tget_tset _ _ _ _ _

theorem State.hdie_modHdie (c d : Nat) (f : HDie → HDie) :
    (s.modHdie c f).hdie d = if c = d then f (s.hdie c) else s.hdie d := tget_tset _ _ _ _ _

theorem State.ctx_modCtx (x y : Nat) (f : Ctx → Ctx) :
    (s.modCtx x f).ctx y = if x = y then f (s.ctx x) else s.ctx y := tget_tset _ _ _ _ _

theorem State.teams_modTeam (t u : Nat) (f : Team → Team) :
    tget? (s.modTeam t f).teams u = if t = u then (tget? s.teams u).map f else tget? s.teams u := tget?_tmod _ _ _ _

/-- The group of a group context after one group has changed. -/
theorem State.group?_modGroup (c g d h : Nat) (f : Group → Group) :
    (s.modGroup c g f).group? d h = if c = d ∧ g = h then (s.group? d h).map f else s.group? d h := by
  simp only [State.group?, State.modGroup, State.core_modCore]
  by_cases hc : c = d
  · subst hc
    by_cases hg : g = h
    · subst hg; simp
    · simp [hg, tget?_tmod_of_ne _ f hg]
  · simp [hc]

/-- The group of a group context after one group has been replaced. -/
theorem State.group?_setGroup (c g d h : Nat) (G : Group) :
    (s.setGroup c g G).group? d h = if c = d ∧ g = h then some G else s.group? d h := by
  simp only [State.group?, State.setGroup, State.core_modCore]
  by_cases hc : c = d
  · subst hc
    by_cases hg : g = h
    · subst hg; simp
    · simp [hg, tget?_tset_of_ne _ G hg]
  · simp [hc]

/-- Changing a group leaves the rest of every core. -/
theorem State.core_modGroup_rest (c g d : Nat) (f : Group → Group) :
    { (s.modGroup c g f).core d with groups := (s.core d).groups } = s.core d := by
  simp only [State.modGroup, State.core_modCore]
  split
  · next h => subst h; rfl
  · rfl

end Sys2Proof.Machine
end

