-- ==== Sys2Proof/Laws/Issue.lean ====
section
/-!
SUPPORT. What `issue` answers: when no check refuses the instruction, when one does, and when it is tried again;
what a release and a transfer answer.
-/

namespace Sys2Proof.Machine

/-- What the answer of an effect makes of the state. -/
def Result.out (F : Form) (I : Issue) : Result → Out
  | .go s outs => .next (s.finish I F.lat outs)
  | .wait s w => .next (s.hold I (some F.ins) w [])
  | .waitPart s w outs => .next (s.hold I (some F.ins) w outs)
  | .done s => .next s

theorem act_all (l : List Nat) : (l.filter fun _ => true) = l := by simp

/-- A batch that waits for no far target runs its instruction. -/
theorem remoteRetry_near {I : Issue} (k : Unit → Result) (s : State) (h : ∀ n far, I.B.wait ≠ some (.remote n far)) :
    remoteRetry I s k = k () := by
  unfold remoteRetry
  split
  · next e => exact absurd e (h _ _)
  · rfl

theorem issue_ready {F : Form} {s : State} {I : Issue} (run : Issue → State → Result) (h : Ready F s I) :
    issue F run s = (run I (F.slot s I)).out F I := by
  obtain ⟨hi, hf, ha, hn, hb, hl⟩ := h
  have hp : (I.act.filterMap fun l =>
      (F.checkLane I.hv (s.ctx I.x).scoreboard I.G I.act l).map fun t => ({ lane := l, trap := some t } : LaneOut)) = [] := by
    rw [List.filterMap_eq_nil_iff]
    intro l hm
    simp [hl l hm]
  have he : I.act.isEmpty = false := by simpa using ha
  obtain ⟨core, g, bi, G, R, B, T, tid, x, pc, rpc, hv, lanes, act, first⟩ := I
  simp only at hf hn hb hp he
  subst hf
  simp only [issue, hi, if_true, hn, Bool.and_false, Bool.false_eq_true, if_false, hb, hp, List.any_nil, Bool.not_false, act_all, he, Bool.false_eq_true, if_false,
    List.nil_append, Form.slot]
  split <;> rename_i e <;> rw [e] <;> rfl

theorem issue_again {F : Form} {s : State} {I : Issue} (run : Issue → State → Result) (h : Again s I) :
    issue F run s = (run I s).out F I := by
  obtain ⟨hi, hf, ha, hr⟩ := h
  have he : I.act.isEmpty = false := by simpa using ha
  have hq := remoteRetry_near (fun _ => run I s) s hr
  obtain ⟨core, g, bi, G, R, B, T, tid, x, pc, rpc, hv, lanes, act, first⟩ := I
  simp only at hf he hq
  subst hf
  simp only [issue, hi, Bool.false_and, Bool.false_eq_true, if_false, List.any_nil, Bool.not_false, act_all, he, List.nil_append,
    hq]
  split <;> rename_i e <;> rw [e] <;> rfl

/-- A check of the whole batch refuses the instruction: every fibre traps (R43 steps 1 to 4). -/
theorem issue_refused {F : Form} {s : State} {I : Issue} {t : Trap} (run : Issue → State → Result)
    (h : s.issuer = some I) (hf : I.first = true) (hn : F.blocked I.hv I.G I.lanes I.act = false)
    (hc : F.check I.hv I.G.budget (s.ctx I.x) = some t) :
    issue F run s = .next ((F.slot s I).finish I F.lat (I.act.map fun l => { lane := l, trap := some t })) := by
  simp only [issue, h, hf, hn, Bool.and_false, Bool.false_eq_true, if_false, if_true, hc]
  rfl

/-- An instruction that waits for a pending write does not issue (R20). -/
theorem issue_blocked {F : Form} {s : State} {I : Issue} (run : Issue → State → Result) (h : s.issuer = some I)
    (hf : I.first = true) (hn : F.blocked I.hv I.G I.lanes I.act = true) : issue F run s = .next (s.stall I) := by
  simp only [issue, h, hf, hn, Bool.and_self, if_true]

/-- A release waits for the group's far stores (R314). -/
theorem releasing_far {obj scope : Nat} {I : Issue} {s : State} (k : State → Result) (h : s.farStores I.core I.g = true) :
    releasing obj scope I s k = .wait s (.poll 15) := by
  simp only [releasing, h, if_true]

/-- Without far stores a release goes on behind what it publishes (R309, R314, R318). -/
theorem releasing_near {obj scope : Nat} {I : Issue} {s : State} (k : State → Result) (h : s.farStores I.core I.g = false) :
    releasing obj scope I s k = k (s.release I.core I.g I.x I.T I.tid obj scope) := by
  simp only [releasing, h, Bool.false_eq_true, if_false]

/-- A transfer answers for one fibre in one of two ways: it goes to the target with its writes, or traps with none. -/
theorem goTo_cases (s : State) (I : Issue) (l t : Nat) (ws : List (RegRef × Word)) :
    (s.targetTrap I.core I.x t = none ∧ goTo s I l t ws = { lane := l, writes := ws, next := some t }) ∨
    ∃ tr, s.targetTrap I.core I.x t = some tr ∧ goTo s I l t ws = { lane := l, trap := some tr } := by
  unfold goTo
  split
  · next tr h => exact .inr ⟨tr, h, rfl⟩
  · next h => exact .inl ⟨h, rfl⟩

theorem issue_no_issuer {F : Form} {s : State} (run : Issue → State → Result) (h : s.issuer = none) :
    issue F run s = .fault .noIssuer := by
  simp only [issue, h]

end Sys2Proof.Machine
end

