-- ==== Sys2Proof/Laws/Memory.lean ====
section
/-!
SUPPORT. Byte memories: a write keeps the canonical form, and what a read gives after a write.
-/

namespace Sys2Proof.Machine

/-! ## The canonical form as two plain facts -/

/-- Every address of `m` lies at or above `a`. -/
def Memory.above (a : Nat) (m : List Host.Cell) : Prop := ∀ c ∈ m, a ≤ c.1

theorem Memory.wf_cons (k : Nat) (b : Byte) (m : List Host.Cell) :
    Memory.wf ((k, b) :: m) = true ↔ b ≠ 0 ∧ Memory.above (k + 1) m ∧ Memory.wf m = true := by
  induction m generalizing k b with
  | nil => simp [Memory.wf, Memory.above]
  | cons c m ih =>
    obtain ⟨l, x⟩ := c
    constructor
    · intro h
      simp only [Memory.wf, Bool.and_eq_true, bne_iff_ne, decide_eq_true_eq] at h
      refine ⟨h.1.1, ?_, h.2⟩
      intro d hd
      rcases List.mem_cons.1 hd with rfl | hd
      · exact h.1.2
      · have := ((ih l x).1 h.2).2.1 d hd
        have := h.1.2
        omega
    · rintro ⟨hb, ha, hm⟩
      simp only [Memory.wf, Bool.and_eq_true, bne_iff_ne, decide_eq_true_eq]
      exact ⟨⟨hb, ha (l, x) (by simp)⟩, hm⟩

theorem Memory.wf_append (m n : List Host.Cell) (h : ∀ c ∈ m, ∀ d ∈ n, c.1 < d.1) (hm : Memory.wf m = true)
    (hn : Memory.wf n = true) : Memory.wf (m ++ n) = true := by
  induction m with
  | nil => simpa using hn
  | cons c m ih =>
    obtain ⟨k, b⟩ := c
    obtain ⟨hb, ha, hw⟩ := (Memory.wf_cons k b m).1 hm
    refine (Memory.wf_cons k b (m ++ n)).2 ⟨hb, ?_, ih (fun c hc => h c (by simp [hc])) hw⟩
    intro d hd
    rcases List.mem_append.1 hd with hd | hd
    · exact ha d hd
    · exact h (k, b) (by simp) d hd

theorem Memory.wf_filter (p : Host.Cell → Bool) (m : List Host.Cell) (h : Memory.wf m = true) :
    Memory.wf (m.filter p) = true := by
  induction m with
  | nil => exact h
  | cons c m ih =>
    obtain ⟨k, b⟩ := c
    obtain ⟨hb, ha, hw⟩ := (Memory.wf_cons k b m).1 h
    rw [List.filter_cons]
    split
    · exact (Memory.wf_cons k b _).2 ⟨hb, fun d hd => ha d (List.mem_filter.1 hd).1, ih hw⟩
    · exact ih hw

theorem Memory.cells_range (a : Nat) (bs : List Byte) :
    ∀ c ∈ Memory.cells a bs, a ≤ c.1 ∧ c.1 < a + bs.length := by
  induction bs generalizing a with
  | nil => simp [Memory.cells]
  | cons b bs ih =>
    intro c hc
    have tail : c ∈ Memory.cells (a + 1) bs → a ≤ c.1 ∧ c.1 < a + (b :: bs).length := by
      intro h
      have := ih (a + 1) c h
      simp only [List.length_cons]
      omega
    simp only [Memory.cells] at hc
    split at hc
    · exact tail hc
    · rcases List.mem_cons.1 hc with rfl | hc
      · simp
      · exact tail hc

theorem Memory.wf_cells (a : Nat) (bs : List Byte) : Memory.wf (Memory.cells a bs) = true := by
  induction bs generalizing a with
  | nil => rfl
  | cons b bs ih =>
    simp only [Memory.cells]
    split
    · exact ih (a + 1)
    · next h =>
      exact (Memory.wf_cons a b _).2 ⟨by simpa using h, fun c hc => (Memory.cells_range (a + 1) bs c hc).1, ih (a + 1)⟩

/-- Writing bytes keeps the canonical form. -/
theorem Memory.wf_writeList (m : List Host.Cell) (a : Nat) (bs : List Byte) (h : Memory.wf m = true) :
    Memory.wf (Memory.writeList m a bs) = true := by
  unfold Memory.writeList
  refine Memory.wf_append _ _ ?_ (Memory.wf_append _ _ ?_ (Memory.wf_filter _ m h) (Memory.wf_cells a bs))
    (Memory.wf_filter _ m h)
  · intro c hc d hd
    have hd2 : a + bs.length ≤ d.1 := by simpa using (List.mem_filter.1 hd).2
    rcases List.mem_append.1 hc with hc | hc
    · have : c.1 < a := by simpa using (List.mem_filter.1 hc).2
      omega
    · have := Memory.cells_range a bs c hc
      omega
  · intro c hc d hd
    have h1 : c.1 < a := by simpa using (List.mem_filter.1 hc).2
    have := Memory.cells_range a bs d hd
    omega

/-- Clearing a range keeps the canonical form. -/
theorem Memory.wf_clear (m : List Host.Cell) (a n : Nat) (h : Memory.wf m = true) :
    Memory.wf (Memory.clear m a n) = true := Memory.wf_filter _ m h

/-! ## Reads -/

theorem Memory.read_of_above (m : List Host.Cell) (a : Nat) (h : Memory.above (a + 1) m) : Memory.read m a = 0 := by
  induction m with
  | nil => rfl
  | cons c m ih =>
    obtain ⟨k, b⟩ := c
    have hk : k ≠ a := by have := h (k, b) (by simp); simp only at this; omega
    simp only [Memory.read, beq_iff_eq, hk, if_false]
    exact ih fun d hd => h d (by simp [hd])

theorem Memory.read_append (m n : List Host.Cell) (a : Nat) :
    Memory.read (m ++ n) a = if a ∈ m.map (·.1) then Memory.read m a else Memory.read n a := by
  induction m with
  | nil => simp
  | cons c m ih =>
    obtain ⟨k, b⟩ := c
    by_cases hk : k = a
    · simp [Memory.read, hk]
    · simp [Memory.read, hk, ih, Ne.symm hk]

theorem Memory.read_absent (m : List Host.Cell) (a : Nat) (h : a ∉ m.map (·.1)) : Memory.read m a = 0 := by
  induction m with
  | nil => rfl
  | cons c m ih =>
    obtain ⟨k, b⟩ := c
    simp only [List.map_cons, List.mem_cons, not_or] at h
    simp only [Memory.read, beq_iff_eq, Ne.symm h.1, if_false]
    exact ih h.2

theorem Memory.read_filter (p : Nat → Bool) (m : List Host.Cell) (a : Nat) :
    Memory.read (m.filter fun c => p c.1) a = if p a then Memory.read m a else 0 := by
  induction m with
  | nil => simp [Memory.read]
  | cons c m ih =>
    obtain ⟨k, b⟩ := c
    rw [List.filter_cons]
    by_cases hk : k = a
    · subst hk
      by_cases hp : p k
      · simp [hp, Memory.read]
      · simp [hp, ih]
    · by_cases hp : p k
      · simp [hp, Memory.read, hk, ih]
      · simp [hp, Memory.read, hk, ih]

theorem Memory.read_cells (a : Nat) (bs : List Byte) (x : Nat) :
    Memory.read (Memory.cells a bs) x = if a ≤ x then bs.getD (x - a) 0 else 0 := by
  induction bs generalizing a with
  | nil => simp [Memory.cells, Memory.read]
  | cons b bs ih =>
    simp only [Memory.cells]
    by_cases hx : x = a
    · subst hx
      split
      · next h =>
        have hb : b = 0 := by simpa using h
        rw [ih]
        have : ¬ x + 1 ≤ x := by omega
        simp [this, hb]
      · simp [Memory.read]
    · have e : (if a + 1 ≤ x then bs.getD (x - (a + 1)) 0 else 0) = if a ≤ x then (b :: bs).getD (x - a) 0 else 0 := by
        by_cases h : a ≤ x
        · have h1 : a + 1 ≤ x := by omega
          obtain ⟨n, hn⟩ : ∃ n, x - a = n + 1 := ⟨x - a - 1, by omega⟩
          have hn2 : x - (a + 1) = n := by omega
          simp [h, h1, hn, hn2]
        · have h1 : ¬ a + 1 ≤ x := by omega
          simp [h, h1]
      split
      · rw [ih, e]
      · simp only [Memory.read, beq_iff_eq, Ne.symm hx, if_false]
        rw [ih, e]

/-- What a read gives after a write: the byte written, or the byte that stood there. -/
theorem Memory.read_writeList (m : List Host.Cell) (a : Nat) (bs : List Byte) (x : Nat) :
    Memory.read (Memory.writeList m a bs) x =
      if a ≤ x ∧ x < a + bs.length then bs.getD (x - a) 0 else Memory.read m x := by
  unfold Memory.writeList
  rw [List.append_assoc, Memory.read_append, Memory.read_append]
  have lo := Memory.read_filter (fun k => decide (k < a)) m x
  have hi := Memory.read_filter (fun k => decide (a + bs.length ≤ k)) m x
  have mid := Memory.read_cells a bs x
  have loM : x ∈ (m.filter fun c => decide (c.1 < a)).map (·.1) → x < a := by
    intro h
    obtain ⟨c, hc, rfl⟩ := List.mem_map.1 h
    simpa using (List.mem_filter.1 hc).2
  have hiM : x ∈ (m.filter fun c => decide (a + bs.length ≤ c.1)).map (·.1) → a + bs.length ≤ x := by
    intro h
    obtain ⟨c, hc, rfl⟩ := List.mem_map.1 h
    simpa using (List.mem_filter.1 hc).2
  have midM : x ∈ (Memory.cells a bs).map (·.1) → a ≤ x ∧ x < a + bs.length := by
    intro h
    obtain ⟨c, hc, rfl⟩ := List.mem_map.1 h
    exact Memory.cells_range a bs c hc
  by_cases h : a ≤ x ∧ x < a + bs.length
  · have h1 : x ∉ (m.filter fun c => decide (c.1 < a)).map (·.1) := fun q => by have := loM q; omega
    rw [if_neg h1, if_pos h]
    split
    · rw [mid, if_pos h.1]
    · next h2 =>
      have z := Memory.read_absent _ _ h2
      rw [mid, if_pos h.1] at z
      rw [hi, z]
      have : ¬ a + bs.length ≤ x := by omega
      simp [this]
  · rw [if_neg h]
    have h2 : x ∉ (Memory.cells a bs).map (·.1) := fun q => h (midM q)
    rw [if_neg h2]
    by_cases hx : x < a
    · have hnot : ¬ a + bs.length ≤ x := by omega
      split
      · rw [lo]; simp [hx]
      · next h3 =>
        have z := Memory.read_absent _ _ h3
        rw [lo] at z
        rw [hi]
        simp only [hx, decide_true, if_true] at z
        simp [hnot, z]
    · have h3 : x ∉ (m.filter fun c => decide (c.1 < a)).map (·.1) := fun q => hx (loM q)
      have hge : a + bs.length ≤ x := by omega
      rw [if_neg h3, hi]
      simp [hge]

/-- A byte outside what is written stays. -/
theorem Memory.read_writeList_of_outside (m : List Host.Cell) (a : Nat) (bs : List Byte) (x : Nat)
    (h : x < a ∨ a + bs.length ≤ x) : Memory.read (Memory.writeList m a bs) x = Memory.read m x := by
  rw [Memory.read_writeList, if_neg (by omega)]

/-! ## The machine's memory -/

/-- Every write of the machine keeps the canonical form of its memory. -/
theorem State.wf_wr (s : State) (pa : Nat) (bs : List Byte) (h : Memory.wf s.mem = true) :
    Memory.wf (s.wr pa bs).mem = true := Memory.wf_writeList _ _ _ h

/-- The memory of `State.reset` is canonical. -/
theorem State.wf_reset : Memory.wf State.reset.mem = true := rfl

end Sys2Proof.Machine
end

