-- ==== Sys2Proof/Laws/Past.lean ====
section
/-!
SUPPORT. What the operations on performed stores can do: a read under unseen stores, a publication, an acquire and the end
of a party change `State.past` and `State.backs` and nothing else; a performed store is a write of its storage.
-/

namespace Sys2Proof.Machine

/-! ## Reads -/

/-- A read changes only what its party has seen, and the choices left. -/
theorem State.readSeen_frame (s : State) (p : Party) (vol : Bool) (scr : Option Scr) (a n : Nat) :
    ∃ l ks, (s.readSeen p vol scr a n).1 = { s with past := l, backs := ks } := by
  unfold State.readSeen
  extract_lets
  split
  · exact ⟨_, _, rfl⟩
  · exact ⟨s.past, s.backs, rfl⟩

@[simp] theorem State.readSeen_mem (s : State) (p : Party) (vol : Bool) (scr : Option Scr) (a n : Nat) :
    (s.readSeen p vol scr a n).1.mem = s.mem := by obtain ⟨_, _, e⟩ := s.readSeen_frame p vol scr a n; rw [e]

@[simp] theorem State.readSeen_poison (s : State) (p : Party) (vol : Bool) (scr : Option Scr) (a n : Nat) :
    (s.readSeen p vol scr a n).1.poison = s.poison := by obtain ⟨_, _, e⟩ := s.readSeen_frame p vol scr a n; rw [e]

@[simp] theorem State.readSeen_cores (s : State) (p : Party) (vol : Bool) (scr : Option Scr) (a n : Nat) :
    (s.readSeen p vol scr a n).1.cores = s.cores := by obtain ⟨_, _, e⟩ := s.readSeen_frame p vol scr a n; rw [e]

@[simp] theorem State.readSeen_teams (s : State) (p : Party) (vol : Bool) (scr : Option Scr) (a n : Nat) :
    (s.readSeen p vol scr a n).1.teams = s.teams := by obtain ⟨_, _, e⟩ := s.readSeen_frame p vol scr a n; rw [e]

@[simp] theorem State.readSeen_ctxs (s : State) (p : Party) (vol : Bool) (scr : Option Scr) (a n : Nat) :
    (s.readSeen p vol scr a n).1.ctxs = s.ctxs := by obtain ⟨_, _, e⟩ := s.readSeen_frame p vol scr a n; rw [e]

@[simp] theorem State.readSeen_group? (s : State) (p : Party) (vol : Bool) (scr : Option Scr) (a n c g : Nat) :
    (s.readSeen p vol scr a n).1.group? c g = s.group? c g := by
  obtain ⟨_, _, e⟩ := s.readSeen_frame p vol scr a n; rw [e]; rfl

/-- A party that goes no store back, or has seen every store, finds the newest bytes. -/
theorem lookBack_newest (p : Party) (scr : Option Scr) (a n k : Nat) (es : List Past) (bs : List Byte)
    (h : k = 0 ∨ ∀ e ∈ es, p ∉ e.unseen) : (lookBack p scr a n k es bs).2 = bs := by
  induction es generalizing k bs with
  | nil => rfl
  | cons e es ih =>
    have here : (decide (0 < k) && e.unseen.contains p) = false := by
      rcases h with rfl | h
      · simp
      · simp [h e (List.mem_cons_self ..)]
    rw [lookBack, here]
    split
    · exact ih k bs (h.imp id fun h f hf => h f (List.mem_cons_of_mem _ hf))
    · exact ih 0 bs (.inl rfl)

/-- A volatile read, and a read of a party that has seen every store, give the newest bytes (R121, R312). -/
theorem State.readSeen_newest (s : State) (p : Party) (vol : Bool) (a n : Nat)
    (h : vol = true ∨ ∀ e ∈ s.past, p ∉ e.unseen) : (s.readSeen p vol none a n).2 = s.rd a n := by
  unfold State.readSeen
  extract_lets newest at_ r
  split
  · exact lookBack_newest p none at_ n _ s.past _ (h.imp (fun v => by simp [v]) id)
  · rfl

/-- Reads at the newest values change only what the party has seen. -/
theorem State.seen_frame (s : State) (p : Party) (ps : List (Nat × Nat)) :
    ∃ l ks, s.seen p ps = { s with past := l, backs := ks } := by
  unfold State.seen
  induction ps generalizing s with
  | nil => exact ⟨s.past, s.backs, rfl⟩
  | cons e ps ih =>
    obtain ⟨l, ks, h⟩ := ih (s.readSeen p true none e.1 e.2).1
    obtain ⟨_, _, g⟩ := s.readSeen_frame p true none e.1 e.2
    exact ⟨l, ks, by rw [List.foldl_cons, h, g]⟩

@[simp] theorem State.seen_mem (s : State) (p : Party) (ps : List (Nat × Nat)) : (s.seen p ps).mem = s.mem := by
  obtain ⟨_, _, e⟩ := s.seen_frame p ps; rw [e]

@[simp] theorem State.seen_group? (s : State) (p : Party) (ps : List (Nat × Nat)) (c g : Nat) :
    (s.seen p ps).group? c g = s.group? c g := by obtain ⟨_, _, e⟩ := s.seen_frame p ps; rw [e]; rfl

/-! ## Publications and acquires -/

/-- A publication changes only what is published. -/
theorem State.publish_frame (s : State) (p : Party) (obj : Option Nat) (scope : Nat) (mine : Past → Bool) :
    ∃ l, s.publish p obj scope mine = { s with past := l } := by
  unfold State.publish
  split
  · exact ⟨s.past, rfl⟩
  · exact ⟨_, rfl⟩

/-- An acquire changes only what its party has seen. -/
theorem State.acquire_frame (s : State) (q : Party) (obj : Option Nat) (scope : Nat) :
    ∃ l, s.acquire q obj scope = { s with past := l } := by
  unfold State.acquire
  split
  · exact ⟨s.past, rfl⟩
  · exact ⟨_, rfl⟩

@[simp] theorem State.publish_mem (s : State) (p : Party) (obj : Option Nat) (scope : Nat) (mine : Past → Bool) :
    (s.publish p obj scope mine).mem = s.mem := by obtain ⟨_, e⟩ := s.publish_frame p obj scope mine; rw [e]

@[simp] theorem State.publish_group? (s : State) (p : Party) (obj : Option Nat) (scope : Nat) (mine : Past → Bool) (c g : Nat) :
    (s.publish p obj scope mine).group? c g = s.group? c g := by
  obtain ⟨_, e⟩ := s.publish_frame p obj scope mine; rw [e]; rfl

@[simp] theorem State.acquire_mem (s : State) (q : Party) (obj : Option Nat) (scope : Nat) :
    (s.acquire q obj scope).mem = s.mem := by obtain ⟨_, e⟩ := s.acquire_frame q obj scope; rw [e]

@[simp] theorem State.acquire_group? (s : State) (q : Party) (obj : Option Nat) (scope c g : Nat) :
    (s.acquire q obj scope).group? c g = s.group? c g := by obtain ⟨_, e⟩ := s.acquire_frame q obj scope; rw [e]; rfl

@[simp] theorem State.reveal_mem (s : State) (p : Past → Bool) : (s.reveal p).mem = s.mem := rfl
@[simp] theorem State.reveal_group? (s : State) (p : Past → Bool) (c g : Nat) : (s.reveal p).group? c g = s.group? c g := rfl
@[simp] theorem State.forget_mem (s : State) (p : Party → Bool) : (s.forget p).mem = s.mem := rfl
@[simp] theorem State.forget_group? (s : State) (p : Party → Bool) (c g : Nat) : (s.forget p).group? c g = s.group? c g := rfl

/-! ## Performed stores -/

/-- A store that is performed is a write of its storage; beside that it only enters `State.past`. -/
theorem State.put_frame (s : State) (x : Nat) (p : Party) (h : HeldStore) :
    ∃ l, s.put x p h = { (match h.scr with
      | some d => s.scrWrite d h.pa h.bytes
      | none => s.wr h.pa h.bytes : State) with past := l } := by
  unfold State.put
  extract_lets
  split
  · exact ⟨_, rfl⟩
  · exact ⟨_, rfl⟩

/-- A store to global memory writes its bytes at its address, and every other byte stays. -/
theorem State.put_mem (s : State) (x : Nat) (p : Party) (h : HeldStore) (hg : h.scr = none) :
    (s.put x p h).mem = (s.wr h.pa h.bytes).mem := by
  obtain ⟨_, e⟩ := s.put_frame x p h
  rw [e, hg]

/-- A store to a scratchpad leaves global memory. -/
theorem State.put_mem_scr (s : State) (x : Nat) (p : Party) (h : HeldStore) (d : Scr) (hd : h.scr = some d) :
    (s.put x p h).mem = s.mem := by
  obtain ⟨_, e⟩ := s.put_frame x p h
  rw [e, hd]
  cases d <;> rfl

/-- A performed store keeps the canonical form of memory. -/
theorem State.wf_put (s : State) (x : Nat) (p : Party) (h : HeldStore) (hm : Memory.wf s.mem = true) :
    Memory.wf (s.put x p h).mem = true := by
  cases hs : h.scr with
  | none => rw [s.put_mem x p h hs]; exact s.wf_wr _ _ hm
  | some d => rw [s.put_mem_scr x p h d hs]; exact hm

end Sys2Proof.Machine
end

