-- ==== Sys2Proof/Tests/Slice0.lean ====
section
/-!
SUPPORT. Tests of the model, and for each statement of the certificate a state and operands that meet its hypotheses.

The words of the decode tests are composed from the match bits and the fields of spec/opcode_table.json; the expected
results of the other tests are calculated by hand from the rules they name.
-/

namespace Sys2Proof.Tests

set_option Elab.async false

open Sys2Proof Sys2Proof.Machine

/-! ## Fields that make an instruction ill formed (R43 step 2) -/

theorem test_ill_formed_1 : ([
    .mfs 0x40 0 0 0, .mfs 0 0x11 0 0, .mfs 0 0 1 0, .mfsV 0 0x11 0 0, .mfsV 0 0 1 0, .mfsB 0x40 0 0,
    .mts 0x40 0xA 0 0, .mts 0 0x10 0 0, .mts 0 9 0 0, .mts 0 0xA 1 0, .mtsV 0 0x10 0 0, .mtsV 0 9 0 0,
    .mtsV 0 0xA 1 0, .mtsB 0x40 0 0, .feat 0x40 0 0 0, .clk 0x40 0, .fence 6 0, .fenceAx 6 0, .sleep 0x40 0,
    .sleepLv 0x40 0, .mark 0x40 0 0, .csw 0x40 0 0, .csw 0 0x40 0, .fork 0 0x40 0] : List Instr).all (fun i => !i.wellFormed) = true := by
  decide +kernel

theorem test_ill_formed_2 : ([
    .spawn 0 0x40 0, .spawnT 0 0 0x40 0, .bar 0 0x40 0 0, .barv 0 0x40 0 0, .vcmp 2 2 0 0 0 0, .fcmp 2 0 0 0 0 0,
    .dcmp 2 0 0 0 0 0, .cvtf 0 0 0 0 6 0, .cvtf 0 0 1 0 0 0, .cvti 0 0 0 6 0 0, .cvti 0 0 1 0 0 0, .cvtn 0 0 0 6 1 0,
    .cvtn 0 0 0 0 6 0, .cvtn 0 0 0 0 0 0, .cvtn 0 0 1 0 3 0, .qnt 0 0 0x1C 0, .qnt 0 0 0x17 0, .dqnt 0 0 0x1C 0,
    .dqnt 0 0 0x17 0, .pack2 0 0 0 0, .pack2 0 0 3 0, .unpk 0 0 0 0, .unpk 0 0 3 0, .ldg 0 0 0 3 0 0] : List Instr).all (fun i => !i.wellFormed) = true := by
  decide +kernel

theorem test_ill_formed_3 : ([
    .ldg 0 0 0 0 3 0, .stg 0 0 0 3 0 0, .stg 0 0 0 0 3 0, .tch 0 0 3 0 0, .atg 0 0 0 0xC 0, .atgc 0 0 0 3 0,
    .mcs 0 0 0 3 0, .rds 0 0 0 3 0, .rdsF 0 0 0 3 0, .ldx 0 0 3 0 0 0 0, .stx 0 0 3 0 0 0 0, .atx 0 0 3 0 0 0 0,
    .atx 0 0 0 3 0 0 0, .tmov 0x40 0 0, .tmov 0 0x40 0, .tmovW 0x40 0 0, .tmovW 0 0x40 0, .acq 6 0 0, .acq 0 0x40 0,
    .rel 6 0 0, .rel 0 0x40 0, .arv 6 0 0 0, .arv 0 0x40 0 0, .arv 0 0 0x40 0] : List Instr).all (fun i => !i.wellFormed) = true := by
  decide +kernel

theorem test_ill_formed_4 : ([
    .arvX 6 0 0 0, .arvX 0 0x40 0 0, .arvX 0 0 0x40 0, .waitp 6 0 0 0, .waitp 0 0x40 0 0, .waitp 0 0 0x40 0,
    .waitpNf 6 0 0 0, .waitpNf 0 0x40 0 0, .waitpNf 0 0 0x40 0, .soflg 4 0 0 0, .soflg 0 0x40 0 0, .soflg 0 0 0x40 0,
    .soflgFlagC 0x40 0 0, .soflgFlagC 0 0x40 0, .rget 6 0 0 0, .rget 0 0x40 0 0, .rget 0 0 0x40 0, .rgetT 6 0 0 0,
    .rgetT 0 0x40 0 0, .rgetT 0 0 0x40 0, .rput 6 0 0 0, .rput 0 0x40 0 0, .rput 0 0 0x40 0, .rclm 6 0 0 0] : List Instr).all (fun i => !i.wellFormed) = true := by
  decide +kernel

theorem test_ill_formed_5 : ([
    .rclm 0 0x40 0 0, .rclm 0 0 0x40 0, .rclmT 6 0 0 0, .rclmT 0 0x40 0 0, .rclmT 0 0 0x40 0, .rpub 6 0 0 0,
    .rpub 0 0x40 0 0, .rpub 0 0 0x40 0, .cpy 3 0 0 0, .cpy 0 0 0x40 0, .cpyb 6 0 0 0, .cpyb 0 0x40 0 0,
    .cpyb 0 0 0x40 0, .cpyd 6 0 0 0, .cpyd 0 0x40 0 0, .cpyd 0 0 0x40 0, .ctab 0x40 0, .intr 1 0 0 0, .intr 5 0 0 0,
    .intr 2 0x40 0 0, .intr 2 0 0x40 0, .annc 1 0 0 0, .annc 5 0 0 0, .annc 2 0x40 0 0] : List Instr).all (fun i => !i.wellFormed) = true := by
  decide +kernel

theorem test_ill_formed_6 : ([
    .annc 2 0 0x40 0, .nret 1 0 0, .nret 5 0 0, .nret 2 0x40 0, .nprb 1 0 0 0, .nprb 5 0 0 0, .nprb 2 0x40 0 0,
    .nprb 2 0 0x40 0, .greq 0x40 0 0, .greq 0 0x40 0, .gfail 0x40 0, .mbld 6 0 0 0, .mbld 0 0x40 0 0,
    .mbld 0 0 0x40 0, .mbldW 6 0 0, .mbldW 0 0x40 0, .mmul 6 0 0 0, .mmul 0 0x40 0 0, .mmul 0 0 0x40 0, .mmulW 6 0 0,
    .mmulW 0 0x40 0, .mhad 6 0 0 0, .mhad 0 0x40 0 0, .mhad 0 0 0x40 0] : List Instr).all (fun i => !i.wellFormed) = true := by
  decide +kernel

theorem test_ill_formed_7 : ([
    .mhadW 6 0 0, .mhadW 0 0x40 0, .msca 6 0 0 0, .msca 0 0x40 0 0, .msca 0 0 0x40 0, .mscaW 6 0 0, .mscaW 0 0x40 0,
    .mqnt 6 0 0 0, .mqnt 0 0x40 0 0, .mqnt 0 0 0x40 0, .mqntW 6 0 0, .mqntW 0 0x40 0, .mout 0x40 0 0, .mout 0 0x40 0,
    .prim 0x40 0, .tret 0x40 0] : List Instr).all (fun i => !i.wellFormed) = true := by
  decide +kernel

/-! ## Words of the opcode table -/

theorem test_decode_major_00 : ([
    (0x000A5CD7, .ill 0xA5CD7), (0x00200002, .nop 2), (0x00419456, .trap 0x1945 6), (0x00600001, .eret 1),
    (0x008056AB, .mfs 0xA 0x6A 1 3), (0x00865889, .mfsV 0x4B 8 1 1), (0x00886074, .mfsB 0xC 7 4),
    (0x00A049FD, .mts 9 0x1F 1 5), (0x00A5B88A, .mtsV 0x37 8 1 2), (0x00AA88B5, .mtsB 0x51 0xB 5),
    (0x00C3D089, .feat 0x7A 8 1 1), (0x00E3E802, .clk 0x7D 2), (0x01040005, .fence 1 5), (0x011C0802, .fenceAx 7 2),
    (0x01213004, .sleep 0x26 4), (0x01249805, .sleepLv 0x13 5), (0x014078A5, .bkpt 0x78A 5),
    (0x01614487, .mark 0x28 0x48 7), (0x018AE982, .rege 0xAE98 2), (0x01A00001, .regl 1),
    (0x01C25CA6, .csw 0x4B 0x4A 6)] : List (Nat × Instr)).all (fun e => decodeWord e.1 == .instr e.2) = true := by
  decide +kernel

theorem test_decode_major_01_to_04 : ([
    (0x0400603B, .bra 0xC07 3), (0x0449187E, .brp 4 0x230F 6), (0x048720F9, .brn 3 0x241F 1),
    (0x04E8697C, .brpAny 0x14 0xD2F 4), (0x052D1044, .brpAll 0x16 0x2208 4), (0x0832A0DC, .call 0x19 0x141B 4),
    (0x0867E004, .calli 0x13 0x1E 4), (0x08980003, .ret 0xC 3), (0x08C08007, .jmpi 8 7),
    (0x090062D7, .brx 0x18 0x5A 7), (0x0C0100B5, .fork 0x20 0xB 5), (0x0C200003, .fend 3), (0x0C400005, .rcv 5),
    (0x0C620713, .spawn 0x40 0x71 3), (0x0C79D25D, .spawnT 6 0x3A 0x25 5), (0x0C800001, .yield 1),
    (0x102109B2, .shfl 0x10 0x42 0x36 2), (0x11320003, .elect 0x19 3), (0x120A7804, .voteAny 5 0x1E 4),
    (0x121C080E, .voteAll 0xE 2 6), (0x12146415, .voteBallot 0xA 0x19 5), (0x139598EF, .shflX 0x4A 0x66 0x1D 7)] : List (Nat × Instr)).all (fun e => decodeWord e.1 == .instr e.2) = true := by
  decide +kernel

theorem test_decode_major_05_to_08 : ([
    (0x140D62D3, .qpop 3 0x2C 0x2D 3), (0x1416026F, .qpopT 5 0x40 0x26 7), (0x1421D857, .qpush 0x3B 5 7),
    (0x144033D3, .qstatDepth 6 0x3D 3), (0x1444FAD6, .qstatFree 0x1F 0x2D 6), (0x14482846, .qstatFlags 5 4 6),
    (0x1819400B, .bar 6 0x28 1 3), (0x18399009, .barv 6 0x32 1 1), (0x1850000A, .barw 4 1 2),
    (0x1C28C13F, .pand 0x14 1 0x10 1 7 7), (0x1D14E16C, .por 0xA 1 0x18 1 0xD 4),
    (0x1E3C8D7C, .pxor 0x1E 1 3 1 0xF 4), (0x1F24F402, .pnot 0x12 1 0x1D 2), (0x1F36E00F, .pset 0x1B 0x38 7),
    (0x204895C4, .sadd 0x24 0x12 0x2E 4), (0x20AF6724, .ssub 0x17 0x2C 0x39 4), (0x217C7941, .smul 0x3E 0xF 0xA 1),
    (0x219851E9, .smulh 0xC 0xA 0xF 1 1), (0x2241B4C2, .sand 0x20 0x36 0x26 2), (0x22A29822, .sor 0x11 0x13 1 2),
    (0x23371B05, .sxor 0x1B 0x23 0x18 5), (0x23CAAFA2, .sshl 0x25 0x15 0x3D 2)] : List (Nat × Instr)).all (fun e => decodeWord e.1 == .instr e.2) = true := by
  decide +kernel

theorem test_decode_major_09_to_0E : ([
    (0x245BBC25, .sshr 0x2D 0x37 0x21 5), (0x24D56601, .ssra 0x2A 0x2C 0x30 1),
    (0x253DD70C, .smin 0x1E 0x3A 0x38 1 4), (0x25B4D0EE, .smax 0x1A 0x1A 7 1 6), (0x263421AA, .scmp 0x1A 4 0xD 1 2),
    (0x26BA5903, .ssel 0x1D 0xB 8 3), (0x274E2001, .smov 0x27 4 1), (0x27832959, .slea 1 0x25 0xA 3 1),
    (0x33D62749, .saddi 0x3D 0x18 0x4E9 1), (0x345E0D55, .sxori 5 0x38 0x1AA 5),
    (0x38625293, .vadd 0x31 0x14 0x52 3), (0x39F6B673, .vsub 0x7B 0x2D 0x4E 3), (0x3A7A407F, .vmul 0x3D 0x10 0xF 7),
    (0x3B7FF9E4, .vmad 0x3F 0x7E 0x3C 4)] : List (Nat × Instr)).all (fun e => decodeWord e.1 == .instr e.2) = true := by
  decide +kernel

theorem test_decode_major_0F_to_12 : ([
    (0x3C7CA05A, .vmulhS 0x3E 0x28 0xB 2), (0x3D1D8166, .vmulhU 0xE 0x60 0x2C 6),
    (0x3E44FB5E, .vaddc 0x22 0x3E 0x6B 6), (0x3F2B0C01, .vabs 0x15 0x43 1), (0x3F37E80D, .vclz 0x1B 0x7A 5),
    (0x3F5E4C16, .vpopc 0x2F 0x13 6), (0x3F8DD819, .vbrev 0x46 0x76 1), (0x3FC51023, .vmov 0x62 0x44 3),
    (0x3FFCA82F, .vmovs 0x7E 0x2A 7), (0x40196B6B, .vand 0xC 0x5A 0x6D 3), (0x4186BFAA, .vor 0x43 0x2F 0x75 2),
    (0x425D8CED, .vxor 0x2E 0x63 0x1D 5), (0x438D920B, .vbfe 0x46 0x64 0x41 3), (0x44A4767F, .vshl 0x52 0x1D 0x4F 7),
    (0x45CBFF17, .vshr 0x65 0x7F 0x62 7), (0x4633A0FF, .vsra 0x19 0x68 0x1F 7), (0x47697F3A, .vbfi 0x34 0x5F 0x67 2),
    (0x48350E03, .vminS 0x1A 0x43 0x40 3), (0x49BC13F9, .vminU 0x5E 4 0x7F 1), (0x4ACC91EB, .vmaxS 0x66 0x24 0x3D 3),
    (0x4B336673, .vmaxU 0x19 0x59 0x4E 3)] : List (Nat × Instr)).all (fun e => decodeWord e.1 == .instr e.2) = true := by
  decide +kernel

theorem test_decode_major_13_to_1A : ([
    (0x4C75A3C6, .vdivS 0x3A 0x68 0x78 6), (0x4DFEB7DB, .vdivU 0x7F 0x2D 0x7B 3),
    (0x4E167472, .vremS 0xB 0x1D 0xE 2), (0x4F7A6962, .vremU 0x3D 0x1A 0x2C 2),
    (0x52FB3F61, .vcmp 2 3 0x1D 0x4F 0x6C 1), (0x547DD6A3, .vsel 0x3E 0x75 0x54 3),
    (0x5B3D3167, .vaddi 0x67 0x53 0x2C 7), (0x5EA900F4, .vshli 0x55 0x10 0x1E 4),
    (0x5F2DC4CA, .vshri 0x65 0x5C 0x19 2), (0x5DF72834, .vsrai 0x3E 0x72 6 4), (0x60CD4959, .fadd 0x66 0x52 0x2B 1),
    (0x61CFEBEE, .fsub 0x67 0x7A 0x7D 6), (0x6266F1A6, .fmul 0x33 0x3C 0x34 6), (0x63F42EEA, .ffma 0x7A 0xB 0x5D 2),
    (0x642C4422, .ffms 0x16 0x11 4 2), (0x6599D1E7, .fmin 0x4C 0x74 0x3C 7), (0x66A84E7F, .fmax 0x54 0x13 0x4F 7),
    (0x679BF9EE, .fldexp 0x4D 0x7E 0x3D 6), (0x68F0B40D, .frnd 0x78 0x2D 1 5), (0x698E4401, .ffrac 0x47 0x11 1),
    (0x6A059C06, .fclass 2 0x67 6), (0x6BA83805, .fexpo 0x54 0xE 5)] : List (Nat × Instr)).all (fun e => decodeWord e.1 == .instr e.2) = true := by
  decide +kernel

theorem test_decode_major_1B_to_22 : ([
    (0x6CC1E094, .hadd2 0x60 0x78 0x12 4), (0x6DFFC0CF, .hmul2 0x7F 0x70 0x19 7), (0x6EE07023, .hfma2 0x70 0x1C 4 3),
    (0x6F389A0A, .bfma2 0x1C 0x26 0x41 2), (0x739319B7, .fcmp 3 2 9 0x46 0x36 7), (0x802223AE, .dadd 0x11 8 0x75 6),
    (0x815DCDDE, .dmul 0x2E 0x73 0x3B 6), (0x8297A7A5, .dfma 0x4B 0x69 0x74 5),
    (0x86CB14A5, .dcmp 2 3 5 0x45 0x14 5), (0x88840F84, .fdiv 0x42 3 0x70 4), (0x89C86005, .frcp 0x64 0x18 5),
    (0x8903900F, .frsq 1 0x64 7), (0x89285C12, .fsqrt 0x14 0x17 2), (0x897B401E, .fexp2 0x3D 0x50 6),
    (0x89212021, .flog2 0x10 0x48 1), (0x8955602D, .fsin 0x2A 0x58 5), (0x89892034, .fcos 0x44 0x48 4)] : List (Nat × Instr)).all (fun e => decodeWord e.1 == .instr e.2) = true := by
  decide +kernel

theorem test_decode_major_23_to_2D : ([
    (0x8CCB934A, .cvtf 0x65 0x64 1 5 1 2), (0x8D3293CD, .cvti 0x19 0x24 1 7 1 5),
    (0x8E7523CC, .cvtn 0x3A 0x48 1 7 1 4), (0x8F553C8D, .qnt 0x2A 0x4F 0x11 5), (0x8F8469BB, .dqnt 0x42 0x1A 0x17 3),
    (0x8F750A2F, .pack2 0x3A 0x42 5 7), (0x8F7D0716, .unpk 0x3E 0x41 2 6), (0x921F1FAA, .ldg 0x43 0x71 0xF 2 5 2),
    (0x9763A38C, .stg 0x6C 0x3A 3 2 1 4), (0x9803964C, .tch 0x39 6 1 1 4), (0x9C51CB57, .atg 0xA 0x1C 0xB 0xA 7),
    (0xA0873D16, .atgc 0x10 0x73 0xD 2 6), (0xA29D5653, .mcs 0x53 0x55 6 2 3), (0xA3912896, .rds 0x72 0x12 8 2 6),
    (0xA3D0D7E2, .rdsF 0x7A 0xD 7 4 2), (0xA7FD6575, .ldx 0x7F 0x56 1 2 3 2 5),
    (0xA9A2C951, .stx 0x34 0x2C 2 2 2 2 1), (0xAEEAF5B6, .atx 0x5D 0x2F 1 3 1 2 6), (0xB01B205D, .ldl 3 0x32 2 3 5),
    (0xB134242F, .stl 0x26 0x42 1 1 7), (0xB400F7D1, .tmov 0x1E 0x7D 1), (0xB4005A2B, .tmovW 0xB 0x22 3)] : List (Nat × Instr)).all (fun e => decodeWord e.1 == .instr e.2) = true := by
  decide +kernel

theorem test_decode_major_2E_to_32 : ([
    (0xB8040747, .acq 1 0x74 7), (0xB8280237, .rel 2 0x23 7), (0xB84B4B77, .arv 2 0x69 0x37 7),
    (0xB85B4FAB, .arvX 6 0x69 0x7A 3), (0xB870A455, .waitp 4 0x14 0x45 5), (0xB87605AB, .waitpNf 5 0x40 0x5A 3),
    (0xB8852087, .soflg 1 0x24 8 7), (0xB882C98C, .soflgFlagC 0x59 0x18 4), (0xBC051F91, .rget 1 0x23 0x79 1),
    (0xBC18667B, .rgetT 6 0xC 0x67 3), (0xBC2676E2, .rput 1 0x4E 0x6E 2), (0xBC4516F1, .rclm 1 0x22 0x6F 1),
    (0xBC5012CD, .rclmT 4 2 0x2C 5), (0xBC73BF63, .rpub 4 0x77 0x76 3), (0xC00C8865, .cpy 3 0x11 6 5),
    (0xC038FF91, .cpyb 6 0x1F 0x79 1), (0xC4091072, .cpyd 2 0x22 7 2), (0xC420D003, .ctab 0x1A 3),
    (0xC8194447, .intr 6 0x28 0x44 7), (0xC82933A5, .annc 2 0x26 0x3A 5), (0xC858B803, .nret 6 0x17 3),
    (0xC86F3833, .nprb 3 0x67 3 3)] : List (Nat × Instr)).all (fun e => decodeWord e.1 == .instr e.2) = true := by
  decide +kernel

theorem test_decode_major_33_to_37 : ([
    (0xCC002821, .greq 5 2 1), (0xCC200006, .gdone 6), (0xCC420805, .gfail 0x41 5),
    (0xD00A13D2, .mbld 2 0x42 0x3D 2), (0xD010700E, .mbldW 4 0xE 6), (0xD03EA386, .mmul 7 0x54 0x38 6),
    (0xD032300F, .mmulW 4 0x46 7), (0xD413EC13, .mhad 4 0x7D 0x41 3), (0xD418E00A, .mhadW 6 0x1C 2),
    (0xD42CD6B6, .msca 3 0x1A 0x6B 6), (0xD43A900A, .mscaW 6 0x52 2), (0xD453FAD1, .mqnt 4 0x7F 0x2D 1),
    (0xD45C8809, .mqntW 7 0x11 1), (0xD8005516, .mout 0xA 0x51 6), (0xD8238803, .prim 0x71 3),
    (0xDC10A881, .tld 4 0x15 8 1), (0xDC3B6317, .tst 6 0x6C 0x31 7), (0xDC56B7D3, .blnd 5 0x56 0x7D 3),
    (0xDC750593, .dpth 5 0x20 0x59 3), (0xDC65D98A, .dpthT 1 0x3B 0x18 2), (0xDC800003, .disc 3),
    (0xDCA1D001, .tret 0x3A 1)] : List (Nat × Instr)).all (fun e => decodeWord e.1 == .instr e.2) = true := by
  decide +kernel

theorem test_decode_major_38_to_3F : ([
    (0xE00D7FCD, .ipol 3 0x2F 0x7C 1 5), (0xE02D0053, .smpl 3 0x20 5 3), (0xE0297189, .smplG 2 0x2E 0x18 1),
    (0xE04D88B4, .smpg 3 0x31 0xB 4), (0xE04E0D4A, .smpgG 3 0x41 0x54 2), (0xE40A0E41, .rayq 2 0x41 0x64 1),
    (0xE4051699, .rayqO 1 0x22 0x69 1), (0xE4209804, .rayc 0x13 4), (0xE4426001, .raya 0x4C 1),
    (0xFC326DE5, .hntImm 0x326DE5), (0xFC800006, .hntGap 6), (0xFD00002A, .hntPred 1 0xA), (0xFD800003, .hntRnd 3),
    (0xFE000002, .hntScope 2), (0xFE80000B, .hntMod 0xB), (0xFF000000, .hntRelax)] : List (Nat × Instr)).all (fun e => decodeWord e.1 == .instr e.2) = true := by
  decide +kernel

/-! ## Small states -/

/-- One group of one fibre in lane 0 of core 0, at address 0x1000, with every feature; every register is 0. -/
def base : State := State.reset.withFetchWord 32 0

theorem base_issues : base.issuer.isSome = true := by decide +kernel

/-- The batch that issues in a state. -/
def iss (s : State) : Issue := s.issuer.getD (base.issuer.get base_issues)

/-- The form of an instruction. -/
def frm (i : Instr) (s : State) : Form := (formOf i s).getD { ins := i, c := 0 }

/-- The instruction issues unhindered in the state. -/
def ready (s : State) (i : Instr) : Bool :=
  match s.issuer, formOf i s with
  | some I, some F => I.first && !I.act.isEmpty && !F.blocked I.hv I.G I.lanes I.act &&
      (F.check I.hv I.G.budget (s.ctx I.x)).isNone &&
      I.act.all fun l => (F.checkLane I.hv (s.ctx I.x).scoreboard I.G I.act l).isNone
  | _, _ => false

/-- The instruction has its form in the state, and is ready to issue there. -/
def Meets (i : Instr) (s : State) : Prop := formOf i s = some (frm i s) ∧ Ready (frm i s) s (iss s)

theorem ready_meets {s : State} {i : Instr} (h : ready s i = true) : Meets i s := by
  unfold Meets
  unfold ready at h
  split at h
  · next I F hI hF =>
    simp only [Bool.and_eq_true, Bool.not_eq_true', List.all_eq_true, Option.isNone_iff_eq_none] at h
    obtain ⟨⟨⟨⟨h1, h2⟩, h3⟩, h4⟩, h5⟩ := h
    have e1 : frm i s = F := by simp [frm, hF]
    have e2 : iss s = I := by simp [iss, hI]
    rw [e1, e2]
    exact ⟨hF, hI, h1, by simpa using h2, h3, h4, h5⟩
  · cases h

/-- The state with the group, its team and its context changed. -/
def put (g : Group → Group) (t : Team → Team) (c : Ctx → Ctx) : State := ((base.modGroup 0 0 g).modTeam 1 t).modCtx 0 c

/-- The state with values in scalar registers. -/
def withS (ws : Tbl Word) : State := put (fun G => { G with sregs := ws }) id id

/-- The group after an instruction. -/
def after (i : Instr) (s : State) : Option Group :=
  match exec i s with
  | .next t => t.group? 0 0
  | _ => none

/-- The group when the writes of an instruction issued in cycle 0 have landed that show in cycle `n`. -/
def shown (n : Nat) (i : Instr) (s : State) : Option Group := (after i s).map (·.settle n)

/-! ## What instructions do -/

/-- R17, R82: a sum wraps, shows in cycle 4 and not in cycle 3. -/
theorem test_sadd_wraps :
    (shown 4 (.sadd 3 1 2 0) (withS [(1, 0xFFFFFFFF), (2, 2)])).map (·.s 3) = some 1 ∧
    (shown 3 (.sadd 3 1 2 0) (withS [(1, 0xFFFFFFFF), (2, 2)])).map (·.s 3) = some 0 := by decide +kernel

/-- R25: a write to s63 is discarded. -/
theorem test_s63_discards : (shown 4 (.sadd 63 1 2 0) (withS [(1, 5), (2, 2)])).map (·.s 63) = some 0 := by
  decide +kernel

/-- R83: shifts by 32 and by the sign. -/
theorem test_shifts :
    (shown 4 (.sshl 3 1 2 0) (withS [(1, 0x80000001), (2, 32)])).map (·.s 3) = some 0 ∧
    (shown 4 (.ssra 3 1 2 0) (withS [(1, 0x80000001), (2, 32)])).map (·.s 3) = some 0xFFFFFFFF := by decide +kernel

/-- R84: the immediate is sign-extended: -1024. -/
theorem test_saddi_negative : (shown 4 (.saddi 3 1 0x400 0) (withS [(1, 1024)])).map (·.s 3) = some 0 := by
  decide +kernel

/-- R85: VADDC adds p30 and writes the carry to p30. -/
theorem test_vaddc_carry :
    let s := put (fun G => (G.write1 (.v 0 1, 0xFFFFFFFF)).write1 (.p 0 30, 1)) id id
    (shown 4 (.vaddc 3 1 2 0) s).map (fun G => (G.v 0 3, G.p 0 30)) = some (0, true) := by decide +kernel

/-- R91: 1.0 + 2.0 = 3.0. -/
theorem test_fadd :
    let s := put (fun G => (G.write1 (.v 0 1, 0x3F800000)).write1 (.v 0 2, 0x40000000)) id id
    (shown 4 (.fadd 3 1 2 0) s).map (·.v 0 3) = some 0x40400000 := by decide +kernel

/-- R57, and the example after R59: the displacement of 0x3FEF is -17 words from the next instruction. -/
theorem test_brp_back :
    decodeWord 0b00000100010010111111111101111000 = .instr (.brp 5 0x3FEF 0) ∧
    (after (.brp 5 0x3FEF 0) (put (·.write1 (.p 0 5, 1)) id id)).map (fun G => (G.lane 0).pc) = some (0x1004 - 68) ∧
    (after (.brp 5 0x3FEF 0) base).map (fun G => (G.lane 0).pc) = some 0x1004 := by decide +kernel

/-- R57: a call writes the address of the next instruction to the pair of its operand. -/
theorem test_call : (after (.call 4 1 0) base).map (fun G => ((G.lane 0).pc, G.v 0 8, G.v 0 9)) = some (0x1008, 0x1004, 0) := by
  decide +kernel

/-! ## States and operands that meet the hypotheses of the statements

`witness_<Name>` is for the statement `Obligations.<Name>`; where a clause of it needs a state of its own, the name goes on
with the clause. -/

/-- Control words of context 0. -/
def ctl (ws : List (Nat × Nat)) (s : State) : State := s.modCtx 0 fun c => ws.foldl (fun c w => c.setWord w.1 w.2) c

/-- Words in the mapped page, from virtual address 0x1000 + `off`. -/
def words (off : Nat) (ws : List Nat) (s : State) : State := s.wr (layBase + 32768 + off) (ws.flatMap (leBytes 4))

/-- Scalar registers of the group. -/
def sregs (ws : Tbl Word) (s : State) : State := s.modGroup 0 0 fun G => { G with sregs := ws }

/-- A register or predicate of the group. -/
def reg (r : RegRef) (v : Word) (s : State) : State := s.modGroup 0 0 (·.write1 (r, v))

/-- The fibre in lane 0, the batch and the group changed. -/
def lane0 (f : Lane → Lane) (s : State) : State := s.modGroup 0 0 (·.modLane 0 f)
def batch0 (f : Batch → Batch) (s : State) : State := s.modGroup 0 0 fun G => { G with batches := G.batches.modify 0 f }
def waiting (w : Wait) (s : State) : State := batch0 (fun B => { B with wait := some w }) s

/-- A buffer record of the team: base, extent, stride 4, readable and writable, with a size of atomics. -/
def recd (slot base extent elem : Nat) (s : State) : State := s.modTeam 1 fun T =>
  { T with recs := (tset T.recs slot
      (BitVec.ofNat 256 (base + extent * 2 ^ 64 + 4 * 2 ^ 128 + elem * 2 ^ 192 + 3 * 2 ^ 196))) }

/-- The batch of the state goes on waiting. -/
def again (s : State) : Bool := match s.issuer with
  | some I => !I.first && !I.act.isEmpty && (match I.B.wait with
    | some (.remote _ _) => false
    | _ => true)
  | none => false

theorem again_meets {s : State} (h : again s = true) : Again s (iss s) := by
  unfold again at h
  split at h
  · next I hI =>
    simp only [Bool.and_eq_true, Bool.not_eq_true'] at h
    have e : iss s = I := by simp [iss, hI]
    rw [e]
    exact ⟨hI, h.1.1, by simpa using h.1.2, fun n far hw => by simp [hw] at h⟩
  · cases h

/-- Every fibre of the batch lives. -/
def lives (s : State) : Bool := (iss s).lanes.all fun l => ((iss s).G.lane l).live

theorem lives_meets {s : State} (h : lives s = true) : (iss s).Lives := by
  simpa [lives, Issue.Lives, List.all_eq_true] using h

/-- An operation that succeeds, with a result of a kind. -/
def okd {α β ε : Type} (r : β × Except ε α) (p : β → α → Bool) : Bool := match r with
  | (t, .ok a) => p t a
  | _ => false

theorem okd_meets {α β ε : Type} {r : β × Except ε α} {p : β → α → Bool} (h : okd r p = true) :
    ∃ t a, r = (t, .ok a) ∧ p t a = true := by
  unfold okd at h
  split at h
  · exact ⟨_, _, rfl, h⟩
  · cases h

def somed {α β : Type} (r : β × Option α) (p : β → α → Bool) : Bool := match r with
  | (t, some a) => p t a
  | _ => false

theorem somed_meets {α β : Type} {r : β × Option α} {p : β → α → Bool} (h : somed r p = true) :
    ∃ t a, r = (t, some a) ∧ p t a = true := by
  unfold somed at h
  split at h
  · exact ⟨_, _, rfl, h⟩
  · cases h

theorem any_meets {α : Type} {o : Option α} {p : α → Bool} (h : o.any p = true) : ∃ a, o = some a ∧ p a = true := by
  cases o <;> simp_all

theorem witness_DecodeOfEncode : (Instr.vadd 10 10 2 3).encode = some 0x38142813 := by decide +kernel

theorem witness_EncodeOfDecode : 0x38142813 < 2 ^ 32 ∧ decodeWord 0x38142813 = .instr (.vadd 10 10 2 3) := by decide +kernel

theorem witness_DecodeWords : 0xF8FFFFFF / 2 ^ 26 % 64 ∈ [10, 11, 29, 30, 31, 58, 59, 60, 61, 62] ∧
    0xFFFFFFFF / 2 ^ 26 % 64 = 63 ∧ 0xFFFFFFFF / 2 ^ 23 % 8 = 7 ∧
    0x00200008 / 2 ^ 26 % 64 = 0 ∧ 0x00200008 / 2 ^ 21 % 32 = 1 ∧ 0x00200008 / 8 % 2 ^ 18 ≠ 0 := by decide

/-- A register past the vector budget. -/
theorem witness_RefusedInstructionTraps : ∃ F I t, formOf (.vmov 127 1 0) (put (fun G => { G with budget := 8 }) id id) = some F ∧
    (put (fun G => { G with budget := 8 }) id id).issuer = some I ∧ I.first = true ∧
    F.check I.hv I.G.budget ((put (fun G => { G with budget := 8 }) id id).ctx I.x) = some t :=
  ⟨_, _, _, rfl, rfl, by decide +kernel, rfl⟩

theorem witness_RefusedInstructionTraps_privilege : ∃ F I, formOf (.eret 0) base = some F ∧ F.priv = true ∧
    base.issuer = some I ∧ I.first = true ∧ F.check I.hv I.G.budget (base.ctx I.x) = none ∧
    ∀ l ∈ I.act, (I.G.lane l).handler = false :=
  ⟨_, _, rfl, rfl, rfl, by decide +kernel, by decide +kernel, by decide +kernel⟩

theorem witness_RefusedInstructionTraps_hazard :
    let s := put (fun G => { G with inflight := [{ due := 4, ref := .s 1, val := 5 }] }) id (·.setWord 0x018 64)
    ∃ F I, formOf (.smov 2 1 0) s = some F ∧ s.issuer = some I ∧ I.first = true ∧
      F.check I.hv I.G.budget (s.ctx I.x) = none ∧ (s.ctx I.x).scoreboard = true ∧
      (∀ f ∈ I.G.inflight, f.ref ≠ .s 2) ∧ ∃ f ∈ I.G.inflight, f.ref = .s 1 :=
  ⟨_, _, rfl, rfl, by decide +kernel, by decide +kernel, by decide +kernel, by decide +kernel, by decide +kernel⟩

/-- A load into v3 is pending. -/
theorem witness_RefusedInstructionTraps_pending :
    let s := put (fun G => { G with pending := [{ due := 9, ref := .v 0 3, val := 5 }] }) id id
    formOf (.vadd 4 3 2 0) s = some (frm (.vadd 4 3 2 0) s) ∧ s.issuer.isSome = true ∧ (iss s).first = true ∧
    (frm (.vadd 4 3 2 0) s).blocked (iss s).hv (iss s).G (iss s).lanes (iss s).act = true :=
  ⟨rfl, by decide +kernel, by decide +kernel, by decide +kernel⟩

theorem witness_HintsJoinTheRun : ∃ I, base.issuer = some I := ⟨_, rfl⟩

/-- A program that starts with NOP. -/
def nopProgram : State := State.reset.withFetchWord 32 0x00200000

theorem witness_StepRunsDecoded : nopProgram.phase = .body ∧ nopProgram.prompts = [] ∧
    (nopProgram.heldNext nopProgram.servesNow).isNone = true ∧ (nopProgram.inboxTake nopProgram.takesNow).isNone = true ∧
    nopProgram.candidates[nopProgram.sched.headD 0 % nopProgram.candidates.length]? = some (.issue 0 0) ∧
    ∃ t, ({ nopProgram with sched := nopProgram.sched.drop 1 } : State).choose 0 0 = some t ∧
      (match ({ t with issued := (0 * 4 + 0) :: t.issued } : State).fetchCur with
       | some (x, pc, u, .word w) => (u.ctx x).onyxAt pc == none && decodeWord w == .instr (.nop 0)
       | _ => false) = true :=
  ⟨by decide +kernel, by decide +kernel, by decide +kernel, by decide +kernel, by decide +kernel, any_meets (by decide +kernel)⟩

theorem witness_FetchReadsMemory : ∃ t l, base.leafCore 0 0 0x1000 = (t, some l) ∧
    (!l.flags.testBit 5 && (match t.leafResult 0 l 0x1000 .fetch with
      | .ok pa _ => base.reach pa == .ok && !base.bad pa 4
      | _ => false)) = true :=
  somed_meets (by decide +kernel)

/-- The line of the word is in the instruction cache. -/
theorem witness_FetchReadsMemory_cached :
    let s := base.modCore 0 fun C => { C with icache := [{ ctx := 0, va := 0x1000, pa := layBase + 32768, bytes := List.replicate 128 0 }] }
    ∃ t l, s.leafCore 0 0 0x1000 = (t, some l) ∧
      (match t.leafResult 0 l 0x1000 .fetch with
       | .ok pa _ => pa % 4 == 0 && pa % 128 == 0 && ((t.core 0).codeLine 0 0x1000 pa).isSome
       | _ => false) = true :=
  somed_meets (by decide +kernel)

/-! ### Results on registers -/

/-- One instruction of each of the rows of `scalarResult`. -/
def scalarSamples : List Instr :=
  [
    .sadd 3 1 2 0, .ssub 3 1 2 0, .smul 3 1 2 0, .smulh 3 1 2 0 0, .sand 3 1 2 0, .sor 3 1 2 0, .sxor 3 1 2 0,
    .sshl 3 1 2 0, .sshr 3 1 2 0, .ssra 3 1 2 0, .smin 3 1 2 0 0, .smax 3 1 2 0 0, .scmp 3 1 2 0 0, .ssel 3 1 2 0,
    .smov 3 1 0, .slea 3 1 2 0 0, .saddi 3 1 0 0, .sxori 3 1 0 0]

/-- `ScalarResults`: each issues unhindered in `base`, and has a result. -/
theorem witness_ScalarResults : scalarSamples.all (fun i => ready base i && (scalarResult i (iss base)).isSome) = true := by
  decide +kernel

/-- One instruction of each of the rows of `vectorResult`. -/
def vectorSamples : List Instr :=
  [
    .vadd 3 1 2 0, .vsub 3 1 2 0, .vmul 3 1 2 0, .vmad 3 1 2 0, .vmulhS 3 1 2 0, .vmulhU 3 1 2 0, .vaddc 3 1 2 0,
    .vabs 3 1 0, .vclz 3 1 0, .vpopc 3 1 0, .vbrev 3 1 0, .vmov 3 1 0, .vmovs 3 1 0, .vand 3 1 2 0, .vor 3 1 2 0,
    .vxor 3 1 2 0, .vbfe 3 1 2 0, .vshl 3 1 2 0, .vshr 3 1 2 0, .vsra 3 1 2 0, .vbfi 3 1 2 0, .vminS 3 1 2 0,
    .vminU 3 1 2 0, .vmaxS 3 1 2 0, .vmaxU 3 1 2 0, .vdivS 3 1 2 0, .vdivU 3 1 2 0, .vremS 3 1 2 0, .vremU 3 1 2 0,
    .vcmp 2 0 1 1 2 0, .vsel 3 1 2 0, .vaddi 3 1 0 0, .vshli 3 1 2 0, .vshri 3 1 2 0, .vsrai 3 1 2 0]

/-- `VectorResults`: each issues unhindered in `base`, and has its result in every fibre. -/
theorem witness_VectorResults : vectorSamples.all (ready base) = true ∧
    ∀ i ∈ vectorSamples, ∃ f : Nat → LaneOut, ∀ l, vectorResult i (iss base) l = some (f l) := by
  refine ⟨by decide +kernel, ?_⟩
  repeat refine List.forall_mem_cons.2 ⟨⟨_, fun _ => rfl⟩, ?_⟩
  exact List.forall_mem_nil _

/-- One instruction of each of the rows of `predicateResult`. -/
def predicateSamples : List Instr :=
  [
    .pand 1 0 0 2 2 0, .por 1 0 0 2 2 0, .pxor 1 0 0 2 2 0, .pnot 1 0 0 0, .pset 1 1 0, .shfl 3 1 2 0,
    .shflX 3 1 0 0, .elect 1 0, .voteAny 1 2 0, .voteAll 1 2 0, .voteBallot 3 2 0]

/-- `PredicateAndTransferResults`: each issues unhindered in `base`, and has its result in every fibre. -/
theorem witness_PredicateAndTransferResults_predicate : predicateSamples.all (ready base) = true ∧
    ∀ i ∈ predicateSamples, ∃ f : Nat → LaneOut, ∀ l, predicateResult i (iss base) l = some (f l) := by
  refine ⟨by decide +kernel, ?_⟩
  repeat refine List.forall_mem_cons.2 ⟨⟨_, fun _ => rfl⟩, ?_⟩
  exact List.forall_mem_nil _

/-- One instruction of each of the rows of `transferResult`. -/
def transferSamples : List Instr :=
  [
    .bra 0 0, .brp 0 0 0, .brn 0 0 0, .brpAny 0 0 0, .brpAll 0 0 0, .call 4 1 0, .calli 4 2 0, .ret 0 0, .jmpi 0 0,
    .brx 0 2 0]

/-- `PredicateAndTransferResults`: each issues unhindered in `base`, and has its result in every fibre. -/
theorem witness_PredicateAndTransferResults_transfer : transferSamples.all (ready base) = true ∧
    ∀ i ∈ transferSamples, ∃ f : Nat → LaneOut, ∀ l, transferResult (base.barred 0 0) i (iss base) l = some (f l) := by
  refine ⟨by decide +kernel, ?_⟩
  repeat refine List.forall_mem_cons.2 ⟨⟨_, fun _ => rfl⟩, ?_⟩
  exact List.forall_mem_nil _

/-- One instruction of each of the rows of `floatResult`. -/
def floatSamples : List Instr :=
  [
    .fadd 3 1 2 0, .fsub 3 1 2 0, .fmul 3 1 2 0, .ffma 3 1 2 0, .ffms 3 1 2 0, .fmin 3 1 2 0, .fmax 3 1 2 0,
    .fldexp 3 1 2 0, .frnd 3 1 0 0, .ffrac 3 1 0, .fclass 3 1 0, .fexpo 3 1 0, .hadd2 3 1 2 0, .hmul2 3 1 2 0,
    .hfma2 3 1 2 0, .bfma2 3 1 2 0, .fcmp 1 0 1 1 2 0, .dadd 4 2 6 0, .dmul 4 2 6 0, .dfma 4 2 6 0,
    .dcmp 1 0 1 2 4 0, .fdiv 3 1 2 0, .frcp 3 1 0, .frsq 3 1 0, .fsqrt 3 1 0, .fexp2 3 1 0, .flog2 3 1 0,
    .fsin 3 1 0, .fcos 3 1 0]

/-- `FloatResults`: each issues unhindered in `base`, and has its result in every fibre. -/
theorem witness_FloatResults : floatSamples.all (ready base) = true ∧
    ∀ i ∈ floatSamples, ∃ f : Nat → LaneOut, ∀ l, floatResult i (iss base) l = some (f l) := by
  refine ⟨by decide +kernel, ?_⟩
  repeat refine List.forall_mem_cons.2 ⟨⟨_, fun _ => rfl⟩, ?_⟩
  exact List.forall_mem_nil _

/-- One instruction of each of the rows of `convertResult`. -/
def convertSamples : List Instr :=
  [
    .cvtf 3 1 0 0 0 0, .cvti 3 1 0 0 0 0, .cvtn 3 1 0 0 1 0, .pack2 3 2 1 0, .unpk 4 1 1 0, .dqnt 4 2 0 0]

/-- `ConvertResults`: each issues unhindered in `base`, and has its result in every fibre. -/
theorem witness_ConvertResults : convertSamples.all (ready base) = true ∧
    ∀ i ∈ convertSamples, ∃ f : Nat → LaneOut, ∀ l, convertResult i (iss base) l = some (f l) := by
  refine ⟨by decide +kernel, ?_⟩
  repeat refine List.forall_mem_cons.2 ⟨⟨_, fun _ => rfl⟩, ?_⟩
  exact List.forall_mem_nil _

/-! ### System instructions, fibres and groups -/

theorem witness_ConvertResults_quantize : Meets (.qnt 4 2 0 0) base ∧ Meets (.qnt 4 2 6 0) base :=
  ⟨ready_meets (by decide +kernel), ready_meets (by decide +kernel)⟩

theorem witness_TrapInstructions : Meets (.ill 0) base ∧ Meets (.trap 7 0) base ∧ Meets (.bkpt 7 0) base ∧
    (∃ I, base.issuer = some I) ∧ (0xE8000000 : BitVec 32).extractLsb' 26 6 ≠ 63 ∧
    (0xFF800000 : BitVec 32).extractLsb' 26 6 = 63 :=
  ⟨ready_meets (by decide +kernel), ready_meets (by decide +kernel), ready_meets (by decide +kernel), ⟨_, rfl⟩, by decide,
    by decide⟩

/-- The fibre is in handler mode, and came there from 0x1004. -/
def handling : State := lane0 (fun L => { L with handler := true, trappc := 0x1004 }) base

theorem witness_EretReturns : Meets (.eret 0) handling := ready_meets (by decide +kernel)

theorem witness_SpecialRegisterMoves :
    ([.mfs 2 3 0 0, .mfs 2 9 1 0, .mfsV 2 0 0 0, .mfsB 8 15 0, .feat 2 1 0 0, .clk 2 0, .mts 2 0x0A 0 0,
      .mts 2 0x0B 0 0, .mtsV 2 0x0A 0 0, .mtsV 2 0x0B 0 0, .mtsB 8 15 0] : List Instr).all (ready base) = true ∧
    ([.mfs 2 16 0 0, .mfsV 2 14 1 0, .mts 2 0x0C 0 0, .mts 2 0x0D 0 0, .mts 2 0x0E 1 0, .mts 2 0x0F 1 0, .mts 2 0x0E 0 0,
      .mts 2 0x0F 0 0, .mtsV 2 0x0C 0 0, .mtsV 2 0x0D 0 0, .mtsV 2 0x0E 1 0, .mtsV 2 0x0F 1 0, .mtsV 2 0x0E 0 0,
      .mtsV 2 0x0F 0 0] : List Instr).all (ready handling) = true := by
  decide +kernel

/-- Marker records are written, and the stack holds a region. -/
def traced : State := put (fun G => { G with regions := [5] }) id (·.setWord 0x088 32)

theorem witness_PauseAndTrace :
    ([.nop 0, .fence 2 0, .fenceAx 2 0, .sleep 1 0, .sleepLv 1 0, .mark 1 2 0, .rege 5 0, .regl 0] : List Instr).all
      (ready base) = true ∧
    (((frm (.fence 2 0) base).slot base (iss base)).drainWc 0 0).farStores 0 0 = false ∧
    (((frm (.fenceAx 2 0) base).slot base (iss base)).drainWc 0 0).farStores 0 0 = false ∧
    ((base.ctx 0).word 0x088).testBit 5 = false ∧ (base.ctx 0).stopsAt true 5 = false ∧ (iss base).G.regions = [] ∧
    ready traced (.mark 1 2 0) = true ∧ ((traced.ctx 0).word 0x088).testBit 5 = true ∧
    ready traced (.regl 0) = true ∧ (iss traced).G.regions = [5] ∧ (traced.ctx 0).stopsAt false 5 = false := by
  decide +kernel

/-- A request for the default image of the sequencer of kind 2. -/
def cswAsked : State := { base with csws := [{ core := 0, g := 0, ctx := 0, kind := 2, dflt := true, va := 0, len := 0, dst := 5, lanes := 1 }] }

theorem witness_ControlStoreWrite : Meets (.csw 4 5 0) handling ∧
    ((iss handling).R.s 4).extractLsb' 4 28 = 0 ∧ (((iss handling).R.s 4).extractLsb' 0 3).toNat < 5 ∧
    ∃ q, cswAsked.csws.find? (fun r => r.core == 0 && r.g == 0) = some q ∧ q.dflt = true :=
  ⟨ready_meets (by decide +kernel), by decide +kernel, by decide +kernel, any_meets (by decide +kernel)⟩

/-- Lane 0 forks to 0x1010; lane 1 lives, and waits in a batch of its own. -/
def twoFibres : State := put (fun G =>
  { (G.modLane 1 fun _ => Lane.start 0x1010) with batches := G.batches ++ [Batch.fresh 2], sregs := [(4, 0x1010)] }) id id

theorem witness_FibresForkAndEnd : Meets (.fork 5 4 0) twoFibres ∧ (iss twoFibres).Lives ∧
    (iss twoFibres).R.spair 4 % 4 = 0 ∧ (iss twoFibres).R.spair 4 < 2 ^ 52 ∧
    Meets (.fend 0) twoFibres ∧ (∃ l, ((iss twoFibres).G.lane l).live = true ∧ l ∉ (iss twoFibres).act) :=
  ⟨ready_meets (by decide +kernel), lives_meets (by decide +kernel), by decide +kernel, by decide +kernel,
    ready_meets (by decide +kernel), 1, by decide +kernel, by decide +kernel⟩

theorem witness_FibresForkAndEnd_last : Meets (.fend 0) base ∧ (iss base).Lives ∧
    (∀ l, ((iss base).G.lane l).live = true → l ∈ (iss base).act) ∧
    base.fragRole (iss base).tid ≠ some (iss base).G.role := by
  refine ⟨ready_meets (by decide +kernel), lives_meets (by decide +kernel), ?_, by decide +kernel⟩
  rintro (_ | l) h
  · decide +kernel
  · cases h

/-- The one batch waits at RCV. -/
def reconverging : State := waiting (.rcv 0x1000 false) base

theorem witness_ReconvergenceMerges : Meets (.rcv 0) base ∧ Meets (.yield 0) base ∧ Again reconverging (iss reconverging) ∧
    (∀ e ∈ (iss reconverging).G.lanes, e.2.live = true → e.2.parked = none) ∧
    ∀ B ∈ (iss reconverging).G.batches, ∃ y, B.wait = some (.rcv (iss reconverging).pc y) :=
  ⟨ready_meets (by decide +kernel), ready_meets (by decide +kernel), again_meets (by decide +kernel), by decide +kernel,
    fun B h => ⟨false, by revert B; decide +kernel⟩⟩

/-- Two batches wait at RCV, the first at the lower address; one of them is tried again. -/
def apart (b : Nat) : State :=
  { twoFibres.modGroup 0 0 fun G =>
      { G with batches := G.batches.mapIdx fun i B => { B with wait := some (.rcv (0x1000 + 16 * i) false) } } with
    cur := { core := 0, g := 0, b := b } }

theorem witness_ReconvergenceMerges_apart : Again (apart 0) (iss (apart 0)) ∧ Again (apart 1) (iss (apart 1)) ∧
    ([0, 1] : List Nat).all (fun b => (iss (apart b)).G.lanes.all fun e => !e.2.live || e.2.parked.isNone) = true ∧
    (iss (apart 0)).B.rcvAt = some (iss (apart 0)).pc ∧ (iss (apart 1)).B.rcvAt = some (iss (apart 1)).pc ∧
    (iss (apart 0)).G.batches.map (·.wait) = [some (.rcv (iss (apart 0)).pc false), some (.rcv ((iss (apart 0)).pc + 16) false)] ∧
    (iss (apart 1)).G.batches.map (·.wait) = [some (.rcv ((iss (apart 1)).pc - 16) false), some (.rcv (iss (apart 1)).pc false)] ∧
    16 ≤ (iss (apart 1)).pc :=
  ⟨again_meets (by decide +kernel), again_meets (by decide +kernel), by decide +kernel, by decide +kernel, by decide +kernel,
    by decide +kernel, by decide +kernel, by decide +kernel⟩

/-- The team has 32 groups on the core. -/
def crowded : State :=
  (List.range 31).foldl (fun s g => s.setGroup 0 (g + 1) (Group.start 1 0 0 128 [(0, Lane.start 0x1000)])) base

theorem witness_SpawnCreatesGroups : Meets (.spawn 8 4 0) base ∧ Meets (.spawnT 1 8 4 0) base ∧
    (iss base).R.spair 4 % 4 = 0 ∧ (iss base).R.spair 4 < 2 ^ 52 ∧
    (∃ u, ((frm (.spawn 8 4 0) base).slot base (iss base)).trySpawn (iss base) 8 4 = some u) ∧
    (∃ u, ((frm (.spawnT 1 8 4 0) base).slot base (iss base)).trySpawn (iss base) 8 4 = some u) :=
  ⟨ready_meets (by decide +kernel), ready_meets (by decide +kernel), by decide +kernel, by decide +kernel,
    Option.isSome_iff_exists.1 (by decide +kernel), Option.isSome_iff_exists.1 (by decide +kernel)⟩

theorem witness_SpawnCreatesGroups_full : Meets (.spawn 8 4 0) crowded ∧ Meets (.spawnT 1 8 4 0) crowded ∧
    (iss crowded).R.spair 4 % 4 = 0 ∧ (iss crowded).R.spair 4 < 2 ^ 52 ∧
    ((frm (.spawn 8 4 0) crowded).slot crowded (iss crowded)).trySpawn (iss crowded) 8 4 = none ∧
    ((frm (.spawnT 1 8 4 0) crowded).slot crowded (iss crowded)).trySpawn (iss crowded) 8 4 = none :=
  ⟨ready_meets (by decide +kernel), ready_meets (by decide +kernel), by decide +kernel, by decide +kernel,
    Option.isNone_iff_eq_none.1 (by decide +kernel), Option.isNone_iff_eq_none.1 (by decide +kernel)⟩

/-! ### Queues and barriers -/

/-- Queue 1 of two: four entries of room at 0x1800, watermark 3, `n` entries; its descriptor at 0x1440. -/
def queued (n : Nat) : State :=
  sregs [(1, 1)] (words 0x440 [0x1800, 0, 4, 3, 1, 1, 0, n] (ctl [(0x180, 0x1400), (0x188, 2)] base))

theorem witness_QueuesMoveEntries_pop : Meets (.qpop 1 8 1 0) (queued 1) ∧ Meets (.qpopT 1 8 1 0) (queued 1) ∧
    ∃ t Q, ((frm (.qpop 1 8 1 0) (queued 1)).slot (queued 1) (iss (queued 1))).queueDesc (iss (queued 1)) .atomic
        ((iss (queued 1)).R.s 1).toNat = (t, .ok Q) ∧
      (Q.depth == 1 && !t.drainSeen 0 1 &&
        okd (t.coreReads (iss (queued 1)) .read 32 ((List.range 1).map fun j => Q.base + 32 * ((Q.head + j) % 2 ^ 32 % Q.cap)))
          fun _ es => es.length == 1) = true :=
  ⟨ready_meets (by decide +kernel), ready_meets (by decide +kernel), okd_meets (by decide +kernel)⟩

/-- The queue is empty, with and without the above-high state; and a pre-emption is asked for. -/
theorem witness_QueuesMoveEntries_empty :
    let above : State := words 0x454 [1 + 2 ^ 23] (queued 0)
    let drained : State := (queued 2).modCtx 0 fun c => { c with st := .draining }
    let desc (i : Instr) (s : State) := ((frm i s).slot s (iss s)).queueDesc (iss s) .atomic ((iss s).R.s 1).toNat
    ([queued 0, above, drained] : List State).all (fun s => ready s (.qpop 1 8 1 0) && ready s (.qpopT 1 8 1 0)) = true ∧
    okd (desc (.qpop 1 8 1 0) (queued 0)) (fun t Q => Q.depth == 0 && !Q.overs && !t.drainSeen 0 1) = true ∧
    okd (desc (.qpop 1 8 1 0) above) (fun t Q => Q.depth == 0 && Q.overs && !t.drainSeen 0 1) = true ∧
    okd (desc (.qpopT 1 8 1 0) above) (fun t Q => Q.depth == 0 && Q.overs && okd (t.coreReads (iss above) .read 32 []) fun _ es => es.isEmpty) = true ∧
    okd (desc (.qpop 1 8 1 0) drained) (fun t Q => Q.depth == 2 && t.drainSeen 0 1 &&
      okd (t.coreReads (iss drained) .read 32 []) fun _ es => es.isEmpty) = true := by
  decide +kernel

/-- A push that returns, to a queue with one place and to a full one; and a push behind a far store. -/
theorem witness_QueuesMoveEntries_retested :
    let back (n : Nat) : State := lane0 (fun L => { L with retested := some 0x1000 }) (queued n)
    let far : State := { queued 1 with remotes := [(0, {
      ctx := 0, lines := [2 ^ 46], due := 180000000, core := 0, g := 0, tid := 1, store := true, who := none, ended := false })] }
    let desc (s : State) := ((frm (.qpush 8 1 0) s).slot s (iss s)).queueDesc (iss s) .atomic ((iss s).R.s 1).toNat
    ([back 3, back 4, far] : List State).all (fun s => ready s (.qpush 8 1 0)) = true ∧
    (iss (back 3)).retested = true ∧ (iss (back 4)).retested = true ∧
    okd (desc (back 4)) (fun _ Q => Nat.blt (Q.cap - Q.depth) 1) = true ∧
    okd (desc (back 3)) (fun t Q => Nat.ble 1 (Q.cap - Q.depth) &&
      (let p := t.corePlaces (iss (back 3)) [Q.base + 32 * (Q.tail % 2 ^ 32 % Q.cap)]
       p.2.isNone && !p.1.farStores 0 0)) = true ∧
    okd (desc far) (fun t Q => Nat.ble (Q.depth + 1) Q.high &&
      (let p := t.corePlaces (iss far) [Q.base + 32 * (Q.tail % 2 ^ 32 % Q.cap)]
       p.2.isNone && p.1.farStores 0 0)) = true := by
  decide +kernel

theorem witness_QueuesMoveEntries_push : Meets (.qpush 8 1 0) (queued 1) ∧ (iss (queued 1)).retested = false ∧
    (∃ t Q, ((frm (.qpush 8 1 0) (queued 1)).slot (queued 1) (iss (queued 1))).queueDesc (iss (queued 1)) .atomic
        ((iss (queued 1)).R.s 1).toNat = (t, .ok Q) ∧
      (decide (Q.depth + (iss (queued 1)).act.length ≤ Q.high) &&
        (let p := t.corePlaces (iss (queued 1)) [Q.base + 32 * (Q.tail % 2 ^ 32 % Q.cap)]
         p.2.isNone && !p.1.farStores 0 0)) = true) ∧
    Meets (.qpush 8 1 0) (queued 3) ∧ (iss (queued 3)).retested = false ∧
    ∃ t Q, ((frm (.qpush 8 1 0) (queued 3)).slot (queued 3) (iss (queued 3))).queueDesc (iss (queued 3)) .atomic
        ((iss (queued 3)).R.s 1).toNat = (t, .ok Q) ∧ decide (Q.high < Q.depth + (iss (queued 3)).act.length) = true :=
  ⟨ready_meets (by decide +kernel), by decide +kernel, okd_meets (by decide +kernel), ready_meets (by decide +kernel),
    by decide +kernel, okd_meets (by decide +kernel)⟩

theorem witness_QueuesMoveEntries_stat : Meets (.qstatDepth 2 1 0) (queued 1) ∧ Meets (.qstatFree 2 1 0) (queued 1) ∧
    Meets (.qstatFlags 2 1 0) (queued 1) ∧
    ∃ t Q, ((frm (.qstatDepth 2 1 0) (queued 1)).slot (queued 1) (iss (queued 1))).queueDesc (iss (queued 1)) .read
      ((iss (queued 1)).R.s 1).toNat = (t, .ok Q) ∧ (Q.depth == 1) = true :=
  ⟨ready_meets (by decide +kernel), ready_meets (by decide +kernel), ready_meets (by decide +kernel),
    okd_meets (by decide +kernel)⟩

/-- The first index past the table: the table of `base` is empty. -/
theorem witness_QueuesMoveEntries_index :
    ([.qpop 1 8 1 0, .qpopT 1 8 1 0, .qpush 8 1 0, .qstatDepth 2 1 0, .qstatFree 2 1 0, .qstatFlags 2 1 0] : List Instr).all
      (ready base) = true ∧ (base.ctx 0).word 0x188 ≤ ((iss base).R.s 1).toNat := by decide +kernel

/-- Counts 32 and 33, and a fibre that is elsewhere. -/
theorem witness_BarriersArrive :
    let missing (s : State) : Bool := maskOf (iss s).G.live &&& ~~~((iss s).G.gathered (iss s).bi 0 (iss s).pc) != 0
    ready (sregs [(1, 32)] base) (.bar 0 1 0 0) = true ∧ ready (sregs [(1, 32)] base) (.barv 0 1 0 0) = true ∧
    ((iss (sregs [(1, 32)] base)).R.s 1).toNat ≤ 32 ∧ missing (sregs [(1, 32)] base) = false ∧
    ready twoFibres (.bar 0 1 0 0) = true ∧ ready twoFibres (.barv 0 1 0 0) = true ∧ missing twoFibres = true ∧
    ready (sregs [(1, 33)] base) (.bar 0 1 0 0) = true ∧ ready (sregs [(1, 33)] base) (.barv 0 1 0 0) = true ∧
    32 < ((iss (sregs [(1, 33)] base)).R.s 1).toNat := by
  decide +kernel

theorem witness_BarriersArrive_wait : Meets (.barw 0 0 0) base ∧ tget? (iss base).G.barv 0 = none ∧
    Meets (.barw 0 0 0) (put (fun G => { G with barv := [(0, (3, 0))] }) id id) ∧
    tget? (iss (put (fun G => { G with barv := [(0, (3, 0))] }) id id)).G.barv 0 = some (3, 0) :=
  ⟨ready_meets (by decide +kernel), by decide +kernel, ready_meets (by decide +kernel), by decide +kernel⟩

theorem witness_BarriersArrive_phases :
    let p : BarPhase := { arrivals := 1, count := some 3, auto := true, all := [0, 1, 2], due := [1, 2] }
    let b : Bar := { Bar.start with cur := p }
    let c : Bar := { Bar.start with cur := { p with arrivals := 2, due := [2] } }
    b.cur.count = some 3 ∧ b.later = [] ∧ 1 ∈ b.cur.all ∧ b.cur.arrivals + 1 < 3 ∧ 3 ∉ b.cur.all ∧ b.cur.arrivals < 3 ∧
      b.cur.auto = true ∧ 1 ∈ b.cur.due ∧ c.cur.count = some 3 ∧ c.later = [] ∧ 2 ∈ c.cur.all ∧ c.cur.arrivals + 1 = 3 ∧
      c.cur.auto = true ∧ 2 ∈ c.cur.due ∧ Bar.start.cur = BarPhase.start ∧ Bar.start.later = [] := by decide

/-! ### Memory -/

/-- The physical address of virtual address 0x1800. -/
def page8 : Nat := layBase + 32768 + 0x800

/-- Record 2 covers 256 bytes at 0x1800, and a live entry covers its first element for the fibre in lane 0. -/
def touched (write : Bool) : State := (recd 2 0x1800 256 0 base).modGroup 0 0 fun G =>
  { G with touches := [{ slot := 2, write := write, width := 4, issued := 0,
                         shares := [{ lane := 0, dropped := false, va := 0x1800, pa := page8 }] }] }

/-- Every active fibre's access is covered at `page8`, which answers and holds no uncorrectable data. -/
def covered (s : State) (write : Bool) (wd : Option Nat) : Bool := (iss s).act.all fun l =>
  match accessLane (iss s) (s.pulses 0) 2 l ((iss s).R.v l 1).toNat 4 write wd with
  | .hit _ pa => pa == page8 && s.reach pa == .ok && !s.bad pa 4
  | _ => false

theorem covered_meets {s : State} {w : Bool} {wd : Option Nat} (h : covered s w wd = true) :
    ∀ l ∈ (iss s).act, ∃ pva, accessLane (iss s) (s.pulses 0) 2 l ((iss s).R.v l 1).toNat 4 w wd = .hit pva page8 ∧
      s.reach page8 = .ok ∧ s.bad page8 4 = false := by
  intro l hl
  have := List.all_eq_true.1 h l hl
  split at this
  · next pva pa e =>
    simp only [Bool.and_eq_true, Bool.not_eq_true', beq_iff_eq] at this
    obtain ⟨⟨rfl, h2⟩, h3⟩ := this
    exact ⟨pva, e, h2, h3⟩
  · cases this

theorem witness_LoadsReadMemory : Meets (.ldg 8 1 2 0 0 0) (touched false) ∧ (iss (touched false)).Lives ∧
    ∀ l ∈ (iss (touched false)).act, ∃ pva, accessLane (iss (touched false)) ((touched false).pulses 0) 2 l
      ((iss (touched false)).R.v l 1).toNat 4 false none = .hit pva page8 ∧ (touched false).reach page8 = .ok ∧
        (touched false).bad page8 4 = false :=
  ⟨ready_meets (by decide +kernel), lives_meets (by decide +kernel), covered_meets (by decide +kernel)⟩

/-- A store of a party over the bytes at `page8`, which the group has not seen. -/
def hidden (scr : Option Scr) (a : Nat) (s : State) : State :=
  { s with past := [{ scr := scr, at_ := a, old := [1, 2, 3, 4], by_ := { tid := 2, core := 1, g := 0 }, sobj := 1, relax := false,
                      scope := 2, pubs := [], unseen := [(iss s).party] }] }

theorem witness_LoadsReadMemory_hidden :
    let s := hidden none page8 (touched false)
    Meets (.ldg 8 1 2 0 0 0) s ∧ Meets (.ldg 8 1 2 0 2 0) s ∧ (iss s).Lives ∧ s.delays.headD 0 = 0 ∧
    (touched false).past = [] ∧ covered s false none = true ∧
    s.past.all (fun e => e.hits none (s.ownAddr page8) 4 && e.unseen.contains (iss s).party) = true ∧ s.past.length = 1 ∧
    s.backs.headD 0 = 0 ∧ ({ s with backs := [1] } : State).backs.headD 0 = 1 :=
  ⟨ready_meets (by decide +kernel), ready_meets (by decide +kernel), lives_meets (by decide +kernel), by decide +kernel,
    by decide +kernel, by decide +kernel, by decide +kernel, by decide +kernel, by decide +kernel, by decide +kernel⟩

/-- The last element of the record, and no touch entry. -/
theorem witness_LoadsReadMemory_uncovered : let s := reg (.v 0 1) 63 (recd 2 0x1800 256 0 base)
    Meets (.ldg 8 1 2 0 0 0) s ∧ Meets (.stg 8 1 2 0 0 0) s ∧ (iss s).G.touches = [] ∧
    ∀ l ∈ (iss s).act, ((iss s).R.v l 1).toNat * ((iss s).T.rec_ 2).stride + 4 ≤ ((iss s).T.rec_ 2).extent ∧
      (((iss s).T.rec_ 2).base + ((iss s).R.v l 1).toNat * ((iss s).T.rec_ 2).stride) % 4 = 0 :=
  ⟨ready_meets (by decide +kernel), ready_meets (by decide +kernel), by decide +kernel, by decide +kernel⟩

/-- The last element that the record covers translates; the one behind it is dropped. -/
theorem witness_TouchRecords : ready (recd 2 0x1800 256 0 base) (.tch 1 2 0 1 0) = true ∧
    (match ((iss (recd 2 0x1800 256 0 base)).T.rec_ 2).addr 63 4 false true with
     | .ok (some (_, pva)) =>
       (match lineResult (((frm (.tch 1 2 0 1 0) (recd 2 0x1800 256 0 base)).slot (recd 2 0x1800 256 0 base)
           (iss (recd 2 0x1800 256 0 base))).xlateLines 0 0 .write [pva / 128 * 128]).2 pva with
        | .ok pa _ => pva == 0x1800 + 252 && pa == page8 + 252
        | _ => false)
     | _ => false) = true ∧
    (match ((iss (recd 2 0x1800 256 0 base)).T.rec_ 2).addr 64 4 false true with
     | .ok none => true
     | _ => false) = true := by decide +kernel

theorem witness_StoresWriteMemory : Meets (.stg 8 1 2 0 0 0) (touched true) ∧ Meets (.stg 8 1 2 0 1 0) (touched true) ∧
    (iss (touched true)).Lives ∧ (0 : BitVec 3) ≠ 1 ∧ (iss (touched true)).G.held = [] ∧ (iss (touched true)).act = [0] ∧
    (∀ l ∈ (iss (touched true)).act, ∃ pva, accessLane (iss (touched true)) ((touched true).pulses 0) 2 l
      ((iss (touched true)).R.v l 1).toNat 4 true none = .hit pva page8 ∧ (touched true).reach page8 = .ok ∧
        (touched true).bad page8 4 = false) ∧
    lineFull [{ since := 0, scr := none, pa := page8, bytes := storeData (iss (touched true)).R 0 8 4, nt := true, sobj := 0,
                relax := false }] (lineOf page8) = false ∧
    ({ touched true with stays := [true] } : State).stays.headD false = true ∧ (touched true).stays = [] :=
  ⟨ready_meets (by decide +kernel), ready_meets (by decide +kernel), lives_meets (by decide +kernel), by decide,
    by decide +kernel, by decide +kernel, covered_meets (by decide +kernel), by decide +kernel, rfl, by decide +kernel⟩

/-- A SCOPE hint stands before the store. -/
theorem witness_StoresWriteMemory_scope :
    let s := batch0 (fun B => { B with hints := [{ pc := 0xFFC, kind := 4, payload := 1 }] }) { touched true with stays := [true] }
    ready s (.stg 8 1 2 0 0 0) = true ∧ (iss s).hv.scope = some 1 ∧ lives s = true ∧ covered s true none = true ∧
    (iss s).act = [0] := by decide +kernel

/-- Atomics of 8 bytes, at the same place. -/
theorem witness_AtomicsUpdateMemory_eight :
    let s : State := (recd 2 0x1800 256 1 base).modGroup 0 0 fun G =>
      { G with touches := [{ slot := 2, write := true, width := 8, issued := 0,
                             shares := [{ lane := 0, dropped := false, va := 0x1800, pa := page8 }] }] }
    ready s (.atg 8 1 2 0 0) = true ∧ ready s (.atgc 8 1 2 0 0) = true ∧ ((iss s).T.rec_ 2).atomWidth = 8 ∧
    8 % (8 / 2) = 0 ∧ 8 + 8 / 2 ≤ (iss s).G.budget ∧
    ([some 8, none] : List (Option Nat)).all (fun wd => match accessLane (iss s) (s.pulses 0) 2 0 ((iss s).R.v 0 1).toNat 8 true wd with
      | .hit _ pa => pa == page8 && s.reach pa == .ok && !s.bad pa 8
      | _ => false) = true := by
  decide +kernel

theorem witness_AtomicsUpdateMemory : Meets (.atg 8 1 2 0 0) (touched true) ∧ Meets (.atgc 8 1 2 0 0) (touched true) ∧
    ((iss (touched true)).T.rec_ 2).atomWidth = 4 ∧ 8 + 2 ≤ (iss (touched true)).G.budget ∧
    covered (touched true) true (some 4) = true ∧ covered (touched true) true none = true :=
  ⟨ready_meets (by decide +kernel), ready_meets (by decide +kernel), by decide +kernel, by decide +kernel,
    by decide +kernel, by decide +kernel⟩

/-- The masks 0, 2^16 and that of slot 2 alone. -/
theorem witness_MultiDestinationStores :
    let s (m : Word) := sregs [(4, m)] (recd 2 0x1800 256 0 base)
    ([.mcs 8 1 4 0 0, .rds 8 1 4 0 0, .rdsF 8 1 4 0 0] : List Instr).all (fun i =>
      ready (s 0) i && ready (s 65536) i && ready (s 4) i) = true ∧
    (List.range 16).filter (fun j => ((iss (s 4)).R.s 4).toNat.testBit j) = [2] ∧
    ((iss (s 4)).T.rec_ 2).atomWidth = 4 ∧
    (let tr := (s 4).xlateLines 0 0 .write [0x1800]
     let D := checkDests (iss (s 4)) tr.2 [2] 0 4 true
     D.trap.isNone && D.fill.isNone && D.hits == [(2, 0x1800, page8)] && tr.1.reach page8 == .ok &&
       !tr.1.bad page8 4) = true := by
  decide +kernel

/-- Allocations of 64 bytes at every level; the last place of each level, and of the lane slice. -/
theorem witness_ScratchpadAccesses :
    let s := reg (.v 0 1) 44 (put id (fun T => { T with usize := 64, csize := 64, dsize := 64, lsize := 64 }) id)
    ([.ldx 8 1 0 0 0 1 0, .stx 8 1 0 0 0 1 0, .ldx 8 1 1 7 3 1 0, .stx 8 1 2 7 3 1 0, .ldl 8 1 0 1 0, .stl 8 1 0 1 0,
      .atx 8 1 1 0 0 0 0] : List Instr).all (ready s) = true ∧
    (∀ l ∈ (iss s).act, ((iss s).R.v l 1).toNat + 16 * 1 + 4 ≤ ((iss s).T.level 0).2.2 ∧
      (((iss s).R.v l 1).toNat + 16 * 1) % 4 = 0 ∧ ((iss s).R.v l 1).toNat + 16 * 1 + 4 ≤ (iss s).T.lsize) ∧
    (List.range 3).all (fun k => !s.scrBad ((iss s).T.level k).1 (((iss s).T.level k).2.1 + 60) 4) = true ∧
    s.scrBad (.slice 0) 60 4 = false := by
  decide +kernel

/-! ### Objects and rings -/

/-- Object 1 of two, at 0x1440: its first five words. -/
def withObj (ws : List Nat) (s : State) : State := words 0x440 ws (ctl [(0x198, 0x1400), (0x1A0, 2)] (sregs [(1, 1)] s))

/-- The instruction is ready, and the object that its register names is valid and as said. -/
def meetsObj (i : Instr) (s : State) (p : State → Obj → Bool) : Bool := ready s i &&
  okd (((frm i s).slot s (iss s)).objFor (iss s) ((iss s).R.s 1).toNat) fun t x => p t x.2

theorem meetsObj_meets {i : Instr} {s : State} {p : State → Obj → Bool} (h : meetsObj i s p = true) :
    Meets i s ∧ ∃ t x, ((frm i s).slot s (iss s)).objFor (iss s) ((iss s).R.s 1).toNat = (t, .ok x) ∧ p t x.2 = true := by
  simp only [meetsObj, Bool.and_eq_true] at h
  exact ⟨ready_meets h.1, okd_meets h.2⟩

/-- A store of the group is on its way to a far target. -/
def farStoring (s : State) : State := { s with remotes := [(0, {
  ctx := 0, lines := [2 ^ 46], due := 180000000, core := 0, g := 0, tid := 1, store := true, who := none, ended := false })] }

theorem witness_SyncObjectsAct_near :
    let lock := withObj [1, 0, 0, 0] base
    let barrier := withObj [0, 0, 0, 4, 3] base
    let counter := withObj [2, 0, 7, 0] base
    (([lock, barrier, counter] : List State).all fun s => ([.rel 2 1 0, .arv 2 0 1 0, .arvX 2 0 1 0] : List Instr).all
      (meetsObj · s fun t _ => !t.farStores 0 0)) = true ∧
    meetsObj (.rel 2 1 0) (farStoring lock) (fun t _ => t.farStores 0 0) = true ∧
    meetsObj (.arv 2 0 1 0) (farStoring counter) (fun t o => o.kind != 1 && t.farStores 0 0) = true ∧
    meetsObj (.arvX 2 0 1 0) (farStoring barrier) (fun t o => o.kind == 0 && t.farStores 0 0) = true := by
  decide +kernel

theorem witness_SyncObjectsAct_locks :
    let free := withObj [1, 0, 0xFFFFFFFF, 0] base
    let mine := withObj [1, 0, 0, 0] base
    let counter := withObj [2, 0, 7, 0] base
    meetsObj (.acq 2 1 0) free (fun t o => o.kind == 1 && o.state == 0xFFFFFFFF && !t.lockAhead 0 1 t.nextOp) = true ∧
    meetsObj (.acq 2 1 0) mine (fun _ o => o.kind == 1 && o.state != 0xFFFFFFFF) = true ∧
    meetsObj (.acq 2 1 0) counter (fun _ o => o.kind != 1) = true ∧
    meetsObj (.rel 2 1 0) mine (fun _ o => o.kind == 1 && o.state == (iss mine).g + 64 * (iss mine).core) = true ∧
    meetsObj (.rel 2 1 0) free (fun _ o => o.kind == 1 && o.state != (iss free).g + 64 * (iss free).core) = true ∧
    meetsObj (.rel 2 1 0) counter (fun _ o => o.kind != 1) = true ∧
    meetsObj (.arv 2 0 1 0) free (fun _ o => o.kind == 1) = true ∧
    meetsObj (.arvX 2 0 1 0) free (fun _ o => o.kind != 0) = true := by
  decide +kernel

theorem witness_SyncObjectsAct_phases :
    let barrier := withObj [0, 0, 0, 4, 3] base
    let past := withObj [0, 0, 5, 4, 0] base
    let faulty := withObj [0, 0x00050100, 5, 4, 0] base
    let counter := withObj [2, 0, 0x7FFFFFFF, 0] base
    meetsObj (.arv 2 0 1 0) barrier (fun _ o => o.kind == 0) = true ∧
    meetsObj (.arvX 2 0 1 0) barrier (fun _ o => o.kind == 0) = true ∧
    meetsObj (.arv 2 0 1 0) counter (fun _ o => o.kind == 2) = true ∧
    meetsObj (.waitp 2 0 1 0) past (fun _ o => !o.flags.testBit 8 && o.kind == 0 && o.state != 0) = true ∧
    meetsObj (.waitpNf 2 0 1 0) faulty (fun _ o => o.kind == 0 && o.state != 0) = true ∧
    meetsObj (.waitpNf 2 0 1 0) counter (fun _ o => o.kind == 2 && decide (sub32 o.state 0 < 2 ^ 31)) = true ∧
    meetsObj (.waitp 2 0 1 0) faulty (fun _ o => o.flags.testBit 8 && o.kind == 0 && o.state != 0) = true ∧
    meetsObj (.waitp 2 0 1 0) barrier (fun _ o => o.kind == 0 && o.state == 0) = true ∧
    ([.soflg 0 2 1 0, .soflg 1 2 1 0, .soflg 2 2 1 0, .soflg 3 2 1 0, .soflgFlagC 2 1 0] : List Instr).all
      (meetsObj · barrier fun _ _ => true) = true := by
  decide +kernel

/-- A WAITP on a lock, and on a counter that has not reached the value. -/
theorem witness_SyncObjectsAct_waits :
    ([.waitp 2 1 1 0, .waitpNf 2 1 1 0] : List Instr).all (fun i =>
      meetsObj i (withObj [1, 0, 0xFFFFFFFF, 0] base) (fun _ o => o.kind == 1) &&
      meetsObj i (withObj [2, 0, 0, 0] base) (fun _ o => o.kind == 2 && Nat.ble (2 ^ 31) (sub32 o.state 1))) = true := by
  decide +kernel

/-- Parties of one die and of two; a store whose scope includes the first pair alone, and publications of either kind. -/
theorem witness_SyncObjectsAct_orders :
    let p : Party := { tid := 1, core := 0, g := 0 }
    let near : Party := { tid := 2, core := 23, g := 0 }
    let far : Party := { tid := 2, core := 24, g := 0 }
    let e (q : Party) : Past := { scr := none, at_ := page8, old := [0], by_ := p, sobj := 1, relax := false, scope := 2, pubs := [],
                                  unseen := [q] }
    ({ base with past := [e near] } : State).past = [e near] ∧ near ∈ (e near).unseen ∧ far ∈ (e far).unseen ∧
    scopeIncludes 2 p near = true ∧ scopeIncludes 2 near p = true ∧ scopeIncludes 2 p far = false ∧ scopeIncludes 1 p near = false ∧
    some 1 ≠ (some 0 : Option Nat) := by
  decide +kernel

theorem witness_SyncObjectsAct_object :
    let o : Obj := { kind := 0, scope := 0, flags := 0, state := 0, target := 4, arrivals := 3, pending := -8, ranges := [] }
    o.kind = 0 ∧ 0 < o.target ∧ o.pending + 8 = 0 ∧ o.pending + 7 ≠ 0 := by decide

/-- Ring 1 of two, at 0x1540, with four slots at 0x1800: its counters. -/
def ringed (w rd f fr : Nat) : State := words 0x540 [0x1800, 0, 16, 4, w, rd, f, fr, 1]
  (ctl [(0x1A8, 0x1500), (0x1A4, 2)] (withObj [2, 0, 0, 0] base))

/-- The instruction is ready, and the ring that its register names is valid and as said. -/
def meetsRing (i : Instr) (s : State) (p : Ring → Bool) : Bool := ready s i &&
  okd (((frm i s).slot s (iss s)).ringFor (iss s) ((iss s).R.s 1).toNat) fun _ x => p x.2

theorem meetsRing_meets {i : Instr} {s : State} {p : Ring → Bool} (h : meetsRing i s p = true) :
    Meets i s ∧ ∃ t x, ((frm i s).slot s (iss s)).ringFor (iss s) ((iss s).R.s 1).toNat = (t, .ok x) ∧ p x.2 = true := by
  simp only [meetsRing, Bool.and_eq_true] at h
  exact ⟨ready_meets h.1, okd_meets h.2⟩

/-- One slot is claimed, one filled, one taken, one free; or none free, and none filled. -/
theorem witness_RingsAct :
    ([.rclm 2 3 1 0, .rclmT 2 3 1 0] : List Instr).all (meetsRing · (ringed 2 0 1 1) fun g => g.fr != 0) = true ∧
    ([.rget 2 3 1 0, .rgetT 2 3 1 0] : List Instr).all (meetsRing · (ringed 2 0 1 1) fun g => g.f != 0) = true ∧
    ([.rclm 2 3 1 0, .rclmT 2 3 1 0] : List Instr).all (meetsRing · (ringed 4 0 0 0) fun g => g.fr == 0) = true ∧
    ([.rget 2 3 1 0, .rgetT 2 3 1 0] : List Instr).all (meetsRing · (ringed 4 0 0 0) fun g => g.f == 0) = true ∧
    meetsRing (.rpub 2 1 1 0) (ringed 2 0 1 1) (fun g => (g.w + (2 ^ 32 - g.rd % 2 ^ 32)) % 2 ^ 32 - g.f == 1) = true ∧
    meetsRing (.rput 2 1 1 0) (ringed 2 0 1 1) (fun g =>
      g.c - g.fr - (g.w + (2 ^ 32 - g.rd % 2 ^ 32)) % 2 ^ 32 == 1) = true ∧
    meetsRing (.rpub 2 1 1 0) (ringed 2 0 2 2) (fun g => (g.w + (2 ^ 32 - g.rd % 2 ^ 32)) % 2 ^ 32 - g.f == 0) = true ∧
    meetsRing (.rput 2 1 1 0) (ringed 2 0 2 2) (fun g =>
      g.c - g.fr - (g.w + (2 ^ 32 - g.rd % 2 ^ 32)) % 2 ^ 32 == 0) = true := by
  decide +kernel

/-- Counts of 0; and a count of 1 by a group with a far store outstanding. -/
theorem witness_RingsAct_none :
    ([.rpub 2 0 1 0, .rput 2 0 1 0] : List Instr).all (meetsRing · (ringed 2 0 1 1) fun _ => true) = true ∧
    ((iss (ringed 2 0 1 1)).R.s 0).toNat = 0 ∧ ((iss (ringed 2 0 1 1)).R.s 1).toNat ≠ 0 ∧
    ([.rpub 2 1 1 0, .rput 2 1 1 0] : List Instr).all (fun i => meetsRing i (farStoring (ringed 2 0 1 1)) fun g =>
      (g.w + (2 ^ 32 - g.rd % 2 ^ 32)) % 2 ^ 32 - g.f == 1) = true ∧
    ([.rpub 2 1 1 0, .rput 2 1 1 0] : List Instr).all (fun i =>
      let s := farStoring (ringed 2 0 1 1)
      (((frm i s).slot s (iss s)).ringFor (iss s) 1).1.farStores 0 0) = true := by
  decide +kernel

theorem witness_RingsAct_near : (ringed 2 0 1 1).farStores 0 0 = false ∧
    (((frm (.rpub 2 1 1 0) (ringed 2 0 1 1)).slot (ringed 2 0 1 1) (iss (ringed 2 0 1 1))).ringFor (iss (ringed 2 0 1 1)) 1).1.farStores
      0 0 = false := by decide +kernel

/-! ### Engines, names and generators -/

/-- Words of the scalar registers from s4. -/
def args (ws : List Word) (s : State) : State := sregs (ws.zipIdx.map fun w => (w.2 + 4, w.1)) s

/-- Record 2 covers 1,024 bytes at 0x1800; the unit and cluster allocations have 1,024 bytes. -/
def engines (ws : List Word) : State :=
  args ws ((recd 2 0x1800 1024 0 base).modTeam 1 fun T => { T with usize := 1024, csize := 1024 })

theorem witness_CopiesEnterTheQueue_moves :
    let s := engines [0, 1008, 0, 16, 0, 0]
    ready s (.tmov 4 8 0) = true ∧ ready s (.tmovW 4 8 0) = true ∧
    ([true, false].all fun w => match tmovOp w 4 8 (iss s) with
      | .ok (_, ob) => ob == 0
      | _ => false) = true ∧
    s.queueRoom 0 0 1 = true ∧ (s.checkObj (iss s) 0).2 = none := by
  decide +kernel

/-- TMOV.W waits for its operation, which has ended or has not. -/
theorem witness_CopiesEnterTheQueue_waits :
    let s := waiting (.op 7 15) base
    let t := { s with tickets := [(7, none)] }
    Again s (iss s) ∧ (iss s).B.wait = some (.op 7 15) ∧ tget? s.tickets 7 = none ∧ Again t (iss t) ∧
    (iss t).B.wait = some (.op 7 15) ∧ (tget? t.tickets 7).isSome = true :=
  ⟨again_meets (by decide +kernel), by decide +kernel, by decide +kernel, again_meets (by decide +kernel), by decide +kernel,
    by decide +kernel⟩

/-- From the last 64 bytes of the record to the last of the unit allocation. -/
theorem witness_CopiesEnterTheQueue_block :
    let s := engines [0x402, 960, 960, 64, 0, 0]
    let S : SideArg := { space := 0, slot := 2, swz := 0, off := 960, len := 64 }
    let D : SideArg := { space := 1, slot := 0, swz := 0, off := 960, len := 64 }
    ready s (.cpyb 2 4 8 0) = true ∧ (0x402 : Nat) / 2 ^ 19 = 0 ∧ (0x402 : Nat).testBit 18 = false ∧
    (S.oob (iss s)).isNone = true ∧ (S.prot (iss s) false).isNone = true ∧ (D.oob (iss s)).isNone = true ∧
    (D.prot (iss s) true).isNone = true ∧ (s.checkNames (iss s) 0 0 none).2.isNone = true ∧ s.queueRoom 0 0 1 = true := by
  decide +kernel

/-- From the record to a slot of ring 1. -/
theorem witness_CopiesEnterTheQueue_slot :
    let s := args [0x40002, 0, 0, 16, 0, 1] (recd 2 0x1800 1024 0 (ringed 0 0 0 4))
    let S : SideArg := { space := 0, slot := 2, swz := 0, off := 0, len := 16 }
    ready s (.cpyb 2 4 8 0) = true ∧ (0x40002 : Nat) / 2 ^ 19 = 0 ∧ (0x40002 : Nat).testBit 18 = true ∧
    (S.oob (iss s)).isNone = true ∧ (S.prot (iss s) false).isNone = true ∧
    (s.checkNames (iss s) 0 1 (some 16)).2.isNone = true ∧ s.queueRoom 0 0 1 = true := by
  decide +kernel

theorem witness_CopiesEnterTheQueue_decode :
    let s := engines [0x102, 0, 0, 64, 0, 0]
    let S : SideArg := { space := 0, slot := 2, swz := 0, off := 0, len := 16 }
    let D : SideArg := { space := 1, slot := 0, swz := 0, off := 0, len := 128 }
    ready s (.cpyd 2 4 8 0) = true ∧ (0x102 : Nat).testBit 12 = false ∧ (0x102 : Nat) / 2 ^ 23 = 0 ∧
    (0x102 : Nat) / 2 ^ 10 % 4 < 3 ∧ (0x102 : Nat) / 2 ^ 13 % 8 < 4 ∧ ((64 * 2 + 7) / 8 + 3) / 4 * 4 = 16 ∧
    (S.oob (iss s)).isNone = true ∧ (S.prot (iss s) false).isNone = true ∧ (D.oob (iss s)).isNone = true ∧
    (D.prot (iss s) true).isNone = true ∧ (s.checkNames (iss s) 0 0 none).2.isNone = true ∧ s.queueRoom 0 0 1 = true := by
  decide +kernel

/-- Tables of 1 and of 16 words. -/
theorem witness_CopiesEnterTheQueue_table :
    ([(0x102, 1), (0x1002, 16)] : List (Nat × Nat)).all (fun e =>
      let s := engines [BitVec.ofNat 32 e.1, 0]
      let S : SideArg := { space := 0, slot := 2, swz := 0, off := 0, len := 4 * e.2 }
      ready s (.ctab 4 0) && e.1 / 2 ^ 14 == 0 && e.1 / 2 ^ 8 % 32 == e.2 && (S.oob (iss s)).isNone &&
        (S.prot (iss s) false).isNone && s.queueRoom 0 0 1 && decide (((s.die 0).stream 0).tables.length < 4)) = true := by
  decide +kernel

theorem witness_CopiesEnterTheQueue_fibres :
    let s := engines [2, 0]
    ready s (.cpy 0 2 4 0) = true ∧ (iss s).act = [0] ∧ ((iss s).R.v 0 2).toNat + 4 ≤ ((iss s).T.level 0).2.2 ∧
    (match ((iss s).T.rec_ 2).addr ((iss s).R.v 0 3).toNat 4 true false with
     | .ok (some (_, pva)) =>
       (match lineResult (s.xlateLines 0 0 .read [lineOf pva]).2 pva with
        | .ok pa _ => pva == 0x1800 && pa == page8
        | _ => false)
     | _ => false) = true ∧
    (s.xlateLines 0 0 .read [0x1800]).1.queueRoom 0 0 1 = true := by
  decide +kernel

/-- The context has one tensor; the name in s4 and s5 is of tensor 0; the destination is 1,024 bytes of record 2, and the
object is object 1. -/
def named (ob : Word) : State := (sregs [(4, 7), (8, 2), (10, 1024), (11, ob)]
  (withObj [0, 0, 0, 1] (recd 2 0x1800 1024 0 (ctl [(0x0C8, 1)] base))))

theorem witness_NamesAct :
    let s := named 1
    let side : SideArg := { space := 0, slot := 2, swz := 0, off := 0, len := 1024 }
    ready s (.intr 2 4 8 0) = true ∧ ready (named 0) (.annc 2 4 8 0) = true ∧ ready s (.nret 2 4 0) = true ∧
    ready s (.nprb 2 4 3 0) = true ∧ (iss s).R.spair 4 / 2 ^ 44 % 2 ^ 20 < (s.ctx 0).ntens ∧
    (side.oob (iss s)).isNone = true ∧ (side.prot (iss s) true).isNone = true ∧ (side.prot (iss s) false).isNone = true ∧
    (s.checkObj (iss s) 1).2.isNone = true ∧ (s.touchRange (iss s) (side.side (iss s)) 1024).2.isNone = true ∧
    tfree (s.die 0).interests 0 4096 = some 0 ∧ s.queueRoom 0 0 1 = true := by
  decide +kernel

/-- The last element of the record, and the one behind it, which is dropped; the two verdicts of a generator. -/
theorem witness_GeneratorsAct :
    let s (k : Word) := args [2, k] (recd 2 0x1800 256 0 base)
    let g : GenFill := { block := 0x100000, range := 0, depth := 0, fill := 0, chain := [], verdict := none, decided := false }
    let t (v : Option (Option Nat)) := put id (fun T => { T with gen := some { g with verdict := v } }) id
    ready (s 63) (.greq 4 1 0) = true ∧ ready (s 64) (.greq 4 1 0) = true ∧
    (match ((iss (s 64)).T.rec_ 2).addr 64 4 true false with
     | .ok none => true
     | _ => false) = true ∧
    (match ((iss (s 63)).T.rec_ 2).addr 63 4 true false with
     | .ok (some (_, pva)) =>
       (match ((s 63).xlateCore 0 0 (lineOf pva) .read).2 with
        | .ok _ flags => !flags.testBit 7
        | _ => false)
     | _ => false) = true ∧
    ready (t none) (.gdone 0) = true ∧ ready (t none) (.gfail 1 0) = true ∧ ready (t (some none)) (.gfail 1 0) = true ∧
    ready base (.gdone 0) = true ∧ ready base (.gfail 1 0) = true ∧ (iss base).T.gen = none := by
  decide +kernel

/-! ### The matrix unit -/

/-- A parameter block in the last 64 bytes of a unit scratchpad of 4,160. -/
def matrix (ws : List Nat) : State :=
  (sregs [(1, 4096)] (put id (fun T => { T with usize := 4160, macros := 1, accs := 1 }) id)).scrWrite (.unit 0) 4096
    (ws.flatMap (leBytes 4))

theorem witness_MatrixOperationsEnterTheQueue :
    ([(0, .mbld 2 1 0 0, .mbldW 2 1 0, [0, 16 + 2 ^ 16, 0, 4]), (1, .mmul 2 1 0 0, .mmulW 2 1 0, [0, 1 + 2 ^ 20, 1, 0, 4]),
      (2, .mhad 2 1 0 0, .mhadW 2 1 0, [0, 1 + 2 ^ 20, 0, 64, 64, 64]),
      (3, .msca 2 1 0 0, .mscaW 2 1 0, [66, 1 + 2 ^ 16, 1]), (4, .mqnt 2 1 0 0, .mqntW 2 1 0, [0, 1 + 2 ^ 20])] :
      List (Nat × Instr × Instr × List Nat)).all (fun e =>
        let s := matrix e.2.2.2
        let bytes := if e.1 = 3 then 64 else if e.1 = 4 then 48 else 32
        ready s e.2.1 && ready s e.2.2.1 && ((iss s).R.s 0).toNat == 0 &&
          (matrixChecks e.1 (iss s).T (bytesWords (bytes / 4) (s.scrRead (.unit 0) 4096 bytes))).all (·.isNone) &&
          !s.scrBad (.unit 0) 4096 bytes && (s.core 0).mqueue.isEmpty) = true := by
  decide +kernel

/-! ### Graphics -/

/-- A launch block of one team of one group of one fibre. -/
def block1 : Block :=
  { nroles := 1, persist := false, tile := false, gx := 1, gy := 1, gz := 1, cbase := 0x1000, rmask := 0, fpmode := 0,
    ubytes := 0, cbytes := 0, dbytes := 0, lbytes := 0, macros := 0, acc := 0, save := 0, rstate := 0, preds := [],
    cond := 0, csense := false, done := 0, roles := [{ pcoff := 0, groups := 1, fibres := 1, budget := 128 }], recs := [],
    stab := [] }

/-- A launch of it in a state. -/
def launch1 (st : LaunchState) : Launch :=
  { ctx := 0, queue := 0, index := 0, st := st, block := block1, grid := 0, tickets := [], gated := false,
    failed := none, batchOf := none, stores := [] }

/-- A pass of one tile, with a colour plane and a depth plane. -/
def pass1 : Pass := Pass.start 0
  { hsr := false, sdepth := false, frole := 1, gqueue := 1, nbatch := 1, width := 32, height := 32, fbase := 0x1800,
    fpitch := 128, binmask := 1, high := 1, low := 0, lsize := 65536, pspan := 0, spill := 0x2000,
    planes := [{ fmt := 1, blend := 1, cmp := 0, dwrite := false, offset := 0, clear := [] },
               { fmt := 5, blend := 0, cmp := 1, dwrite := true, offset := 4096, clear := [] }] }

/-- The team is a geometry team of batch 0 of the pass, and holds the meshlet of slot 0. -/
def geometry (ws : List Word) : State :=
  let s := args ws (put id (fun T => { T with usize := 64 }) id)
  { s with launches := [(0, { launch1 .running with batchOf := some (5, 0) })], passes := [(5, pass1)] }.modCore 0 fun C =>
    { C with meshlets := [(0, { tid := 1, attrs := 0, verts := [([0, 0, 0, 0], [])] })] }

/-- One vertex at the end of the allocation; one triangle of the meshlet's one vertex. -/
theorem witness_GeometryFeedsTheBinners :
    ready (geometry [48, 1, 16, 0]) (.mout 4 1 0) = true ∧ 48 + (1 - 1) * 16 + 16 + 4 * 0 ≤ (iss (geometry [48, 1, 16, 0])).T.usize ∧
    (geometry [48, 1, 16, 0]).scrBad (.unit 0) 48 16 = false ∧
    (List.range 16).find? (fun k => (tget? ((geometry [48, 1, 16, 0]).core 0).meshlets k).isNone) = some 1 ∧
    (iss (geometry [48, 1, 16, 0])).T.core = (iss (geometry [48, 1, 16, 0])).core ∧
    ready (geometry [0, 61, 1, 0]) (.prim 4 0) = true ∧
    (tget? ((geometry [0, 61, 1, 0]).core 0).meshlets 0).any (fun M => M.tid == 1 && M.verts.length == 1) = true ∧
    61 + 1 * 3 ≤ (iss (geometry [0, 61, 1, 0])).T.usize ∧
    ((geometry [0, 61, 1, 0]).scrRead (.unit 0) 61 3).map (·.toNat) = [0, 0, 0] ∧
    (geometry [0, 61, 1, 0]).scrBad (.unit 0) 61 3 = false ∧ (iss (geometry [0, 61, 1, 0])).T.lastPrim = none ∧
    (geometry [0, 61, 1, 0]).batchPass (iss (geometry [0, 61, 1, 0])).T = some (5, 0, pass1) ∧ pass1.closed = false ∧
    tget? pass1.images 1 = none ∧ (primSpan pass1.rs.pspan 0).1 ≤ 0 ∧ 0 < (primSpan pass1.rs.pspan 0).2 := by
  decide +kernel

/-- The team holds tile 0 of the pass. -/
def tiled : State :=
  let t : TileTask := { tile := 0, final := true, lo := 0, hi := 0, at_ := 0, quad := 0, winners := none, image := none,
                        held := true, tret := none, failed := none }
  { put id (fun T => { T with usize := 8192, tile := some t }) id with passes := [(0, pass1)] }

/-- The last pixel of the tile. -/
theorem witness_TileInstructionsAct :
    let s := reg (.v 0 1) 1023 tiled
    ([.tld 0 8 1 0, .tst 0 8 1 0, .blnd 0 8 1 0, .dpth 2 8 1 0, .dpthT 2 8 1 0, .disc 0, .tret 4 0] : List Instr).all
      (ready s) = true ∧
    (tget? s.passes (iss s).T.lid).isSome = true ∧ (iss s).T.tile.any (·.held) = true ∧
    (pass1.rs.plane 0).any (fun p => 1 ≤ p.fmt && p.fmt ≤ 3 && 8 % planeRegs p.fmt == 0 &&
      !s.scrBad (.unit 0) ((iss s).T.ubase + p.at_ 1023) (planeSize p.fmt)) = true ∧
    pass1.rs.depth.any (fun p => !s.scrBad (.unit 0) ((iss s).T.ubase + p.at_ 1023) 4) = true ∧ pass1.rs.hsr = false ∧
    ((iss s).R.s 4).toNat / 8 = 0 ∧ (iss s).T.tile.any (fun t => s.tileDone 1 t) = true ∧
    ((s.heldTile (iss s).T).isSome && (s.group? 0 0).isSome) = true := by
  decide +kernel

/-- A fibre with a fragment of a triangle; a texture of one texel at 0x1800. -/
theorem witness_SamplingActs :
    let f : Frag := { batchSeq := 0, prim := 0, pixel := 0, helper := false, slot := true,
                      verts := { xyzw := [[], [], []], attrs := [[], [], []] } }
    let t := words 0x800 [0, 0, 0, 0x00010000] (ctl [(0x1B8, 0x1800), (0x1C0, 1)] base)
    ready (lane0 (fun L => { L with frag := some f }) base) (.ipol 0 8 2 0 0) = true ∧ f.verts.attrs.length = 3 ∧
    ready base (.ipol 0 8 2 0 0) = true ∧ ((iss base).G.lane 0).frag = none ∧
    ([.smpl 0 8 16 0, .smplG 0 8 16 0, .smpg 0 8 16 0, .smpgG 0 8 16 0] : List Instr).all
      (fun i => ready t i && ready base i) = true ∧
    ((iss t).R.s 0).toNat < (t.ctx 0).word 0x1C0 % 2 ^ 20 ∧ tget? (t.ctx 0).images 2 = none ∧
    okd ((t.reload 0 0 2).unitFetch (iss t) (iss t).low 0x1800 64) (fun _ b => (parseTex b).isSome) = true ∧
    (let u := words 0x800 [0xFFFFFFFF] t
     okd ((u.reload 0 0 2).unitFetch (iss u) (iss u).low 0x1800 64) (fun _ b => (parseTex b).isNone) = true) ∧
    (base.ctx 0).word 0x1C0 % 2 ^ 20 ≤ ((iss base).R.s 0).toNat := by
  decide +kernel

/-- A structure at 0x1800; a fibre with a candidate, and one without a query. -/
theorem witness_RaysAct :
    let t := ctl [(0x1C8, 0x1800), (0x1C4, 1)] base
    let q : RayQuery := { root := 0x1800, ray := [], opaq := false, lvl := 0, node := { node := 0x1800, insts := [] },
                          stack := [], trail := [], pos := none, best := none,
                          cand := some { t := 0, inst := 0, prim := 0 }, logged := false }
    let c := lane0 (fun L => { L with ray := some q }) base
    ([.rayq 0 8 16 0, .rayqO 0 8 16 0] : List Instr).all (fun i => ready t i && ready base i) = true ∧
    ((iss t).R.s 0).toNat < (t.ctx 0).word 0x1C4 % 2 ^ 20 ∧
    okd ((t.reload 0 0 3).unitFetch (iss t) (iss t).low 0x1800 32) (fun _ _ => true) = true ∧
    (base.ctx 0).word 0x1C4 % 2 ^ 20 ≤ ((iss base).R.s 0).toNat ∧
    ([.rayc 8 0, .raya 8 0] : List Instr).all (fun i => ready c i && ready base i) = true ∧
    ((iss c).G.lane 0).ray = some q ∧ q.cand.isSome = true ∧ ((iss base).G.lane 0).ray = none := by
  decide +kernel

/-! ### Launches and contexts -/

/-- The words of a launch block like `block1`, with the table of its stab words at 0x1800. -/
def blockWords : List Nat :=
  [1, 1, 1, 1, 0x1000, 0, 0, 0, 0, 0, 0x1800, 0] ++ List.replicate 21 0 ++ [0xF0001]

/-- Launch queue 0 of context 0, at 0x1400: one block at 0x1A00, submitted. -/
def queuedLaunch : State :=
  words 0xA00 (blockWords.set 32 0) (words 0x400 [0x1A00, 0, 1, 1, 0, 1] (ctl [(0x190, 0x1400)] base))

theorem witness_LaunchStepsAct_head : ∃ Q, queuedLaunch.headQueue 0 0 = some Q ∧
    okd (match queuedLaunch.servedRead (.launch 0 0) none 0 none (Q.block Q.head) 256 with
      | (t, .ok bs) => (match t.checkBlock (.launch 0 0) 0 bs with
        | (u, .ok b) => (u, (.ok b : Except Unit Block))
        | (u, _) => (u, .error ()))
      | (t, _) => (t, .error ())) (fun _ b => b.teams == 1) = true :=
  any_meets (by decide +kernel)

/-- Launches in a state; nothing else. -/
def launched (ls : List Launch) : State := { base with launches := ls.zipIdx.map fun l => (l.2, l.1) }

theorem witness_LaunchStepsAct_launches :
    let s := launched [launch1 .waiting]
    let t := { launched [{ launch1 .running with queue := 1 }, launch1 .evaluated] with passes := [(0, { pass1 with rs := { pass1.rs with gqueue := 0 } })] }
    tget? s.launches 0 = some (launch1 .waiting) ∧ (s.ctx 0).holdsTraps = false ∧ s.pendingFault (.launch 0 0) = false ∧ s.predsDone (launch1 .waiting) = true ∧
    (let L := { launch1 .waiting with block := { block1 with preds := [0, 5] } }
     (launched [L]).predBad L = some 92 ∧ ((launched [L]).ctx 0).holdsTraps = false ∧
       (launched [L]).pendingFault (.launch 0 0) = false) ∧
    tget? t.launches 1 = some (launch1 .evaluated) ∧ (t.ctx 0).holdsTraps = false ∧
    (t.passFor 0 0).any (fun p => p.1 == 0) = true := by
  decide +kernel

/-- A bind record for grid 0 of context 0 on core 0 of its die. -/
def bind1 : BitVec 128 := BitVec.ofNat 128 (2 ^ 48 + 2 ^ 63 + 2 ^ 64)

/-- The record is stored, the launch runs, and its one index is left on die 0. -/
def takes : State :=
  (launched [{ launch1 .running with tickets := (0, 1) :: List.replicate 7 (0, 0) }]).modDie 0 fun D =>
    { D with slots := [(63, { record := bind1, admitted := 0 })] }

theorem witness_LaunchStepsAct_bind : 0 < 8 ∧ 63 < 64 ∧
    (launched [launch1 .pendingBind]).heeds (parseBind bind1) = true ∧ (parseBind 0).valid = false ∧
    tget? ((launched [launch1 .pendingBind]).die 0).slots 63 = none ∧ (takes.chooseTake 0).isSome = true := by
  decide +kernel

/-- The render state of `pass1` at 0x1A00. -/
def opensPass : State :=
  { words 0xA00 [1 + 0x1000 + 1024, 32 + 32 * 65536, 0x1800, 0, 256, 1, 16, 0, 1, 0, 0x2000, 0, 0, 0, 0, 0, 1]
      (ctl [(0x1E0, 0x400000), (0x1E8, 1), (0x1F0, 2)] base) with
    launches := [(0, { launch1 .pendingBind with
      block := { block1 with tile := true, nroles := 2, rstate := 0x1A00, ubytes := 4096 } })] }.modDie 0 fun D =>
    { D with slots := [(63, { record := bind1, admitted := 0 })] }

theorem witness_LaunchStepsAct_pass : ∃ L, tget? opensPass.launches 0 = some L ∧
    (opensPass.needsStores 0 L && L.block.rstate % 64 == 0 &&
      (match opensPass.servedRead (.pass 0) none 0 none L.block.rstate 320 with
       | (t, .ok bs) => firstBad (renderChecks bs L.block ((t.ctx 0).word 0x1F0)) == none &&
         (List.range 8).filter (fun d => (parseRender bs).binmask.testBit d) == [0] &&
         t.basesOk 0 (parseRender bs).lsize [0x400000] && ({ t.clearFaults (.pass 0) with passes := tset t.passes 0 (Pass.start 0 (parseRender bs)) } : State).passReady 0 L
       | _ => false)) = true :=
  any_meets (by decide +kernel)

/-- The one team of a persistent grid stands; a launch whose teams have ended. -/
theorem witness_LaunchStepsAct_ends :
    let s := launched [{ launch1 .running with gated := true }]
    let t := { launched [launch1 .running] with teams := [] }
    (tget? s.launches 0).any (fun L => L.gated && L.st == .running && L.block.teams == 1) = true ∧
    (s.teams.filter fun e => e.2.lid == 0).length = 1 ∧ t.launchEnded 0 (launch1 .running) = true := by
  decide +kernel

/-- Context 0 in a state. -/
def ctxIs (st : CtxState) : State := base.modCtx 0 fun c => { c with st := st }

theorem witness_PreemptionStepsAct_contexts :
    (base.ctx 0).st = .active ∧ ((ctxIs .draining).ctx 0).st = .draining ∧ ((ctxIs .stopped).ctx 0).st = .stopped ∧
    ((ctxIs .frozen).ctx 0).st = .frozen ∧ ((ctxIs .lost).ctx 0).st = .lost ∧
    (let s := base.modCtx 0 fun c => { c with st := .draining, deadline := some 0 }
     (s.ctx 0).st = .draining ∧ (s.ctx 0).deadline = some 0 ∧ 0 ≤ s.now) ∧
    (ctxIs .saved).findSaved (2 ^ 32 + 0) = none ∧ ((ctxIs .saved).ctx 0).st = .saved ∧ ((ctxIs .saved).ctx 0).saved = [] := by
  decide +kernel

/-! The 4 MiB at virtual address 0x400000, where the slots of saved teams lie. -/

/-- The entry at index `i` of a table names the table `next`. -/
def tableAt (s : State) (tab i next : Nat) : Bool :=
  let e := s.rdNat (tab + 8 * i) 8
  s.reach (tab + 8 * i) == .ok && !s.bad (tab + 8 * i) 8 && bit e 0 && bit e 1 && bits e 2 8 == 0 && bits e 10 2 == 0 &&
    bits e 52 12 == 0 && bits e 12 40 * 4096 == next && next % tableSize == 0 && s.backedRange next tableSize

theorem walk_table {s : State} {va l tab i next : Nat} (h : tableAt s tab i next = true)
    (hi : bits va (12 + 10 * (l + 1)) 10 = i) : s.walkFrom va (l + 1) tab = s.walkFrom va l next := by
  simp only [tableAt, Bool.and_eq_true, beq_iff_eq, Bool.not_eq_true'] at h
  obtain ⟨⟨⟨⟨⟨⟨⟨⟨⟨h1, h2⟩, h3⟩, h4⟩, h5⟩, h6⟩, h7⟩, h8⟩, h9⟩, h10⟩ := h
  rw [State.walkFrom]
  simp only [hi, h1, h2, h3, h4, h5, h6, h7, h8, h9, h10]
  simp

/-- The 4 MiB from virtual address 0x400000 are the page of 4 MiB at physical address 0. -/
def bigPage (s : State) : Bool :=
  let t := bits ((s.ctx 0).dword 0x040) 0 52
  tableAt s t 0 (layBase + 8192) && tableAt s (layBase + 8192) 0 (layBase + 16384) &&
    s.rdNat (layBase + 16384 + 8) 8 == 0x0D && s.reach (layBase + 16384 + 8) == .ok && !s.bad (layBase + 16384 + 8) 8 &&
    s.backedRange 0 0x400000 && (s.ctx 0).fills.isEmpty && s.faults.isEmpty

theorem xlate_big {s : State} (h : bigPage s = true) (k : Nat) (hk : k < 0x400000) (acc : Access) (ha : acc ≠ .fetch) :
    s.xlate 0 (0x400000 + k) acc = .ok k 0x0D := by
  simp only [bigPage, Bool.and_eq_true, beq_iff_eq, Bool.not_eq_true', List.isEmpty_iff] at h
  obtain ⟨⟨⟨⟨⟨⟨⟨h1, h2⟩, h3⟩, h4⟩, h5⟩, h6⟩, h7⟩, -⟩ := h
  have b3 : bits (0x400000 + k) (12 + 10 * (2 + 1)) 10 = 0 := by simp only [bits]; omega
  have b2 : bits (0x400000 + k) (12 + 10 * (1 + 1)) 10 = 0 := by simp only [bits]; omega
  have b1 : bits (0x400000 + k) (12 + 10 * 1) 10 = 1 := by simp only [bits]; omega
  have hw : s.walk 0 (0x400000 + k) = .leaf (Leaf.mk 0x400000 0x400000 0 0x0D (layBase + 16384) 1) := by
    rw [State.walk, walk_table h1 b3, walk_table h2 b2, State.walkFrom]
    simp only [b1, Nat.mul_one, h3, h4, h5]
    simp [State.leafOf, bits, bit, h6]
    exact hk
  simp only [State.xlate, hw]
  rw [if_pos (by simp only [vaTop]; omega)]
  cases acc <;> simp_all [State.registered, bit, State.leafResult, Leaf.result, leafAllows]

theorem lineCuts_within (va n fuel : Nat) : ∀ e ∈ lineCuts va n fuel, va ≤ e.1 ∧ e.1 < va + n := by
  induction fuel generalizing va n with
  | zero => cases n <;> simp [lineCuts]
  | succ f ih =>
    cases n with
    | zero => simp [lineCuts]
    | succ m =>
      intro e he
      simp only [lineCuts] at he
      rcases List.mem_cons.1 he with rfl | he
      · simp
      · have := ih _ _ e he
        have hk : va % 128 < 128 := Nat.mod_lt _ (by decide)
        omega

theorem served_big {s : State} (h : bigPage s = true) (n : Nat) (hn : n ≤ 0x400000) (acc : Access) (ha : acc ≠ .fetch)
    (w : FaultWho) : ∃ ps, s.served w none 0 none (wants acc 0x400000 n) = (s, .ok ps) := by
  have hf : s.faults = [] := by
    simp only [bigPage, Bool.and_eq_true, List.isEmpty_iff] at h
    exact h.2
  have ho : ∀ ws : List Want, s.oldWants w ws = ws := by
    intro ws
    apply List.ext_getElem <;> simp [State.oldWants, State.settledAt, hf]
  have hr : ∀ k < 0x400000, s.reach k = .ok := by
    intro k hk
    have e : s.ownAddr k = k := by simp [State.ownAddr, bits]; omega
    have : k < localTop := by simp only [localTop]; omega
    simp [State.reach, State.target, e, this]
  have key : ∀ ws : List Want, (∀ x ∈ ws, x.acc = acc ∧ ∃ k < 0x400000, x.va = 0x400000 + k) →
      ∃ ps, s.unitParts w none 0 none ws = (s, ps, none) := by
    intro ws
    induction ws with
    | nil => intro _; exact ⟨[], rfl⟩
    | cons x xs ih =>
      intro hx
      obtain ⟨e1, k, hk, e2⟩ := hx x (List.mem_cons_self ..)
      obtain ⟨ps, hp⟩ := ih fun y hy => hx y (List.mem_cons_of_mem _ hy)
      refine ⟨(k, x.n) :: ps, ?_⟩
      simp [State.unitParts, State.unitOne, State.unitXlate, State.ownBlock, e1, e2, xlate_big h k hk acc ha, hr k hk, hp]
  obtain ⟨ps, hp⟩ := key (wants acc 0x400000 n) (by
    intro x hx
    simp only [wants, List.mem_map] at hx
    obtain ⟨p, hp, rfl⟩ := hx
    have := lineCuts_within _ _ _ p hp
    exact ⟨rfl, p.1 - 0x400000, by omega, by show p.1 = _; omega⟩)
  exact ⟨ps, by simp [State.served, ho, hp]⟩

/-- The one group stands at the boundary of a context that drains; 4 MiB are mapped for its save slot. -/
def saves : State :=
  { ((ctxIs .draining).modGroup 0 0 fun G => { G with st := .boundary }).wr (layBase + 16384 + 8) (leBytes 8 0x0D) with
    launches := [(0, { launch1 .running with block := { block1 with save := 0x400000 } })] }

theorem witness_PreemptionStepsAct_save : saves.savable 1 = true ∧ saves.pendingFault (.save 1) = false ∧
    (tget? saves.teams 1).any (fun T => T.lid == 0 && T.ctx == 0 && T.index == 0) = true ∧
    (tget? saves.launches 0).isSome = true ∧ (saves.ctx 0).doomed = false := by
  decide +kernel

theorem witness_PreemptionStepsAct_slot : ∃ L ps, tget? saves.launches 0 = some L ∧
    saves.served (.save 1) none 0 none (wants .write (slotVa L.block 0) (slotSize L.block)) = (saves, .ok ps) := by
  obtain ⟨ps, h⟩ := served_big (s := saves) (by decide +kernel) 626688 (by decide) .write (by decide) (.save 1)
  exact ⟨_, ps, rfl, h⟩

/-- The one team of the launch has been saved, and its core is free. -/
def restoring : State :=
  let s := { takes with teams := [], launches := [(0, { launch1 .running with block := { block1 with save := 0x400000 } })] }
  (((s.modCore 0 fun C => { C with groups := [] }).modCtx 0 fun c =>
    { c with st := .saved, saved := [(1, { team := base.team 1, groups := [(0, (base.group? 0 0).getD (Group.start 1 0 0 128 []))],
                                           meshes := [] })] })).wr (layBase + 16384 + 8) (leBytes 8 0x0D)

theorem witness_PreemptionStepsAct_restore : ∃ S L ps, restoring.findSaved 1 = some (0, S) ∧
    tget? restoring.launches S.team.lid = some L ∧ (restoring.ctx 0).st = .saved ∧ restoring.pendingFault (.save 1) = false ∧
    (0, S.team.part) ∈ restoring.boundCores S.team.lid ∧
    restoring.served (.save 1) none 0 none (wants .read (slotVa L.block S.team.index) (slotSize L.block)) = (restoring, .ok ps) ∧
    ((restoring.clearFaults (.save 1)).placeSaved 0 1 S).isSome = true := by
  obtain ⟨ps, h⟩ := served_big (s := restoring) (by decide +kernel) 626688 (by decide) .read (by decide) (.save 1)
  exact ⟨_, _, ps, rfl, rfl, by decide +kernel, by decide +kernel, by decide +kernel, h, by decide +kernel⟩

/-- A fault of the group's fibres, and of an engine operation, under service. -/
def faulting (w : FaultWho) : State :=
  { base with faults := [(0, { ctx := 0, va := 0x5000, access := 0, who := w, forwarded := false, denied := false, fill := false, settled := false, met := 0x5000 })] }

theorem witness_PreemptionStepsAct_steps :
    let s := lane0 (fun L => { L with parked := some (.trap (mkTrap 1 0 0) 0) }) base
    (s.group? 0 0).any (fun G => G.undisposed == [(0, 0x1000, 0, mkTrap 1 0 0)]) = true ∧ (s.ctx 0).holdsTraps = false ∧
    (tget? (faulting (.fibres 0 0)).faults 0).any (fun f => f.who == .fibres 0 0 && f.due (faulting (.fibres 0 0))) = true ∧
    (let t := { base with now := 18000000 }
     (tget? t.teams 1).any (fun T => T.begun && !T.ended && T.gen.isNone && T.migrate.isNone &&
       Nat.ble (T.placedAt + 5000000) t.ptp) = true) ∧
    (let t := (ctxIs .draining).modTeam 1 fun T => { T with migrate := some 0 }
     (tget? t.teams 1).any (fun T => T.migrate == some 0) = true ∧ 0 ≤ t.ptp ∧ t.savable 1 = false ∧ t.draining 0 = true) ∧
    (0x01400020 : BitVec 32).extractLsb' 8 7 ≤ (0x01400020 : BitVec 32).extractLsb' 16 7 ∧
    (let t := { base with now := 57600 }
     7 < 8 ∧ (t.die 7).balance ≤ t.now) := by
  decide +kernel

/-- A pusher whose queue is below its watermark; held stores; a sleeper; a batch that its wave releases. -/
theorem witness_GroupTimersAct :
    let s := put (fun G => { G with st := .descheduled 1 0 (some 64), batches := G.batches.map fun B => { B with wait := some (.push 1) } }) id id
    let q := words 0x440 [0x1800, 0, 4, 3, 1, 1, 0, 1] (ctl [(0x180, 0x1400), (0x188, 2)] s)
    (q.group? 0 0).any q.pusherReady = true ∧ (q.ctx 0).st.issues = true ∧ (base.group? 0 0).isSome = true ∧
    (let h : HeldStore := { since := 0, scr := none, pa := page8, bytes := [1], nt := true, sobj := 0, relax := false }
     let t := { put (fun G => { G with held := [h] }) id id with now := 4096 }
     (t.group? 0 0).any (fun G => G.held == [h]) = true ∧ t.reach page8 = .ok ∧ h.since + 4096 ≤ t.coreCycle 0) ∧
    ((put (fun G => { G with sleep := some (0, false) }) id id).group? 0 0).any (fun G => G.sleep == some (0, false)) = true ∧
    (let t := waiting (.phase 0 0 (some 0)) base
     (t.core 0).groups.any (fun e => e.1 == 0 && e.2.batches.length == 1 && e.2.batches.all fun B => B.wait == some (.phase 0 0 (some 0))) = true ∧
     (t.core 0).groups.length = 1 ∧ 0 ≤ t.coreCycle 0) := by
  decide +kernel

/-! ### Engines, rendering and routers -/

/-- Who started an operation. -/
def origin1 : Origin := { core := 0, group := 0, role := 0, team := 0, grid := 0, pc := 0x1000, lanes := 1 }

/-- An operation of die 0, numbered 1. -/
def op1 (kind : OpKind) (taken : Bool) : EngineOp :=
  { id := 1, ctx := 0, tid := 1, core := 0, origin := origin1, major := 0x2D, op := 0, kind := kind, obj := 0, scope := 2,
    size := 1, begun := if taken then 1 else 0, slot := none, failed := none, pos := 0, flags := 0, finished := false, ticket := 0 }

/-- A move within the unit scratchpad. -/
def move1 : OpKind := .tmov { space := 1, base := 0, swizzle := 0 } { space := 1, base := 64, swizzle := 0 } 1 16 0 0

/-- A read of a table of two words at 0x1800. -/
def table1 : OpKind := .table 0x1800 2 0 false 0

/-- A decode operation on stream 0. -/
def decode1 : OpKind := .decode 0x1800 { space := 1, base := 0, swizzle := 0 } 2 64 64 0 0 0

/-- A die with operations and streams. -/
def onDie (ops : List EngineOp) (streams : Tbl Stream) : State := base.modDie 0 fun D => { D with ops := ops, streams := streams }

/-- A stream whose oldest table has not been read. -/
def stream1 : Stream :=
  { tables := [{ op := 1, ready := false, failed := none, entries := [] }], stall := 0, blocks := 0, overs := 0, lastWr := 0 }

/-- A contribution to no object. -/
def contribution1 : Contribution :=
  { ctx := 0, obj := 0, bytes := 0, done := none, fcode := none, flags := 0, origin := origin1, srckind := 0, src := 0,
    major := 0x2D, op := 0, addr := 0, gcause := 0, interest := none }

/-- An operation of the matrix unit. -/
def matrixOp1 : MatrixOp :=
  { ctx := 0, tid := 1, gctx := 0, gage := (0, 0), kind := 2, words := [], fpmode := 0, rnd := none, obj := 0, scope := 2,
    ticket := 0, chan := 0, count := 0, origin := origin1 }

theorem witness_EngineStepsAct :
    (((onDie [op1 move1 false] []).nextTake 0).any fun o => o.id == 1 && o.kind.ring == 0) = true ∧
    (((onDie [op1 move1 true] []).die 0).ops.find? (·.id == 1)).any (fun o => (onDie [op1 move1 true] []).opDue 0 o) = true ∧
    (tget? (faulting (.engine 0 1)).faults 0).any (fun f => !f.who.isFibres && f.due (faulting (.engine 0 1))) = true ∧
    ((onDie [op1 table1 true] [(0, stream1)]).tableDue 0 (16 * 0 + 0) == some (op1 table1 true)) = true ∧
    okd (match (onDie [op1 table1 true] [(0, stream1)]).reachOp 0 (op1 table1 true)
          (({ space := 0, base := 0x1800, swizzle := 0 } : Side).wants .read 8 0 false) with
        | (t, .ok ps) => (match t.sideWords 0 ps { space := 0, base := 0x1800, swizzle := 0 } [0, 4] with
          | .ok bs => (t, (.ok bs : Except Unit (List Byte)))
          | _ => (t, .error ()))
        | (t, _) => (t, .error ())) (fun _ bs => bs.length == 8) = true ∧
    (let s := { onDie [{ op1 decode1 true with id := 2 }] [(0, stream1)] with now := 65536 }
     (s.die 0).stalled (16 * 0 + 0) = true ∧ ((s.die 0).stream (16 * 0 + 0)).lastWr + 65536 ≤ s.now) ∧
    (let s := { base with contribs := [(0, contribution1)] }
     (tget? s.contribs 0).isSome = true ∧ s.pendingFault (.contribution 0) = false) ∧
    (let s := base.modCore 0 fun C => { C with mqueue := [matrixOp1], mbegan := some 0 }
     (s.core 0).mqueue = [matrixOp1] ∧ (s.core 0).matrixDue (s.coreCycle 0) = true) ∧
    (let r : Remote := { ctx := 0, lines := [], due := 0, core := 0, g := 0, tid := 1, store := false, who := none, ended := false }
     let s := { base with remotes := [(0, r)] }
     tget? s.remotes 0 = some r ∧ r.due ≤ s.now ∧ r.ended = false) := by
  decide +kernel

theorem witness_EngineStepsAct_waiting :
    let s := { waiting (.op 7 15) base with tickets := [(7, none)] }
    let p := { waiting (.op 7 6) base with tickets := [(7, some 0x40)] }
    Again s (iss s) ∧ (iss s).B.wait = some (.op 7 15) ∧ (tget? s.tickets 7).isSome = true ∧ tget? s.tickets 7 = some none ∧
    s.retiring 7 0 2 0 0 = false ∧ Again p (iss p) ∧ (iss p).B.wait = some (.op 7 6) ∧ tget? p.tickets 7 = some (some 0x40) :=
  ⟨again_meets (by decide +kernel), by decide +kernel, by decide +kernel, by decide +kernel, by decide +kernel,
    again_meets (by decide +kernel), by decide +kernel, by decide +kernel⟩

/-- A record of the pass. -/
def prim1 : PrimRec := { batchSeq := 0, team := 0, prim := 0, topo := 0, verts := { xyzw := [], attrs := [] }, tiles := [0] }

/-- A running tile launch with a pass, bound to core 0. -/
def rendering (P : Pass) : State :=
  { takes with
    launches := [(0, { launch1 .running with block := { block1 with tile := true, nroles := 2, roles := block1.roles ++ block1.roles } })]
    passes := [(0, P)] }

/-- The team holds tile 0, of whose list one entry is left, or has handed it over. -/
def tileTeam (t : TileTask) : State := (rendering pass1).modTeam 1 fun T => { T with tile := some t }

def task1 : TileTask :=
  { tile := 0, final := true, lo := 0, hi := 1, at_ := 0, quad := 0, winners := none, image := none, held := true,
    tret := none, failed := none }

theorem witness_RenderStepsAct :
    ((rendering { pass1 with taken := 1, sizes := [1], binners := [(0, { held := [prim1], ends := [] })] }).passOpen 0).any
      (fun P => P.nextRec 0 == some prim1 && P.batches.isEmpty) = true ∧
    ((rendering { pass1 with closed := true }).admitTask 0 0 0).isSome = true ∧
    ((tileTeam task1).rasterStep 1).isSome = true ∧
    ((tileTeam { task1 with held := false, tret := some (0, 0, origin1) }).tretDue 1 true).any (fun r =>
      r.2.2.1.1 == 0 && r.2.2.2.failed.isNone && (r.2.2.2.tile r.2.1.tile).bad.isNone && (r.2.2.2.rs.plane 0).isSome) = true ∧
    ((tileTeam { task1 with final := false, held := false, tret := some (0, 0, origin1) }).tretDue 1 false).isSome = true ∧
    (tget? (rendering pass1).launches 0).isSome = true ∧ (tget? (rendering pass1).passes 0).isSome = true ∧
    (tileTeam { task1 with image := some 3 }).hangPass 0 0 0 = some 0 ∧
    (tileTeam { task1 with image := some 3 }).hangImage 0 0 0 0 = some 3 := by
  decide +kernel

theorem witness_RenderStepsAct_binners :
    let P : Pass := { pass1 with taken := 1, sizes := [1], binners := [(0, { held := [prim1], ends := [] })] }
    let s := rendering P
    (tget? s.launches 0).any (·.st == .running) = true ∧ (s.ctx 0).holdsTraps = false ∧ tget? s.passes 0 = some P ∧
    P.nextRec 0 = some prim1 ∧ prim1.tiles = [0] := by
  decide +kernel

/-- A tile of the one launch's pass is admitted with clear planes. -/
theorem witness_RenderStepsAct_admit :
    let P : Pass := { pass1 with closed := true }
    let s := rendering P
    (s.passOpen 0).isSome = true ∧ (s.ctx 0).st = .active ∧ 0 < P.ntiles ∧ s.pendingFault (.reload 0 0) = false ∧
    P.nextTask 0 = some (0, 0, true) ∧ (s.boundCores 0).find? (fun c => c.1 == 0) = some (0, 0) ∧ (P.tile 0).spilled = false ∧
    (tget? s.launches 0).any (fun L =>
      let task : TileTask :=
        { tile := 0, final := true, lo := 0, hi := 0, at_ := 0, quad := 0, winners := none, image := tget? (s.ctx 0).images 0,
          held := true, tret := none, failed := none }
      let l := s.loadPlanes 0 0 0 0 P
      l.2.isSome && (s.admitGrid 0 0 0 0 L.grid 0 L.block (!L.gated) (some 1) fun T => { T with tile := some task }).isSome &&
        (l.1.admitGrid 0 0 0 0 L.grid 0 L.block (!L.gated) (some 1) fun T => { T with tile := some task }).isSome) = true := by
  decide +kernel

/-- A triangle that covers the first pixel of the tile, at depth 0. -/
def prim2 : PrimRec := { prim1 with verts := {
  xyzw := [[0, 0, 0, 0x3F800000], [0x42800000, 0, 0, 0x3F800000], [0, 0x42800000, 0, 0x3F800000]], attrs := [[], [], []] } }

/-- The tile's list holds a record, the depth test passes always, and the team has a group of the fragment role. -/
def rastering (hsr : Bool) (r : PrimRec) : State :=
  let planes : List Plane := [{ fmt := 5, blend := 0, cmp := 7, dwrite := true, offset := 4096, clear := [] }]
  let P : Pass := { pass1 with
    rs := { pass1.rs with hsr := hsr, planes := planes }
    tiles := [(0, { TileRec.start with entries := [r] })] }
  ((rendering P).modTeam 1 fun T => { T with tile := some task1 }).setGroup 0 1 { Group.start 1 0 1 128 [] with role := 1 }

theorem witness_RenderStepsAct_raster :
    ([rastering true prim2, rastering false prim1, rastering false prim2] : List State).all (fun s =>
      (tget? s.teams 1).any (fun T => T.begun && T.lid == 0 && T.ctx == 0) && (s.ctx 0).st.issues) = true ∧
    (tget? (rastering true prim2).passes 0).any (fun P => P.rs.depth.isSome && P.rs.hsr) = true ∧
    (tget? (rastering false prim1).passes 0).any (fun P => (P.tile 0).entries[0]? == some prim1 &&
      (((rastering false prim1).rasterImage ((rastering false prim1).team 1) task1).nextQuad ((rastering false prim1).team 1) task1
        P prim1).isNone) = true ∧
    (let s := rastering false prim2
     let u := s.rasterImage (s.team 1) task1
     (tget? s.passes 0).any (fun P => (P.tile 0).entries[0]? == some prim2 && u.nextQuad (s.team 1) task1 P prim2 == some 0 &&
       u.freeQuad 1 P.rs.frole == some (1, 0)) = true ∧
     (tget? s.launches 0).any (fun L => L.block.roles[1]?.isSome) = true) := by
  decide +kernel

/-- The tile is handed over by a final TRET, or by a prefix one; its frame is the mapped page, its spill slot lies in the 4 MiB
at 0x400000. -/
def handedOver (fin : Bool) : State :=
  let P : Pass := { pass1 with rs := { pass1.rs with fbase := 0x1000, spill := 0x400000 } }
  ((rendering P).modTeam 1 fun T =>
    { T with tile := some { task1 with final := fin, held := false, tret := some (0, 0, origin1) } }).wr (layBase + 16384 + 8) (leBytes 8 0x0D)

theorem witness_RenderStepsAct_export :
    let s := handedOver true
    let b := { s with scrPoison := [(.unit 0, (s.team 1).ubase)] }
    s.pendingFault (.tile 1) = false ∧ (tget? s.passes 0).any (fun P => P.failed.isNone && (P.tile 0).bad.isNone &&
      (P.rs.plane 0).any (fun p => !s.planesBad (s.team 1) [p] && b.planesBad (b.team 1) [p] &&
        (match s.served (.tile 1) (some 0) 0 none ((exportRows P.rs 0 p (s.scrRead (.unit 0) ((s.team 1).ubase + p.offset)
            (1024 * planeSize p.fmt))).flatMap fun r => wants .write r.1 r.2.length) with
         | (_, .ok _) => true
         | _ => false))) = true := by
  decide +kernel

theorem witness_RenderStepsAct_spill :
    let s := handedOver false
    s.pendingFault (.tile 1) = false ∧ (tget? s.passes 0).any (fun P => !s.planesBad (s.team 1) P.rs.described &&
      (match s.served (.tile 1) (some 0) 0 none (wants .atomic (P.rs.slotVa 0) P.rs.slotSize) with
       | (_, .ok _) => true
       | _ => false)) = true := by
  decide +kernel

/-- A batch at SMPL, and one at RAYQ, of a context with images for both. -/
theorem witness_RenderStepsAct_hang :
    ([(2, 0xE02D0053), (3, 0xE40A0E41)] : List (Nat × Nat)).all (fun e =>
      let s := words 0 [e.2] (base.modCtx 0 fun c => { c with images := [(2, 5), (3, 6)] })
      (s.group? 0 0).isSome && (tget? (s.ctx 0).images e.1).isSome && ((s.atSequencer e.1 0 0).bind (·.issuer)).isSome) = true := by
  decide +kernel

theorem witness_RenderStepsAct_onyx :
    let s := ctl [(0x1D8, 1)] (waiting (.onyx 0x100000 1) base)
    (s.onyxWaiters 0 0x100000 1).all (fun e => e.1 == 0 && e.2.1 == 0) = true ∧ (s.onyxWaiters 0 0x100000 1).length = 1 ∧
    (s.group? 0 0).any (fun G => G.batches.length == 1 && G.batches.all fun B => B.waitsOnyx 0x100000 1) = true ∧
    (s.ctx 0).onyxTr 0x100000 1 = none ∧ (s.ctx 0).onyxRoom = true := by
  decide +kernel

/-- An interest of team 1 in name 7. -/
def interest1 (st : InterestState) (sent : Bool) (expires : Nat) : Interest :=
  { ctx := 0, tid := 1, name := 7, reach := 3, dst := { space := 1, base := 0, swizzle := 0 }, cap := 1024, obj := 0, scope := 2,
    core := 0, expires := expires, st := st, sent := sent, origin := origin1 }

/-- It stands on die 0. -/
def interested (i : Interest) : State := base.modDie 0 fun D => { D with interests := [(4, i)] }

/-- The same name at package router 8: a copy, an outstanding request of die 0, or neither. -/
def homed (copies : List TileCopy) (requests : List Request) : State :=
  { interested (interest1 .waiting false 9) with hdies := [(0, { HDie.start with copies := copies, requests := requests })] }

/-- A stored copy of name 7. -/
def copy1 : TileCopy := { ctx := 0, name := 7, reach := 3, bytes := [1, 2, 3, 4], stamp := 0 }

theorem witness_RouterAndFillStepsAct_forward :
    let r : Request := { ctx := 0, name := 7, child := 0, reach := 2 }
    tget? ((homed [] []).die 0).interests 4 = some (interest1 .waiting false 9) ∧ 8 + 7 / 2 ^ 44 % 2 = 8 ∧
    (homed [copy1] []).findCopy 8 0 7 = some copy1 ∧
    (homed [] [r]).findCopy 8 0 7 = none ∧ (homed [] [r]).outstanding 0 (interest1 .waiting false 9) = true ∧
    (homed [] []).findCopy 8 0 7 = none ∧ (homed [] []).outstanding 0 (interest1 .waiting false 9) = false ∧
    ((homed [] []).hdie 0).requests.length < 16384 := by
  decide +kernel

/-- A tile of name 7 on its way to a router. -/
def flying (router : Nat) (up : Bool) (s : State) : State := { s with flights := [{
  id := 3, ctx := 0, name := 7, reach := 3, at_ := router, bytes := [1, 2, 3, 4], up := up, obj := 0, origin := origin1 }] }

/-- The context's marks lie at physical address 0; a router has retired the name, holds a copy of it, or neither. -/
theorem witness_RouterAndFillStepsAct_arrival :
    let due (s : State) : Bool := (s.flights.find? fun f => f.id == 3).any s.arrivalDue
    let stored := base.modDie 0 fun D => { D with copies := [copy1] }
    let marked := base.setMark 0 0 0 7
    due (flying 0 true marked) = true ∧ (flying 0 true marked).retiredAt 0 0 0 7 = true ∧
    due (flying 0 true stored) = true ∧ (flying 0 true stored).retiredAt 0 0 0 7 = false ∧
    ((flying 0 true stored).findCopy 0 0 7).isSome = true ∧
    due (flying 0 true base) = true ∧ (flying 0 true base).retiredAt 0 0 0 7 = false ∧
    (flying 0 true base).findCopy 0 0 7 = none ∧
    due (flying 8 true base) = true ∧ (flying 8 true base).retiredAt 0 8 0 7 = false ∧ (flying 8 true base).findCopy 8 0 7 = none ∧
    due (flying 0 false base) = true := by
  decide +kernel

theorem witness_RouterAndFillStepsAct_routers :
    (let i := interest1 (.writing [1, 2, 3, 4] 0) true 9
     let s := { interested i with now := 1 }
     tget? (s.die 0).interests 4 = some i ∧ i.st = .writing [1, 2, 3, 4] 0 ∧ 0 < s.now ∧
     ([1, 2, 3, 4] : List (BitVec 8)).length ≤ i.cap ∧ s.pendingFault (.interest 0 4) = false ∧
     (match s.served (.interest 0 4) (some 0) 0 (s.team 1).gen ((i.dst.wants .write 4 0 false).map (·.2)) with
      | (_, .ok _) => true
      | _ => false) = true) ∧
    (let i := interest1 .waiting true 0
     tget? ((interested i).die 0).interests 4 = some i ∧ i.expires ≤ (interested i).ptp) ∧
    ([0, 8] : List Nat).all (fun q =>
      let r : Retire := { id := 3, ctx := 0, tensor := 0, iter := 0, router := q, ticket := 0, since := 0 }
      let s := { base with retires := [r], now := 1 }
      s.retires.find? (fun r => r.id == 3) == some r && Nat.blt r.since s.now) = true ∧
    (let v : Inval := { id := 3, ctx := 0, range := none, cmd := none, evict := none }
     let s := { base with invals := [v] }
     s.invals.find? (fun i => i.id == 3) = some v ∧ s.holdsLine v = false) := by
  decide +kernel

/-- A range of one block of 64 KiB at 0x10000, in range table 0x1400; the block is FILLED; its generator is at 0x1A00. -/
def procedural : State :=
  ((words 0xA00 blockWords (words 0x400 [0x10000, 0, 1, 8, 1, 2, 0x1A00, 0] (ctl [(0x0D8, 0x1400), (0x0E0, 1)] base))).wr
    (layBase + 24576 + 128) (List.replicate 16 (leBytes 8 (0x107000 + 0x2CD))).flatten)

/-- The block in a state, with a fill of it; record 2 covers its first bytes. The team is a generator team or none. -/
def greqState (fs : Nat) (evicting : Bool) (g : Option GenFill) : State :=
  let s := procedural.wr (layBase + 24576 + 128) (List.replicate 16 (leBytes 8 (0x1070CD + 256 * fs))).flatten
  let f : FillRec := { id := 4, block := 0x10000, range := 0, depth := 0, chain := [], evicting := evicting, started := true }
  let t := (s.modCtx 0 fun c => { c with fills := only (evicting || fs == fsFilling) f }).modTeam 1 fun T =>
    { T with gen := g }
  args [2, 0] (recd 2 0x10000 256 0 t)

/-- A generator team of another block, at a depth, its fill started by a fill. -/
def genFill (depth by_ : Nat) : GenFill :=
  { block := 0x20000, range := 0, depth := depth, fill := 5, chain := [by_], verdict := none, decided := false }

/-- GREQ meets a block in each state. -/
theorem witness_GeneratorsAct_blocks :
    let meets (s : State) (fs : Nat) (evicts : Bool) : Bool := ready s (.greq 4 1 0) &&
      (match ((iss s).T.rec_ 2).addr 0 4 true false with
       | .ok (some (_, pva)) =>
         (match ((frm (.greq 4 1 0) s).slot s (iss s)).xlateCore 0 0 (lineOf pva) .read with
          | (t, .proc b f) => b == 0x10000 && f == fs && (t.ctx 0).evictsBlock b == evicts
          | _ => false)
       | _ => false)
    let limit := (procedural.ctx 0).depthLimit
    meets (greqState 2 true none) fsFilling true = true ∧ meets (greqState 3 false none) fsPoisoned false = true ∧
    meets (greqState 0 false none) fsUnfilled false = true ∧ meets (greqState 1 false none) fsFilling false = true ∧
    meets (greqState 0 false (some (genFill (limit - 1) 4))) fsUnfilled false = true ∧ limit ≠ 0 ∧
    meets (greqState 0 false (some (genFill limit 4))) fsUnfilled false = true ∧
    meets (greqState 1 false (some (genFill 0 4))) fsFilling false = true ∧
    (greqState 1 false (some (genFill 0 4))).inChain 0 (genFill 0 4) 0x10000 = true ∧
    (greqState 1 false (some (genFill 0 3))).inChain 0 (genFill 0 3) 0x10000 = false := by
  decide +kernel

theorem witness_RouterAndFillStepsAct_generator :
    let f : FillRec := { id := 4, block := 0x10000, range := 0, depth := 0, chain := [], evicting := false, started := false }
    let g : GenFill := { block := 0x10000, range := 0, depth := 0, fill := 4, chain := [], verdict := none, decided := false }
    let s := procedural.modCtx 0 fun c => { c with fills := [f] }
    191 < 192 ∧ (s.ctx 0).st.issues = true ∧ s.pendingFault (.generator 0 0x10000) = false ∧
    (s.ctx 0).fills.find? (fun f => f.block == 0x10000 && !f.evicting && !f.started) = some f ∧
    (match s.rangeDesc 0 0 with
     | some r => (match s.readGenerator 0 f r.gen with
       | (t, .ok b) =>
         let u := (t.clearFaults (.generator 0 0x10000)).freeGrid 0
         (u.1.admitGrid 191 1 0 0 u.2 0 (b.forFill 0x10000 r.bsize ((0x10000 - r.base) / r.bsize)) true none
           fun T => { T with gen := some g }).isSome
       | _ => false)
     | none => false) = true := by
  decide +kernel

theorem witness_RouterAndFillStepsAct_eviction :
    let s := procedural.modCtx 0 fun c => { c with gdone := [(0, 0x20000)], filled := [(0x10000, 0, 0)] }
    let t := procedural.modCtx 0 fun c => { c with evictq := [(0x10000, 0, 65536, 5)] }
    (s.ctx 0).gdone.find? (fun e => e.1 == 0) = some (0, 0x20000) ∧ (s.ctx 0).evictq = [] ∧ (s.ctx 0).evicts 0 = false ∧
    (s.ctx 0).holdsTraps = false ∧ (s.rangeDesc 0 0).any (fun r => r.budget != 0 && Nat.blt r.budget r.filled &&
      s.victim 0 r 0x20000 == some 0x10000) = true ∧
    (t.ctx 0).evictq.find? (fun e => e.2.1 == 0) = some (0x10000, 0, 65536, 5) ∧ (t.ctx 0).evicts 0 = false ∧
    (t.ctx 0).holdsTraps = false ∧ (t.procLeaf 0 0x10000).any (fun l => t.fillState 0 l == 2) = true := by
  decide +kernel

/-! ### Observation, power and the device -/

theorem witness_ObservationAndPowerStepsAct_observation :
    let s := base.modCore 0 fun C => { C with sampling := 0x100010, expiry := some 0 }
    let t := ctl [(0x068, 32)] s
    (s.core 0).sampling.getLsbD 20 = true ∧ (s.core 0).expiry = some 0 ∧ 0 ≤ s.coreCycle 0 ∧ s.clocked 0 = true ∧
    (s.nextSampled 0).isNone = true ∧
    (t.core 0).sampling.getLsbD 20 = true ∧ (t.core 0).expiry = some 0 ∧ 0 ≤ t.coreCycle 0 ∧ t.clocked 0 = true ∧
    (t.nextSampled 0).isSome = true ∧
    (let u := base.modDie 7 fun D => { D with sync := (true, false) }
     (u.die 7).edge = true ∧ (u.die 7).sync.1 = true) ∧
    (let u := { base with now := 1, lats := [(0, { ctx := 0, core := 0, g := 0, cycle := 0, pc := 0x1000, regions := [], op := 0,
                                                   target := 0, va := 0, pa := 0, eng := none, serial := 0, reply := some 1 })] }
     (u.replyDue 0).isSome = true) := by
  decide +kernel

/-- The islands of a quadrant of core 1, which holds no group. -/
def quadIs (now : Nat) (st : IslandState) : State := { base.modQuad 1 0 fun I => { I with st := st } with now := now }

theorem witness_ObservationAndPowerStepsAct_power :
    (put (fun G => { G with sleep := some (1000, true) }) id id).ntDue 0 0 0 = true ∧
    (let s := base.modQuad 0 0 fun I => { I with leaving := I.leaving.set 3 (some 0) }
     (s.quad 0 0).leaving[3]? = some (some 0) ∧ 0 ≤ s.now) ∧
    (let s := quadIs 7200 (.hold 0)
     (s.quad 1 0).st = .hold 0 ∧ 0 + 7200 ≤ s.now ∧ (∀ e ∈ (s.core 1).groups, e.1 / 16 ≠ 0) ∧ s.downQuads (1 / 24) ≤ 1) ∧
    (let s := ({ base with now := 40 } : State).modDie 0 fun D => { D with ramps := [(1, 0, 0)] }
     (s.die 0).ramps = [(1, 0, 0)] ∧ 0 + 40 ≤ s.cycle 0 ∧ s.ramps 0 = false) ∧
    (let s := quadIs 4320 (.ramping 0)
     (s.quad 1 0).st = .ramping 0 ∧ 0 + 4320 ≤ s.now) ∧
    (let s := { base with host := { base.host with budgetEnd := some 0 } }
     s.host.budgetEnd = some 0 ∧ 0 ≤ s.ptp) ∧
    (let s := base.modDie 7 fun D => { D with replan := 0 }
     (s.die 7).replan ≤ s.ptp ∧ (s.die 7).planOk 505 3600 = true ∧ (s.die 7).mv ≤ 540 ∧ (s.die 7).mv % 5 = 0) ∧
    (0x0F0F0F0F : BitVec 32) &&& (base.cluster 0).pattern = 0x0F0F0F0F ∧
    (0x0101 : BitVec 32).extractLsb' 0 6 ≠ 0 ∧ (0x0101 : BitVec 32).extractLsb' 6 2 = 0 ∧
    (0x0101 : BitVec 32).extractLsb' 8 8 ≠ 0 ∧ (0x0101 : BitVec 32).extractLsb' 16 16 = 0 ∧
    256 ≤ ((0x10100 : BitVec 32).extractLsb' 0 16).toNat ∧ (0x10100 : BitVec 32).extractLsb' 17 15 = 0 := by
  decide +kernel

theorem witness_DeviceStepsAct :
    State.reset.fabricUp 95 = true ∧
    (let s := { base with host := { base.host with ports := [(95, false)] } }
     s.fabricUp 95 = false) ∧
    (State.reset.hdie 1).cxlUp = true ∧
    (let s := { base with hdies := [(1, { HDie.start with cxlUp := false })] }
     (s.hdie 1).cxlUp = false) ∧
    State.reset.host.portUp ≠ false ∧ (1 : BitVec 384) ∉ State.reset.host.keys ∧
    (let s := { State.reset with tsWritten := 16, tsForce := 8 }
     s.tsWritten ≠ s.tsForce ∧ s.quiet = true) ∧
    (let s := { State.reset with idWritten := 5 }
     s.idWritten ≠ s.idForce ∧ s.quiet = true) := by
  decide +kernel

/-! ### The host link -/

/-- A session in its first turn. -/
def session1 : Session :=
  { priority := 5, power := true, expiry := 2 ^ 40, next := 0, ahead := [], kept := [], heard := 0, claim := some (2 ^ 40),
    frozen := false }

/-- Session 1 is the owner, session 2 is frozen, session 3 may be elected. -/
def hosted : State :=
  { base with host := { base.host with
      sessions := [(1, session1), (2, { session1 with frozen := true }), (3, session1)], nextSess := 4, owner := some 1,
      keys := [1] } }

theorem inTurn : hosted.InTurn 1 0 session1 :=
  ⟨by decide +kernel, by decide +kernel, rfl, by decide, rfl, rfl, by decide +kernel⟩

/-- The device of the session has no owner; or is in recovery; or its context 1 has no features yet. -/
def ownerless : State := { hosted with host := { hosted.host with owner := none } }
def recovering : State := { hosted with host := { hosted.host with boot := 1, imageSize := 64 } }

theorem witness_SessionRequestsServed : hosted.InTurn 1 0 session1 ∧ ownerless.InTurn 1 0 session1 ∧
    recovering.InTurn 1 0 session1 ∧ hosted.host.boot = 0 ∧ hosted.host.owner = some 1 ∧ ownerless.host.owner = none ∧
    4095 < 4096 ∧ (hosted.ctx 4095).features = none ∧ (0x3FF : BitVec 256).getLsbD 0 = true ∧
    (0x3FF : BitVec 256) &&& 0x3FF = 0x3FF ∧ hosted.host.owner ≠ none ∧
    (tget? hosted.host.sessions 3).any (·.candidate hosted.ptp) = true ∧ session1.power = true ∧
    (tget? hosted.host.sessions 2).any (·.frozen) = true ∧ recovering.host.boot ≠ 0 ∧ recovering.host.owner = some 1 ∧
    67108863 + ([0] : List (BitVec 8)).length ≤ 67108864 := by
  refine ⟨inTurn, ⟨by decide +kernel, by decide +kernel, rfl, by decide, rfl, rfl, by decide +kernel⟩,
    ⟨by decide +kernel, by decide +kernel, rfl, by decide, rfl, rfl, by decide +kernel⟩, ?_⟩
  decide +kernel

/-- The last bytes of the mapped page; a block for queue 0, which has one place. -/
theorem witness_SessionRequestsServed_memory :
    let s := { queuedLaunch with host := hosted.host }
    let Q (s : State) := (s.hear 1).launchQueue 0 0
    (match (s.hear 1).vaRead 0 0x1FFF 1 with
     | .ok bs => bs.length == 1
     | _ => false) = true ∧
    (match (s.hear 1).vaWrite 0 0x1FFF [7] with
     | .ok _ => true
     | _ => false) = true ∧
    (let t := words 0x400 [0x1A00, 0, 1, 0, 0, 1] s
     (Q t).any (fun q => q.enabled && !q.stopped && Nat.ble (q.waiting + 1) q.cap &&
       (match (t.hear 1).putBlocks 0 q q.tail [List.replicate 256 0] with
        | .ok _ => true
        | _ => false)) = true ∧ (t.ctx 0).st ≠ .lost ∧ t.host.boot = 0 ∧ t.host.owner = some 1) := by
  decide +kernel

/-- Context 0 of the device in a state; a forwarded fault of it; its procedural block. -/
theorem witness_CommandsServed :
    let s (st : CtxState) := { ctxIs st with host := hosted.host }
    hosted.InTurn 1 0 session1 ∧ hosted.host.boot = 0 ∧ hosted.host.owner = some 1 ∧ (hosted.ctx 4095).features = none ∧
    ((s .active).ctx 0).st = .active ∧ ((s .draining).ctx 0).st = .draining ∧ ((s .stopped).ctx 0).st = .stopped ∧
    ((s .frozen).ctx 0).st = .frozen ∧ ((s .lost).ctx 0).st = .lost ∧ (2 ^ 52 - 1) + 1 ≤ 2 ^ 52 ∧
    (let t := { base with host := hosted.host, faults := [(9, { ctx := 0, va := 0x5000, access := 0, who := .fibres 0 0,
                                                                forwarded := true, denied := false, fill := false, settled := false, met := 0x5000 })] }
     (tget? t.faults 9).any (fun f => f.ctx == 0 && f.forwarded && !f.denied) = true) ∧
    (let t := { procedural with host := hosted.host }
     ((t.hear 1).procLeaf 0 0x1FFFF).any (fun l => (t.hear 1).registered 0 l && (t.hear 1).fillState 0 l == fsFilled &&
       l.va == 0x10000) = true ∧ ((t.hear 1).rangeOf 0 0x1FFFF).isSome = true ∧ (t.ctx 0).fills = []) := by
  refine ⟨inTurn, ?_⟩
  decide +kernel

/-- A write of the last word of each block, to a context in whose blocks nothing stands in the way. -/
theorem witness_ControlWritesServed : hosted.InTurn 1 0 session1 ∧ hosted.host.boot = 0 ∧ hosted.host.owner = some 1 ∧
    ([(0x000, 0x008, 0), (0x040, 0x000, 0), (0x060, 0x008, 4), (0x080, 0x008, 4), (0x0C0, 0x008, 0), (0x100, 0x040, 0),
      (0x180, 0x05C, 0), (0x240, 0x000, 0)] : List (Nat × Nat × BitVec 8)).all (fun e =>
        ((hosted.hear 1).writeSpace 4095 (e.1 + e.2.1) [e.2.2, 0, 0, 0]).isSome && e.2.1 % 4 == 0 &&
          (Nat.ble (e.1 + e.2.1 + 4) 0x200 || Nat.ble 0x240 (e.1 + e.2.1))) = true ∧
    (0x100010 : BitVec 32).extractLsb' 22 10 = 0 ∧ (0x100010 : BitVec 32).getLsbD 20 = true ∧
    16 ≤ ((0x100010 : BitVec 32).extractLsb' 0 20).toNat ∧ (1023 : BitVec 32).toNat < 1024 :=
  ⟨inTurn, by decide +kernel⟩

theorem witness_SessionStepsAct : hosted.host.hears = true ∧ (List.replicate 32 (0 : BitVec 8)).length = 32 ∧
    credentialFits (List.replicate 160 0) = true ∧ credentialFits (List.replicate 159 0) = false ∧
    (let s := { hosted with now := 36000000000, host := { hosted.host with leaseEnd := 0 } }
     s.host.owner = some 1 ∧ s.host.leaseEnd ≤ s.ptp ∧
     (tget? s.host.sessions 1).any (fun S => Nat.ble (S.heard + 10000000000) s.ptp) = true) ∧
    (let s := { hosted with host := { hosted.host with sessions := [(1, { session1 with expiry := 0 })] } }
     s.host.owner = some 1 ∧ (tget? s.host.sessions 1).any (fun S => Nat.ble S.expiry s.ptp) = true ∧
     ∀ e ∈ s.host.sessions, e.2.candidate s.ptp = false) ∧
    (let s := { hosted with host := { hosted.host with sessions := [(3, session1)] } }
     session1.candidate s.ptp = true) ∧
    (let e : EventRec := { num := 4, session := 1, payload := [], sent := 0, times := 1 }
     let s := { hosted with now := 36000000, host := { hosted.host with events := [e] } }
     s.host.events = [e] ∧ e.sent + 36000000 ≤ s.now) := by
  decide +kernel

/-! ### The word of ILL, frames, traps and invariants -/

theorem witness_IllWords : 0x001FFFFF < 2 ^ 32 ∧ 0x001FFFFF / 2 ^ 26 = 0 ∧ 0x001FFFFF / 2 ^ 21 % 32 = 0 ∧
    ∃ I F, formOf (.ill 0) base = some F ∧ base.issuer = some I ∧ I.first = true ∧
      F.check I.hv I.G.budget (base.ctx I.x) = none ∧ F.blocked I.hv I.G I.lanes I.act = false ∧
      ∀ l ∈ I.act, F.checkLane I.hv (base.ctx I.x).scoreboard I.G I.act l = none :=
  ⟨by decide, by decide, by decide, _, _, rfl, rfl, by decide +kernel, by decide +kernel, by decide +kernel, by decide +kernel⟩

theorem issuer_is {s : State} (h : s.issuer.isSome = true) : s.issuer = some (iss s) := by
  obtain ⟨I, e⟩ := Option.isSome_iff_exists.1 h
  simp [iss, e]

/-- A PRED hint on p0, which is 0. -/
def inactive : State := batch0 (fun B => { B with hints := [{ pc := 0xFFC, kind := 2, payload := 0 }] }) base

theorem witness_InactiveBatchesDoNothing : ∃ F I, formOf (.vadd 3 1 2 0) inactive = some F ∧ inactive.issuer = some I ∧
    I.first = true ∧ I.Lives ∧ I.act = [] ∧ F.blocked I.hv I.G I.lanes I.act = false :=
  ⟨_, iss inactive, rfl, issuer_is (by decide +kernel), by decide +kernel, lives_meets (by decide +kernel),
    by decide +kernel, by decide +kernel⟩

theorem witness_FinishFrame : base.issuer = some (iss base) ∧ (iss base).Lives ∧
    GoesOn [{ lane := 0, writes := [(.v 0 3, 7), (.p 0 31, 1)], next := some 0x1010, flags := 1 }] :=
  ⟨issuer_is base_issues, lives_meets (by decide +kernel), by intro o h; simp only [List.mem_singleton] at h; subst h; decide⟩

theorem witness_FinishFrame_late : ({ base with delays := [3] } : State).issuer.isSome = true ∧
    (iss ({ base with delays := [3] } : State)).Lives ∧ ({ base with delays := [3] } : State).delays.headD 0 ≠ 0 :=
  ⟨by decide +kernel, lives_meets (by decide +kernel), by decide⟩

theorem witness_FixedLatencyCompletes : Meets (.vaddc 3 1 2 0) base ∧ (frm (.vaddc 3 1 2 0) base).lat = some 4 :=
  ⟨ready_meets (by decide +kernel), by decide +kernel⟩

/-- Two writes of v3 in flight: the one that issued first lands last. -/
theorem witness_WritesLandInOrder :
    let f : InFlight := { due := 12, ref := .v 0 3, val := 1 }
    let G := { Group.start 1 0 0 128 [] with inflight := [f, { due := 6, ref := .v 0 3, val := 2 }] }
    f ∈ G.inflight ∧ f.due ≤ 12 ∧ (∀ h ∈ G.inflight, h.ref = f.ref → h ≠ f → h.due ≤ 12 → h.due < f.due) ∧
      (∀ g ∈ G.inflight, g.ref = .v 0 4 → 12 < g.due) := by decide

/-- A write of 16 bits of v3 lands; a load into v5 is pending and lands, and a batch waited for it. -/
theorem witness_WritesLandInOrder_parts :
    let f : InFlight := { due := 6, ref := .vbits 0 3 16 16, val := 2 }
    let h : InFlight := { due := 9, ref := .v 0 5, val := 7 }
    let G := { Group.start 1 0 0 128 [] with inflight := [f], pending := [h] }
    f ∈ G.inflight ∧ f.due ≤ 6 ∧ G.inflight.filter (fun k => k.ref.whole = .v 0 3 && k.due ≤ 6) = [f] ∧
      h ∈ G.pending ∧ h.due ≤ 9 ∧ (∀ k ∈ G.pending, k.ref.whole = h.ref.whole → k = h) ∧
      (∀ k ∈ G.pending, k.ref.whole = .v 0 6 → 9 < k.due) := by decide

/-- Context 0 gives code 17 to a handler at 0x2000. -/
def handled (f : Lane → Lane) : State := lane0 f (ctl [(0x000, 0x2000), (0x008, 0x20000)] base)

theorem witness_SoftwareTrapsDelivered : ([id, fun L => { L with handler := true }] : List (Lane → Lane)).all (fun f =>
    let s := handled f
    let C := s.ctx 0
    ready s (.trap 7 0) && lives s && C.st == .active && (iss s).T.gen.isNone && !(C.word 0x00C).testBit 17 &&
      (C.word 0x008).testBit 17 && C.dword 0x000 != 0 && !(iss s).G.owes (iss s).act && (iss s).x == 0) = true ∧
    (∀ l ∈ (iss (handled id)).act, ((iss (handled id)).G.lane l).handler = false) ∧
    (∀ l ∈ (iss (handled fun L => { L with handler := true })).act,
      ((iss (handled fun L => { L with handler := true })).G.lane l).handler = true) := by
  decide +kernel

/-- The state after reset, and after a step. -/
theorem witness_StepKeepsMemOk : State.reset.MemOk ∧ ∃ t, step State.reset = .next t := by
  refine ⟨⟨by decide, fun x => by cases x <;> rfl⟩, ?_⟩
  have h : (match step State.reset with
    | .next _ => true
    | _ => false) = true := by decide +kernel
  split at h
  · next t e => exact ⟨t, e⟩
  · cases h

theorem witness_MemoryIsCanonical : Memory.wf [(3, 1), (7, 2)] = true := by decide

/-! ## More of what instructions do -/

/-- 01_word.md, the example of FFMA; 02_control_arith.md, the example of QPOP. -/
theorem test_example_words : decodeWord 0x63140C25 = .instr (.ffma 10 3 4 5) ∧
    decodeWord 0x14048040 = .instr (.qpop 1 16 4 0) := by decide +kernel

/-- R22: the 9 bits of VADDI lie below the 23 of an IMM hint. -/
theorem test_imm_hint : (shown 4 (.vaddi 3 1 0x1FF 0) (batch0 (fun B => { B with hints := [{ pc := 0xFFC, kind := 0, payload := 1 }] })
    base)).map (·.v 0 3) = some 0x3FF := by decide +kernel

/-- R20: an instruction that reads v3 waits while a load into v3 is pending, and goes on waiting for nothing once it has
landed. -/
theorem test_scoreboard : (after (.vadd 4 3 2 0)
    (put (fun G => { G with pending := [{ due := 9, ref := .v 0 3, val := 5 }] }) id id)).map (fun G =>
      (G.batches.map (·.wait), (G.land 9).batches.map (·.wait), (G.land 9).v 0 3)) = some ([some .score], [none], 5) := by
  decide +kernel

/-- R102: two narrow writes to the halves of one register, in flight together, both stand when they have landed. -/
theorem test_halves : (({ Group.start 1 0 0 128 [] with inflight :=
    [{ due := 6, ref := .vbits 0 3 0 16, val := 0x1111 }, { due := 7, ref := .vbits 0 3 16 16, val := 0x2222 }] } : Group).settle 7).v 0 3 =
      0x22221111 := by decide +kernel

/-- R61: the child of lane 0 starts in lane 2, the lowest free one; it reads 0x80000000 and its parent 2. -/
theorem test_fork : (after (.fork 5 4 0) twoFibres).map (fun G => ((G.lane 2).live, (G.lane 2).pc, G.v 2 5, G.v 0 5)) =
    some (true, 0x1010, 0x80000000, 2) := by decide +kernel

/-- R240, R246: TRAP 7 reaches the handler with code 17 and DETAIL 7. -/
theorem test_trap : (after (.trap 7 0) (handled id)).map (fun G =>
    ((G.lane 0).handler, (G.lane 0).pc, (G.lane 0).trapcause, (G.lane 0).trappc)) = some (true, 0x2000, 0x711, 0x1000) := by
  decide +kernel

/-- R191: ERET goes back to sr.trappc. -/
theorem test_eret : (after (.eret 0) handling).map (fun G => ((G.lane 0).handler, (G.lane 0).pc)) = some (false, 0x1004) := by
  decide +kernel

/-- R130, R240: a store past the allocation raises OOB with its offset. -/
theorem test_scratch_bounds : (after (.stx 8 1 0 0 0 0 0) (ctl [(0x000, 0x2000), (0x008, 0x20)] (reg (.v 0 1) 8 base))).map
    (fun G => ((G.lane 0).trapcause, (G.lane 0).trapaddr)) = some (5, 8) := by decide +kernel

/-- R118: STG writes the register's bytes, the lowest first, at the physical address. -/
theorem test_store : (match exec (.stg 8 1 2 0 0 0) (reg (.v 0 8) 0xA1B2C3D4 (touched true)) with
    | .next t => t.rd page8 4
    | _ => []) = [0xD4, 0xC3, 0xB2, 0xA1] := by decide +kernel

/-- R124: the signed minimum, the unsigned minimum and exchange on -1 and 1. -/
theorem test_atomics : atomStep 1 4 0xFFFFFFFF 1 = 0xFFFFFFFF ∧ atomStep 2 4 0xFFFFFFFF 1 = 1 ∧ atomStep 8 4 5 7 = 7 := by
  decide +kernel

/-- R72: a pop takes the entry at `head` and moves it on; p1 reads 0. -/
theorem test_pop : (match exec (.qpop 1 8 1 0) (queued 1) with
    | .next t => (t.group? 0 0).map fun G => (G.p 0 1, bytesWords 1 (t.rd (layBase + 32768 + 0x440 + 24) 4))
    | _ => none) = some (false, [1]) := by decide +kernel

/-- R142: a claim of a slot moves the write counter on and takes a free slot. -/
theorem test_claim : (match exec (.rclm 2 3 1 0) (ringed 2 0 1 1) with
    | .next t => (t.group? 0 0).map fun G => (G.s 3, bytesWords 4 (t.rd (layBase + 32768 + 0x540 + 16) 16))
    | _ => none) = some (2, [3, 0, 1, 0]) := by decide +kernel

/-- R275: one step fetches and runs the word that is laid, and the fibre goes on behind it. -/
theorem test_step : (match step nopProgram with
    | .next t => (t.group? 0 0).map fun G => (G.lane 0).pc
    | _ => none) = some 0x1004 := by decide +kernel

/-- R414: with nothing to do, the first step of the machine at reset ends the body of a cycle, and the second is the next
cycle. -/
theorem test_cycle : (match step State.reset with
    | .next t => (match step t with
      | .next u => (t.now, t.phase, u.now, u.phase)
      | _ => (0, .body, 0, .body))
    | _ => (0, .body, 0, .body)) = (0, .closing, 1, .opening) := by decide +kernel

end Sys2Proof.Tests
end

section
/-!
Registers and their writes: what one write leaves, what several leave, and the order in which writes land (R17, R18, R20,
R25, R102).
-/

namespace Sys2Proof.Machine

/-! ## One write -/

theorem Group.lane_modLane (G : Group) (l m : Nat) (f : Lane → Lane) :
    (G.modLane l f).lane m = if l = m then f (G.lane m) else G.lane m := by
  by_cases h : l = m
  · subst h; simp [Group.modLane, Group.lane]
  · simp [Group.modLane, Group.lane, tget_tset, h]

theorem getLsbD_one_shiftLeft (n k : Nat) (hk : k < 32) :
    (BitVec.ofNat 32 (1 <<< n)).getLsbD k = decide (n = k) := by
  rw [BitVec.getLsbD_ofNat, Nat.one_shiftLeft, Nat.testBit_two_pow]
  simp [hk]

/-- `setPred` changes no predicate but its own, and never p31, which is not held (R25). -/
theorem getLsbD_setPred (w : BitVec 32) (n k : Nat) (b : Bool) :
    (setPred w n b).getLsbD k = if n = k ∧ k < 31 then b else w.getLsbD k := by
  by_cases hn : n = 31
  · have : ¬(n = k ∧ k < 31) := by omega
    simp only [setPred, hn, beq_self_eq_true, if_true]
    rw [if_neg (hn ▸ this)]
  · rcases Nat.lt_or_ge k 32 with hk | hk
    · have bit := getLsbD_one_shiftLeft n k hk
      by_cases e : n = k
      · subst e
        have : n < 31 := by omega
        cases b <;> simp [-BitVec.getLsbD_eq_getElem, setPred, hn, bit, hk, this]
      · cases b <;> simp [-BitVec.getLsbD_eq_getElem, setPred, hn, bit, hk, e]
    · have : ¬(n = k ∧ k < 31) := by omega
      simp [this, BitVec.getLsbD_of_ge _ _ hk]

/-- A predicate of a fibre whose predicate `n` was written. -/
theorem Lane.p_setPred (L : Lane) (n k : Nat) (b : Bool) :
    ({ L with preds := setPred L.preds n b } : Lane).p k = if n = k ∧ k < 31 then b else L.p k := by
  simp only [Lane.p, getLsbD_setPred]
  by_cases h : n = k ∧ k < 31
  · have : k ≠ 31 := by omega
    simp [h, this]
  · simp only [h, if_false]

@[simp] theorem Group.v_write1_v (G : Group) (l k : Nat) (x : Word) : (G.write1 (.v l k, x)).v l k = x := by
  simp [Group.write1, Group.v, Group.lane_modLane, Lane.v, tget_tput]

/-- A write of some bits keeps the other bits as they are (R102). -/
@[simp] theorem Group.v_write1_vbits (G : Group) (l k lo len : Nat) (x : Word) :
    (G.write1 (.vbits l k lo len, x)).v l k = mergeBits (G.v l k) lo len x := by
  simp [Group.write1, Group.v, Group.lane_modLane, Lane.v, tget_tput]

theorem Group.p_write1_p (G : Group) (l k : Nat) (x : Word) (hk : k < 31) : (G.write1 (.p l k, x)).p l k = (x != 0) := by
  simp [Group.write1, Group.p, Group.lane_modLane, Lane.p_setPred, hk]

theorem Group.s_write1_s (G : Group) (k : Nat) (x : Word) (hk : k ≠ 63) : (G.write1 (.s k, x)).s k = x := by
  simp [Group.write1, Group.s, hk, tget_tput]

@[simp] theorem Group.s_63 (G : Group) : G.s 63 = 0 := rfl

@[simp] theorem Group.p_31 (G : Group) (l : Nat) : G.p l 31 = true := rfl

@[simp] theorem RegRef.whole_eq_p {r : RegRef} {l k : Nat} : r.whole = .p l k ↔ r = .p l k := by
  cases r <;> simp [RegRef.whole]

@[simp] theorem RegRef.whole_eq_s {r : RegRef} {k : Nat} : r.whole = .s k ↔ r = .s k := by
  cases r <;> simp [RegRef.whole]

/-! ## Reading one register -/

/-- `read` gives what register `r` holds: no write of another register changes it, and it sees neither the batches nor
what is in flight or pending. -/
structure ReadsReg {α : Type} (read : Group → α) (r : RegRef) : Prop where
  only  : ∀ (G : Group) (w : RegRef × Word), w.1.whole ≠ r → read (G.write1 w) = read G
  blind : ∀ (G : Group) bs fs ps, read { G with batches := bs, inflight := fs, pending := ps } = read G

theorem readsReg_v (l k : Nat) : ReadsReg (fun G => G.v l k) (.v l k) := by
  refine ⟨?_, fun _ _ _ _ => rfl⟩
  rintro G ⟨r, x⟩ hr
  cases r with
  | v m n | vbits m n lo len =>
    by_cases hm : m = l
    · have hn : n ≠ k := by simpa [RegRef.whole, hm] using hr
      simp [Group.write1, Group.v, Group.lane_modLane, Lane.v, tget_tput, hm, hn]
    · simp [Group.write1, Group.v, Group.lane_modLane, hm]
  | p m n => by_cases hm : m = l <;> simp [Group.write1, Group.v, Group.lane_modLane, Lane.v, hm]
  | s n => by_cases hn : n = 63 <;> simp [Group.write1, Group.v, Group.lane, hn]
  | flags => rfl

theorem readsReg_p (l k : Nat) : ReadsReg (fun G => G.p l k) (.p l k) := by
  refine ⟨?_, fun _ _ _ _ => rfl⟩
  rintro G ⟨r, x⟩ hr
  cases r with
  | v m n | vbits m n lo len =>
    by_cases hm : m = l <;> simp [Group.write1, Group.p, Group.lane_modLane, Lane.p, hm]
  | p m n =>
    by_cases hm : m = l
    · have hn : n ≠ k := by simpa [RegRef.whole, hm] using hr
      simp [Group.write1, Group.p, Group.lane_modLane, Lane.p_setPred, hm, hn]
    · simp [Group.write1, Group.p, Group.lane_modLane, hm]
  | s n => by_cases hn : n = 63 <;> simp [Group.write1, Group.p, Group.lane, hn]
  | flags => rfl

theorem readsReg_s (k : Nat) : ReadsReg (fun G => G.s k) (.s k) := by
  refine ⟨?_, fun _ _ _ _ => rfl⟩
  rintro G ⟨r, x⟩ hr
  cases r with
  | s n =>
    have hn : n ≠ k := by simpa [RegRef.whole] using hr
    by_cases h63 : n = 63 <;> simp [Group.write1, Group.s, tget_tput, h63, hn]
  | _ => rfl

/-! ## Writes in turn -/

theorem Group.write_cons (G : Group) (w : RegRef × Word) (ws : List (RegRef × Word)) :
    G.write (w :: ws) = (G.write1 w).write ws := rfl

theorem Group.write_append (G : Group) (as bs : List (RegRef × Word)) : G.write (as ++ bs) = (G.write as).write bs :=
  List.foldl_append

/-- What no write of a list changes stands behind them all. -/
theorem Group.write_keeps {α : Type} (read : Group → α) (ws : List (RegRef × Word))
    (h : ∀ w ∈ ws, ∀ H : Group, read (H.write1 w) = read H) (G : Group) : read (G.write ws) = read G := by
  induction ws generalizing G with
  | nil => rfl
  | cons w ws ih =>
    calc read ((G.write1 w).write ws)
      _ = read (G.write1 w) := ih (fun u hu => h u (List.mem_cons_of_mem _ hu)) _
      _ = read G := h w (List.mem_cons_self ..) G

/-- A register holds the value of a write behind which no other write of it stands. -/
theorem Group.write_last {α : Type} {read : Group → α} {w : RegRef × Word} {x : α}
    (sets : ∀ H : Group, read (H.write1 w) = x) (reads : ReadsReg read w.1.whole) (as bs : List (RegRef × Word))
    (last : ∀ u ∈ bs, u.1.whole = w.1.whole → u = w) (G : Group) : read (G.write (as ++ w :: bs)) = x := by
  rw [Group.write_append, Group.write_cons]
  have hx : read ((G.write as).write1 w) = x := sets _
  generalize (G.write as).write1 w = H at hx
  induction bs generalizing H with
  | nil => exact hx
  | cons u bs ih =>
    refine ih (fun v hv => last v (List.mem_cons_of_mem _ hv)) (H.write1 u) ?_
    by_cases hu : u.1.whole = w.1.whole
    · rw [last u (List.mem_cons_self ..) hu, sets]
    · rw [reads.only H u hu, hx]

/-- A write changes no field but the lanes, the scalar registers and the flags. -/
theorem Group.write1_frame (G : Group) (w : RegRef × Word) :
    { G.write1 w with lanes := G.lanes, sregs := G.sregs, fpflags := G.fpflags } = G := by
  obtain ⟨r, x⟩ := w
  cases r with
  | s n => by_cases hn : n = 63 <;> simp [Group.write1, hn]
  | _ => rfl

@[simp] theorem Group.write_inflight (G : Group) (ws : List (RegRef × Word)) : (G.write ws).inflight = G.inflight :=
  Group.write_keeps _ ws (fun w _ H => (congrArg Group.inflight (H.write1_frame w) :)) G

@[simp] theorem Group.write_pending (G : Group) (ws : List (RegRef × Word)) : (G.write ws).pending = G.pending :=
  Group.write_keeps _ ws (fun w _ H => (congrArg Group.pending (H.write1_frame w) :)) G

@[simp] theorem Group.write_batches (G : Group) (ws : List (RegRef × Word)) : (G.write ws).batches = G.batches :=
  Group.write_keeps _ ws (fun w _ H => (congrArg Group.batches (H.write1_frame w) :)) G

/-! ## The order of landing -/

theorem insertDue_perm (f : InFlight) (l : List InFlight) : (insertDue f l).Perm (f :: l) := by
  induction l with
  | nil => exact .refl _
  | cons x xs ih =>
    unfold insertDue
    split
    · exact (ih.cons x).trans (.swap f x xs)
    · exact .refl _

theorem insertDue_sorted (f : InFlight) {l : List InFlight} (h : l.Pairwise fun a b => a.due ≤ b.due) :
    (insertDue f l).Pairwise fun a b => a.due ≤ b.due := by
  induction l with
  | nil => exact List.pairwise_singleton ..
  | cons x xs ih =>
    obtain ⟨hx, hxs⟩ := List.pairwise_cons.1 h
    unfold insertDue
    split
    · next le =>
      refine List.pairwise_cons.2 ⟨fun y hy => ?_, ih hxs⟩
      rcases List.mem_cons.1 ((insertDue_perm f xs).mem_iff.1 hy) with rfl | hy
      · exact le
      · exact hx y hy
    · next gt =>
      refine List.pairwise_cons.2 ⟨fun y hy => ?_, h⟩
      rcases List.mem_cons.1 hy with rfl | hy
      · omega
      · exact Nat.le_trans (by omega) (hx y hy)

theorem foldl_insertDue_perm (acc l : List InFlight) : (l.foldl (fun a f => insertDue f a) acc).Perm (acc ++ l) := by
  induction l generalizing acc with
  | nil => simp
  | cons f l ih => exact (ih _).trans (((insertDue_perm f acc).append_right l).trans List.perm_middle.symm)

theorem sortDue_perm (l : List InFlight) : (sortDue l).Perm l := foldl_insertDue_perm [] l

theorem sortDue_sorted (l : List InFlight) : (sortDue l).Pairwise fun a b => a.due ≤ b.due :=
  List.foldlRecOn l _ List.Pairwise.nil fun _ h f _ => insertDue_sorted f h

/-- Behind a write of the sorted list stand only writes that land no earlier. -/
theorem sortDue_split {l : List InFlight} {f : InFlight} (hf : f ∈ l) :
    ∃ as bs, sortDue l = as ++ f :: bs ∧ ∀ h ∈ bs, h ∈ l ∧ f.due ≤ h.due := by
  obtain ⟨as, bs, e⟩ := List.append_of_mem ((sortDue_perm l).mem_iff.2 hf)
  refine ⟨as, bs, e, fun h hh => ⟨(sortDue_perm l).mem_iff.1 (by simp [e, hh]), ?_⟩⟩
  have sorted := sortDue_sorted l
  rw [e] at sorted
  exact List.rel_of_pairwise_cons (List.pairwise_append.1 sorted).2.1 hh

/-- The only write of a list that passes a filter splits the sorted list in two parts of which none passes. -/
theorem sortDue_split_single {l : List InFlight} {p : InFlight → Bool} {f : InFlight} (h : l.filter p = [f]) :
    ∃ as bs, sortDue l = as ++ f :: bs ∧ (∀ a ∈ as, p a = false) ∧ ∀ b ∈ bs, p b = false := by
  have alone : (sortDue l).filter p = [f] := List.perm_singleton.1 (h ▸ (sortDue_perm l).filter p)
  obtain ⟨as, bs, e, has, -, hbs⟩ := List.filter_eq_cons_iff.1 alone
  exact ⟨as, bs, e, fun a ha => by simpa using has a ha, fun b hb => by simpa using List.filter_eq_nil_iff.1 hbs b hb⟩

/-! ## Fixed-latency writes -/

/-- A write in flight as it takes effect. -/
def InFlight.landed (f : InFlight) : RegRef × Word := (f.ref, f.val)

/-- The writes of a list that have landed by a cycle. -/
def dueBy (n : Nat) (l : List InFlight) : List InFlight := l.filter fun f => f.due ≤ n

theorem mem_dueBy {n : Nat} {l : List InFlight} {f : InFlight} : f ∈ dueBy n l ↔ f ∈ l ∧ f.due ≤ n := by
  simp [dueBy]

theorem Group.settle_eq (G : Group) (n : Nat) : G.settle n =
    ({ G with inflight := G.inflight.filter fun f => n < f.due } : Group).write
      ((sortDue (dueBy n G.inflight)).map InFlight.landed) := rfl

/-- Landed writes are in flight no more. -/
@[simp] theorem Group.settle_inflight (G : Group) (n : Nat) :
    (G.settle n).inflight = G.inflight.filter fun f => n < f.due := by
  rw [Group.settle_eq, Group.write_inflight]

section
variable {α : Type} {read : Group → α} {r : RegRef} {G : Group} {n : Nat} {f : InFlight} {x : α}

/-- Landing writes of other registers keep what a register holds. -/
theorem Group.write_landed_keeps (reads : ReadsReg read r) {l : List InFlight} (h : ∀ f ∈ l, f.ref.whole ≠ r)
    (G : Group) : read (G.write (l.map InFlight.landed)) = read G := by
  refine Group.write_keeps read _ (fun w hw H => ?_) G
  obtain ⟨f, hf, rfl⟩ := List.mem_map.1 hw
  exact reads.only H _ (h f hf)

/-- Of the writes that land in turn, one behind which no other of its register stands decides that register. -/
theorem Group.write_landed_last (reads : ReadsReg read f.ref.whole) (sets : ∀ H : Group, read (H.write1 f.landed) = x)
    {as bs : List InFlight} (last : ∀ h ∈ bs, h.ref.whole = f.ref.whole → h = f) (G : Group) :
    read (G.write ((as ++ f :: bs).map InFlight.landed)) = x := by
  rw [List.map_append, List.map_cons]
  refine Group.write_last sets reads _ _ (fun u hu hw => ?_) G
  obtain ⟨h, hh, rfl⟩ := List.mem_map.1 hu
  rw [last h hh hw]

/-- The write that lands last decides its register (R18). -/
theorem Group.settle_last (reads : ReadsReg read f.ref.whole) (sets : ∀ H : Group, read (H.write1 f.landed) = x)
    (hf : f ∈ G.inflight) (hn : f.due ≤ n)
    (last : ∀ h ∈ G.inflight, h.ref.whole = f.ref.whole → h ≠ f → h.due ≤ n → h.due < f.due) :
    read (G.settle n) = x := by
  obtain ⟨as, bs, e, behind⟩ := sortDue_split (mem_dueBy.2 ⟨hf, hn⟩)
  rw [Group.settle_eq, e]
  refine Group.write_landed_last reads sets (fun h hh hw => ?_) _
  obtain ⟨hmem, hle⟩ := behind h hh
  obtain ⟨hin, hdue⟩ := mem_dueBy.1 hmem
  by_contra hne
  exact absurd (last h hin hw hne hdue) (by omega)

/-- A register with no landing write keeps its value. -/
theorem Group.settle_keeps (reads : ReadsReg read r) (later : ∀ f ∈ G.inflight, f.ref.whole = r → n < f.due) :
    read (G.settle n) = read G := by
  rw [Group.settle_eq, Group.write_landed_keeps reads]
  · exact reads.blind G ..
  · intro f hf hr
    obtain ⟨hin, hdue⟩ := mem_dueBy.1 ((sortDue_perm _).mem_iff.1 hf)
    exact absurd (later f hin hr) (by omega)

/-- The only landing write of a register changes the value that stood there. -/
theorem Group.settle_single {g : α → α} (reads : ReadsReg read r)
    (sets : ∀ H : Group, read (H.write1 f.landed) = g (read H))
    (single : G.inflight.filter (fun h => h.ref.whole = r && h.due ≤ n) = [f]) : read (G.settle n) = g (read G) := by
  have alone : (dueBy n G.inflight).filter (fun h => h.ref.whole = r) = [f] := by
    rw [dueBy, List.filter_filter, ← single]
  obtain ⟨as, bs, e, has, hbs⟩ := sortDue_split_single alone
  rw [Group.settle_eq, e, List.map_append, List.map_cons, Group.write_append, Group.write_cons,
    Group.write_landed_keeps reads (fun b hb => by simpa using hbs b hb), sets,
    Group.write_landed_keeps reads (fun a ha => by simpa using has a ha)]
  exact congrArg g (reads.blind G ..)

/-! ## Variable-latency writes -/

/-- The batch, tried again if it waited for pending writes (R20). -/
def Batch.retried (B : Batch) : Batch := if B.wait = some .score then { B with wait := none } else B

theorem Batch.wait_retried (B : Batch) : B.retried.wait ≠ some .score := by
  unfold Batch.retried
  split
  · simp
  · assumption

theorem Group.land_of_none (h : ∀ f ∈ G.pending, n < f.due) : G.land n = G := by
  have : (G.pending.filter fun f => f.due ≤ n) = [] := List.filter_eq_nil_iff.2 fun f hf => by simpa using h f hf
  simp [Group.land, this]

theorem Group.land_of_some (h : ∃ f ∈ G.pending, f.due ≤ n) : G.land n =
    ({ G with pending := G.pending.filter fun f => n < f.due, batches := G.batches.map Batch.retried } : Group).write
      ((dueBy n G.pending).map InFlight.landed) := by
  obtain ⟨f, hf, hn⟩ := h
  have hne : (G.pending.filter fun f => f.due ≤ n).isEmpty = false :=
    List.isEmpty_eq_false_iff_exists_mem.2 ⟨f, mem_dueBy.2 ⟨hf, hn⟩⟩
  simp only [Group.land, hne, Bool.false_eq_true, if_false]
  rfl

/-- By a cycle either no pending write has landed, or some have. -/
theorem Group.none_or_some_due (G : Group) (n : Nat) :
    (∀ f ∈ G.pending, n < f.due) ∨ ∃ f ∈ G.pending, f.due ≤ n := by
  by_cases h : ∃ f ∈ G.pending, f.due ≤ n
  · exact .inr h
  · exact .inl fun f hf => Nat.lt_of_not_le fun hn => h ⟨f, hf, hn⟩

/-- Landed writes are pending no more. -/
@[simp] theorem Group.land_pending (G : Group) (n : Nat) :
    (G.land n).pending = G.pending.filter fun f => n < f.due := by
  rcases G.none_or_some_due n with h | h
  · rw [Group.land_of_none h]
    exact (List.filter_eq_self.2 fun f hf => by simpa using h f hf).symm
  · rw [Group.land_of_some h, Group.write_pending]

/-- When a write lands no batch waits for pending writes any more (R20). -/
theorem Group.land_retries (h : ∃ f ∈ G.pending, f.due ≤ n) : ∀ B ∈ (G.land n).batches, B.wait ≠ some .score := by
  rw [Group.land_of_some h, Group.write_batches]
  intro B hB
  obtain ⟨A, -, rfl⟩ := List.mem_map.1 hB
  exact A.wait_retried

/-- A pending write shows when it lands (R20). -/
theorem Group.land_single (reads : ReadsReg read f.ref.whole) (sets : ∀ H : Group, read (H.write1 f.landed) = x)
    (hf : f ∈ G.pending) (hn : f.due ≤ n) (single : ∀ h ∈ G.pending, h.ref.whole = f.ref.whole → h = f) :
    read (G.land n) = x := by
  obtain ⟨as, bs, e⟩ := List.append_of_mem (mem_dueBy.2 ⟨hf, hn⟩)
  rw [Group.land_of_some ⟨f, hf, hn⟩, e]
  refine Group.write_landed_last reads sets (fun h hh => single h ?_) _
  exact (mem_dueBy.1 (e ▸ by simp [hh] : h ∈ dueBy n G.pending)).1

/-- A register with no landing write keeps its value. -/
theorem Group.land_keeps (reads : ReadsReg read r) (later : ∀ f ∈ G.pending, f.ref.whole = r → n < f.due) :
    read (G.land n) = read G := by
  rcases G.none_or_some_due n with h | h
  · rw [Group.land_of_none h]
  · rw [Group.land_of_some h, Group.write_landed_keeps reads]
    · exact reads.blind G ..
    · intro f hf hr
      obtain ⟨hin, hdue⟩ := mem_dueBy.1 hf
      exact absurd (later f hin hr) (by omega)

end

/-! ## The statement of the landing order -/

/-- Settles O55: of the writes that land, sorted by the cycle of landing, the last one to a register is applied last. -/
theorem writesLandInOrder : Obligations.WritesLandInOrder := by
  unfold Obligations.WritesLandInOrder
  refine ⟨fun G fs l k => ⟨rfl, rfl, rfl⟩, ?decides, ?keeps, fun G fs l k => ⟨rfl, rfl, rfl⟩, ?lands,
    fun G ws l => ⟨Group.s_63 _, Group.p_31 _ l⟩⟩
  case decides =>
    rintro G n ⟨due, ref, val⟩ hf hn last
    refine ⟨?_, ?_, ?_⟩
    · rintro l k rfl
      exact Group.settle_last (readsReg_v l k) (fun H => H.v_write1_v l k val) hf hn last
    · rintro l k hk rfl
      exact Group.settle_last (readsReg_p l k) (fun H => H.p_write1_p l k val hk) hf hn last
    · rintro k hk rfl
      exact Group.settle_last (readsReg_s k) (fun H => H.s_write1_s k val hk) hf hn last
  case keeps =>
    intro G n
    refine ⟨fun l k later => Group.settle_keeps (readsReg_v l k) later, ?_, fun l k later => ?_, fun k later => ?_,
      G.settle_inflight n⟩
    · rintro l k lo len ⟨due, ref, val⟩ - rfl - single
      exact Group.settle_single (f := ⟨due, .vbits l k lo len, val⟩) (g := fun old => mergeBits old lo len val)
        (readsReg_v l k) (fun H => H.v_write1_vbits l k lo len val) single
    · exact Group.settle_keeps (readsReg_p l k) (by simpa using later)
    · exact Group.settle_keeps (readsReg_s k) (by simpa using later)
  case lands =>
    intro G n
    refine ⟨G.land_pending n, ?_, fun l k later => Group.land_keeps (readsReg_v l k) later⟩
    rintro ⟨due, ref, val⟩ hf hn
    refine ⟨Group.land_retries ⟨_, hf, hn⟩, fun single => ⟨?_, ?_, ?_⟩⟩
    · rintro l k rfl
      exact Group.land_single (readsReg_v l k) (fun H => H.v_write1_v l k val) hf hn single
    · rintro l k hk rfl
      exact Group.land_single (readsReg_p l k) (fun H => H.p_write1_p l k val hk) hf hn single
    · rintro k hk rfl
      exact Group.land_single (readsReg_s k) (fun H => H.s_write1_s k val hk) hf hn single

end Sys2Proof.Machine
end

section
/-!
The word of ILL and its trap (R42, R43).
-/

namespace Sys2Proof.Machine

/-- R42: a word with major 0 and op 0 is ILL, whatever its other bits hold. -/
theorem decodeWord_ill (w : Nat) (major : w / 2 ^ 26 % 64 = 0) (op : w / 2 ^ 21 % 32 = 0) :
    decodeWord w = .instr (.ill (fld w 0 21)) := by
  have row : has w 21 5 0 = true := by simpa [has] using op
  simp only [decodeWord, major, decodeMajor00, row, if_true]

/-- The form of ILL: no operand, no latency, no hint but GAP and PRED. -/
theorem formOf_ill (x : BitVec 21) (s : State) :
    formOf (.ill x) s = some { ins := .ill x, c := x.setWidth 3 } := rfl

/-- An ill-formed run is refused with ILLOP (R43 step 1). -/
theorem Form.check_of_bad_hints {F : Form} {v : HintView} (budget : Nat) (c : Ctx) (h : F.hintsOk v = false) :
    F.check v budget c = some (mkTrap fcIllop 0 0) := by
  simp [Form.check, h]

/-- A first issue none of whose fibres is active ends with its slot accounted for. -/
theorem issue_inactive {F : Form} {s : State} {I : Issue} (run : Issue → State → Result) (h : s.issuer = some I)
    (hf : I.first = true) (hn : F.blocked I.hv I.G I.lanes I.act = false)
    (hc : F.check I.hv I.G.budget (s.ctx I.x) = none) (ha : I.act = []) :
    issue F run s = .next ((F.slot s I).finish I F.lat []) := by
  have hb : F.blocked I.hv I.G I.lanes [] = false := ha ▸ hn
  simp [issue, h, hf, hb, hc, ha, Form.slot]

/-- Settles O51: ILL is refused by a check of R43 or raises ILLOP itself. -/
theorem illWords : Obligations.IllWords := by
  unfold Obligations.IllWords
  refine ⟨decodeWord_ill 0 rfl rfl, fun w _ major op => ⟨_, decodeWord_ill w (by rw [major]) op⟩, ?_⟩
  intro x s I F hF hI hf hc hn hl
  rw [formOf_ill, Option.some_inj] at hF
  subst hF
  rw [exec_ill]
  unfold execIll
  rcases hc with hc | hc
  · by_cases ha : I.act = []
    · rw [issue_inactive _ hI hf hn hc ha, ha]
      rfl
    · rw [issue_ready _ ⟨hI, hf, ha, hn, hc, hl⟩]
      rfl
  · rw [issue_refused _ hI hf hn (Form.check_of_bad_hints _ _ hc)]
    rfl

end Sys2Proof.Machine
end

section
/-!
A batch without an active fibre: its instruction's issue is accounted for, and its fibres go on (R53, R54, R456).
-/

namespace Sys2Proof.Machine

/-! ## The batch that issues -/

theorem lt_of_mem_lanesOf {m : BitVec 32} {l : Nat} (h : l ∈ lanesOf m) : l < 32 :=
  List.mem_range.1 (List.mem_filter.1 h).1

theorem lanesOf_ne_nil {m : BitVec 32} (h : m ≠ 0) : lanesOf m ≠ [] := by
  refine fun e => h (BitVec.eq_of_getLsbD_eq fun k hk => ?_)
  simpa using List.filter_eq_nil_iff.1 e k (List.mem_range.2 hk)

/-- The issuing batch is one of a resident group and holds a lane. -/
theorem State.issuer_group {s : State} {I : Issue} (h : s.issuer = some I) :
    s.group? I.core I.g = some I.G ∧ I.lanes ≠ [] ∧ ∀ l ∈ I.lanes, l < 32 := by
  unfold State.issuer at h
  split at h
  · cases h
  next G hG =>
    split at h
    · cases h
    next B hB =>
      split at h
      · cases h
      next hl =>
        cases h
        exact ⟨hG, lanesOf_ne_nil (by simpa using hl), fun l => lt_of_mem_lanesOf⟩

/-- A first issue without an active fibre ends with its slot accounted for, whether or not a check of R43 would refuse the
instruction: there is no fibre to trap. -/
theorem issue_nobody {F : Form} {s : State} {I : Issue} (run : Issue → State → Result) (h : s.issuer = some I)
    (hf : I.first = true) (hn : F.blocked I.hv I.G I.lanes I.act = false) (ha : I.act = []) :
    issue F run s = .next ((F.slot s I).finish I F.lat []) := by
  cases hc : F.check I.hv I.G.budget (s.ctx I.x) with
  | none => exact issue_inactive run h hf hn hc ha
  | some t => rw [issue_refused run h hf hn hc, ha, List.map_nil]

/-! ## Fibres that go to one place -/

/-- The fibres in lanes get a PC. -/
def Group.moveTo (G : Group) (ls : List Nat) (pc : Nat) : Group :=
  ls.foldl (fun H l => H.modLane l fun L => { L with pc := pc }) G

theorem Group.sameBut_moveTo (G : Group) (ls : List Nat) (pc : Nat) : G.SameBut (G.moveTo ls pc) :=
  List.foldlRecOn (motive := G.SameBut) ls _ rfl fun _ h _ _ => h

@[simp] theorem Group.moveTo_inflight (G : Group) (ls : List Nat) (pc : Nat) : (G.moveTo ls pc).inflight = G.inflight :=
  List.foldlRecOn (motive := fun H : Group => H.inflight = G.inflight) ls _ rfl fun _ h _ _ => h

/-- A move changes the PCs of the lanes moved. -/
theorem Group.lane_moveTo (G : Group) (ls : List Nat) (pc m : Nat) :
    (G.moveTo ls pc).lane m = if m ∈ ls then { G.lane m with pc := pc } else G.lane m := by
  induction ls generalizing G with
  | nil => rfl
  | cons l ls ih =>
    have step : (G.moveTo (l :: ls) pc).lane m = ((G.modLane l fun L => { L with pc := pc }).moveTo ls pc).lane m := rfl
    rw [step, ih, Group.lane_modLane]
    by_cases hl : l = m
    · simp [hl]
    · simp [hl, Ne.symm hl]

/-- A list of one value only has one distinct value. -/
theorem distinct_of_all_eq {ls : List Nat} {t : Nat} (hne : ls ≠ []) (h : ∀ x ∈ ls, x = t) : distinct ls = [t] := by
  cases ls with
  | nil => exact absurd rfl hne
  | cons x xs =>
    obtain rfl := h x (List.mem_cons_self ..)
    refine List.foldlRecOn (motive := (· = [x])) xs _ (by simp) fun acc hacc y hy => ?_
    rw [hacc, h y (List.mem_cons_of_mem _ hy)]
    simp

/-- A batch whose fibres all go to one place stays one batch (R59). -/
theorem Group.split_together (G : Group) (bi fall t : Nat) {ls : List Nat} (h : ls ≠ []) :
    G.split bi fall (ls.map fun l => (l, t)) =
      { G.moveTo ls t with batches := (G.moveTo ls t).batches.modify bi fun _ => Batch.fresh (maskOf ls) } := by
  have one : distinct ((ls.map fun l => (l, t)).map (·.2)) = [t] := distinct_of_all_eq (by simpa using h) (by simp)
  have moved : (ls.map fun l => (l, t)).foldl (fun H (e : Nat × Nat) => H.modLane e.1 fun L => { L with pc := e.2 }) G =
      G.moveTo ls t := List.foldl_map
  have names : (ls.map fun l => (l, t)).map (·.1) = ls := by simp [Function.comp_def]
  simp only [Group.split, one, moved, names]

/-- A batch whose fibres go to one place changes nothing of its group but batches and PCs. -/
theorem Group.split_together_frame (G : Group) (bi fall t : Nat) {ls : List Nat} (h : ls ≠ []) :
    let H := G.split bi fall (ls.map fun l => (l, t))
    G.SameBut H ∧ H.inflight = G.inflight ∧ ∀ l, H.lane l = if l ∈ ls then { G.lane l with pc := t } else G.lane l := by
  rw [Group.split_together G bi fall t h]
  exact ⟨G.sameBut_moveTo ls t, G.moveTo_inflight ls t, G.lane_moveTo ls t⟩

/-! ## Without writes, and without fibres that end -/

@[simp] theorem Group.writeFixed_nil (G : Group) (now lat : Nat) : G.writeFixed now lat [] = G := by
  simp [Group.writeFixed]

@[simp] theorem Group.writeVar_nil (G : Group) : G.writeVar [] = G := by
  simp [Group.writeVar, Group.write]

@[simp] theorem Group.dropShares_nil (G : Group) : G.dropShares [] = G := by
  simp [Group.dropShares]

@[simp] theorem Group.endLanes_nil (G : Group) : G.endLanes [] = G := by
  have all (fs : List InFlight) (p : InFlight → Bool) (h : ∀ f, p f = true) : fs.filter p = fs :=
    List.filter_eq_self.2 fun f _ => h f
  simp only [Group.endLanes, List.foldl_nil, Group.dropShares_nil]
  rw [all G.inflight _ fun f => by split <;> rfl, all G.pending _ fun f => by split <;> rfl]

/-- A group with a live fibre does not exit (R62). -/
theorem State.leave_of_live {s : State} {c g l : Nat} {G : Group} (h : s.group? c g = some G) (hl : l < 32)
    (live : (G.lane l).live = true) : s.leave c g = s := by
  have hm : l ∈ G.live := List.mem_filter.2 ⟨List.mem_range.2 hl, live⟩
  have he : G.live.isEmpty = false := List.isEmpty_eq_false_iff_exists_mem.2 ⟨l, hm⟩
  simp only [State.leave, h, he, Bool.not_false, if_true]

/-- Where no fibre has anything to do, all fibres of the batch go on behind the instruction. -/
theorem State.finish_nil (s : State) (I : Issue) (lat : Option Nat) :
    s.finish I lat [] =
      (s.modGroup I.core I.g fun G =>
        G.split I.bi (I.pc + 4) (I.lanes.map fun l => (l, I.pc + 4))).leave I.core I.g := by
  have nobody : outOf [] = fun l => ({ lane := l } : LaneOut) := rfl
  have writes : (I.lanes.map fun l => ({ lane := l } : LaneOut)).flatMap (·.writes) = [] := by simp
  have flags : (I.lanes.map fun l => ({ lane := l } : LaneOut)).foldl (fun a o => a ||| o.flags) 0 = 0 := by
    simp [List.foldl_map]
  cases lat <;>
    simp [State.finish, nobody, writes, flags, State.spendDelay, State.takeTraps, List.filter_map, Function.comp_def]

/-! ## Frames -/

theorem Elsewhere.trans {c g : Nat} {s t u : State} (h : Elsewhere c g s t) (k : Elsewhere c g t u) :
    Elsewhere c g s u where
  rest := calc
    { u with cores := s.cores, issued := s.issued, delays := s.delays }
    _ = { ({ u with cores := t.cores, issued := t.issued, delays := t.delays } : State) with
          cores := s.cores, issued := s.issued, delays := s.delays } := rfl
    _ = { t with cores := s.cores, issued := s.issued, delays := s.delays } := by rw [k.rest]
    _ = s := h.rest
  bytes a := (k.bytes a).trans (h.bytes a)
  groups d e hd := (k.groups d e hd).trans (h.groups d e hd)
  cores d := calc
    { u.core d with groups := (s.core d).groups }
    _ = { ({ u.core d with groups := (t.core d).groups } : Core) with groups := (s.core d).groups } := rfl
    _ = { t.core d with groups := (s.core d).groups } := by rw [k.cores]
    _ = s.core d := h.cores d

theorem elsewhere_modGroup (s : State) (c g : Nat) (f : Group → Group) : Elsewhere c g s (s.modGroup c g f) where
  rest := rfl
  bytes _ := rfl
  groups d h hd := by rw [State.group?_modGroup, if_neg fun e => hd ⟨e.1.symm, e.2.symm⟩]
  cores d := s.core_modGroup_rest c g d f

/-- The accounting of an issue notes it in the group and in its quadrant. -/
theorem elsewhere_account (s : State) (c g gap : Nat) (mark : Option Bool) :
    Elsewhere c g s (s.account c g gap mark) :=
  (elsewhere_modGroup s c g _).trans ⟨rfl, fun _ => rfl, fun _ _ _ => rfl, fun _ => rfl⟩

theorem State.group?_modGroup_self {s : State} {c g : Nat} {G : Group} (f : Group → Group) (h : s.group? c g = some G) :
    (s.modGroup c g f).group? c g = some (f G) := by
  rw [State.group?_modGroup, if_pos ⟨rfl, rfl⟩, h, Option.map_some]

theorem Group.SameBut.trans {G H K : Group} (h : G.SameBut H) (k : H.SameBut K) : G.SameBut K := by
  unfold Group.SameBut at *
  rw [← h, ← k]

/-- The accounting of an issue leaves the group's fibres and its writes in flight (R16, R235). -/
theorem State.group?_account {s : State} {c g : Nat} {G : Group} (gap : Nat) (mark : Option Bool)
    (h : s.group? c g = some G) : ∃ H, (s.account c g gap mark).group? c g = some H ∧
      G.SameBut H ∧ H.inflight = G.inflight ∧ ∀ l, H.lane l = G.lane l :=
  ⟨_, State.group?_modGroup_self _ h, rfl, rfl, fun _ => rfl⟩

/-! ## The statement of batches without an active fibre -/

/-- Settles O52: the instruction's effect is not reached, and without answers of fibres the batch falls through. -/
theorem inactiveBatchesDoNothing : Obligations.InactiveBatchesDoNothing := by
  unfold Obligations.InactiveBatchesDoNothing
  intro i s F I hF hI hf live ha hn
  obtain ⟨hG, some_lane, small⟩ := State.issuer_group hI
  obtain ⟨run, he⟩ := exec_issue i s F hF
  obtain ⟨K, hK, sameK, flightK, laneK⟩ := State.group?_account (F.gap I.hv) (some (F.c.toNat % 2 == 1)) hG
  obtain ⟨sameH, flightH, laneH⟩ := K.split_together_frame I.bi (I.pc + 4) (I.pc + 4) some_lane
  have hH := State.group?_modGroup_self
    (fun G => G.split I.bi (I.pc + 4) (I.lanes.map fun l => (l, I.pc + 4))) hK
  generalize K.split I.bi (I.pc + 4) (I.lanes.map fun l => (l, I.pc + 4)) = H at hH sameH flightH laneH
  obtain ⟨l, hl⟩ := List.exists_mem_of_ne_nil _ some_lane
  have stays : (H.lane l).live = true := by
    rw [laneH, if_pos hl, laneK]
    exact live l hl
  refine ⟨_, H, ?_, hH, (elsewhere_account ..).trans (elsewhere_modGroup ..), sameK.trans sameH, flightH.trans flightK,
    fun m hm => ?_, fun m hm => ?_⟩
  · rw [he, issue_nobody run hI hf hn ha, State.finish_nil, Form.slot, State.leave_of_live hH (small l hl) stays]
  · rw [laneH, if_pos hm, laneK]
    exact ⟨rfl, rfl⟩
  · rw [laneH, if_neg hm, laneK]

end Sys2Proof.Machine
end

section
/-!
SUPPORT. The words of instructions: a packed word bit by bit, the decoder as a chain of rows, and the two directions
between an instruction and its word.
-/

namespace Sys2Proof

/-! ## A packed word, bit by bit -/

/-- A field of an instruction word: its lowest bit, its width and its value. -/
structure Field where
  lo : Nat
  n : Nat
  v : BitVec n

/-- Bit `j` of a word belongs to one of the fields, each given by its lowest bit and its width. -/
def covered (ss : List (Nat × Nat)) (j : Nat) : Bool := ss.any fun s => decide (s.1 ≤ j) && decide (j < s.1 + s.2)

/-- The numbers that `pack` adds up are these fields, each in its place. -/
inductive Placed : List Nat → List (Nat × Nat) → List Field → Prop
  | cons {n lo : Nat} {v : BitVec n} {ps : List Nat} {ss : List (Nat × Nat)} {fs : List Field} :
      Placed ps ss fs → Placed (place v lo :: ps) ((lo, n) :: ss) (⟨lo, n, v⟩ :: fs)
  | nil : Placed [] [] []

/-- No fixed bit of `m` lies in a field, and no bit in two fields. -/
def layout (m : Nat) : List (Nat × Nat) → Bool
  | [] => true
  | s :: ss => (List.range s.2).all (fun j => !m.testBit (s.1 + j) && !covered ss (s.1 + j)) && layout m ss

theorem testBit_add_place (m lo n : Nat) (v : BitVec n) (clear : ∀ j < n, m.testBit (lo + j) = false) (j : Nat) :
    (m + place v lo).testBit j = if lo ≤ j ∧ j < lo + n then v.getLsbD (j - lo) else m.testBit j := by
  have digit : m / 2 ^ lo % 2 ^ n = 0 := Nat.eq_of_testBit_eq fun i => by
    rw [Nat.testBit_mod_two_pow, Nat.testBit_div_two_pow, Nat.zero_testBit, Nat.add_comm]
    by_cases h : i < n
    · simp [h, clear i h]
    · simp [h]
  have split : ∀ x < 2 ^ n, m + x * 2 ^ lo = 2 ^ lo * (2 ^ n * (m / 2 ^ lo / 2 ^ n) + x) + m % 2 ^ lo := by
    intro x _
    have h := Nat.div_add_mod (m / 2 ^ lo) (2 ^ n)
    rw [digit, Nat.add_zero] at h
    rw [h, Nat.mul_add, Nat.mul_comm x]
    have := Nat.div_add_mod m (2 ^ lo)
    omega
  have bits : ∀ x < 2 ^ n, (m + x * 2 ^ lo).testBit j =
      if j < lo then (m % 2 ^ lo).testBit j else if j - lo < n then x.testBit (j - lo)
        else (m / 2 ^ lo / 2 ^ n).testBit (j - lo - n) := by
    intro x hx
    rw [split x hx, Nat.testBit_two_pow_mul_add _ (Nat.mod_lt _ (by positivity)), Nat.testBit_two_pow_mul_add _ hx]
  have plain := bits 0 (by positivity)
  rw [Nat.zero_mul, Nat.add_zero] at plain
  rw [place, bits _ v.isLt]
  by_cases low : j < lo
  · rw [if_pos low, if_neg (by omega), plain, if_pos low]
  · rw [if_neg low]
    by_cases mid : j - lo < n
    · rw [if_pos mid, if_pos (by omega), BitVec.getLsbD]
    · rw [if_neg mid, if_neg (by omega), plain, if_neg low, if_neg mid]

theorem layout_of_agree {m m' : Nat} {ss : List (Nat × Nat)} (same : ∀ j, covered ss j = true → m'.testBit j = m.testBit j)
    (ok : layout m ss = true) : layout m' ss = true := by
  induction ss with
  | nil => rfl
  | cons s ss ih =>
    simp only [layout, Bool.and_eq_true, List.all_eq_true, List.mem_range] at ok ⊢
    refine ⟨fun j hj => ?_, ih (fun j hj => same j (by simp_all [covered])) ok.2⟩
    rw [same _ (by simp [covered, hj])]
    exact ok.1 j hj

/-- The word holds each of the fields. -/
def Holds (w : Nat) : List Field → Prop
  | [] => True
  | ⟨lo, n, v⟩ :: fs => fld w lo n = v ∧ Holds w fs

/-- The fixed bits of the word are those of `m`: all that lie in no field. -/
def FixedBits (m : Nat) (ss : List (Nat × Nat)) (w : Nat) : Prop := ∀ j, covered ss j = false → w.testBit j = m.testBit j

/-- What a packed word holds: the fixed bits outside its fields, and each field. -/
theorem pack_bits {m w : Nat} {ps : List Nat} {ss : List (Nat × Nat)} {fs : List Field} (placed : Placed ps ss fs) (packed : pack m ps = some w)
    (ok : layout m ss = true) :
    FixedBits m ss w ∧ Holds w fs := by
  induction placed generalizing m with
  | nil =>
    cases packed
    exact ⟨fun _ _ => rfl, trivial⟩
  | @cons n lo v ps ss fs _ ih =>
    simp only [layout, Bool.and_eq_true, List.all_eq_true, List.mem_range, Bool.not_eq_true'] at ok
    obtain ⟨here, there⟩ := ok
    have added := testBit_add_place m lo n v fun j hj => (here j hj).1
    have outside : ∀ j, covered ss j = true → ¬(lo ≤ j ∧ j < lo + n) := fun j hj h => by
      have := (here (j - lo) (by omega)).2
      rw [show lo + (j - lo) = j by omega, hj] at this
      cases this
    obtain ⟨fixed, fields⟩ := ih packed
      (layout_of_agree (fun j hj => by rw [added, if_neg (outside j hj)]) there)
    refine ⟨fun j hj => ?_, ⟨BitVec.eq_of_getLsbD_eq fun j (hj : j < n) => ?_, fields⟩⟩
    · simp only [covered, List.any_cons, Bool.or_eq_false_iff] at hj
      rw [fixed j hj.2, added, if_neg (by simpa using hj.1)]
    · rw [fld, BitVec.getLsbD_ofNat, Nat.testBit_div_two_pow, Nat.add_comm j, fixed _ (here j hj).2, added,
        if_pos ⟨by omega, by omega⟩]
      simp [hj]

/-- The major lies above every field. -/
theorem major_of_fixed {m w : Nat} {ss : List (Nat × Nat)} (fixed : FixedBits m ss w)
    (low : ss.all (fun s => s.1 + s.2 ≤ 26) = true) : w / 2 ^ 26 = m / 2 ^ 26 :=
  Nat.eq_of_testBit_eq fun j => by
    rw [Nat.testBit_div_two_pow, Nat.testBit_div_two_pow, fixed]
    simp only [List.all_eq_true, decide_eq_true_eq] at low
    simp only [covered, List.any_eq_false, Bool.and_eq_true, decide_eq_true_eq, not_and, not_lt]
    intro s hs _
    have := low s hs
    omega

/-! ## The rows of the decoder -/

/-- A test of a decoder row: the lowest bit, the width and the value of a field that it compares. -/
abbrev RowTest := Nat × Nat × Nat

/-- The condition of a decoder row makes these tests. -/
inductive Tests (w : Nat) : Bool → List RowTest → Prop
  | one {lo n v : Nat} : Tests w (has w lo n v) [(lo, n, v)]
  | and {a b : Bool} {as bs : List RowTest} : Tests w a as → Tests w b bs → Tests w (a && b) (as ++ bs)

theorem Tests.holds_iff {w : Nat} {c : Bool} {ts : List RowTest} (tests : Tests w c ts) :
    c = true ↔ ∀ t ∈ ts, has w t.1 t.2.1 t.2.2 = true := by
  induction tests with
  | one => simp
  | and _ _ iha ihb => simp [iha, ihb, or_imp, forall_and]

theorem has_iff_testBit {w lo n v : Nat} (small : v < 2 ^ n) :
    has w lo n v = true ↔ ∀ j < n, w.testBit (lo + j) = v.testBit j := by
  rw [has, beq_iff_eq]
  constructor
  · rintro rfl j hj
    rw [Nat.testBit_mod_two_pow, Nat.testBit_div_two_pow, Nat.add_comm j]
    simp [hj]
  · intro h
    refine Nat.eq_of_testBit_eq fun j => ?_
    rw [Nat.testBit_mod_two_pow, Nat.testBit_div_two_pow, Nat.add_comm j]
    by_cases hj : j < n
    · simp [hj, h j hj]
    · have := Nat.testBit_lt_two_pow (Nat.lt_of_lt_of_le small (Nat.pow_le_pow_right (n := 2) (by omega) (Nat.le_of_not_lt hj)))
      simp [hj, this]

/-- Every bit of the test is a fixed bit of the word, with the value that the test asks for. -/
def fits (m : Nat) (ss : List (Nat × Nat)) (t : RowTest) : Bool :=
  decide (t.2.2 < 2 ^ t.2.1) && (List.range t.2.1).all fun j =>
    !covered ss (t.1 + j) && m.testBit (t.1 + j) == t.2.2.testBit j

/-- A fixed bit of the word differs from what the test asks for. -/
def clashes (m : Nat) (ss : List (Nat × Nat)) (t : RowTest) : Bool :=
  decide (t.2.2 < 2 ^ t.2.1) && (List.range t.2.1).any fun j =>
    !covered ss (t.1 + j) && m.testBit (t.1 + j) != t.2.2.testBit j

theorem has_of_fits {m w : Nat} {ss : List (Nat × Nat)} {t : RowTest} (fixed : FixedBits m ss w) (h : fits m ss t = true) :
    has w t.1 t.2.1 t.2.2 = true := by
  simp only [fits, Bool.and_eq_true, decide_eq_true_eq, List.all_eq_true, List.mem_range, Bool.not_eq_true', beq_iff_eq] at h
  obtain ⟨small, bits⟩ := h
  refine (has_iff_testBit small).2 fun j hj => ?_
  obtain ⟨free, same⟩ := bits j hj
  rw [fixed _ free, same]

theorem not_has_of_clashes {m w : Nat} {ss : List (Nat × Nat)} {t : RowTest} (fixed : FixedBits m ss w)
    (h : clashes m ss t = true) : ¬has w t.1 t.2.1 t.2.2 = true := by
  simp only [clashes, Bool.and_eq_true, decide_eq_true_eq, List.any_eq_true, List.mem_range, Bool.not_eq_true', bne_iff_ne] at h
  obtain ⟨small, j, hj, free, differ⟩ := h
  intro holds
  exact differ (by rw [← fixed _ free, (has_iff_testBit small).1 holds j hj])

/-- A part of the decoder is a chain of rows, each with its tests and its instruction. -/
inductive Rows (w : Nat) : Decoded → List (List RowTest) → List Instr → Prop
  | row {c : Bool} {ts : List RowTest} {i : Instr} {d : Decoded} {tss : List (List RowTest)} {is : List Instr} :
      Tests w c ts → Rows w d tss is → Rows w (if c then .instr i else d) (ts :: tss) (i :: is)
  | reject {r : Reject} : Rows w (.reject r) [] []
  | only {i : Instr} : Rows w (.instr i) [[]] [i]

/-- The first row all of whose tests fit, when a test of every row before it clashes. -/
def firstRow (m : Nat) (ss : List (Nat × Nat)) : List (List RowTest) → Option Nat
  | [] => none
  | ts :: tss =>
    if ts.all (fits m ss) then some 0
    else if ts.any (clashes m ss) then (firstRow m ss tss).map (· + 1)
    else none

theorem Rows.decodes {m w : Nat} {ss : List (Nat × Nat)} {d : Decoded} {tss : List (List RowTest)} {is : List Instr} {i : Instr}
    (fixed : FixedBits m ss w) (rows : Rows w d tss is) (first : (firstRow m ss tss).isSome = true)
    (named : is[(firstRow m ss tss).getD 0]? = some i) : d = .instr i := by
  obtain ⟨k, hk⟩ := Option.isSome_iff_exists.1 first
  rw [hk, Option.getD_some] at named
  clear first
  induction rows generalizing k with
  | reject => cases hk
  | only =>
    cases hk
    cases named
    rfl
  | @row c ts j d tss is tests _ ih =>
    simp only [firstRow] at hk
    split at hk
    · next hit =>
      cases hk
      cases named
      rw [if_pos (tests.holds_iff.2 fun t ht => has_of_fits fixed (List.all_eq_true.1 hit t ht))]
    · split at hk
      · next miss =>
        obtain ⟨t, ht, clash⟩ := List.any_eq_true.1 miss
        obtain ⟨n, hn, rfl⟩ := Option.map_eq_some_iff.1 hk
        rw [if_neg fun h => not_has_of_clashes fixed clash (tests.holds_iff.1 h t ht)]
        exact ih n named hn
      · cases hk


/-- The fields lie apart from each other and from the fixed bits, and below the major of a 32-bit word. -/
def wordLayout (m : Nat) (ss : List (Nat × Nat)) : Bool :=
  layout m ss && ss.all (fun s => s.1 + s.2 ≤ 26) && decide (m < 2 ^ 32)

theorem pack_word {m w : Nat} {ps : List Nat} {ss : List (Nat × Nat)} {fs : List Field} (placed : Placed ps ss fs)
    (packed : pack m ps = some w) (ok : wordLayout m ss = true) :
    w < 2 ^ 32 ∧ w / 2 ^ 26 = m / 2 ^ 26 ∧ FixedBits m ss w ∧ Holds w fs := by
  simp only [wordLayout, Bool.and_eq_true, decide_eq_true_eq] at ok
  obtain ⟨⟨apart, low⟩, small⟩ := ok
  obtain ⟨fixed, holds⟩ := pack_bits placed packed apart
  have major := major_of_fixed fixed low
  exact ⟨by omega, major, fixed, holds⟩

/-- Settles O1: the tests of the instruction's row fit its word, and a test of every row before it clashes. -/
theorem decodeOfEncode : Obligations.DecodeOfEncode := by
  unfold Obligations.DecodeOfEncode
  intro i w h
  cases i
  all_goals try exact absurd h.symm (Option.some_ne_none w)
  all_goals
    obtain ⟨small, major, fixed, fields⟩ := pack_word (by repeat constructor) h (by decide)
    refine ⟨small, ?_⟩
    rw [decodeWord, major]
    repeat obtain ⟨rfl, fields⟩ := fields
    exact Rows.decodes fixed (by repeat constructor) (by decide) rfl

/-! ## The word of a decoded instruction -/

/-- The numbers that `pack` adds up are these fields of the word, each in its place. -/
inductive Taken (w : Nat) : List Nat → List (Nat × Nat) → Prop
  | cons {n lo : Nat} {ps : List Nat} {ss : List (Nat × Nat)} : Taken w ps ss → Taken w (place (fld w lo n) lo :: ps) ((lo, n) :: ss)
  | nil : Taken w [] []

theorem fld_eq_iff_testBit {w x lo n : Nat} : fld x lo n = fld w lo n ↔ ∀ j < n, x.testBit (lo + j) = w.testBit (lo + j) := by
  simp only [fld, BitVec.eq_of_getLsbD_eq_iff, BitVec.getLsbD_ofNat, Nat.testBit_div_two_pow, Nat.add_comm lo]
  exact forall₂_congr fun j hj => by simp [hj]

/-- A packed word of fields of `w` agrees with `w` on these fields. -/
theorem Taken.agrees {m w x : Nat} {ps : List Nat} {ss : List (Nat × Nat)} (taken : Taken w ps ss) (packed : pack m ps = some x)
    (ok : layout m ss = true) :
    FixedBits m ss x ∧ ∀ j, covered ss j = true → x.testBit j = w.testBit j := by
  have placed : ∀ {ps ss}, Taken w ps ss → ∃ fs, Placed ps ss fs ∧
      (Holds x fs → ∀ j, covered ss j = true → x.testBit j = w.testBit j) := by
    intro ps ss taken
    induction taken with
    | nil => exact ⟨[], .nil, fun _ j h => nomatch h⟩
    | @cons n lo _ _ _ ih =>
      obtain ⟨fs, placed, agrees⟩ := ih
      refine ⟨_, .cons placed, fun ⟨here, there⟩ j hj => ?_⟩
      simp only [covered, List.any_cons, Bool.or_eq_true, Bool.and_eq_true, decide_eq_true_eq] at hj
      rcases hj with hj | hj
      · have := fld_eq_iff_testBit.1 here (j - lo) (by omega)
        rwa [show lo + (j - lo) = j by omega] at this
      · exact agrees there j hj
  obtain ⟨fs, placed, agrees⟩ := placed taken
  obtain ⟨fixed, holds⟩ := pack_bits placed packed ok
  exact ⟨fixed, agrees holds⟩

theorem pack_isSome (m : Nat) (ps : List Nat) : ∃ x, pack m ps = some x := by
  induction ps generalizing m with
  | nil => exact ⟨m, rfl⟩
  | cons p ps ih => exact ih _

/-- The tests fix every bit of a 32-bit word outside its fields to that of `m`. -/
def determined (m : Nat) (ss : List (Nat × Nat)) (ts : List RowTest) : Bool :=
  wordLayout m ss && (List.range 32).all fun j => covered ss j || ts.any fun t =>
    decide (t.2.2 < 2 ^ t.2.1) && decide (t.1 ≤ j) && decide (j < t.1 + t.2.1) && m.testBit j == t.2.2.testBit (j - t.1)

/-- What the decoder answers for the word is an instruction with that word, or none. -/
def Sound (w : Nat) (d : Decoded) : Prop := ∀ i, d = .instr i → i.encode = some w

theorem sound_reject {w : Nat} {r : Reject} : Sound w (.reject r) := nofun

theorem sound_instr {w m : Nat} {ts : List RowTest} {ps : List Nat} {ss : List (Nat × Nat)} {i : Instr} (small : w < 2 ^ 32)
    (packed : i.encode = pack m ps) (taken : Taken w ps ss) (ok : determined m ss ts = true)
    (holds : ∀ t ∈ ts, has w t.1 t.2.1 t.2.2 = true) : Sound w (.instr i) := by
  rintro _ ⟨⟩
  obtain ⟨x, hx⟩ := pack_isSome m ps
  simp only [determined, wordLayout, Bool.and_eq_true, List.all_eq_true, List.mem_range, Bool.or_eq_true, List.any_eq_true,
    decide_eq_true_eq, beq_iff_eq] at ok
  obtain ⟨⟨⟨apart, low⟩, mSmall⟩, bits⟩ := ok
  obtain ⟨fixed, agrees⟩ := taken.agrees hx apart
  rw [packed, hx, Option.some.injEq]
  refine Nat.eq_of_testBit_eq fun j => ?_
  by_cases free : covered ss j = true
  · exact agrees j free
  rw [fixed j (by simpa using free)]
  by_cases hj : j < 32
  · obtain ⟨t, ht, ⟨⟨fit, above⟩, below⟩, same⟩ := (bits j hj).resolve_left free
    have := (has_iff_testBit fit).1 (holds t ht) (j - t.1) (by omega)
    rw [same, ← this, show t.1 + (j - t.1) = j by omega]
  · have high : ∀ n < 2 ^ 32, n.testBit j = false := fun n hn =>
      Nat.testBit_lt_two_pow (Nat.lt_of_lt_of_le hn (Nat.pow_le_pow_right (by omega) (Nat.le_of_not_lt hj)))
    rw [high m mSmall, high w small]

theorem sound_row {w m k : Nat} {c : Bool} {ts : List RowTest} {ps : List Nat} {ss : List (Nat × Nat)} {i : Instr} {d : Decoded}
    (small : w < 2 ^ 32) (major : has w 26 6 k = true) (tests : Tests w c ts)
    (packed : i.encode = pack m ps) (taken : Taken w ps ss) (ok : determined m ss ((26, 6, k) :: ts) = true) (rest : Sound w d) :
    Sound w (if c then .instr i else d) := by
  split
  · next h => exact sound_instr small packed taken ok (List.forall_mem_cons.2 ⟨major, tests.holds_iff.1 h⟩)
  · exact rest

theorem has_major {w k : Nat} (h : w / 2 ^ 26 % 64 = k) : has w 26 6 k = true := by simpa [has] using h

theorem sound_only {w m k : Nat} {ps : List Nat} {ss : List (Nat × Nat)} {i : Instr} (small : w < 2 ^ 32)
    (major : has w 26 6 k = true) (packed : i.encode = pack m ps) (taken : Taken w ps ss)
    (ok : determined m ss [(26, 6, k)] = true) : Sound w (.instr i) :=
  sound_instr small packed taken ok (List.forall_mem_singleton.2 major)

theorem sound_decodeWord (w : Nat) (small : w < 2 ^ 32) : Sound w (decodeWord w) := by
  unfold decodeWord
  split
  all_goals try exact sound_reject
  all_goals
    rename_i h
    repeat refine sound_row small (has_major h) (by repeat constructor) (by rfl) (by repeat constructor) (by decide) ?_
  all_goals try exact sound_reject
  all_goals exact sound_only small (has_major h) (by rfl) (by repeat constructor) (by decide)

/-- Settles O2: each row of the decoder tests every bit that is in none of its fields. -/
theorem encodeOfDecode : Obligations.EncodeOfDecode := fun w i small h => sound_decodeWord w small i h

/-! ## Reserved words -/

theorem not_has {w lo n v : Nat} (h : w / 2 ^ lo % 2 ^ n ≠ v) : has w lo n v = false := by
  rwa [has, beq_eq_false_iff_ne]

theorem decodeWord_reserved_major {w : Nat} (h : w / 2 ^ 26 % 64 ∈ [10, 11, 29, 30, 31, 58, 59, 60, 61, 62]) :
    decodeWord w = .reject .reservedMajor := by
  rw [decodeWord]
  simp only [List.mem_cons, List.not_mem_nil, or_false] at h
  rcases h with h | h | h | h | h | h | h | h | h | h <;> (rw [h]; rfl)

theorem decodeWord_reserved_hint {w : Nat} (major : w / 2 ^ 26 % 64 = 63) (kind : w / 2 ^ 23 % 8 = 7) :
    decodeWord w = .reject .reservedHint := by
  rw [decodeWord, major]
  simp (disch := omega) only [decodeMajor3F, not_has, Bool.false_eq_true, if_false]

theorem decodeWord_nop_reserved {w : Nat} (major : w / 2 ^ 26 % 64 = 0) (op : w / 2 ^ 21 % 32 = 1) (bits : w / 8 % 2 ^ 18 ≠ 0) :
    decodeWord w = .reject .reservedEncoding := by
  rw [decodeWord, major]
  simp (disch := omega) only [decodeMajor00, not_has, Bool.false_and, Bool.false_eq_true, if_false]

/-- Settles O3: the words are computed, and a reserved word fails the tests of every row of its major. -/
theorem decodeWords : Obligations.DecodeWords :=
  ⟨by decide +kernel, fun _ => decodeWord_reserved_major, fun _ => decodeWord_reserved_hint, fun _ => decodeWord_nop_reserved⟩
end Sys2Proof
end

section
/-!
SUPPORT. The statements about byte memories and about the state after reset.
-/

namespace Sys2Proof.Machine

/-- A canonical memory that reads 0 everywhere lists nothing. -/
theorem Memory.eq_nil_of_read_zero {m : List Host.Cell} (wf : Memory.wf m = true) (zero : ∀ a, Memory.read m a = 0) : m = [] := by
  cases m with
  | nil => rfl
  | cons c m =>
    obtain ⟨k, b⟩ := c
    have := zero k
    simp only [Memory.read, beq_self_eq_true, if_true] at this
    exact absurd this ((Memory.wf_cons k b m).1 wf).1

/-- Below its first cell a canonical memory reads 0, and there it does not: memories that read alike start at one address. -/
theorem Memory.start_le {k l : Nat} {b x : Byte} {m n : List Host.Cell} (wf : Memory.wf ((k, b) :: m) = true)
    (wfn : Memory.wf ((l, x) :: n) = true) (same : ∀ a, Memory.read ((k, b) :: m) a = Memory.read ((l, x) :: n) a) : l ≤ k := by
  by_contra h
  have here := same k
  have above : Memory.above (k + 1) ((l, x) :: n) := by
    intro d hd
    rcases List.mem_cons.1 hd with rfl | hd
    · show k + 1 ≤ l
      omega
    · have := ((Memory.wf_cons l x n).1 wfn).2.1 d hd
      omega
  rw [Memory.read_of_above _ _ above] at here
  simp only [Memory.read, beq_self_eq_true, if_true] at here
  exact ((Memory.wf_cons k b m).1 wf).1 here

/-- Memories in canonical form that read alike are equal. -/
theorem Memory.eq_of_read {m n : List Host.Cell} (wfm : Memory.wf m = true) (wfn : Memory.wf n = true)
    (same : ∀ a, Memory.read m a = Memory.read n a) : m = n := by
  induction m generalizing n with
  | nil => exact (Memory.eq_nil_of_read_zero wfn fun a => (same a).symm).symm
  | cons c m ih =>
    cases n with
    | nil => exact Memory.eq_nil_of_read_zero wfm same
    | cons d n =>
      obtain ⟨k, b⟩ := c
      obtain ⟨l, x⟩ := d
      obtain rfl : k = l := Nat.le_antisymm (Memory.start_le wfn wfm fun a => (same a).symm) (Memory.start_le wfm wfn same)
      obtain ⟨-, aboveM, wfm'⟩ := (Memory.wf_cons k b m).1 wfm
      obtain ⟨-, aboveN, wfn'⟩ := (Memory.wf_cons k x n).1 wfn
      have first : b = x := by simpa [Memory.read] using same k
      have rest : ∀ a, Memory.read m a = Memory.read n a := fun a => by
        by_cases h : k = a
        · subst h
          rw [Memory.read_of_above m k aboveM, Memory.read_of_above n k aboveN]
        · simpa [Memory.read, h] using same a
      rw [first, ih wfm' wfn' rest]

/-- Settles O60: by induction on both memories, and by what a read gives after a write. -/
theorem memoryIsCanonical : Obligations.MemoryIsCanonical := by
  refine ⟨fun m n => Memory.eq_of_read, fun m a bs wf => ⟨Memory.wf_writeList m a bs wf, fun j hj => ?_, fun b hb => ?_⟩⟩
  · rw [Memory.read_writeList, if_pos ⟨by omega, by omega⟩, Nat.add_sub_cancel_left]
  · exact Memory.read_writeList_of_outside m a bs b hb

/-- The storages of `State.reset` are empty. -/
theorem State.memOk_reset : State.reset.MemOk := ⟨rfl, fun x => by cases x <;> rfl⟩

/-- Settles O57: no core, cluster or die of `State.reset` is listed, so each has the values of its type's start. -/
theorem resetValues : Obligations.ResetValues :=
  ⟨rfl, rfl, fun _ => (by decide : Core.start.boundary = 32), fun _ => ⟨rfl, rfl⟩, fun _ => rfl, rfl, rfl, rfl, fun _ _ => rfl, State.memOk_reset⟩

end Sys2Proof.Machine
end

section
/-!
SUPPORT. The arithmetic of the meanings, on numbers, as bit-vector arithmetic; the statements about the results of the
scalar and the vector integer instructions and of predicate operations, exchanges and transfers.
-/

namespace Sys2Proof.Machine

/-! ## Numbers and words -/

theorem s32_eq (w : Word) : s32 w = w.toInt := by
  have := w.isLt
  rw [s32, sext, BitVec.toInt_eq_toNat_cond, Nat.mod_eq_of_lt this]
  split <;> split <;> omega

theorem low32_toInt (w : Word) : low32 w.toInt = w := BitVec.ofInt_toInt

theorem word_toNat (w : Word) : word w.toNat = w := by rw [word, BitVec.ofNat_toNat, BitVec.setWidth_eq]

theorem eq_low32 {w : Word} {x : Int} (h : w.toInt = x) : w = low32 x := by rw [← h, low32_toInt]

theorem eq_word {w : Word} {n : Nat} (h : w.toNat = n % 2 ^ 32) : w = word n :=
  BitVec.eq_of_toNat_eq (by rw [h, word, BitVec.toNat_ofNat])

@[simp] theorem low32_mul (x y : Word) : low32 (x.toInt * y.toInt) = x * y := by
  rw [low32, BitVec.ofInt_mul, BitVec.ofInt_toInt, BitVec.ofInt_toInt]

theorem extractHigh_ofInt (z : Int) : (BitVec.ofInt 64 z).extractLsb' 32 32 = BitVec.ofInt 32 (z / 2 ^ 32) := by
  refine BitVec.eq_of_toNat_eq ?_
  rw [BitVec.extractLsb'_toNat, BitVec.toNat_ofInt, BitVec.toNat_ofInt, Nat.shiftRight_eq_div_pow]
  omega

@[simp] theorem mulhU_eq (x y : Word) : mulhU x y = (x.zeroExtend 64 * y.zeroExtend 64).extractLsb' 32 32 := by
  refine (eq_word ?_).symm
  have : x.toNat * y.toNat < 2 ^ 32 * 2 ^ 32 := Nat.mul_lt_mul'' x.isLt y.isLt
  have wide : ∀ z : Word, z.toNat % 2 ^ 64 = z.toNat := fun z => by have := z.isLt; omega
  rw [BitVec.extractLsb'_toNat, BitVec.toNat_mul, BitVec.toNat_setWidth, BitVec.toNat_setWidth, wide, wide, Nat.shiftRight_eq_div_pow]
  omega

@[simp] theorem mulhS_eq (x y : Word) : mulhS x y = (x.signExtend 64 * y.signExtend 64).extractLsb' 32 32 := by
  rw [mulhS, high32, s32_eq, s32_eq, ← extractHigh_ofInt, BitVec.ofInt_mul]
  rfl

@[simp] theorem shl_eq (a : Word) (n : Nat) : shl a n = a <<< n := by
  rw [shl]
  split
  · next h => exact (BitVec.shiftLeft_eq_zero h).symm
  · rfl

@[simp] theorem shr_eq (a : Word) (n : Nat) : shr a n = a >>> n := by
  rw [shr]
  split
  · next h => exact (BitVec.ushiftRight_eq_zero h).symm
  · rfl

@[simp] theorem sra_eq (a : Word) (n : Nat) : sra a n = a.sshiftRight n := by
  rw [sra]
  split
  · next h =>
    refine BitVec.eq_of_getElem_eq fun i hi => ?_
    rw [BitVec.getElem_sshiftRight, dif_neg (by omega)]
    cases a.msb <;> simp only [if_true, Bool.false_eq_true, if_false]
    · exact BitVec.getElem_zero hi
    · exact (BitVec.getElem_allOnes i hi : (BitVec.allOnes 32)[i] = true)
  · rfl

/-! ## Orders -/

theorem slt_iff (a b : Word) : a.slt b = true ↔ s32 a < s32 b := by rw [BitVec.slt_iff_toInt_lt, s32_eq, s32_eq]
theorem sle_iff (a b : Word) : a.sle b = true ↔ s32 a ≤ s32 b := by rw [BitVec.sle_iff_toInt_le, s32_eq, s32_eq]

theorem slt_eq (a b : Word) : decide (s32 a < s32 b) = a.slt b := by simp [← slt_iff]
theorem sle_eq (a b : Word) : decide (s32 a ≤ s32 b) = a.sle b := by simp [← sle_iff]
theorem ult_eq (a b : Word) : decide (a.toNat < b.toNat) = a.ult b := rfl
theorem ule_eq (a b : Word) : decide (a.toNat ≤ b.toNat) = a.ule b := rfl

@[simp] theorem minS_eq (a b : Word) : minS a b = if b.slt a then b else a := by
  rw [minS, ← ite_not]
  simp only [not_le, slt_iff]

@[simp] theorem minU_eq (a b : Word) : minU a b = if b.ult a then b else a := by
  rw [minU, ← ite_not]
  simp only [not_le, BitVec.ult_iff_toNat_lt]

/-- The larger is the first when the second is smaller, and either when they are equal. -/
@[simp] theorem maxS_eq (a b : Word) : maxS a b = if a.slt b then b else a := by
  simp only [maxS, slt_iff]
  by_cases h : s32 a = s32 b
  · have : a = b := BitVec.eq_of_toInt_eq (by rwa [← s32_eq, ← s32_eq])
    simp [this]
  · exact if_congr (by omega) rfl rfl

@[simp] theorem maxU_eq (a b : Word) : maxU a b = if a.ult b then b else a := by
  simp only [maxU, BitVec.ult_iff_toNat_lt]
  by_cases h : a.toNat = b.toNat
  · simp [BitVec.eq_of_toNat_eq h]
  · exact if_congr (by omega) rfl rfl

theorem scmpCond_eq (u : BitVec 2) (x y : Word) :
    scmpCond u x y = if u == 0 then x == y else if u == 1 then x != y else if u == 2 then x.slt y else x.ult y := by
  match u with
  | 0 => rfl
  | 1 => rfl
  | 2 => exact slt_eq x y
  | 3 => rfl

theorem intCond_eq (n : Nat) (x y : Word) : intCond n x y = holdsInt n x y := by
  match n with
  | 0 | 1 | 6 | 7 | 8 => rfl
  | 2 => exact slt_eq x y
  | 3 => exact sle_eq x y
  | 4 => exact slt_eq y x
  | 5 => exact sle_eq y x
  | n + 9 => rfl

theorem condOf_eq (n m : BitVec 2) : condOf n m = 4 * n.toNat + m.toNat := by rw [condOf, Nat.mul_comm]

/-! ## Immediates -/

theorem append_toNat {n m : Nat} (a : BitVec n) (b : BitVec m) : (a ++ b).toNat = a.toNat * 2 ^ m + b.toNat := by
  rw [BitVec.toNat_append, ← Nat.shiftLeft_add_eq_or_of_lt b.isLt, Nat.shiftLeft_eq]

theorem sext_eq {n : Nat} (v : BitVec n) (h : 0 < n) : sext n v.toNat = v.toInt := by
  have e : 2 ^ n = 2 * 2 ^ (n - 1) := by rw [← Nat.pow_succ', Nat.succ_eq_add_one, Nat.sub_add_cancel h]
  rw [sext, BitVec.toInt_eq_toNat_cond, Nat.mod_eq_of_lt v.isLt]
  exact if_congr (by omega) rfl rfl

theorem low32_sext {n : Nat} (v : BitVec n) (h : 0 < n) : low32 (sext n v.toNat) = v.signExtend 32 := by
  rw [sext_eq v h]
  rfl

theorem imm11_eq (I : Issue) (v : BitVec 11) : imm11 I v = scalarImm I v := by
  unfold imm11 scalarImm
  cases I.hv.imm with
  | none => exact low32_sext v (by decide)
  | some p =>
    refine (eq_word (w := BitVec.ofNat 23 p ++ v.setWidth 9) ?_).symm
    rw [append_toNat, BitVec.toNat_ofNat, BitVec.toNat_setWidth]
    omega

theorem vectorImm_of_some {I : Issue} {p : Nat} (h : I.hv.imm = some p) (v : BitVec 9) :
    vectorImm I v = word (p * 512 + v.toNat) := by
  rw [vectorImm, h]
  refine eq_word ?_
  rw [append_toNat, BitVec.toNat_ofNat]
  omega

theorem vectorImm_of_none {I : Issue} (h : I.hv.imm = none) (v : BitVec 9) : vectorImm I v = low32 (sext 9 v.toNat) := by
  rw [vectorImm, h, low32_sext v (by decide)]

/-! ## Saturation, carries and divisions -/

theorem wrapOrSat_eq (I : Issue) (x : Int) : wrapOrSat I.sat x = wrapped I x := by
  unfold wrapOrSat wrapped Issue.sat satS32
  split
  · by_cases h : 2 ^ 31 ≤ x
    · rw [if_neg (by omega), if_pos (by omega), if_pos h]; rfl
    · by_cases g : x < -2 ^ 31
      · rw [if_pos (by omega), if_neg h, if_pos g]; rfl
      · rw [if_neg (by omega), if_neg (by omega), if_neg h, if_neg g]; rfl
  · rfl

theorem absW_eq (a : Word) : absW a = if a.slt 0 then 0 - a else a := by
  rw [absW, ← BitVec.slt_zero_eq_msb, ← BitVec.zero_sub]
  rfl

theorem divS_eq (a b : Word) : divS a b = if b == 0 then 0xFFFFFFFF else a.sdiv b := by
  rw [divS]
  refine ite_congr rfl (fun _ => rfl) fun _ => BitVec.eq_of_toInt_eq ?_
  rw [BitVec.toInt_sdiv, s32_eq, s32_eq, low32, BitVec.toInt_ofInt]

theorem divU_eq (a b : Word) : divU a b = if b == 0 then 0xFFFFFFFF else a / b := by
  rw [divU]
  refine ite_congr rfl (fun _ => rfl) fun _ => (eq_word ?_).symm
  rw [BitVec.toNat_udiv, Nat.mod_eq_of_lt (Nat.lt_of_le_of_lt (Nat.div_le_self ..) a.isLt)]

theorem remS_eq (a b : Word) : remS a b = if b == 0 then a else a.srem b := by
  rw [remS]
  refine ite_congr rfl (fun _ => rfl) fun _ => ?_
  rw [s32_eq, s32_eq, ← BitVec.toInt_srem, low32_toInt]

theorem remU_eq (a b : Word) : remU a b = if b == 0 then a else a % b := by
  rw [remU]
  refine ite_congr rfl (fun _ => rfl) fun _ => (eq_word ?_).symm
  rw [BitVec.toNat_umod, Nat.mod_eq_of_lt (Nat.lt_of_le_of_lt (Nat.mod_le ..) a.isLt)]

/-- The 33-bit sum of VADDC. -/
theorem addc_toNat (a b : Word) (c : Bool) :
    (a.zeroExtend 33 + b.zeroExtend 33 + (if c then 1 else 0) : BitVec 33).toNat = a.toNat + b.toNat + b2n c := by
  have := a.isLt
  have := b.isLt
  cases c <;> simp [b2n] <;> omega

theorem addc_word (a b : Word) (c : Bool) :
    (a.zeroExtend 33 + b.zeroExtend 33 + (if c then 1 else 0) : BitVec 33).setWidth 32 = word (a.toNat + b.toNat + b2n c) :=
  eq_word (by rw [BitVec.toNat_setWidth, addc_toNat])

theorem addc_carry (a b : Word) (c : Bool) :
    (a.zeroExtend 33 + b.zeroExtend 33 + (if c then 1 else 0) : BitVec 33).msb = carryOut (a.toNat + b.toNat + b2n c) := by
  rw [BitVec.msb_eq_decide, addc_toNat]
  rfl

/-! ## Effects on registers alone -/

/-- An effect on registers alone answers for each active fibre. -/
theorem issue_eachLane {F : Form} {s : State} {I : Issue} (g : Issue → Nat → LaneOut) (h : Ready F s I) :
    issue F (eachLane g) s = .next ((F.slot s I).finish I F.lat (I.act.map (g I))) := issue_ready _ h

/-- An instruction that acts fibre by fibre does to each fibre what a table says. -/
theorem issue_eachLane_told {s : State} {I : Issue} {F : Form} {g : Issue → Nat → LaneOut} {f : Nat → LaneOut}
    {table : Nat → Option LaneOut} (ready : Ready F s I) (told : ∀ l, table l = some (f l)) (same : ∀ l, table l = some (g I l)) :
    issue F (eachLane g) s = .next ((F.slot s I).finish I F.lat (I.act.map f)) := by
  obtain rfl : g I = f := funext fun l => Option.some.inj ((same l).symm.trans (told l))
  exact issue_eachLane g ready

theorem Issue.scalarOut_eq {I : Issue} (active : I.act ≠ []) (ws : List (RegRef × Word)) :
    scalarOut I ws = [{ lane := I.low, writes := ws }] := by
  unfold scalarOut Issue.low
  split
  · contradiction
  · next h => rw [h]; rfl

/-- A scalar instruction that writes the result of a table. -/
theorem issue_scalar {F : Form} {s : State} {I : Issue} {d e : Nat} {v x : Word} {w : Issue → List (RegRef × Word)}
    (lat : F.lat = some 4) (ready : Ready F s I) (told : some (e, x) = some (d, v)) (same : w I = [(.s e, x)]) :
    issue F (fun I s => .go s (scalarOut I (w I))) s =
      .next ((F.slot s I).finish I (some 4) [{ lane := I.low, writes := [(.s d, v)] }]) := by
  cases told
  rw [issue_ready _ ready, ← lat, ← same, ← Issue.scalarOut_eq ready.active]
  rfl

theorem shiftLeft_small (y : Word) (h : BitVec 2) : y <<< h.toNat = y * BitVec.ofNat 32 (2 ^ h.toNat) := by
  rw [BitVec.shiftLeft_eq_mul_twoPow]
  congr 1
  match h with
  | 0 | 1 | 2 | 3 => rfl

theorem select_eq (o x y : Word) : (if o != 0 then x else y) = if o == 0 then y else x := by
  rw [bne]
  cases o == 0 <;> rfl

/-- Settles O8: each instruction's result on numbers is that of bit-vector arithmetic. -/
theorem scalarResults : Obligations.ScalarResults := by
  unfold Obligations.ScalarResults
  intro i s I F d v hF told ready
  cases i
  all_goals try exact absurd told.symm (Option.some_ne_none _)
  all_goals
    cases hF
    simp only [exec_sadd, exec_ssub, exec_smul, exec_smulh, exec_sand, exec_sor, exec_sxor, exec_sshl, exec_sshr, exec_ssra,
      exec_smin, exec_smax, exec_scmp, exec_ssel, exec_smov, exec_slea, exec_saddi, exec_sxori,
      execSadd, execSsub, execSmul, execSmulh, execSand, execSor, execSxor, execSshl, execSshr, execSsra,
      execSmin, execSmax, execScmp, execSsel, execSmov, execSlea, execSaddi, execSxori, scalar3, scalar2]
    refine issue_scalar rfl ready told ?_
  all_goals simp only [s32_eq, low32_mul, mulhS_eq, mulhU_eq, shl_eq, shr_eq, sra_eq, minS_eq, minU_eq, maxS_eq, maxU_eq, scmpCond_eq,
    imm11_eq, shiftCount, shiftLeft_small, select_eq]
  all_goals split <;> rfl

/-- Settles O9: each instruction's result on numbers is that of bit-vector arithmetic. -/
theorem vectorResults : Obligations.VectorResults := by
  unfold Obligations.VectorResults
  intro i s I F f hF told ready
  cases i
  all_goals try exact absurd (told 0).symm (Option.some_ne_none _)
  all_goals
    cases hF
    simp only [exec_vadd, exec_vsub, exec_vmul, exec_vmad, exec_vmulhS, exec_vmulhU, exec_vaddc, exec_vabs, exec_vclz,
      exec_vpopc, exec_vbrev, exec_vmov, exec_vmovs, exec_vand, exec_vor, exec_vxor, exec_vbfe, exec_vshl, exec_vshr,
      exec_vsra, exec_vbfi, exec_vminS, exec_vminU, exec_vmaxS, exec_vmaxU, exec_vdivS, exec_vdivU, exec_vremS, exec_vremU,
      exec_vcmp, exec_vsel, exec_vaddi, exec_vshli, exec_vshri, exec_vsrai,
      execVadd, execVsub, execVmul, execVmad, execVmulhS, execVmulhU, execVaddc, execVabs, execVclz,
      execVpopc, execVbrev, execVmov, execVmovs, execVand, execVor, execVxor, execVbfe, execVshl, execVshr,
      execVsra, execVbfi, execVminS, execVminU, execVmaxS, execVmaxU, execVdivS, execVdivU, execVremS, execVremU,
      execVcmp, execVsel, execVaddi, execVshli, execVshri, execVsrai, vec3, vecPlain, vecDiv, vec2]
    refine issue_eachLane_told ready told fun l => ?_
    simp only [vectorResult, vout, putV, putVF, putP, low32_mul, mulhS_eq, mulhU_eq, shl_eq, shr_eq, sra_eq, minS_eq, minU_eq,
      maxS_eq, maxU_eq, shiftCount, select_eq, wrapOrSat_eq, s32_eq, absW_eq, divS_eq, divU_eq, remS_eq, remU_eq, wpred,
      intCond_eq, bword, condOf_eq, addc_word, addc_carry]
  case vaddi im _ =>
    cases h : I.hv.imm with
    | some p => rw [vectorImm_of_some h]
    | none => rw [vectorImm_of_none h]

/-! ## Predicate operations, exchanges and votes -/

theorem predIn_eq (G : Group) (l : Nat) (m : BitVec 1) (p : BitVec 5) :
    predIn G l m p = if m == 1 then !G.p l p.toNat else G.p l p.toNat := by
  rw [predIn]
  cases m == 1 <;> cases G.p l p.toNat <;> rfl

theorem fromLane_eq (I : Issue) (l src : Nat) (a : BitVec 7) :
    fromLane I l src a = I.R.v (if src ∈ I.act then src else l) a.toNat := by
  rw [fromLane, apply_ite (fun n => I.R.v n a.toNat)]
  exact if_congr List.contains_iff_mem rfl rfl

theorem Issue.beq_low {I : Issue} (active : I.act ≠ []) (l : Nat) : (l == I.low) = decide (I.act.head? = some l) := by
  obtain ⟨m, ms, h⟩ := List.exists_cons_of_ne_nil active
  rw [Issue.low, h, List.headD_cons, List.head?_cons, Bool.eq_iff_iff, beq_iff_eq, decide_eq_true_eq, Option.some.injEq, eq_comm]

theorem any_eq_decide (ls : List Nat) (p : Nat → Bool) : ls.any p = decide (∃ m ∈ ls, p m = true) := by
  rw [Bool.eq_iff_iff, List.any_eq_true, decide_eq_true_eq]

theorem all_eq_decide (ls : List Nat) (p : Nat → Bool) : ls.all p = decide (∀ m ∈ ls, p m = true) := by
  rw [Bool.eq_iff_iff, List.all_eq_true, decide_eq_true_eq]

theorem predicateResults {i : Instr} {s : State} {I : Issue} {F : Form} {f : Nat → LaneOut} (hF : formOf i s = some F)
    (told : ∀ l, predicateResult i I l = some (f l)) (ready : Ready F s I) :
    exec i s = .next ((F.slot s I).finish I F.lat (I.act.map f)) := by
  cases i
  all_goals try exact absurd (told 0).symm (Option.some_ne_none _)
  all_goals
    cases hF
    simp only [exec_pand, exec_por, exec_pxor, exec_pnot, exec_pset, exec_shfl, exec_shflX, exec_elect, exec_voteAny,
      exec_voteAll, exec_voteBallot, execPand, execPor, execPxor, execPnot, execPset, execShfl, execShflX, execElect,
      execVoteAny, execVoteAll, execVoteBallot, pred2]
    refine issue_eachLane_told ready told fun l => ?_
    simp only [predicateResult, putV, putP, wpred, bword, predIn_eq, fromLane_eq, Issue.beq_low ready.active, any_eq_decide,
      all_eq_decide]
  case pset => simp only [bne_iff_ne, decide_eq_true_eq]

/-! ## Transfers -/

/-- A walk reads no group and no issue slot. -/
theorem State.walkFrom_cores (s : State) (cs : Tbl Core) (is : List Nat) (va level tab : Nat) :
    ({ s with cores := cs, issued := is } : State).walkFrom va level tab = s.walkFrom va level tab := by
  induction level generalizing tab with
  | zero => rfl
  | succ l ih =>
    rw [State.walkFrom, State.walkFrom]
    simp only [ih]
    rfl

theorem State.peekLeaf_account (s : State) (c g gap : Nat) (mark : Option Bool) (core x va : Nat) :
    (s.account c g gap mark).peekLeaf core x va = s.peekLeaf core x va := by
  have tlb : ((s.account c g gap mark).core core).tlb = (s.core core).tlb := by
    have := congrArg Core.tlb (s.core_modGroup_rest c g core fun G => { G with
      lastIssue := s.pulses c + 1, nextIssue := s.coreCycle c + 1 + gap, giveWay := mark.getD G.giveWay })
    exact this
  have walk : (s.account c g gap mark).walk x va = s.walk x va := s.walkFrom_cores _ _ va 3 _
  unfold State.peekLeaf
  rw [tlb, walk]
  rfl

@[simp] theorem State.barred_account (s : State) (c g gap : Nat) (mark : Option Bool) :
    (s.account c g gap mark).barred = s.barred := by
  funext core x t
  rw [State.barred, State.barred, s.peekLeaf_account]

theorem dispTarget_eq (pc : Nat) (t : BitVec 14) : dispTarget pc t = branchTarget pc t := by
  have h : (BitVec.ofNat 64 pc + 4 + t.signExtend 64 * 4 : BitVec 64) = BitVec.ofInt 64 ((pc : Int) + 4 + t.toInt * 4) := by
    rw [BitVec.ofInt_add, BitVec.ofInt_add, BitVec.ofInt_mul]
    rfl
  rw [branchTarget, h, BitVec.toNat_ofInt, dispTarget, sext_eq t (by decide)]
  rfl

theorem goTo_eq (s : State) (I : Issue) (l t : Nat) (ws : List (RegRef × Word)) :
    goTo s I l t ws = goes (s.barred I.core I.x) l t ws := by
  unfold goTo goes State.targetTrap badTarget wellFormedVa
  by_cases align : t % 4 = 0
  · by_cases high : 4503599627370496 ≤ t
    · simp [align, high, Nat.not_lt.2 high, vaTop]
    · cases s.barred I.core I.x t <;> simp [align, high, Nat.lt_of_not_le high, vaTop]
  · simp [align]

theorem linkWrites_eq (l : Nat) (r : BitVec 5) (pc : Nat) : linkWrites l r pc = returnTo l r pc := rfl

/-- What a fibre does that is taken to a target with writes, or falls through. -/
def taken (bar : Nat → Bool) (l : Nat) (to_ : Option (Nat × List (RegRef × Word))) : LaneOut :=
  (to_.map fun e => goes bar l e.1 e.2).getD { lane := l }

theorem taken_some (bar : Nat → Bool) (l t : Nat) (ws : List (RegRef × Word)) : taken bar l (some (t, ws)) = goes bar l t ws := rfl

theorem taken_ite (bar : Nat → Bool) (l t : Nat) (b : Prop) [Decidable b] :
    taken bar l (if b then some (t, []) else none) = if b then goes bar l t [] else { lane := l } := by
  split <;> rfl

/-- A transfer takes each fibre where a table says. -/
theorem issue_transfer_told {s : State} {I : Issue} {F : Form} {g : Issue → Nat → Option (Nat × List (RegRef × Word))}
    {f : Nat → LaneOut} {table : Nat → Option LaneOut} (lat : F.lat = none) (ready : Ready F s I)
    (told : ∀ l, table l = some (f l)) (same : ∀ l, table l = some (taken (s.barred I.core I.x) l (g I l))) :
    issue F (transfer g) s = .next ((F.slot s I).finish I none (I.act.map f)) := by
  rw [issue_ready _ ready, transfer, eachLane, Result.out, lat]
  congr 2
  refine List.map_congr_left fun l _ => ?_
  rw [Option.some.inj ((told l).symm.trans (same l))]
  cases g I l with
  | none => rfl
  | some e => exact (goTo_eq ..).trans (by rw [Form.slot, State.barred_account]; rfl)

theorem transferResults {i : Instr} {s : State} {I : Issue} {F : Form} {f : Nat → LaneOut} (hF : formOf i s = some F)
    (told : ∀ l, transferResult (s.barred I.core I.x) i I l = some (f l)) (ready : Ready F s I) :
    exec i s = .next ((F.slot s I).finish I none (I.act.map f)) := by
  cases i
  all_goals try exact absurd (told 0).symm (Option.some_ne_none _)
  all_goals
    cases hF
    simp only [exec_bra, exec_brp, exec_brn, exec_brpAny, exec_brpAll, exec_call, exec_calli, exec_ret, exec_jmpi, exec_brx,
      execBra, execBrp, execBrn, execBrpAny, execBrpAll, execCall, execCalli, execRet, execJmpi, execBrx, branch]
    refine issue_transfer_told rfl ready told fun l => ?_
    simp only [transferResult, linkWrites_eq, dispTarget_eq, any_eq_decide, all_eq_decide, taken_some, taken_ite, Group.vpair]

/-- Settles O10: each fibre's answer is the table's. -/
theorem predicateAndTransferResults : Obligations.PredicateAndTransferResults :=
  ⟨fun _ _ _ _ _ => predicateResults, fun _ _ _ _ _ => transferResults⟩

end Sys2Proof.Machine
end

section
/-!
SUPPORT. The floating-point instructions and the conversions (O11, O12): each effect is the table's, and block
quantization answers for the active lanes of each block.
-/

namespace Sys2Proof.Machine

/-- Settles O11: each fibre's answer is the table's. -/
theorem floatResults : Obligations.FloatResults := by
  unfold Obligations.FloatResults
  intro i s I F f hF told ready
  cases i
  all_goals try exact absurd (told 0).symm (Option.some_ne_none _)
  all_goals
    cases hF
    simp only [exec_fadd, exec_fsub, exec_fmul, exec_ffma, exec_ffms, exec_fmin, exec_fmax, exec_fldexp, exec_frnd,
      exec_ffrac, exec_fclass, exec_fexpo, exec_hadd2, exec_hmul2, exec_hfma2, exec_bfma2, exec_fcmp, exec_dadd, exec_dmul,
      exec_dfma, exec_dcmp, exec_fdiv, exec_frcp, exec_frsq, exec_fsqrt, exec_fexp2, exec_flog2, exec_fsin, exec_fcos,
      execFadd, execFsub, execFmul, execFfma, execFfms, execFmin, execFmax, execFldexp, execFrnd,
      execFfrac, execFclass, execFexpo, execHadd2, execHmul2, execHfma2, execBfma2, execFcmp, execDadd, execDmul,
      execDfma, execDcmp, execFdiv, execFrcp, execFrsq, execFsqrt, execFexp2, execFlog2, execFsin, execFcos,
      float2, float3, float1, floatFn, double3]
    refine issue_eachLane_told ready told fun l => ?_
    simp only [floatResult, condOf_eq, wpred, putP]
    rfl

/-! ## Conversions -/

theorem halfPos_eq (h : BitVec 1) (w : Nat) : halfPos h w = halfShift h w := by
  unfold halfPos halfShift
  match h with
  | 0 | 1 => simp

theorem cvtRead_eq (G : Group) (l : Nat) (n : BitVec 7) (h : BitVec 1) (w : Nat) :
    cvtRead G l n.toNat h w = narrowRead G l n h w := by
  unfold cvtRead narrowRead
  rw [halfPos_eq]
  exact if_congr beq_iff_eq rfl rfl

/-- The answer of a conversion, as its effect gives it. -/
theorem cvtWrite_eq (l : Nat) (n : BitVec 7) (h : BitVec 1) (w : Nat) (r : Nat × Nat) :
    ({ lane := l, writes := cvtWrite l n.toNat h w r.1, flags := r.2 } : LaneOut) = narrowPut l n h w r := by
  unfold cvtWrite narrowPut
  rw [halfPos_eq]
  by_cases wide : w = 64
  · subst wide
    rfl
  · by_cases full : w = 32
    · subst full
      rfl
    · simp only [beq_iff_eq, if_neg wide, if_neg full, word]

theorem convertResults_lanes {i : Instr} {s : State} {I : Issue} {F : Form} {f : Nat → LaneOut} (hF : formOf i s = some F)
    (told : ∀ l, convertResult i I l = some (f l)) (ready : Ready F s I) :
    exec i s = .next ((F.slot s I).finish I (some 6) (I.act.map f)) := by
  cases i
  all_goals try exact absurd (told 0).symm (Option.some_ne_none _)
  all_goals
    cases hF
    simp only [exec_cvtf, exec_cvti, exec_cvtn, exec_pack2, exec_unpk, exec_dqnt, execCvtf, execCvti, execCvtn, execPack2,
      execUnpk, execDqnt, convert]
    refine issue_eachLane_told ready told fun l => ?_
  all_goals simp only [convertResult, cvtRead_eq, cvtWrite_eq]
  case dqnt f _ =>
    by_cases two : f.toNat % 4 = 2
    · simp [blockRegs, two, List.range_succ]
    · simp [blockRegs, two, List.range_succ, putV]
  all_goals rfl

/-! ## Block quantization -/

theorem blockCode_eq (f : BitVec 5) (k : Nat) (small : k < 4) : (f.extractLsb' 0 2 = BitVec.ofNat 2 k) = (f.toNat % 4 = k) := by
  rw [← BitVec.toNat_inj, BitVec.extractLsb'_toNat, BitVec.toNat_ofNat, Nat.mod_eq_of_lt small, Nat.shiftRight_zero]

theorem blockLanes_eq (f : BitVec 5) : blockLanes f.toNat =
    if f.extractLsb' 0 2 = 0 then [List.range 16, (List.range 16).map (· + 16)] else [List.range 32] :=
  if_congr (beq_iff_eq.trans (blockCode_eq f 0 (by decide)).symm.to_iff) rfl rfl

theorem blockRegs_eq (f : BitVec 5) : blockRegs f.toNat = if f.extractLsb' 0 2 = 2 then 2 else 1 :=
  if_congr (beq_iff_eq.trans (blockCode_eq f 2 (by decide)).symm.to_iff) rfl rfl

/-- The answers for the members of a list that pass a test. -/
theorem filterMap_ite {α β : Type} (ls : List α) (p : α → Bool) (f : α → β) :
    (ls.filterMap fun l => if p l then some (f l) else none) = (ls.filter p).map f := by
  rw [← List.filterMap_eq_map, List.filterMap_filter]
  rfl

/-- Settles O12: a conversion reads and merges at the same place, and the lanes of a block are those of the table. -/
theorem convertResults : Obligations.ConvertResults := by
  refine ⟨fun _ _ _ _ _ => convertResults_lanes, ?_⟩
  intro d a f c s I F hF ready blocks regs elems quant
  cases hF
  simp only [exec_qnt, execQnt]
  refine (issue_ready _ ready).trans ?_
  simp only [filterMap_ite, blockElems, blockLanes_eq, blockRegs_eq]
  simp only [List.contains_iff_mem]
  rfl

end Sys2Proof.Machine
end

section
/-!
SUPPORT. Instructions that a check refuses (O4), hint words (O5) and traps (O13).
-/

namespace Sys2Proof.Machine

/-! ## Refused instructions -/

theorem Form.check_eq (F : Form) (v : HintView) (n : Nat) (c : Ctx) : F.check v n c =
     if F.hintsOk v = false then some (mkTrap fcIllop 0 0)
     else if F.ins.wellFormed = false then some (mkTrap fcIllop 0 0)
     else if F.ops.all (Opnd.ok n) = false then some (mkTrap fcIllop 0 0)
     else if c.hasFeature F.feat = false then some (mkTrap fcUnfeatured F.feat 0) else none := by
  simp only [Form.check, Bool.not_eq_true']

/-- A check of each fibre refuses the instruction for all of them, with one trap (R43 steps 5 and 6). -/
theorem issue_trapped {F : Form} {s : State} {I : Issue} {t : Trap} (run : Issue → State → Result)
    (issuer : s.issuer = some I) (first : I.first = true) (landed : F.blocked I.hv I.G I.lanes I.act = false)
    (batch : F.check I.hv I.G.budget (s.ctx I.x) = none)
    (fibres : ∀ l ∈ I.act, F.checkLane I.hv (s.ctx I.x).scoreboard I.G I.act l = some t) :
    issue F run s = .next ((F.slot s I).finish I F.lat (I.act.map fun l => { lane := l, trap := some t })) := by
  have pre : (I.act.filterMap fun l =>
      (F.checkLane I.hv (s.ctx I.x).scoreboard I.G I.act l).map fun t => ({ lane := l, trap := some t } : LaneOut)) =
      I.act.map fun l => { lane := l, trap := some t } := by
    rw [← List.filterMap_eq_map]
    exact List.filterMap_congr fun l hl => by rw [fibres l hl]; rfl
  have none_left : (I.act.filter fun l => !(I.act.map fun l => ({ lane := l, trap := some t } : LaneOut)).any
      fun o => o.lane == l) = [] := by
    rw [List.filter_eq_nil_iff]
    intro l hl
    simp [hl]
  simp only [issue, issuer, first, landed, Bool.and_false, Bool.false_eq_true, if_false, if_true, batch, pre, none_left,
    List.isEmpty_nil]
  rfl

theorem writesTo_false {fl : List InFlight} {n : Nat} (free : ∀ f ∈ fl, f.ref ≠ .s n) : writesTo fl (.s n) = false := by
  rw [writesTo, List.any_eq_false]
  intro f hf
  have := free f hf
  cases h : f.ref <;> simp_all [RegRef.whole]

theorem writesTo_true {fl : List InFlight} {n : Nat} (busy : ∃ f ∈ fl, f.ref = .s n) : writesTo fl (.s n) = true := by
  obtain ⟨f, hf, h⟩ := busy
  rw [writesTo, List.any_eq_true]
  exact ⟨f, hf, decide_eq_true (by rw [h]; rfl)⟩

/-- The second of two scalar operands is the first hazard when the first has no write in flight (R19). -/
theorem hazard_second {fl : List InFlight} {d a : BitVec 6} (free : ∀ f ∈ fl, f.ref ≠ .s d.toNat)
    (busy : ∃ f ∈ fl, f.ref = .s a.toNat) (l : Nat) (peers : List (RegRef × Nat)) (v : HintView) :
    hazard fl l [os d, os a] peers v = some (256 + a.toNat) := by
  have first := writesTo_false free
  have second := writesTo_true busy
  simp [hazard, os, Opnd.regs, List.range_succ, first, second, Nat.add_comm]

/-- Settles O4: the checks of the batch, the wait for a register and the checks of each fibre come before the effect,
whatever it is. -/
theorem refusedInstructionTraps : Obligations.RefusedInstructionTraps := by
  unfold Obligations.RefusedInstructionTraps
  refine ⟨⟨Form.check_eq, ?_⟩, ?_, ?_, ?_⟩
  · intro i s F I t hF issuer first landed batch
    obtain ⟨run, he⟩ := exec_issue i s F hF
    rw [he]
    exact issue_refused run issuer first landed batch
  · intro i s F I hF issuer first waits
    obtain ⟨run, he⟩ := exec_issue i s F hF
    rw [he]
    exact issue_blocked run issuer first waits
  · intro i s F I hF priv issuer first landed batch outside
    obtain ⟨run, he⟩ := exec_issue i s F hF
    rw [he]
    refine issue_trapped run issuer first landed batch fun l hl => ?_
    rw [Form.checkLane, priv, outside l hl]
    rfl
  · intro s I d a c F hF issuer first landed batch board free busy
    obtain ⟨run, he⟩ := exec_issue _ s F hF
    rw [he]
    cases hF
    refine issue_trapped run issuer first landed batch fun l _ => ?_
    rw [Form.checkLane, board, hazard_second free busy]
    rfl

/-! ## Hint words -/

theorem hint_issuer {s : State} {I : Issue} (issuer : s.issuer = some I) (k p : Nat) :
    hint k p s = .next ((s.account I.core I.g 0 none).modGroup I.core I.g fun G =>
      let H := I.lanes.foldl (fun H l => H.modLane l fun L => { L with pc := I.pc + 4 }) G
      { H with batches := H.batches.modify I.bi fun B =>
          { B with hints := B.hints ++ [{ pc := I.pc, kind := k, payload := p }] } }) := by
  rw [hint, issuer]

/-- Settles O5: every hint word is a hint of its kind. -/
theorem hintsJoinTheRun : Obligations.HintsJoinTheRun := by
  unfold Obligations.HintsJoinTheRun
  intro s I issuer joined
  have joins : ∀ k p, hint k p s = joined k p := hint_issuer issuer
  refine ⟨fun p => joins .., fun g => joins .., fun o p => ?_, fun m => joins .., fun k => joins .., fun m => joins .., joins ..⟩
  rw [append_toNat, Nat.add_comm, Nat.mul_comm]
  exact joins ..

/-! ## Instructions that trap -/

theorem bits_extract (w : BitVec 32) (lo n : Nat) : bits w.toNat lo n = (w.extractLsb' lo n).toNat := by
  rw [BitVec.extractLsb'_toNat, Nat.shiftRight_eq_div_pow]
  rfl

/-- Settles O13: each effect is the trap of every active fibre. -/
theorem trapInstructions : Obligations.TrapInstructions := by
  unfold Obligations.TrapInstructions
  refine ⟨?_, ?_⟩
  · intro i s I F hF ready traps
    refine ⟨fun x hi => ?_, fun k c hi => ?_, fun k c hi => ?_⟩ <;>
    · subst hi
      cases hF
      simp only [exec_ill, exec_trap, exec_bkpt, execIll, execTrap, execBkpt]
      exact issue_ready _ ready
  · intro w s I issuer
    have major : bits w.toNat 26 6 = 0x3F ↔ w.extractLsb' 26 6 = 63 := by
      rw [bits_extract, ← BitVec.toNat_inj]
      rfl
    rw [exec_reservedEncoding, execReservedEncoding]
    refine ⟨fun other => ?_, fun hinted => ?_⟩
    · rw [if_neg (by rw [beq_iff_eq, major]; exact other), issuer, bits_extract]
      rw [bit, BitVec.getLsbD, Nat.testBit_eq_decide_div_mod_eq]
      rfl
    · rw [if_pos (by rw [beq_iff_eq, major]; exact hinted), hint_issuer issuer, bits_extract, bits_extract]

/-! ## ERET -/

/-- The addresses that a transfer may take. -/
theorem targetTrap_isNone (s : State) (core x t : Nat) :
    (s.targetTrap core x t).isNone = (t % 4 == 0 && decide (t < 2 ^ 52) && !s.barred core x t) := by
  unfold State.targetTrap badTarget wellFormedVa
  by_cases align : t % 4 = 0
  · by_cases low : t < 4503599627370496
    · cases s.barred core x t <;> simp [align, low, vaTop]
    · simp [align, low, vaTop]
  · simp [align]

/-- A fibre that transfers without a write goes on where `good` says, and else traps. -/
theorem goes_nil (bar : Nat → Bool) (l t : Nat) : goes bar l t [] =
    if (t % 4 == 0 && decide (t < 2 ^ 52) && !bar t) = true then { lane := l, next := some t }
    else if t % 4 ≠ 0 then { lane := l, trap := some (mkTrap 8 0 t) }
    else if 2 ^ 52 ≤ t then { lane := l, trap := some (mkTrap 6 2 t) }
    else { lane := l, trap := some (mkTrap 7 0 t) } := by
  unfold goes
  by_cases align : t % 4 = 0
  · by_cases low : t < 2 ^ 52
    · have below := Nat.not_le.2 low
      cases bar t <;> simp only [align, low, below, ne_eq, not_true, if_false, decide_true, beq_self_eq_true,
        Bool.not_true, Bool.not_false, Bool.and_true, Bool.and_false, if_true, Bool.false_eq_true]
      rfl
    · have above := Nat.not_lt.1 low
      simp only [align, low, above, ne_eq, not_true, if_false, decide_false, Bool.and_false, Bool.false_and, if_true,
        Bool.false_eq_true]
      rfl
  · simp only [align, ne_eq, not_false_eq_true, if_true, beq_iff_eq, Bool.and_eq_true, false_and, if_false]
    rfl

theorem eretLane_eq (s : State) (I : Issue) : eretLane s I = fun l =>
    let t := (I.G.lane l).trappc.toNat
    if (t % 4 == 0 && decide (t < 2 ^ 52) && !s.barred I.core I.x t) = true then { lane := l, next := some t }
    else if t % 4 ≠ 0 then { lane := l, trap := some (mkTrap 8 0 t) }
    else if 2 ^ 52 ≤ t then { lane := l, trap := some (mkTrap 6 2 t) }
    else { lane := l, trap := some (mkTrap 7 0 t) } :=
  funext fun _ => (goTo_eq ..).trans (goes_nil ..)

/-- Settles O14: a fibre returns where a transfer may take it. -/
theorem eretReturns : Obligations.EretReturns := by
  unfold Obligations.EretReturns
  intro c s I F hF ready to_ good
  cases hF
  simp only [exec_eret, execEret]
  refine (issue_ready _ ready).trans ?_
  have lanes := eretLane_eq (Form.slot { ins := .eret c, c := c, priv := true } s I) I
  rw [Form.slot, State.barred_account] at lanes
  simp only [targetTrap_isNone, Form.slot, State.barred_account, Result.out, lanes]
  rfl

end Sys2Proof.Machine
end

section
/-!
SUPPORT. What the answers of the fibres make of the state when all of them go on (O53).
-/

namespace Sys2Proof.Machine

/-! ## Changes of several lanes -/

/-- Lanes changed in turn, each by a change that says nothing new when it is made twice. -/
theorem Group.lane_foldl_modLane (G : Group) (ls : List Nat) (f : Nat → Lane → Lane) (m : Nat)
    (twice : ∀ l L, f l (f l L) = f l L) :
    (ls.foldl (fun H l => H.modLane l (f l)) G).lane m = if m ∈ ls then f m (G.lane m) else G.lane m := by
  induction ls generalizing G with
  | nil => rfl
  | cons l ls ih =>
    rw [List.foldl_cons, ih, Group.lane_modLane]
    by_cases h : l = m
    · subst h
      by_cases again : l ∈ ls <;> simp [again, twice]
    · simp [h, Ne.symm h]

/-- Lanes changed in turn leave the rest of the group. -/
theorem Group.foldl_modLane_frame {α : Type} (G : Group) (es : List α) (lane : α → Nat) (f : α → Lane → Lane) :
    { es.foldl (fun H e => H.modLane (lane e) (f e)) G with lanes := G.lanes } = G :=
  List.foldlRecOn (motive := fun H : Group => { H with lanes := G.lanes } = G) es _ rfl fun _ h _ _ => h

/-- A split changes the PCs of the fibres that it places, and the batches. -/
theorem Group.split_eq (G : Group) (bi fall : Nat) (nxt : List (Nat × Nat)) : ∃ bs, G.split bi fall nxt =
    { nxt.foldl (fun H (e : Nat × Nat) => H.modLane e.1 fun L => { L with pc := e.2 }) G with batches := bs } := by
  unfold Group.split
  dsimp only
  split
  · exact ⟨_, rfl⟩
  · exact ⟨_, rfl⟩
  · split <;> exact ⟨_, rfl⟩

/-! ## Answers of fibres that go on -/

theorem outOf_lane (outs : List LaneOut) (l : Nat) : (outOf outs l).lane = l := by
  unfold outOf
  cases h : outs.find? fun o => o.lane == l with
  | none => rfl
  | some o => exact beq_iff_eq.1 (List.find?_some (p := fun o : LaneOut => o.lane == l) h)

theorem outOf_mem (outs : List LaneOut) (l : Nat) : outOf outs l ∈ outs ∨ outOf outs l = { lane := l } := by
  unfold outOf
  cases h : outs.find? fun o => o.lane == l with
  | none => exact .inr rfl
  | some o => exact .inl (List.mem_of_find?_eq_some h)

/-- Each fibre of a batch goes on, with an answer of the list or without one. -/
theorem GoesOn.all {outs : List LaneOut} (on : GoesOn outs) (ls : List Nat) : GoesOn (ls.map (outOf outs)) := by
  intro o ho
  obtain ⟨l, -, rfl⟩ := List.mem_map.1 ho
  rcases outOf_mem outs l with h | h
  · exact on _ h
  · rw [h]
    exact ⟨rfl, rfl, rfl⟩

section
variable {outs : List LaneOut}

theorem GoesOn.traps (on : GoesOn outs) : outs.filterMap (fun o => o.trap.map fun t => (o.lane, t)) = [] := by
  rw [List.filterMap_eq_nil_iff]
  intro o ho
  rw [(on o ho).1]
  rfl

theorem GoesOn.parks (on : GoesOn outs) :
    outs.filterMap (fun o => if o.trap.isSome then none else o.park.map fun p => (o.lane, p)) = [] := by
  rw [List.filterMap_eq_nil_iff]
  intro o ho
  obtain ⟨trap, park, -⟩ := on o ho
  rw [trap, park]
  rfl

theorem GoesOn.gone (on : GoesOn outs) : (outs.filter fun o => o.trap.isNone && o.park.isNone && o.ends) = [] := by
  rw [List.filter_eq_nil_iff]
  intro o ho
  rw [(on o ho).2.2, Bool.and_false]
  exact Bool.false_ne_true

theorem GoesOn.rest (on : GoesOn outs) : (outs.filter fun o => o.trap.isNone && o.park.isNone && !o.ends) = outs := by
  rw [List.filter_eq_self]
  intro o ho
  obtain ⟨trap, park, ends⟩ := on o ho
  rw [trap, park, ends]
  rfl

end

/-- The registers that the answers write. -/
def Issue.writes (I : Issue) (outs : List LaneOut) : List (RegRef × Word) := (I.lanes.map (outOf outs)).flatMap (·.writes)

/-- The flags that the answers merge. -/
def Issue.flags (I : Issue) (outs : List LaneOut) : Nat := (I.lanes.map (outOf outs)).foldl (fun a o => a ||| o.flags) 0

/-- All that the answers write, the flags last. -/
def Issue.allWrites (I : Issue) (outs : List LaneOut) : List (RegRef × Word) :=
  if I.flags outs == 0 then I.writes outs else I.writes outs ++ [(RegRef.flags, word (I.flags outs))]

/-- The delay of the answers' writes of variable latency. -/
def State.lateness (s : State) (I : Issue) (outs : List LaneOut) : Nat :=
  if !(I.allWrites outs).isEmpty then s.delays.headD 0 else 0

/-- The group as its fibres go on, each where its answer says or behind the instruction. -/
def Group.goOn (G : Group) (I : Issue) (outs : List LaneOut) : Group :=
  (((I.lanes.map (outOf outs)).filter (·.next.isSome)).foldl (fun H o => H.modLane o.lane fun L => { L with via := I.pc }) G).split
    I.bi (I.pc + 4) ((I.lanes.map (outOf outs)).map fun o => (o.lane, o.next.getD (I.pc + 4)))

theorem State.finish_fixed (s : State) (I : Issue) {outs : List LaneOut} (n : Nat) (on : GoesOn outs) :
    s.finish I (some n) outs =
      (s.modGroup I.core I.g fun G => (G.writeFixed (s.coreCycle I.core) n (I.allWrites outs)).goOn I outs).leave I.core I.g := by
  have all := on.all I.lanes
  simp only [State.finish, all.traps, all.parks, all.gone, all.rest, List.map_nil, Group.endLanes_nil, List.foldl_nil]
  rfl

theorem State.finish_variable (s : State) (I : Issue) {outs : List LaneOut} (on : GoesOn outs) :
    s.finish I none outs =
      ((s.spendDelay (!(I.allWrites outs).isEmpty)).modGroup I.core I.g fun G =>
        (if s.lateness I outs == 0 then G.writeVar (I.allWrites outs)
          else G.writeLate (s.coreCycle I.core) (s.lateness I outs) (I.allWrites outs)).goOn I outs).leave I.core I.g := by
  have all := on.all I.lanes
  simp only [State.finish, all.traps, all.parks, all.gone, all.rest, List.map_nil, Group.endLanes_nil, List.foldl_nil]
  rfl

/-! ## The frame of fibres that go on -/

theorem Group.goOn_frame (G : Group) (I : Issue) (outs : List LaneOut) :
    { G.goOn I outs with lanes := G.lanes, batches := G.batches } = G := by
  have via := G.foldl_modLane_frame ((I.lanes.map (outOf outs)).filter (·.next.isSome)) (·.lane) fun _ L => { L with via := I.pc }
  unfold Group.goOn
  generalize ((I.lanes.map (outOf outs)).filter (·.next.isSome)).foldl _ G = H at via ⊢
  obtain ⟨bs, h⟩ := H.split_eq I.bi (I.pc + 4) ((I.lanes.map (outOf outs)).map fun o => (o.lane, o.next.getD (I.pc + 4)))
  have pcs := H.foldl_modLane_frame ((I.lanes.map (outOf outs)).map fun o => (o.lane, o.next.getD (I.pc + 4))) (·.1)
    fun e L => { L with pc := e.2 }
  rw [h]
  generalize List.foldl _ H _ = K at pcs ⊢
  calc { K with lanes := G.lanes, batches := G.batches }
    _ = { ({ K with lanes := H.lanes } : Group) with lanes := G.lanes, batches := G.batches } := rfl
    _ = { H with lanes := G.lanes, batches := G.batches } := by rw [pcs]
    _ = { ({ H with lanes := G.lanes } : Group) with batches := G.batches } := rfl
    _ = G := by rw [via]

theorem Group.goOn_lane (G : Group) (I : Issue) (outs : List LaneOut) (m : Nat) : (G.goOn I outs).lane m =
    if m ∈ I.lanes then
      { G.lane m with pc := (outOf outs m).next.getD (I.pc + 4)
                      via := if (outOf outs m).next.isSome then I.pc else (G.lane m).via }
    else G.lane m := by
  unfold Group.goOn
  obtain ⟨bs, h⟩ := Group.split_eq (((I.lanes.map (outOf outs)).filter (·.next.isSome)).foldl
    (fun H o => H.modLane o.lane fun L => { L with via := I.pc }) G) I.bi (I.pc + 4)
    ((I.lanes.map (outOf outs)).map fun o => (o.lane, o.next.getD (I.pc + 4)))
  rw [h]
  simp only [List.filter_map, List.map_map, List.foldl_map, Function.comp_apply, outOf_lane]
  have pcs := Group.lane_foldl_modLane
    ((I.lanes.filter fun l => (outOf outs l).next.isSome).foldl (fun H l => H.modLane l fun L => { L with via := I.pc }) G)
    I.lanes (fun l L => { L with pc := (outOf outs l).next.getD (I.pc + 4) }) m fun _ _ => rfl
  have via := G.lane_foldl_modLane (I.lanes.filter fun l => (outOf outs l).next.isSome)
    (fun _ L => { L with via := I.pc }) m fun _ _ => rfl
  refine pcs.trans ?_
  rw [via]
  by_cases here : m ∈ I.lanes
  · by_cases goes : (outOf outs m).next.isSome <;> simp [here, goes]
  · simp [here]

theorem Group.goOn_sameBut (G : Group) (I : Issue) (outs : List LaneOut) (l : Nat) :
    Lane.SameBut (G.lane l) ((G.goOn I outs).lane l) := by
  rw [G.goOn_lane]
  split <;> rfl

theorem Group.goOn_v (G : Group) (I : Issue) (outs : List LaneOut) (l k : Nat) : (G.goOn I outs).v l k = G.v l k := by
  rw [Group.v, Group.v, G.goOn_lane]
  split <;> rfl

theorem Group.goOn_p (G : Group) (I : Issue) (outs : List LaneOut) (l k : Nat) : (G.goOn I outs).p l k = G.p l k := by
  rw [Group.p, Group.p, G.goOn_lane]
  split <;> rfl

theorem Group.goOn_s (G : Group) (I : Issue) (outs : List LaneOut) (k : Nat) : (G.goOn I outs).s k = G.s k := by
  have := congrArg Group.sregs (G.goOn_frame I outs)
  rw [Group.s, Group.s, ← this]

theorem Group.goOn_live (G : Group) (I : Issue) (outs : List LaneOut) (l : Nat) :
    ((G.goOn I outs).lane l).live = (G.lane l).live := by
  rw [G.goOn_lane]
  split <;> rfl

theorem elsewhere_spendDelay (c g : Nat) (s : State) (b : Bool) : Elsewhere c g s (s.spendDelay b) := by
  unfold State.spendDelay
  split
  · exact ⟨rfl, fun _ => rfl, fun _ _ _ => rfl, fun _ => rfl⟩
  · exact ⟨rfl, fun _ => rfl, fun _ _ _ => rfl, fun _ => rfl⟩

@[simp] theorem State.group?_spendDelay (s : State) (b : Bool) (c g : Nat) : (s.spendDelay b).group? c g = s.group? c g := by
  unfold State.spendDelay
  split <;> rfl

theorem Group.write_live (G : Group) (ws : List (RegRef × Word)) (l : Nat) : ((G.write ws).lane l).live = (G.lane l).live := by
  refine Group.write_keeps (fun G => (G.lane l).live) ws ?_ G
  rintro ⟨r, x⟩ - H
  cases r with
  | s n => by_cases hn : n = 63 <;> simp [Group.write1, Group.lane, hn]
  | flags => rfl
  | _ m => by_cases h : m = l <;> simp [Group.write1, Group.lane_modLane, h]

/-- Where writes are made to a group with a live fibre and its fibres go on, nothing but the group changes, and it does not
exit. -/
theorem State.goOn_group {s : State} {I : Issue} (outs : List LaneOut) (f : Group → Group) (used : Bool) (issuer : s.issuer = some I)
    (lives : I.Lives) (keeps : ∀ l, ((f I.G).lane l).live = (I.G.lane l).live) :
    let t := ((s.spendDelay used).modGroup I.core I.g fun G => (f G).goOn I outs).leave I.core I.g
    t.group? I.core I.g = some ((f I.G).goOn I outs) ∧ Elsewhere I.core I.g s t := by
  obtain ⟨hG, some_lane, small⟩ := State.issuer_group issuer
  obtain ⟨l, hl⟩ := List.exists_mem_of_ne_nil _ some_lane
  have hH := State.group?_modGroup_self (fun G => (f G).goOn I outs) ((State.group?_spendDelay s used ..).trans hG)
  have stays : ((((f I.G).goOn I outs)).lane l).live = true := by
    rw [Group.goOn_live, keeps]
    exact lives l hl
  intro t
  have same : t = _ := State.leave_of_live hH (small l hl) stays
  rw [same]
  exact ⟨hH, (elsewhere_spendDelay ..).trans (elsewhere_modGroup ..)⟩

/-! ## The writes of the answers -/

section
variable {I : Issue} {outs : List LaneOut}

theorem mem_allWrites {w : RegRef × Word} : w ∈ I.allWrites outs → w ∈ I.writes outs ∨ w.1 = .flags := by
  unfold Issue.allWrites
  split
  · exact .inl
  · intro h
    rcases List.mem_append.1 h with h | h
    · exact .inl h
    · exact .inr (by rw [List.mem_singleton.1 h])

theorem mem_allWrites_of_writes {w : RegRef × Word} (h : w ∈ I.writes outs) : w ∈ I.allWrites outs := by
  unfold Issue.allWrites
  split
  · exact h
  · exact List.mem_append_left _ h

theorem allWrites_eq_nil : I.allWrites outs = [] ↔ I.writes outs = [] ∧ I.flags outs = 0 := by
  unfold Issue.allWrites
  by_cases quiet : I.flags outs = 0 <;> simp [quiet]

/-- What the answers do not write keeps its value. -/
theorem Group.writeVar_keeps {α : Type} {read : Group → α} {r : RegRef} (reads : ReadsReg read r) (flags : r ≠ .flags)
    (free : ∀ w ∈ I.writes outs, w.1.whole ≠ r) (G : Group) : read (G.writeVar (I.allWrites outs)) = read G := by
  refine (Group.write_keeps read _ (fun w hw H => reads.only H w ?_) _).trans (reads.blind G ..)
  rcases mem_allWrites hw with h | h
  · exact free w h
  · rw [h]
    exact flags.symm

/-- The one value that the answers write to a register stands in it. -/
theorem Group.writeVar_sets {α : Type} {read : Group → α} {w : RegRef × Word} {x : α} (reads : ReadsReg read w.1.whole)
    (sets : ∀ H : Group, read (H.write1 w) = x) (flags : w.1.whole ≠ .flags) (written : w ∈ I.writes outs)
    (one : ∀ u ∈ I.writes outs, u.1.whole = w.1.whole → u = w) (G : Group) : read (G.writeVar (I.allWrites outs)) = x := by
  obtain ⟨as, bs, e⟩ := List.append_of_mem (mem_allWrites_of_writes written)
  rw [Group.writeVar, e]
  refine Group.write_last sets reads as bs (fun u hu same => ?_) _
  rcases mem_allWrites (e ▸ List.mem_append_right as (List.mem_cons_of_mem w hu)) with h | h
  · exact one u h same
  · rw [h] at same
    exact absurd same.symm flags

end

theorem Group.write_frame (G : Group) (ws : List (RegRef × Word)) :
    { G.write ws with lanes := G.lanes, sregs := G.sregs, fpflags := G.fpflags } = G :=
  List.foldlRecOn (motive := fun H : Group => { H with lanes := G.lanes, sregs := G.sregs, fpflags := G.fpflags } = G) ws
    Group.write1 rfl fun H h w _ => by
      have := H.write1_frame w
      generalize H.write1 w = K at this ⊢
      calc { K with lanes := G.lanes, sregs := G.sregs, fpflags := G.fpflags }
        _ = { ({ K with lanes := H.lanes, sregs := H.sregs, fpflags := H.fpflags } : Group) with
              lanes := G.lanes, sregs := G.sregs, fpflags := G.fpflags } := rfl
        _ = { H with lanes := G.lanes, sregs := G.sregs, fpflags := G.fpflags } := by rw [this]
        _ = G := h

theorem Group.writeVar_frame (G : Group) (ws : List (RegRef × Word)) :
    { G.writeVar ws with lanes := G.lanes, sregs := G.sregs, fpflags := G.fpflags, inflight := G.inflight } = G := by
  have := Group.write_frame { G with inflight := G.inflight.filter fun f => f.ref = RegRef.flags || !ws.any fun w => w.1 = f.ref.whole } ws
  exact congrArg (fun H : Group => { H with inflight := G.inflight }) this

theorem Group.writeVar_live (G : Group) (ws : List (RegRef × Word)) (l : Nat) :
    ((G.writeVar ws).lane l).live = (G.lane l).live :=
  Group.write_live ..

theorem Group.write_fpflags (G : Group) (ws : List (RegRef × Word)) (quiet : ∀ w ∈ ws, w.1 ≠ .flags) :
    (G.write ws).fpflags = G.fpflags := by
  refine Group.write_keeps (·.fpflags) ws (fun w hw H => ?_) G
  obtain ⟨r, x⟩ := w
  cases r with
  | s n => by_cases hn : n = 63 <;> simp [Group.write1, hn]
  | flags => exact absurd rfl (quiet _ hw)
  | _ => rfl

/-- The flags are merged behind the writes. -/
theorem Group.writeVar_fpflags {I : Issue} {outs : List LaneOut} (quiet : ∀ w ∈ I.writes outs, w.1 ≠ .flags) (G : Group) :
    (G.writeVar (I.allWrites outs)).fpflags = G.fpflags ||| (BitVec.ofNat 32 (I.flags outs) &&& 0xFF) := by
  unfold Issue.allWrites Group.writeVar
  by_cases none : I.flags outs = 0
  · rw [none]
    simp only [beq_self_eq_true, if_true, Group.write_fpflags _ _ quiet]
    simp
  · simp only [beq_iff_eq, none, if_false, Group.write_append]
    rw [Group.write_cons, Group.write1]
    simp only [Group.write, List.foldl_nil]
    have := Group.write_fpflags { G with inflight := G.inflight.filter fun f => f.ref = RegRef.flags ||
      !(I.writes outs ++ [(RegRef.flags, word (I.flags outs))]).any fun w => w.1 = f.ref.whole } (I.writes outs) quiet
    rw [Group.write] at this
    rw [this]
    rfl

/-! ## The statement of the frame -/

/-- Merging flags changes nothing else. -/
theorem Group.write_flags_frame (G : Group) (ws : List (RegRef × Word)) (only : ∀ w ∈ ws, w.1 = .flags) :
    { G.write ws with fpflags := G.fpflags } = G :=
  List.foldlRecOn (motive := fun H : Group => { H with fpflags := G.fpflags } = G) ws Group.write1 rfl fun H h w hw => by
    obtain ⟨r, x⟩ := w
    obtain rfl : r = .flags := only _ hw
    exact h

theorem Group.writeLate_frame (G : Group) (now n : Nat) (ws : List (RegRef × Word)) :
    { G.writeLate now n ws with fpflags := G.fpflags, inflight := G.inflight, pending := G.pending } = G :=
  congrArg (fun H : Group => { H with inflight := G.inflight, pending := G.pending })
    (Group.write_flags_frame
      { G with inflight := G.inflight.filter fun f =>
          f.ref = RegRef.flags || !(ws.filter fun w => w.1 = RegRef.flags).any fun w => w.1 = f.ref.whole }
      (ws.filter fun w => w.1 = RegRef.flags) fun _ hw => of_decide_eq_true (List.mem_filter.1 hw).2)

/-- Late writes leave every register until they land. -/
theorem Group.writeLate_reads {α : Type} {read : Group → α} {r : RegRef} (reads : ReadsReg read r) (flags : r ≠ .flags)
    (G : Group) (now n : Nat) (ws : List (RegRef × Word)) : read (G.writeLate now n ws) = read G := by
  have only : read (G.writeVar (ws.filter fun w => w.1 = RegRef.flags)) = read G := by
    refine (Group.write_keeps read _ (fun w hw H => reads.only H w ?_) _).trans (reads.blind G ..)
    rw [of_decide_eq_true (List.mem_filter.1 hw).2]
    exact flags.symm
  exact (reads.blind (G.writeVar (ws.filter fun w => w.1 = RegRef.flags)) ..).trans only

theorem Group.writeLate_live (G : Group) (now n : Nat) (ws : List (RegRef × Word)) (l : Nat) :
    ((G.writeLate now n ws).lane l).live = (G.lane l).live :=
  Group.writeVar_live ..

theorem Group.writeLate_pending (G : Group) (now n : Nat) (ws : List (RegRef × Word)) : (G.writeLate now n ws).pending =
    G.pending ++ (ws.filter fun w => w.1 != .flags && !w.1.discards).map fun w => { due := now + n, ref := w.1, val := w.2 } := by
  rw [Group.writeLate, Group.writeVar, Group.write_pending]

theorem Group.writeLate_pending_answers (G : Group) (now n : Nat) (I : Issue) (outs : List LaneOut) :
    (G.writeLate now n (I.allWrites outs)).pending =
      G.pending ++ ((I.writes outs).filter fun w => w.1 != .flags && !w.1.discards).map fun w =>
        { due := now + n, ref := w.1, val := w.2 } := by
  rw [Group.writeLate_pending]
  unfold Issue.allWrites
  split <;> simp

theorem Group.writeFixed_inflight (G : Group) (now n : Nat) (I : Issue) (outs : List LaneOut) :
    (G.writeFixed now n (I.allWrites outs)).inflight =
      G.inflight ++ (((I.writes outs).filter fun w => !w.1.discards).map fun w => { due := now + n, ref := w.1, val := w.2 }) ++
        (if I.flags outs = 0 then [] else [{ due := now + n, ref := .flags, val := BitVec.ofNat 32 (I.flags outs) }]) := by
  unfold Group.writeFixed Issue.allWrites
  by_cases quiet : I.flags outs = 0 <;> simp [quiet, RegRef.discards, word]

/-- The group of the issue moves as the answers say. -/
theorem Group.goOn_moved {W G : Group} (I : Issue) (outs : List LaneOut) (pcs : ∀ l, (W.lane l).pc = (G.lane l).pc) :
    (∀ l ∈ I.lanes, ((W.goOn I outs).lane l).pc = (outOf outs l).next.getD (I.pc + 4)) ∧
    ∀ l, l ∉ I.lanes → ((W.goOn I outs).lane l).pc = (G.lane l).pc := by
  refine ⟨fun l hl => ?_, fun l hl => ?_⟩
  · rw [Group.goOn_lane, if_pos hl]
  · rw [Group.goOn_lane, if_neg hl, pcs]

theorem Group.write_pc (G : Group) (ws : List (RegRef × Word)) (l : Nat) : ((G.write ws).lane l).pc = (G.lane l).pc := by
  refine Group.write_keeps (fun G => (G.lane l).pc) ws ?_ G
  rintro ⟨r, x⟩ - H
  cases r with
  | s n => by_cases hn : n = 63 <;> simp [Group.write1, Group.lane, hn]
  | flags => rfl
  | _ m => by_cases h : m = l <;> simp [Group.write1, Group.lane_modLane, h]

/-- What the frame of a group that goes on keeps of the group before its writes. -/
theorem Group.goOn_keeps {β : Type} (read : Group → β) (blind : ∀ (G : Group) ls bs, read { G with lanes := ls, batches := bs } = read G)
    (G : Group) (I : Issue) (outs : List LaneOut) : read (G.goOn I outs) = read G :=
  (blind (G.goOn I outs) G.lanes G.batches).symm.trans (congrArg read (G.goOn_frame I outs))

/-- Settles O53: the writes are made to the group, and then its fibres go on. -/
theorem finishFrame : Obligations.FinishFrame := by
  unfold Obligations.FinishFrame
  intro s I outs issuer lives on ws fl late moved
  have lateness : s.lateness I outs = late := by
    rw [State.lateness]
    by_cases none : ws = [] ∧ fl = 0
    · rw [if_neg (by rw [allWrites_eq_nil.2 none]; exact Bool.false_ne_true)]
      exact (if_pos none).symm
    · have some : (I.allWrites outs).isEmpty = false := by
        rw [List.isEmpty_eq_false_iff]
        exact fun h => none (allWrites_eq_nil.1 h)
      rw [some, Bool.not_false, if_pos rfl]
      exact (if_neg none).symm
  refine ⟨fun n => ?_, fun now => ?_, fun later => ?_⟩
  · rw [s.finish_fixed I n on]
    obtain ⟨hH, frame⟩ := State.goOn_group outs (fun G => G.writeFixed (s.coreCycle I.core) n (I.allWrites outs)) false issuer
      lives fun _ => rfl
    refine ⟨_, hH, frame, ?_, Group.goOn_moved I outs fun _ => rfl, fun l => ?_, ?_⟩
    · exact congrArg (fun H : Group => { H with
          lanes := I.G.lanes, batches := I.G.batches, inflight := I.G.inflight, pending := I.G.pending,
          lastIssue := I.G.lastIssue, nextIssue := I.G.nextIssue, giveWay := I.G.giveWay })
        ((I.G.writeFixed (s.coreCycle I.core) n (I.allWrites outs)).goOn_frame I outs)
    · exact Group.goOn_sameBut ..
    · rw [Group.goOn_keeps (·.inflight) fun _ _ _ => rfl]
      exact Group.writeFixed_inflight ..
  · rw [s.finish_variable I on, lateness, now]
    obtain ⟨hH, frame⟩ := State.goOn_group outs (fun G => G.writeVar (I.allWrites outs)) (!(I.allWrites outs).isEmpty) issuer
      lives fun l => Group.writeVar_live ..
    refine ⟨_, hH, frame, Group.goOn_moved I outs fun l => Group.write_pc .., ?_, ?_, ?_, ?_, ?_, ?_, ?_, ?_⟩
    · refine (congrArg (fun H : Group => { H with
          lanes := I.G.lanes, batches := I.G.batches, inflight := I.G.inflight, sregs := I.G.sregs,
          fpflags := I.G.fpflags }) ((I.G.writeVar (I.allWrites outs)).goOn_frame I outs)).trans ?_
      exact congrArg (fun H : Group => { H with batches := I.G.batches }) (I.G.writeVar_frame (I.allWrites outs))
    · intro l k free
      rw [Group.goOn_v]
      exact Group.writeVar_keeps (readsReg_v l k) (by simp) free I.G
    · intro l k free
      rw [Group.goOn_p]
      exact Group.writeVar_keeps (readsReg_p l k) (by simp) (fun w hw h => free w hw (RegRef.whole_eq_p.1 h)) I.G
    · intro k free
      rw [Group.goOn_s]
      exact Group.writeVar_keeps (readsReg_s k) (by simp) (fun w hw h => free w hw (RegRef.whole_eq_s.1 h)) I.G
    · intro l k x written one
      rw [Group.goOn_v]
      exact Group.writeVar_sets (readsReg_v l k) (fun H => H.v_write1_v l k x) (by simp [RegRef.whole]) written one I.G
    · intro l k x small written one
      rw [Group.goOn_p]
      exact Group.writeVar_sets (w := (.p l k, x)) (readsReg_p l k) (fun H => H.p_write1_p l k x small) (by simp [RegRef.whole])
        written (fun w hw h => one w hw (RegRef.whole_eq_p.1 h)) I.G
    · intro k x small written one
      rw [Group.goOn_s]
      exact Group.writeVar_sets (w := (.s k, x)) (readsReg_s k) (fun H => H.s_write1_s k x small) (by simp [RegRef.whole])
        written (fun w hw h => one w hw (RegRef.whole_eq_s.1 h)) I.G
    · intro quiet
      rw [Group.goOn_keeps (·.fpflags) fun _ _ _ => rfl]
      exact Group.writeVar_fpflags quiet I.G
  · rw [s.finish_variable I on, lateness, beq_eq_false_iff_ne.2 later]
    obtain ⟨hH, frame⟩ := State.goOn_group outs (fun G => G.writeLate (s.coreCycle I.core) late (I.allWrites outs))
      (!(I.allWrites outs).isEmpty) issuer lives fun l => Group.writeLate_live ..
    refine ⟨_, hH, frame, Group.goOn_moved I outs fun l => Group.write_pc .., fun l k => ?_, fun k => ?_, ?_, ?_⟩
    · rw [Group.goOn_v, Group.goOn_p]
      exact ⟨Group.writeLate_reads (readsReg_v l k) (by simp) .., Group.writeLate_reads (readsReg_p l k) (by simp) ..⟩
    · rw [Group.goOn_s]
      exact Group.writeLate_reads (readsReg_s k) (by simp) ..
    · refine (congrArg (fun H : Group => { H with
          lanes := I.G.lanes, batches := I.G.batches, inflight := I.G.inflight, pending := I.G.pending,
          fpflags := I.G.fpflags }) ((I.G.writeLate (s.coreCycle I.core) late (I.allWrites outs)).goOn_frame I outs)).trans ?_
      exact congrArg (fun H : Group => { H with lanes := I.G.lanes, batches := I.G.batches })
        (I.G.writeLate_frame (s.coreCycle I.core) late (I.allWrites outs))
    · rw [Group.goOn_keeps (·.pending) fun _ _ _ => rfl]
      exact Group.writeLate_pending_answers ..

end Sys2Proof.Machine
end

section
/-!
SUPPORT. Instructions of fixed latency complete, and write only their destinations (O54).
-/

namespace Sys2Proof.Machine

/-- The answer of a fibre that does nothing but write destinations of the form. -/
def Form.Owns (F : Form) (o : LaneOut) : Prop :=
  o.trap = none ∧ o.park = none ∧ o.ends = false ∧ o.next = none ∧ ∀ w ∈ o.writes, w.1.whole ∈ F.dests o.lane

/-- The instruction completes with answers of its active fibres that write nothing but its destinations. -/
def Form.Completes (F : Form) (s : State) (I : Issue) (n : Nat) (o : Out) : Prop :=
  ∃ outs, o = .next ((F.slot s I).finish I (some n) outs) ∧ (∀ o ∈ outs, o.lane ∈ I.act) ∧ ∀ o ∈ outs, F.Owns o

section
variable {F : Form} {l : Nat}

theorem mem_dests_head {r : RegRef} {o : Opnd} {os : List Opnd} (ops : F.ops = o :: os) (h : r ∈ o.refs l) : r ∈ F.dests l := by
  refine List.mem_append_left _ ?_
  rw [ops]
  simpa using h

/-- A register of a vector operand. -/
theorem mem_refs_v {n cnt align k : Nat} (small : k < cnt) : RegRef.v l (n + k) ∈ (Opnd.v n cnt align).refs l := by
  simp only [Opnd.refs, Opnd.regs, List.map_map, List.mem_map, List.mem_range]
  exact ⟨k, small, rfl⟩

/-- A register of a scalar operand. -/
theorem mem_refs_s {n cnt align k : Nat} (small : k < cnt) : RegRef.s (n + k) ∈ (Opnd.s n cnt align).refs l := by
  simp only [Opnd.refs, Opnd.regs, List.map_map, List.mem_map, List.mem_range]
  exact ⟨k, small, rfl⟩

/-- Writes of registers of the first operand. -/
theorem owns_head {o : Opnd} {os : List Opnd} {ws : List (RegRef × Word)} {fl : Nat} (ops : F.ops = o :: os)
    (own : ∀ w ∈ ws, w.1.whole ∈ o.refs l) : F.Owns { lane := l, writes := ws, flags := fl } :=
  ⟨rfl, rfl, rfl, rfl, fun w hw => mem_dests_head ops (own w hw)⟩

theorem owns_vout {d : BitVec 7} {os : List Opnd} (ops : F.ops = ov d :: os) (r : Word × Nat) : F.Owns (vout l d r) :=
  owns_head ops fun w hw => by
    obtain rfl := List.mem_singleton.1 hw
    exact mem_refs_v (k := 0) Nat.one_pos

theorem owns_wpred {k : BitVec 5} {os : List Opnd} {fl : Nat} (ops : F.ops = op k :: os) (b : Bool) :
    F.Owns { lane := l, writes := [wpred l k.toNat b], flags := fl } :=
  owns_head ops fun w hw => by
    obtain rfl := List.mem_singleton.1 hw
    exact List.mem_singleton_self _

theorem owns_wpair {d : BitVec 7} {os : List Opnd} {fl : Nat} (ops : F.ops = ovn 2 d :: os) (x y : Word) :
    F.Owns { lane := l, writes := [(.v l d.toNat, x), (.v l (d.toNat + 1), y)], flags := fl } :=
  owns_head ops fun w hw => by
    rcases List.mem_pair.1 hw with rfl | rfl
    · exact mem_refs_v (k := 0) Nat.two_pos
    · exact mem_refs_v (k := 1) Nat.one_lt_two

theorem owns_cvtWrite {d : BitVec 7} {w : Nat} {os : List Opnd} {fl : Nat} (h : BitVec 1) (ops : F.ops = cvtOp d w :: os) (r : Nat) :
    F.Owns { lane := l, writes := cvtWrite l d.toNat h w r, flags := fl } := by
  unfold cvtWrite
  unfold cvtOp at ops
  cases wide : w == 64 <;> simp only [wide, Bool.false_eq_true, if_false, if_true] at ops ⊢
  · refine owns_head ops fun w hw => ?_
    split at hw
    all_goals
      obtain rfl := List.mem_singleton.1 hw
      exact mem_refs_v (k := 0) Nat.one_pos
  · exact owns_wpair ops ..

end

section
variable {F : Form} {s : State} {I : Issue} {n : Nat}

/-- An instruction that answers for each active fibre and leaves the state as it is. -/
theorem completes_lanes {g : Issue → State → Nat → LaneOut} (lat : F.lat = some n) (ready : Ready F s I)
    (lane : ∀ t l, (g I t l).lane = l) (own : ∀ t l, F.Owns (g I t l)) :
    F.Completes s I n (issue F (fun I s => .go s (I.act.map (g I s))) s) := by
  refine ⟨I.act.map (g I (F.slot s I)), ?_, fun o ho => ?_, fun o ho => ?_⟩
  · rw [issue_ready _ ready, Result.out, lat]
  · obtain ⟨l, hl, rfl⟩ := List.mem_map.1 ho
    rw [lane]
    exact hl
  · obtain ⟨l, -, rfl⟩ := List.mem_map.1 ho
    exact own _ l

theorem completes_eachLane {g : Issue → Nat → LaneOut} (lat : F.lat = some n) (ready : Ready F s I) (lane : ∀ l, (g I l).lane = l)
    (own : ∀ l, F.Owns (g I l)) : F.Completes s I n (issue F (eachLane g) s) :=
  completes_lanes (g := fun I _ l => g I l) lat ready (fun _ => lane) fun _ => own

theorem completes_vout {g : Issue → Nat → Word × Nat} {d : BitVec 7} {os : List Opnd} (lat : F.lat = some n)
    (ops : F.ops = ov d :: os) (ready : Ready F s I) :
    F.Completes s I n (issue F (eachLane fun I l => vout l d (g I l)) s) :=
  completes_eachLane lat ready (fun _ => rfl) fun _ => owns_vout ops _

theorem completes_wpred {g : Issue → Nat → Bool} {fl : Issue → Nat → Nat} {k : BitVec 5} {os : List Opnd} (lat : F.lat = some n)
    (ops : F.ops = op k :: os) (ready : Ready F s I) :
    F.Completes s I n (issue F (eachLane fun I l => { lane := l, writes := [wpred l k.toNat (g I l)], flags := fl I l }) s) :=
  completes_eachLane lat ready (fun _ => rfl) fun _ => owns_wpred ops _

/-- An instruction performed once, which writes scalar registers of its first operand. -/
theorem completes_scalar {ws : Issue → State → List (RegRef × Word)} {d cnt align : Nat} {os : List Opnd} (lat : F.lat = some n)
    (ops : F.ops = .s d cnt align :: os) (ready : Ready F s I)
    (own : ∀ t, ∀ w ∈ ws I t, ∃ k < cnt, w.1 = .s (d + k)) :
    F.Completes s I n (issue F (fun I s => .go s (scalarOut I (ws I s))) s) := by
  refine ⟨[{ lane := I.low, writes := ws I (F.slot s I) }], ?_, fun o ho => ?_, fun o ho => ?_⟩
  · rw [issue_ready _ ready, Issue.scalarOut_eq ready.active, Result.out, lat]
  · obtain rfl := List.mem_singleton.1 ho
    obtain ⟨l, ls, e⟩ := List.exists_cons_of_ne_nil ready.active
    rw [Issue.low, e]
    exact List.mem_cons_self ..
  · obtain rfl := List.mem_singleton.1 ho
    refine owns_head ops fun w hw => ?_
    obtain ⟨k, small, e⟩ := own _ w hw
    rw [e]
    exact mem_refs_s small

end


theorem blockOp_eq (r : BitVec 7) (f : Nat) : blockOp r f = .v r.toNat (blockRegs f) (blockRegs f) := by
  unfold blockOp blockRegs
  split <;> rfl

theorem completes_qnt {d a : BitVec 7} {f : BitVec 5} {c : BitVec 3} {s : State} {I : Issue} {F : Form}
    (hF : formOf (.qnt d a f c) s = some F) (ready : Ready F s I) : F.Completes s I 6 (exec (.qnt d a f c) s) := by
  cases hF
  simp only [exec_qnt, execQnt]
  refine ⟨_, issue_ready _ ready, fun o ho => ?_, fun o ho => ?_⟩
  all_goals
    obtain ⟨ls, -, ho⟩ := List.mem_flatMap.1 ho
    rw [filterMap_ite] at ho
    obtain ⟨l, hl, rfl⟩ := List.mem_map.1 ho
  · exact List.contains_iff_mem.1 (List.mem_filter.1 hl).2
  · refine owns_head rfl fun w hw => ?_
    obtain ⟨⟨e, x⟩, hr, rfl⟩ := List.mem_map.1 hw
    have he := (List.of_mem_zip (List.mem_filter.1 hr).1).1
    obtain ⟨m, -, he⟩ := List.mem_flatMap.1 he
    obtain ⟨k, hk, rfl⟩ := List.mem_map.1 he
    rw [blockOp_eq]
    exact mem_refs_v (List.mem_range.1 hk)

/-- Settles O54: each effect of fixed latency answers for its active fibres with writes of its first operand. -/
theorem fixedLatencyCompletes : Obligations.FixedLatencyCompletes := by
  unfold Obligations.FixedLatencyCompletes
  intro i s F I n hF lat ready
  suffices done : F.Completes s I n (exec i s) by
    obtain ⟨outs, e, lanes, own⟩ := done
    exact ⟨outs, e, lanes, own⟩
  cases i <;> cases hF <;> cases lat
  case sadd | ssub | smul | smulh | sand | sor | sxor | sshl | sshr | ssra | smin | smax | scmp | ssel | smov | slea | saddi | sxori =>
    simp only [exec_sadd, exec_ssub, exec_smul, exec_smulh, exec_sand, exec_sor, exec_sxor, exec_sshl, exec_sshr, exec_ssra,
      exec_smin, exec_smax, exec_scmp, exec_ssel, exec_smov, exec_slea, exec_saddi, exec_sxori,
      execSadd, execSsub, execSmul, execSmulh, execSand, execSor, execSxor, execSshl, execSshr, execSsra,
      execSmin, execSmax, execScmp, execSsel, execSmov, execSlea, execSaddi, execSxori, scalar3, scalar2]
    refine completes_scalar rfl rfl ready fun _ w hw => ⟨0, Nat.one_pos, ?_⟩
    rw [List.mem_singleton.1 hw]
    rfl
  case clk =>
    simp only [exec_clk, execClk]
    refine completes_scalar rfl rfl ready fun _ w hw => ?_
    rcases List.mem_pair.1 hw with rfl | rfl
    · exact ⟨0, Nat.two_pos, rfl⟩
    · exact ⟨1, Nat.one_lt_two, rfl⟩
  case mfs d k w c =>
    simp only [exec_mfs, execMfs]
    refine completes_scalar rfl rfl ready fun _ w hw => ?_
    rcases List.mem_cons.1 hw with rfl | hw
    · exact ⟨0, Nat.succ_pos _, rfl⟩
    · split at hw
      · next wide =>
        obtain rfl := List.mem_singleton.1 hw
        exact ⟨1, by rw [beq_iff_eq.1 wide]; decide, rfl⟩
      · cases hw
  case mfsV d k w c =>
    simp only [exec_mfsV, execMfsV]
    refine completes_lanes rfl ready (fun _ _ => rfl) fun t l => owns_head rfl fun x hx => ?_
    split at hx
    · next wide =>
      obtain rfl := beq_iff_eq.1 wide
      rcases List.mem_pair.1 hx with rfl | rfl
      · exact mem_refs_v (k := 0) Nat.two_pos
      · exact mem_refs_v (k := 1) Nat.one_lt_two
    · obtain rfl := List.mem_singleton.1 hx
      exact mem_refs_v (k := 0) (Nat.succ_pos _)
  case mfsB =>
    simp only [exec_mfsB, execMfsB]
    refine completes_scalar rfl rfl ready fun _ w hw => ?_
    obtain ⟨k, hk, rfl⟩ := List.mem_map.1 hw
    exact ⟨k, List.mem_range.1 hk, rfl⟩
  case qnt => exact completes_qnt rfl ready
  case vadd | vsub | vmul | vmad | vmulhS | vmulhU | vabs | vclz | vpopc | vbrev | vmov | vmovs | vand | vor | vxor | vbfe | vshl
      | vshr | vsra | vbfi | vminS | vminU | vmaxS | vmaxU | vdivS | vdivU | vremS | vremU | vsel | vaddi | vshli | vshri
      | vsrai =>
    simp only [exec_vadd, exec_vsub, exec_vmul, exec_vmad, exec_vmulhS, exec_vmulhU, exec_vabs, exec_vclz, exec_vpopc,
      exec_vbrev, exec_vmov, exec_vmovs, exec_vand, exec_vor, exec_vxor, exec_vbfe, exec_vshl, exec_vshr, exec_vsra,
      exec_vbfi, exec_vminS, exec_vminU, exec_vmaxS, exec_vmaxU, exec_vdivS, exec_vdivU, exec_vremS, exec_vremU,
      exec_vsel, exec_vaddi, exec_vshli, exec_vshri, exec_vsrai,
      execVadd, execVsub, execVmul, execVmad, execVmulhS, execVmulhU, execVabs, execVclz, execVpopc,
      execVbrev, execVmov, execVmovs, execVand, execVor, execVxor, execVbfe, execVshl, execVshr, execVsra,
      execVbfi, execVminS, execVminU, execVmaxS, execVmaxU, execVdivS, execVdivU, execVremS, execVremU,
      execVsel, execVaddi, execVshli, execVshri, execVsrai, vec3, vecPlain, vecDiv, vec2]
    exact completes_vout rfl rfl ready
  case vaddc =>
    simp only [exec_vaddc, execVaddc]
    refine completes_eachLane rfl ready (fun _ => rfl) fun l => ⟨rfl, rfl, rfl, rfl, fun w hw => ?_⟩
    rcases List.mem_pair.1 hw with rfl | rfl
    · exact mem_dests_head rfl (mem_refs_v (k := 0) Nat.one_pos)
    · exact List.mem_append_right _ (List.mem_singleton_self _)
  case pand | por | pxor | pnot | pset | elect | voteAny | voteAll | vcmp | fcmp | dcmp =>
    simp only [exec_pand, exec_por, exec_pxor, exec_pnot, exec_pset, exec_elect, exec_voteAny, exec_voteAll, exec_vcmp, exec_fcmp,
      exec_dcmp, execPand, execPor, execPxor, execPnot, execPset, execElect, execVoteAny, execVoteAll, execVcmp, execFcmp,
      execDcmp, pred2]
    exact completes_wpred rfl rfl ready
  case shfl | shflX | voteBallot =>
    simp only [exec_shfl, exec_shflX, exec_voteBallot, execShfl, execShflX, execVoteBallot]
    exact completes_eachLane rfl ready (fun _ => rfl) fun l => owns_vout rfl (_, 0)
  case fadd | fsub | fmul | ffma | ffms | fmin | fmax | fldexp | frnd | ffrac | fclass | fexpo | hadd2 | hmul2 | hfma2 | bfma2
      | fdiv | frcp | frsq | fsqrt | fexp2 | flog2 | fsin | fcos =>
    simp only [exec_fadd, exec_fsub, exec_fmul, exec_ffma, exec_ffms, exec_fmin, exec_fmax, exec_fldexp, exec_frnd,
      exec_ffrac, exec_fclass, exec_fexpo, exec_hadd2, exec_hmul2, exec_hfma2, exec_bfma2, exec_fdiv, exec_frcp, exec_frsq,
      exec_fsqrt, exec_fexp2, exec_flog2, exec_fsin, exec_fcos,
      execFadd, execFsub, execFmul, execFfma, execFfms, execFmin, execFmax, execFldexp, execFrnd, execFfrac, execFclass,
      execFexpo, execHadd2, execHmul2, execHfma2, execBfma2, execFdiv, execFrcp, execFrsq, execFsqrt, execFexp2, execFlog2,
      execFsin, execFcos, float2, float3, float1, floatFn]
    exact completes_vout rfl rfl ready
  case dadd | dmul | dfma =>
    simp only [exec_dadd, exec_dmul, exec_dfma, execDadd, execDmul, execDfma, double3]
    exact completes_eachLane rfl ready (fun _ => rfl) fun l => owns_wpair rfl ..
  case cvtf | cvti | cvtn =>
    simp only [exec_cvtf, exec_cvti, exec_cvtn, execCvtf, execCvti, execCvtn, convert]
    exact completes_eachLane rfl ready (fun _ => rfl) fun l => owns_cvtWrite _ rfl _
  case pack2 =>
    simp only [exec_pack2, execPack2]
    exact completes_vout rfl rfl ready
  case unpk =>
    simp only [exec_unpk, execUnpk]
    exact completes_eachLane rfl ready (fun _ => rfl) fun l => owns_wpair rfl ..
  case dqnt d a f _ =>
    simp only [exec_dqnt, execDqnt]
    refine completes_eachLane rfl ready (fun _ => rfl) fun l => owns_head rfl fun w hw => ?_
    rw [blockOp_eq]
    simp only [List.map_map, List.mem_map, List.mem_range] at hw
    obtain ⟨k, hk, rfl⟩ := hw
    exact mem_refs_v hk

end Sys2Proof.Machine
end

section
/-!
SUPPORT. Moves from and to the special registers (O15).
-/

namespace Sys2Proof.Machine

/-! ## Reading -/

/-- The special registers of R27, in the order of their selectors. -/
def srList (I : Issue) (s : State) (l : Nat) : List Nat :=
  [l, I.g, I.T.index % 2 ^ 32, I.T.grid % 2 ^ 32, I.G.role, I.core, I.core / 24, s.idForce.toNat % 1024, I.x,
    s.coreCycle I.core % 2 ^ 64, I.G.fpmode.toNat, I.G.fpflags.toNat, I.G.compat.toNat, (I.G.lane l).trapcause.toNat,
    (I.G.lane l).trappc.toNat, (I.G.lane l).trapaddr.toNat,
    ((I.G.regions.head?.map (·.toNat)).getD 0) + 65536 * I.G.regions.length]

/-- A selector of the list reads its register. -/
theorem srValue_eq (I : Issue) (s : State) (l : Nat) {k : Nat} (known : k ≤ 16) : srValue I s l k = ((srList I s l)[k]?).getD 0 := by
  rcases Nat.lt_or_eq_of_le known with low | rfl
  · interval_cases k <;> rfl
  · exact congrArg _ (Nat.mul_comm ..)

theorem srList_slot (F : Form) (I : Issue) (s : State) : srList I (F.slot s I) = srList I s := rfl

/-- Behind the checks of R43 every field of the instruction holds a defined value. -/
theorem Ready.wellFormed {F : Form} {s : State} {I : Issue} (ready : Ready F s I) : F.ins.wellFormed = true := by
  have batch := ready.batch
  rw [Form.check_eq] at batch
  cases wf : F.ins.wellFormed with
  | true => rfl
  | false =>
    rw [wf] at batch
    split at batch <;> cases batch

/-- The word of a record. -/
theorem word_record (v : BitVec 256) (n : Nat) : word (v.toNat / 2 ^ (32 * n)) = v.extractLsb' (32 * n) 32 := by
  refine (eq_word ?_).symm
  rw [BitVec.extractLsb'_toNat, Nat.shiftRight_eq_div_pow]

/-- The writes of a special register's value: one register, or a pair. -/
def srWrites (w : BitVec 1) (lo hi : RegRef) (v : Nat) : List (RegRef × Word) :=
  (lo, BitVec.ofNat 32 v) :: if w == 1 then [(hi, BitVec.ofNat 32 (v / 2 ^ 32))] else []

section
variable {s : State} {I : Issue} {F : Form}

theorem exec_mfs_ready {d k : BitVec 7} {w : BitVec 1} {c : BitVec 3} (hF : formOf (.mfs d k w c) s = some F) (ready : Ready F s I) :
    exec (.mfs d k w c) s = .next ((F.slot s I).finish I (some 4)
      [{ lane := I.low
         writes := srWrites w (.s d.toNat) (.s (d.toNat + 1)) (((srList I s I.low)[k.toNat]?).getD 0) }]) := by
  cases hF
  have known : k.toNat ≤ 16 := by
    have fields : (scal d && readable k.toNat && wide k.toNat w) = true := ready.wellFormed
    simp only [readable, Bool.and_eq_true, decide_eq_true_eq] at fields
    exact fields.1.2
  simp only [exec_mfs, execMfs]
  refine (issue_ready _ ready).trans ?_
  simp only [Issue.scalarOut_eq ready.active, srValue_eq I _ I.low known, srList_slot]
  rfl

theorem exec_mfsV_ready {d k : BitVec 7} {w : BitVec 1} {c : BitVec 3} (hF : formOf (.mfsV d k w c) s = some F) (ready : Ready F s I) :
    exec (.mfsV d k w c) s = .next ((F.slot s I).finish I (some 4) (I.act.map fun l =>
      { lane := l
        writes := srWrites w (.v l d.toNat) (.v l (d.toNat + 1)) (((srList I s l)[k.toNat]?).getD 0) })) := by
  cases hF
  have known : k.toNat ≤ 16 := by
    have fields : (readable k.toNat && wide k.toNat w) = true := ready.wellFormed
    simp only [readable, Bool.and_eq_true, decide_eq_true_eq] at fields
    exact fields.1
  simp only [exec_mfsV, execMfsV]
  refine (issue_ready _ ready).trans ?_
  rw [Result.out]
  congr 2
  refine List.map_congr_left fun l _ => ?_
  rw [srValue_eq I _ l known, srList_slot]
  unfold srWrites
  split <;> rfl

theorem exec_mfsB_ready {d : BitVec 7} {b : BitVec 4} {c : BitVec 3} (hF : formOf (.mfsB d b c) s = some F) (ready : Ready F s I) :
    exec (.mfsB d b c) s = .next ((F.slot s I).finish I (some 4) [{ lane := I.low, writes := (List.range 8).map fun n =>
        (.s (d.toNat + n), (tget I.T.recs b.toNat 0).extractLsb' (32 * n) 32) }]) := by
  cases hF
  simp only [exec_mfsB, execMfsB]
  refine (issue_ready _ ready).trans ?_
  simp only [Issue.scalarOut_eq ready.active, word_record]
  rfl

theorem exec_feat_ready {d n : BitVec 7} {m : BitVec 1} {c : BitVec 3} (hF : formOf (.feat d n m c) s = some F) (ready : Ready F s I) :
    exec (.feat d n m c) s = .next ((F.slot s I).finish I none
      [{ lane := I.low
         writes := [(.s d.toNat, if (s.ctx I.x).hasFeature (m ++ n).toNat then 1 else 0)] }]) := by
  cases hF
  simp only [exec_feat, execFeat]
  refine (issue_ready _ ready).trans ?_
  simp only [Issue.scalarOut_eq ready.active, append_toNat, Nat.add_comm, Nat.mul_comm]
  rfl

theorem exec_clk_ready {d : BitVec 7} {c : BitVec 3} (hF : formOf (.clk d c) s = some F) (ready : Ready F s I) :
    exec (.clk d c) s = .next ((F.slot s I).finish I (some 4)
      [{ lane := I.low
         writes := [(.s d.toNat, BitVec.ofNat 32 (s.coreCycle I.core)),
        (.s (d.toNat + 1), BitVec.ofNat 32 (s.coreCycle I.core / 2 ^ 32))] }]) := by
  cases hF
  simp only [exec_clk, execClk]
  refine (issue_ready _ ready).trans ?_
  simp only [Issue.scalarOut_eq ready.active]
  rfl

end

/-! ## Writing -/

/-- The state after each active fibre has changed its own lane. -/
def State.eachLane (s : State) (I : Issue) (f : Nat → Lane → Lane) : State :=
  I.act.foldl (fun t l => t.modGroup I.core I.g fun G => G.modLane l (f l)) s

/-- A move to a register that the group holds takes the value of the lowest active lane. -/
theorem mtsRun_group {I : Issue} {s : State} {k : Nat} {w : BitVec 1} {val : Issue → Nat → Nat} (other : k ≠ 0x0C)
    (held : srPerFibre k = false) :
    mtsRun k w val I s = .go (s.modGroup I.core I.g fun G => G.setSr k (word (val I I.low))) [] := by
  simp only [mtsRun, beq_eq_false_iff_ne.2 other, Bool.false_and, Bool.false_eq_true, if_false, held]

/-- A move to sr.compat refuses a reserved value. -/
theorem mtsRun_compat {I : Issue} {s : State} {w : BitVec 1} {val : Issue → Nat → Nat} (x : Word) (low : val I I.low = x.toNat) :
    mtsRun 0x0C w val I s =
      if compatOk x.toNat then .go (s.modGroup I.core I.g fun G => { G with compat := x &&& 0xFFFF }) []
      else .go s (trapAll I (mkTrap fcIllop 0 x.toNat)) := by
  have fits : x.toNat % 2 ^ 32 = x.toNat := Nat.mod_eq_of_lt x.isLt
  have back : word x.toNat = x := BitVec.eq_of_toNat_eq (Nat.mod_eq_of_lt x.isLt)
  unfold mtsRun
  simp only [low, fits]
  cases compatOk x.toNat with
  | true => simp [srPerFibre, Group.setSr, back]
  | false => simp

/-- A move of a whole register that each fibre holds. -/
theorem mtsRun_fibres {I : Issue} {s : State} {k : Nat} {w : BitVec 1} {val : Issue → Nat → Nat} (other : k ≠ 0x0C)
    (own : srPerFibre k = true) (whole : (w == 1 || decide (k < 0x0E)) = true) :
    mtsRun k w val I s = .go (s.eachLane I fun l L => L.setSr k (BitVec.ofNat 64 (val I l))) [] := by
  simp only [mtsRun, beq_eq_false_iff_ne.2 other, Bool.false_and, Bool.false_eq_true, if_false, own, if_true, mtsValue, whole]
  rfl

theorem free_append (hi lo : Word) : hi ++ lo = BitVec.ofNat 64 (lo.toNat % 2 ^ 32) + hi.zeroExtend 64 * 0x100000000 := by
  have := hi.isLt
  have := lo.isLt
  have high : (0x100000000 : BitVec 64).toNat = 4294967296 := rfl
  refine BitVec.eq_of_toNat_eq ?_
  rw [append_toNat, BitVec.toNat_add, BitVec.toNat_mul, high, BitVec.toNat_ofNat, BitVec.toNat_setWidth]
  omega

/-- The low words that each fibre writes, each below a free high word. -/
theorem foldl_mtsValue {I : Issue} {k : Nat} (high : 0x0E ≤ k) (val : Nat → Word) (ls : List Nat) (s : State) (n j : Nat)
    (hi : Nat → Word) (free : ∀ i, hi (j + i) = Config.freeWord (n + i)) :
    ls.foldl (fun u l =>
      let r := mtsValue u k 0 (val l).toNat
      r.1.modGroup I.core I.g fun G => G.modLane l fun L => L.setSr k r.2) { s with fresh := n } =
    { (ls.zipIdx j).foldl (fun t e => t.modGroup I.core I.g fun G => G.modLane e.1 fun L => L.setSr k (hi e.2 ++ val e.1)) s with
      fresh := n + ls.length } := by
  induction ls generalizing s n j with
  | nil => rfl
  | cons l ls ih =>
    have drawn : mtsValue { s with fresh := n } k 0 (val l).toNat = ({ s with fresh := n + 1 }, hi j ++ val l) := by
      have narrow : ((0 : BitVec 1) == 1 || decide (k < 0x0E)) = false := by
        rw [decide_eq_false (Nat.not_lt.2 high)]
        rfl
      rw [free_append, show hi j = Config.freeWord n from free 0]
      simp only [mtsValue, narrow, Bool.false_eq_true, if_false]
      rfl
    rw [List.foldl_cons, drawn, List.zipIdx_cons, List.foldl_cons]
    refine (ih (s.modGroup I.core I.g fun G => G.modLane l fun L => L.setSr k (hi j ++ val l)) (n + 1) (j + 1) ?_).trans ?_
    · intro i
      rw [Nat.add_assoc, Nat.add_assoc, free, Nat.add_comm 1]
    · rw [List.length_cons, Nat.add_assoc, Nat.add_comm 1]

section
variable {s : State} {I : Issue} {F : Form}

/-- The source of MTS and MTS.V. -/
def mtsSource (w : BitVec 1) (d : BitVec 7) (I : Issue) (_ : Nat) : Nat :=
  if w == 1 then I.R.spair d.toNat else (I.R.s d.toNat).toNat

def mtsVSource (w : BitVec 1) (d : BitVec 7) (I : Issue) (l : Nat) : Nat :=
  if w == 1 then I.R.vpair l d.toNat else (I.R.v l d.toNat).toNat

theorem exec_mts_ready {d k : BitVec 7} {w : BitVec 1} {c : BitVec 3} (hF : formOf (.mts d k w c) s = some F) (ready : Ready F s I) :
    exec (.mts d k w c) s = (mtsRun k.toNat w (mtsSource w d) I (F.slot s I)).out F I := by
  cases hF
  simp only [exec_mts, execMts]
  exact issue_ready _ ready

theorem mts_lat {d k : BitVec 7} {w : BitVec 1} {c : BitVec 3} (hF : formOf (.mts d k w c) s = some F) : F.lat = none := by
  cases hF
  rfl

theorem mtsV_lat {d k : BitVec 7} {w : BitVec 1} {c : BitVec 3} (hF : formOf (.mtsV d k w c) s = some F) : F.lat = none := by
  cases hF
  rfl

theorem exec_mtsV_ready {d k : BitVec 7} {w : BitVec 1} {c : BitVec 3} (hF : formOf (.mtsV d k w c) s = some F)
    (ready : Ready F s I) :
    exec (.mtsV d k w c) s = (mtsRun k.toNat w (mtsVSource w d) I (F.slot s I)).out F I := by
  cases hF
  simp only [exec_mtsV, execMtsV]
  exact issue_ready _ ready

/-- The answer of a move of one word to a register of the group. -/
theorem mtsRun_group_out {t : State} {k : Nat} {val : Issue → Nat → Nat} {x : Word} (lat : F.lat = none) (other : k ≠ 0x0C)
    (held : srPerFibre k = false) (low : val I I.low = x.toNat) :
    (mtsRun k 0 val I t).out F I = .next ((t.modGroup I.core I.g fun G => G.setSr k x).finish I none []) := by
  rw [mtsRun_group other held, low, word_toNat, Result.out, lat]

theorem mtsRun_compat_out {t : State} {val : Issue → Nat → Nat} {x : Word} (lat : F.lat = none) (low : val I I.low = x.toNat) :
    (mtsRun 0x0C 0 val I t).out F I =
      if compatOk x.toNat then .next ((t.modGroup I.core I.g fun G => { G with compat := x &&& 0xFFFF }).finish I none [])
      else .next (t.finish I none (I.act.map fun l => { lane := l, trap := some (mkTrap 1 0 x.toNat) })) := by
  rw [mtsRun_compat x low]
  split
  · rw [Result.out, lat]
  · rw [Result.out, lat]
    rfl

theorem mtsRun_fibres_out {t : State} {k : Nat} {w : BitVec 1} {val : Issue → Nat → Nat} (lat : F.lat = none) (other : k ≠ 0x0C)
    (own : srPerFibre k = true) (whole : (w == 1 || decide (k < 0x0E)) = true) :
    (mtsRun k w val I t).out F I =
      .next ((t.eachLane I fun l L => L.setSr k (BitVec.ofNat 64 (val I l))).finish I none []) := by
  rw [mtsRun_fibres other own whole, Result.out, lat]

/-- A move of one word to sr.trapcause. -/
theorem setSr_cause (L : Lane) (x : Word) : L.setSr 0x0D (BitVec.ofNat 64 x.toNat) = { L with trapcause := x &&& 0x03FFFFFF } := by
  have : (BitVec.ofNat 64 x.toNat).setWidth 32 = x := by
    refine BitVec.eq_of_toNat_eq ?_
    rw [BitVec.toNat_setWidth, BitVec.toNat_ofNat]
    omega
  rw [Lane.setSr, this]
  rfl

/-- A move of one word to sr.trappc or sr.trapaddr draws a free high word for each fibre. -/
theorem mtsRun_low_out {k : Nat} {val : Issue → Nat → Nat} (x : Nat → Word) (lat : F.lat = none) (high : 0x0E ≤ k)
    (own : srPerFibre k = true) (low : ∀ l, val I l = (x l).toNat) : ∃ hi : Nat → Word,
    (mtsRun k 0 val I (F.slot s I)).out F I =
      let t := I.act.zipIdx.foldl (fun t e => t.modGroup I.core I.g fun G => G.modLane e.1 fun L => L.setSr k (hi e.2 ++ x e.1))
        (F.slot s I)
      .next (({ t with fresh := s.fresh + I.act.length } : State).finish I none []) := by
  refine ⟨fun i => Config.freeWord (s.fresh + i), ?_⟩
  have other : k ≠ 0x0C := by omega
  have words := foldl_mtsValue (I := I) high x I.act (F.slot s I) s.fresh 0 (fun i => Config.freeWord (s.fresh + i))
    fun i => by rw [Nat.zero_add]
  simp only [mtsRun, beq_eq_false_iff_ne.2 other, Bool.false_and, Bool.false_eq_true, if_false, own, if_true, low]
  rw [Result.out, lat]
  exact congrArg (fun t : State => (.next (t.finish I none []) : Out)) words

end

theorem exec_mtsB_ready {s : State} {I : Issue} {F : Form} {d : BitVec 7} {b : BitVec 4} {c : BitVec 3}
    (hF : formOf (.mtsB d b c) s = some F) (ready : Ready F s I) : exec (.mtsB d b c) s =
      if recValid (octet I.R d.toNat) then .next ((((F.slot s I).modTeam I.tid fun T =>
          { T with recs := tput T.recs b.toNat (octet I.R d.toNat) 0 }).endSlot I.tid b.toNat).finish I none [])
      else .next ((F.slot s I).finish I none (I.act.map fun l => { lane := l, trap := some (mkTrap 1 0 0) })) := by
  cases hF
  simp only [exec_mtsB, execMtsB]
  refine (issue_ready _ ready).trans ?_
  split <;> rfl

/-- Settles O15: the registers read and written are those of R27. -/
theorem specialRegisterMoves : Obligations.SpecialRegisterMoves := by
  unfold Obligations.SpecialRegisterMoves
  refine ⟨?_, ?_⟩
  · intro i s I F hF ready ans once sr
    refine ⟨?_, ?_, ?_, ?_, ?_, ?_, ?_⟩
    · rintro d k c rfl
      exact exec_mfs_ready hF ready
    · rintro d k c rfl
      exact exec_mfs_ready hF ready
    · rintro d k c rfl
      exact exec_mfsV_ready hF ready
    · rintro d k c rfl
      exact exec_mfsV_ready hF ready
    · rintro d b c rfl
      exact exec_mfsB_ready hF ready
    · rintro d n m c rfl
      exact exec_feat_ready hF ready
    · rintro d c rfl
      exact exec_clk_ready hF ready
  · intro i s I F hF ready put each illop low
    refine ⟨?_, ?_, ?_, ?_, ?_, ?_, ?_, ?_, ?_, ?_, ?_, ?_, ?_, ?_, ?_⟩
    · rintro d c rfl
      exact (exec_mts_ready hF ready).trans (mtsRun_group_out (mts_lat hF) (by decide) rfl rfl)
    · rintro d c rfl
      exact (exec_mts_ready hF ready).trans (mtsRun_group_out (mts_lat hF) (by decide) rfl rfl)
    · rintro d c rfl
      exact (exec_mts_ready hF ready).trans (mtsRun_compat_out (mts_lat hF) rfl)
    · rintro d c rfl
      refine ((exec_mts_ready hF ready).trans (mtsRun_fibres_out (mts_lat hF) (by decide) rfl rfl)).trans ?_
      exact congrArg (fun f => (.next (((F.slot s I).eachLane I f).finish I none []) : Out))
        (funext fun l => funext fun L => setSr_cause L (I.R.s d.toNat))
    · rintro d c rfl
      exact (exec_mts_ready hF ready).trans (mtsRun_fibres_out (mts_lat hF) (by decide) rfl rfl)
    · rintro d c rfl
      exact (exec_mts_ready hF ready).trans (mtsRun_fibres_out (mts_lat hF) (by decide) rfl rfl)
    · rintro d c rfl
      exact (exec_mtsV_ready hF ready).trans (mtsRun_group_out (mtsV_lat hF) (by decide) rfl rfl)
    · rintro d c rfl
      exact (exec_mtsV_ready hF ready).trans (mtsRun_group_out (mtsV_lat hF) (by decide) rfl rfl)
    · rintro d c rfl
      exact (exec_mtsV_ready hF ready).trans (mtsRun_compat_out (mtsV_lat hF) rfl)
    · rintro (_ | _) d c rfl
      · obtain ⟨hi, e⟩ := mtsRun_low_out (s := s) (k := 0x0F) (val := mtsSource 0 d) (fun _ => I.R.s d.toNat) (mts_lat hF) (by decide) rfl
          fun _ => rfl
        exact ⟨hi, (exec_mts_ready hF ready).trans e⟩
      · obtain ⟨hi, e⟩ := mtsRun_low_out (s := s) (k := 0x0E) (val := mtsSource 0 d) (fun _ => I.R.s d.toNat) (mts_lat hF) (by decide) rfl
          fun _ => rfl
        exact ⟨hi, (exec_mts_ready hF ready).trans e⟩
    · rintro (_ | _) d c rfl
      · obtain ⟨hi, e⟩ := mtsRun_low_out (s := s) (k := 0x0F) (val := mtsVSource 0 d) (fun l => I.R.v l d.toNat) (mtsV_lat hF) (by decide) rfl
          fun _ => rfl
        exact ⟨hi, (exec_mtsV_ready hF ready).trans e⟩
      · obtain ⟨hi, e⟩ := mtsRun_low_out (s := s) (k := 0x0E) (val := mtsVSource 0 d) (fun l => I.R.v l d.toNat) (mtsV_lat hF) (by decide) rfl
          fun _ => rfl
        exact ⟨hi, (exec_mtsV_ready hF ready).trans e⟩
    · rintro d c rfl
      refine ((exec_mtsV_ready hF ready).trans (mtsRun_fibres_out (mtsV_lat hF) (by decide) rfl rfl)).trans ?_
      exact congrArg (fun f => (.next (((F.slot s I).eachLane I f).finish I none []) : Out))
        (funext fun l => funext fun L => setSr_cause L (I.R.v l d.toNat))
    · rintro d c rfl
      exact (exec_mtsV_ready hF ready).trans (mtsRun_fibres_out (mtsV_lat hF) (by decide) rfl rfl)
    · rintro d c rfl
      exact (exec_mtsV_ready hF ready).trans (mtsRun_fibres_out (mtsV_lat hF) (by decide) rfl rfl)
    · rintro d b c rfl
      exact exec_mtsB_ready hF ready

end Sys2Proof.Machine
end

section
/-!
SUPPORT. Pauses, marks and regions (O16), and the control store (O17).
-/

namespace Sys2Proof.Machine

theorem bit_eq_testBit (v k : Nat) : bit v k = v.testBit k := by
  rw [bit, Nat.testBit_eq_decide_div_mod_eq]
  rfl

/-! ## Regions -/

/-- Where no stop matches, an edge is the change of the stack. -/
theorem regionRun_free {I : Issue} {s : State} {enter : Bool} {id : BitVec 16} {rs : List (BitVec 16)}
    (free : (s.ctx I.x).stopsAt enter id = false) :
    regionRun I s enter id rs = .go (s.modGroup I.core I.g fun G => { G with regions := rs }) [] := by
  simp only [regionRun, regionEdge, free, Bool.and_false, Bool.false_and, Bool.false_eq_true, if_false]

theorem sleepRun_stays {lv : Bool} {n : BitVec 7} {I : Issue} {s : State}
    (awake : (I.R.s n.toNat).toNat = 0 ∨ s.drainSeen I.x I.tid = true) : sleepRun lv n I s = .go s [] :=
  if_pos (by rwa [Bool.or_eq_true, beq_iff_eq])

theorem sleepRun_sleeps {lv : Bool} {n : BitVec 7} {I : Issue} {s : State}
    (tired : ¬((I.R.s n.toNat).toNat = 0 ∨ s.drainSeen I.x I.tid = true)) : sleepRun lv n I s =
      .go (s.modGroup I.core I.g fun G => { G with sleep := some (s.pulses I.core + 1 + (I.R.s n.toNat).toNat, lv) }) [] :=
  if_neg (by rwa [Bool.or_eq_true, beq_iff_eq])

/-- Settles O16: each effect is the clause's, where the clause's condition decides its branches. -/
theorem pauseAndTrace : Obligations.PauseAndTrace := by
  unfold Obligations.PauseAndTrace
  intro i s I F hF ready on s0 drained fenced pause
  refine ⟨?_, ?_, ?_, ?_, ?_, ?_, ?_, ?_, ?_, ?_⟩
  · rintro c rfl
    cases hF
    simp only [exec_nop, execNop]
    exact issue_ready _ ready
  · rintro k c rfl near
    cases hF
    simp only [exec_fence, execFence]
    refine (issue_ready _ ready).trans ?_
    rw [fenceRun, if_neg (by rw [near]; exact Bool.false_ne_true)]
    rfl
  · rintro k c rfl near
    cases hF
    simp only [exec_fenceAx, execFenceAx]
    refine (issue_ready _ ready).trans ?_
    rw [fenceRun, if_neg (by rw [near]; exact Bool.false_ne_true)]
    rfl
  · rintro n c rfl
    cases hF
    simp only [exec_sleep, execSleep]
    refine (issue_ready _ ready).trans ?_
    by_cases awake : (I.R.s n.toNat).toNat = 0 ∨ s0.drainSeen I.x I.tid = true
    · rw [sleepRun_stays awake]
      exact (if_pos awake).symm
    · rw [sleepRun_sleeps awake]
      exact (if_neg awake).symm
  · rintro n c rfl
    cases hF
    simp only [exec_sleepLv, execSleepLv]
    refine (issue_ready _ ready).trans ?_
    by_cases awake : (I.R.s n.toNat).toNat = 0 ∨ s0.drainSeen I.x I.tid = true
    · rw [sleepRun_stays awake]
      exact (if_pos awake).symm
    · rw [sleepRun_sleeps awake]
      exact (if_neg awake).symm
  · rintro n k c rfl off
    cases hF
    simp only [exec_mark, execMark]
    refine (issue_ready _ ready).trans ?_
    refine (congrArg _ (if_neg ?_)).trans rfl
    rw [bit_eq_testBit]
    exact Bool.not_eq_true _ ▸ off
  · rintro n k c rfl enabled w
    cases hF
    simp only [exec_mark, execMark]
    refine (issue_ready _ ready).trans ?_
    refine (congrArg _ (if_pos ?_)).trans rfl
    rw [bit_eq_testBit]
    exact enabled
  · rintro r c rfl free
    cases hF
    simp only [exec_rege, execRege]
    refine (issue_ready _ ready).trans ?_
    rw [regionRun_free (by exact free)]
    rfl
  · rintro c rfl empty
    cases hF
    simp only [exec_regl, execRegl]
    refine (issue_ready _ ready).trans ?_
    rw [empty]
    rfl
  · rintro c r rs rfl top free
    cases hF
    simp only [exec_regl, execRegl]
    refine (issue_ready _ ready).trans ?_
    rw [top]
    dsimp only
    rw [regionRun_free (by exact free)]
    rfl

/-! ## The control store -/

/-- A request for the default image. -/
def defaultRequest : CswReq :=
  { core := 0, g := 0, ctx := 0, kind := 0, dflt := true, va := 0, len := 0, dst := 0, lanes := 1 }

/-- A request for the default image stands while a fault of the same request has not been settled. -/
def faultedRequest : State :=
  { State.reset with
    csws := [defaultRequest]
    faults := [(0, { ctx := 0, va := 0, access := 0, who := .csw 0 0, forwarded := false, denied := false, fill := false,
                     settled := false, met := 0 })] }

/-- While a fault of it is open, a request stays as it is, whatever image it asks for. -/
theorem execCswInstall_faulted : execCswInstall 0 0 faultedRequest = .next faultedRequest := rfl

/-- Refutes O17: a request for the default image is not over while a fault of the same request is open, which the
statement does not exclude. -/
theorem not_controlStoreWrite : ¬ Obligations.ControlStoreWrite := by
  unfold Obligations.ControlStoreWrite
  rintro ⟨-, install⟩
  obtain ⟨t, done, ended, -⟩ := install 0 0 faultedRequest defaultRequest rfl rfl
  rw [exec_cswInstall, execCswInstall_faulted] at done
  cases done
  exact List.cons_ne_nil _ _ ended

end Sys2Proof.Machine
end

section
/-!
SUPPORT. The step: it runs the word that a quadrant fetches (O6), and always answers a next state (O59).
-/

namespace Sys2Proof.Machine

/-! ## The choice of a quadrant -/

theorem State.opens_body {s : State} (body : s.phase = .body) : s.opens = none := by
  rw [State.opens, body]
  rfl

theorem State.act_body {s : State} (body : s.phase = .body) : s.act = s.goes := by
  have same : ({ s with phase := if s.phase = .opening then .body else s.phase } : State) = s := by
    rw [if_neg (by rw [body]; decide)]
  rw [State.act, s.opens_body body]
  dsimp only
  rw [same]

/-- Where nothing is due and nothing comes from outside, a candidate is taken. -/
theorem State.goes_pick {s : State} (quiet : s.prompts = []) (held : s.heldNext s.servesNow = none)
    (inbox : s.inboxTake s.takesNow = none) : s.goes = s.pick := by
  rw [State.goes, quiet]
  dsimp only
  rw [held, inbox]

/-- A quadrant runs the word that its batch fetches. -/
theorem State.issueQuad_word {s t u : State} {core q x pc w : Nat} (chosen : s.choose core q = some t)
    (fetched : ({ t with issued := (core * 4 + q) :: t.issued } : State).fetchCur = some (x, pc, u, .word w)) :
    s.issueQuad core q = u.runWord x pc w := by
  simp only [State.issueQuad, chosen, fetched, Fetched.mayWait, Bool.false_and, Bool.false_eq_true, if_false, State.runFetched]

theorem State.runWord_instr {s : State} {x pc w : Nat} {i : Instr} (plain : (s.ctx x).onyxAt pc = none)
    (decoded : decodeWord w = .instr i) : s.runWord x pc w = exec i s := by
  rw [State.runWord, plain]
  dsimp only
  rw [decoded]

/-- Settles O6: the choice leads to the word, and the word to its instruction. -/
theorem stepRunsDecoded : Obligations.StepRunsDecoded := by
  unfold Obligations.StepRunsDecoded
  intro s t u core q x pc w i body quiet held inbox candidate chosen fetched plain decoded
  rw [step, State.advance, State.act_body body, State.goes_pick quiet held inbox, State.pick]
  rw [candidate]
  exact congrArg _ ((State.issueQuad_word chosen fetched).trans (State.runWord_instr plain decoded))

end Sys2Proof.Machine
end

section
/-!
SUPPORT. What a fetch reads and leaves (O7).
-/

namespace Sys2Proof.Machine

/-! ## What a log leaves -/

/-- From `s` to `t` records have been written: memory changes and what is told of it, the words of contexts' control spaces,
events, and requests that wait for a far target; nothing else. -/
structure Logged (s t : State) : Prop where
  rest : { t with mem := s.mem, poison := s.poison, past := s.past, ctxs := s.ctxs, host := s.host, remotes := s.remotes,
                  nextOp := s.nextOp } = s
  ctx  : ∀ x, { t.ctx x with ctl := (s.ctx x).ctl } = s.ctx x
  /-- What is written holds sound data. -/
  clean : ∀ p ∈ t.poison, p ∈ s.poison
  canon : Memory.wf s.mem = true → Memory.wf t.mem = true

theorem Logged.refl (s : State) : Logged s s := ⟨rfl, fun _ => rfl, fun _ h => h, id⟩

theorem Logged.trans {s t u : State} (h : Logged s t) (k : Logged t u) : Logged s u where
  rest := calc
    { u with mem := s.mem, poison := s.poison, past := s.past, ctxs := s.ctxs, host := s.host, remotes := s.remotes,
             nextOp := s.nextOp }
    _ = { ({ u with mem := t.mem, poison := t.poison, past := t.past, ctxs := t.ctxs, host := t.host, remotes := t.remotes,
                    nextOp := t.nextOp } : State) with
          mem := s.mem, poison := s.poison, past := s.past, ctxs := s.ctxs, host := s.host, remotes := s.remotes,
          nextOp := s.nextOp } := rfl
    _ = s := by rw [k.rest, h.rest]
  ctx x := calc
    { u.ctx x with ctl := (s.ctx x).ctl }
    _ = { ({ u.ctx x with ctl := (t.ctx x).ctl } : Ctx) with ctl := (s.ctx x).ctl } := rfl
    _ = s.ctx x := by rw [k.ctx, h.ctx]
  clean p hp := h.clean p (k.clean p hp)
  canon ok := k.canon (h.canon ok)

theorem Logged.cores {s t : State} (h : Logged s t) : t.cores = s.cores := (congrArg State.cores h.rest :)

theorem Logged.ctx_st {s t : State} (h : Logged s t) (x : Nat) : (t.ctx x).st = (s.ctx x).st := (congrArg Ctx.st (h.ctx x) :)

theorem logged_wr (s : State) (pa : Nat) (bs : List Byte) : Logged s (s.wr pa bs) :=
  ⟨rfl, fun _ => rfl, fun _ => List.mem_of_mem_filter, s.wf_wr pa bs⟩

theorem logged_wrParts (s : State) (ps : List (Nat × Nat)) (bs : List Byte) : Logged s (s.wrParts ps bs) := by
  induction ps generalizing s bs with
  | nil => exact .refl s
  | cons p ps ih => exact (logged_wr s p.1 _).trans (ih ..)

theorem logged_vaWrite {s t : State} {x va : Nat} {bs : List Byte} (ok : s.vaWrite x va bs = .ok t) : Logged s t := by
  unfold State.vaWrite at ok
  split at ok
  · cases ok
  · cases ok
    exact logged_wrParts ..

theorem logged_setWord (s : State) (x : Nat) (word : Ctx → Nat × Nat) :
    Logged s (s.modCtx x fun c => c.setWord (word c).1 (word c).2) := by
  refine ⟨rfl, fun y => ?_, fun _ h => h, id⟩
  rw [State.ctx_modCtx]
  split
  · next same =>
    subst same
    rfl
  · rfl

theorem logged_ringDrop (s : State) (x drop : Nat) : Logged s (s.ringDrop x drop) :=
  logged_setWord s x fun c => (drop, c.word drop + 1)

theorem logged_ringAppend (s : State) (x : Nat) (r : RingAt) (bs : List Byte) : Logged s (s.ringAppend x r bs).1 := by
  unfold State.ringAppend
  dsimp only
  split
  · exact logged_ringDrop ..
  · split
    · next t ok => exact (logged_vaWrite ok).trans (logged_setWord t x fun _ => (r.wr, _))
    · exact logged_ringDrop ..

theorem logged_event (s : State) (code x : Nat) (bs : List Byte) : Logged s (s.event code x bs) := by
  unfold State.event
  split
  · exact .refl s
  · exact ⟨rfl, fun _ => rfl, fun _ h => h, id⟩

theorem logged_logError (s : State) (x code fcode : Nat) (src : ErrSrc) (a b c : Nat) :
    Logged s (s.logError x code fcode src a b c) :=
  (logged_ringAppend s x errorRing _).trans (logged_event ..)

theorem logged_noteLine (s : State) (x : Nat) (src : ErrSrc) (pa n : Nat) : Logged s (s.noteLine x src pa n) := by
  have logged := logged_logError s x 7 fcPoison src (pa / 128 * 128) 0 0
  unfold State.noteLine
  split
  all_goals
    dsimp only
    split
    · exact logged
    · exact .refl s

theorem logged_openPosted (s : State) (x : Nat) (src : ErrSrc) (line : Nat) (drop : Option Nat) :
    Logged s (s.openPosted x src line drop) := ⟨rfl, fun _ => rfl, fun _ h => h, id⟩

theorem logged_noteTable (s : State) (x : Nat) (src : ErrSrc) (va : Nat) : Logged s (s.noteTable x src va) := by
  unfold State.noteTable
  split
  · exact .refl s
  · split
    · exact logged_openPosted ..
    · split
      · exact logged_noteLine ..
      · exact .refl s
      · exact logged_logError ..
      · exact logged_noteLine ..

theorem logged_noteRanges (s : State) (x : Nat) : Logged s (s.noteRanges x) := by
  unfold State.noteRanges
  split
  · exact logged_noteTable ..
  · exact .refl s

theorem logged_noteWalk (s : State) (x va : Nat) : Logged s (s.noteWalk x va) := by
  unfold State.noteWalk
  split
  · exact .refl s
  · split
    · split
      · exact .refl s
      · exact (logged_noteRanges s x).trans (logged_logError ..)
    · exact .refl s
    · exact logged_logError ..
    · split
      · exact .refl s
      · exact logged_noteLine ..

theorem logged_ringPut (s : State) (x : Nat) (r : RingAt) (bs : List Byte) : Logged s (s.ringPut x r bs).1 := by
  unfold State.ringPut
  split
  · exact logged_ringAppend ..
  · split
    · exact logged_openPosted ..
    · exact (logged_ringAppend s x r bs).trans (logged_noteWalk ..)

/-! ## Walks and heat leave the cores -/

@[simp] theorem State.sendHeat_cores (s : State) (e : TlbEntry) (n : Nat) : (s.sendHeat e n).cores = s.cores := by
  unfold State.sendHeat
  dsimp only
  split
  · rfl
  · split
    · rfl
    · split
      · rfl
      · exact (logged_logError ..).cores

@[simp] theorem State.fillTlb2_cores (s : State) (d : Nat) (e : TlbEntry) : (s.fillTlb2 d e).cores = s.cores := by
  unfold State.fillTlb2
  dsimp only
  split
  · rfl
  · split
    · rfl
    · exact State.sendHeat_cores ..

@[simp] theorem State.leafDie_cores (s : State) (d x va : Nat) : (s.leafDie d x va).1.cores = s.cores := by
  unfold State.leafDie
  split
  · rfl
  · split
    · rfl
    · split
      · split
        · split
          · exact s.fillTlb2_cores ..
          · rfl
        · exact (logged_noteWalk ..).cores
      · exact (logged_noteWalk ..).cores

@[simp] theorem State.dropTlb1_cores (s : State) (d : Nat) (e : TlbEntry) : (s.dropTlb1 d e).cores = s.cores := by
  unfold State.dropTlb1
  dsimp only
  split
  · split
    · exact State.sendHeat_cores ..
    · rfl
  · exact s.sendHeat_cores ..

/-! ## No fetch changes a group -/

theorem State.group?_congr {s t : State} (same : t.cores = s.cores) (c g : Nat) : t.group? c g = s.group? c g := by
  rw [State.group?, State.group?, State.core, State.core, same]

/-- A core changed but for its groups keeps every group. -/
theorem State.group?_modCore {s : State} {d : Nat} {f : Core → Core} (keep : ∀ C, (f C).groups = C.groups) (c g : Nat) :
    (s.modCore d f).group? c g = s.group? c g := by
  rw [State.group?, State.group?, State.core_modCore]
  split
  · next same => rw [keep, same]
  · rfl

theorem State.fillTlb1_group? (s : State) (d : Nat) (e : TlbEntry) (c g : Nat) : (s.fillTlb1 d e).group? c g = s.group? c g := by
  unfold State.fillTlb1
  dsimp only
  split
  · exact State.group?_modCore (by intro C; rfl) ..
  · split
    · rfl
    · exact (State.group?_congr (State.dropTlb1_cores ..) ..).trans (State.group?_modCore (by intro C; rfl) ..)

theorem State.leafCore_group? (s : State) (d x va c g : Nat) : (s.leafCore d x va).1.group? c g = s.group? c g := by
  have die := State.group?_congr (s.leafDie_cores (dieOf d) x va) c g
  unfold State.leafCore
  split
  · rfl
  · split
    · exact State.group?_modCore (by intro C; rfl) ..
    · split
      · next t l e =>
        rw [e] at die
        split
        · exact (t.fillTlb1_group? ..).trans die
        · exact die
      · next t e =>
        rw [e] at die
        exact die

theorem State.codeLeaf_group? (s : State) (d x va : Nat) (w : Bool) (c g : Nat) :
    (s.codeLeaf d x va w).1.group? c g = s.group? c g := by
  unfold State.codeLeaf
  split
  · rfl
  · exact s.leafCore_group? ..

theorem State.readCode_group? (s : State) (d x va pa c g : Nat) : (s.readCode d x va pa).1.group? c g = s.group? c g := by
  unfold State.readCode
  dsimp only
  split
  · rfl
  · split
    · exact State.group?_congr (logged_noteLine ..).cores ..
    · split
      · rfl
      · exact State.group?_modCore (by intro C; rfl) ..

theorem State.fetch_group? (s : State) (d x va : Nat) (w : Bool) (c g : Nat) : (s.fetch d x va w).1.group? c g = s.group? c g := by
  have leaf := s.codeLeaf_group? d x va w c g
  unfold State.fetch
  split
  · next t e =>
    rw [e] at leaf
    exact leaf
  · next t l e =>
    rw [e] at leaf
    split
    · exact leaf
    · split
      · split
        · exact leaf
        · split
          · exact (State.readCode_group? ..).trans ((State.group?_spendDelay ..).trans leaf)
          · exact (State.group?_spendDelay ..).trans leaf
      · exact leaf
      · exact leaf

/-! ## The memory that a fetch leaves -/

/-- A read of code that finds a word changes no byte. -/
theorem State.readCode_mem {s : State} {d x va pa v : Nat} (found : (s.readCode d x va pa).2 = .word v) :
    (s.readCode d x va pa).1.mem = s.mem := by
  unfold State.readCode at found ⊢
  dsimp only at found ⊢
  split at found
  · cases found
  · next here =>
    rw [if_neg here]
    split at found
    · cases found
    · next good =>
      rw [if_neg good]
      split <;> rfl

@[simp] theorem State.spendDelay_mem (s : State) (b : Bool) : (s.spendDelay b).mem = s.mem := by
  unfold State.spendDelay
  split <;> rfl

theorem State.fetch_mem {s : State} {d x va v : Nat} {w : Bool} (found : (s.fetch d x va w).2 = .word v) :
    (s.fetch d x va w).1.mem = (s.codeLeaf d x va w).1.mem := by
  unfold State.fetch at found ⊢
  split
  · next e => rw [e]
  · next t l e =>
    rw [e] at found ⊢
    dsimp only at found ⊢
    split
    · rfl
    · next code =>
      rw [if_neg code] at found
      split
      · next pa f ok =>
        rw [ok] at found
        dsimp only at found
        split
        · rfl
        · next miss =>
          rw [miss] at found
          dsimp only at found
          split
          · next now =>
            rw [if_pos now] at found
            exact (State.readCode_mem found).trans (State.spendDelay_mem ..)
          · rw [State.spendDelay_mem]
      · rfl
      · rfl

/-! ## The word of a fetch -/

/-- An own address within a line is that of the line and the offset. -/
theorem State.ownAddr_line (s : State) (pa : Nat) : s.ownAddr pa = s.ownAddr (pa / 128 * 128) + pa % 128 := by
  have b51 : bits (pa / 128 * 128) 51 1 = bits pa 51 1 := by unfold bits; omega
  have b41 : bits (pa / 128 * 128) 41 10 = bits pa 41 10 := by unfold bits; omega
  have b0 : bits (pa / 128 * 128) 0 41 + pa % 128 = bits pa 0 41 := by unfold bits; omega
  unfold State.ownAddr
  rw [b51, b41]
  split <;> omega

theorem Memory.readFrom_eq (m : List Host.Cell) (a n : Nat) :
    Memory.readFrom m a n = (List.range n).map fun i => Memory.read m (a + i) := by
  induction n generalizing a with
  | zero => rfl
  | succ n ih =>
    rw [Memory.readFrom, ih, List.range_succ_eq_map, List.map_cons, List.map_map]
    congr 1
    exact List.map_congr_left fun i _ => by rw [Function.comp_apply, Nat.add_right_comm]; rfl

/-- The bytes read are those that stand at the addresses. -/
theorem Memory.readList_eq (m : List Host.Cell) (a n : Nat) :
    Memory.readList m a n = (List.range n).map fun i => Memory.read m (a + i) := by
  rw [Memory.readList, Memory.readFrom_eq]
  refine List.map_congr_left fun i hi => ?_
  have inside : (a ≤ a + i && a + i < a + n : Bool) = true := by
    have := List.mem_range.1 hi
    simp [this]
  rw [Memory.window, Memory.read_filter (fun k => a ≤ k && k < a + n), inside, if_pos rfl]

/-- A part of a list of bytes that lies within it. -/
theorem sliceBytes_range (f : Nat → Byte) {o n len : Nat} (within : o + n ≤ len) :
    sliceBytes ((List.range len).map f) o n = (List.range n).map fun i => f (o + i) := by
  have part : (((List.range len).map f).drop o).take n = (List.range n).map fun i => f (o + i) := by
    refine List.ext_getElem (by simp; omega) fun i h _ => ?_
    simp
  rw [sliceBytes, part]
  simp

/-- The word of a line at an address that the line holds. -/
theorem State.rd_line (s : State) {pa va : Nat} (align : pa % 4 = 0) (same : va % 128 = pa % 128) :
    sliceBytes (s.rd (pa / 128 * 128) 128) (va % 128) 4 = s.rd pa 4 := by
  rw [State.rd, State.rd, Memory.readList_eq, Memory.readList_eq, sliceBytes_range _ (by omega), same, s.ownAddr_line pa]
  simp only [Nat.add_assoc]

@[simp] theorem State.spendDelay_reach (s : State) (b : Bool) (pa : Nat) : (s.spendDelay b).reach pa = s.reach pa := by
  unfold State.spendDelay
  split <;> rfl

@[simp] theorem State.spendDelay_bad (s : State) (b : Bool) (pa n : Nat) : (s.spendDelay b).bad pa n = s.bad pa n := by
  unfold State.spendDelay
  split <;> rfl

@[simp] theorem State.spendDelay_rd (s : State) (b : Bool) (pa n : Nat) : (s.spendDelay b).rd pa n = s.rd pa n := by
  unfold State.spendDelay
  split <;> rfl

/-- A read of code that answers and holds no uncorrectable data finds the bytes that stand there. -/
theorem State.readCode_word {s : State} (d x : Nat) {va pa : Nat} (align : pa % 4 = 0) (same : va % 128 = pa % 128)
    (answers : s.reach (pa / 128 * 128) = .ok) (good : s.bad pa 4 = false) :
    (s.readCode d x va pa).2 = .word (bytesWord (s.rd pa 4)) := by
  have late : (s.reach (pa / 128 * 128) == .late) = false := by rw [answers]; rfl
  have ok : (s.reach (pa / 128 * 128) != .ok) = false := by rw [answers]; rfl
  simp only [State.readCode, late, ok, good, Bool.or_self, Bool.false_eq_true, if_false, s.rd_line align same]
  split <;> rfl

/-- Settles O7: a fetch goes to the cache, or to memory. -/
theorem fetchReadsMemory : Obligations.FetchReadsMemory := by
  unfold Obligations.FetchReadsMemory
  refine ⟨?_, fun s core x va w => ⟨fun v => State.fetch_mem, s.fetch_group? core x va w⟩⟩
  intro s t core x va pa w l f leaf plain found align same
  have code : bit l.flags 5 = false := by rw [bit_eq_testBit, plain]
  refine ⟨fun miss now answers good => ?_, fun c hit => ?_⟩
  · have here : (w || t.delays.headD 0 == 0) = true := by
      rwa [Bool.or_eq_true, beq_iff_eq]
    simp only [State.fetch, leaf, code, Bool.false_eq_true, if_false, found, miss, here, if_true]
    rw [State.readCode_word core x align same ((t.spendDelay_reach ..).trans answers) ((t.spendDelay_bad ..).trans good),
      State.spendDelay_rd]
  · simp only [State.fetch, leaf, code, Bool.false_eq_true, if_false, found, hit]

end Sys2Proof.Machine
end

section
/-!
SUPPORT. A step that stops the machine (O59).
-/

namespace Sys2Proof.Machine

/-- The reset machine in the body of a cycle, with what has come from outside. -/
def State.resetWith (inputs : List (Nat × Input)) : State := { State.reset with phase := .body, inbox := inputs }

theorem State.resetWith_prompts (inputs : List (Nat × Input)) : (State.resetWith inputs).prompts = [] := by
  have balancers : (allDies.flatMap fun d =>
      only (((State.resetWith inputs).die d).balance ≤ (State.resetWith inputs).now) (Due.balancerEvaluate d)) = [] := by
    show (allDies.flatMap fun d => only ((State.reset.die d).balance ≤ State.reset.now) (Due.balancerEvaluate d)) = []
    decide
  rw [State.prompts, balancers]
  rfl

theorem State.resetWith_held (inputs : List (Nat × Input)) (p : HostReq → Bool) : (State.resetWith inputs).heldNext p = none := rfl

/-- A reserved word is a step without bits, so it is taken from outside. -/
theorem strayWord_inbox : (State.resetWith [(0, .step (.reservedEncoding 0))]).inboxTake
    (State.resetWith [(0, .step (.reservedEncoding 0))]).takesNow =
      some (.step (.reservedEncoding 0), State.resetWith []) := rfl

/-- No batch issues it there. -/
theorem strayWord_run : Input.run (.step (.reservedEncoding 0)) (State.resetWith []) = .fault .noIssuer := rfl

theorem strayWord_act : (State.resetWith [(0, .step (.reservedEncoding 0))]).act = .fault .noIssuer := by
  rw [State.act_body rfl, State.goes, State.resetWith_prompts]
  dsimp only
  rw [State.resetWith_held, strayWord_inbox]
  exact strayWord_run

/-- Refutes O59: a reserved word that comes from outside is performed although no batch issues it, and stops the machine. -/
theorem not_stepNeverStops : ¬ Obligations.StepNeverStops := by
  unfold Obligations.StepNeverStops
  intro next
  obtain ⟨t, e⟩ := next (State.resetWith [(0, .step (.reservedEncoding 0))])
  rw [step, State.advance, strayWord_act] at e
  cases e

end Sys2Proof.Machine
end

section
/-!
SUPPORT. Traps of one cause: how the fibres of a batch take them, and what the context's handler makes of them (O56).
-/

namespace Sys2Proof.Machine

theorem logged_logTrap (s : State) (x : Nat) (r : TrapRec) : Logged s (s.logTrap x r) := logged_ringPut ..

/-! ## Causes -/

/-- Fibres with one trap and one handler mode share a record. -/
theorem groupCauses_one {hm : Nat → Bool} {b : Bool} {t : Trap} {ls : List Nat} (some_lane : ls ≠ []) (modes : ∀ l ∈ ls, hm l = b) :
    groupCauses hm (ls.map fun l => (l, t)) = [ls.map fun l => (l, t)] := by
  induction ls with
  | nil => exact absurd rfl some_lane
  | cons l ls ih =>
    cases ls with
    | nil => rfl
    | cons m ms =>
      have rest := ih (List.cons_ne_nil m ms) fun k hk => modes k (List.mem_cons_of_mem _ hk)
      have same : sameCause (hm l) (hm m) t t = true := by
        rw [modes l (List.mem_cons_self ..), modes m (List.mem_cons_of_mem _ (List.mem_cons_self ..))]
        simp [sameCause]
      rw [List.map_cons, groupCauses]
      dsimp only
      rw [rest]
      simp [same]

/-! ## Dispositions -/

section
variable {u : State} {q : TrapSet} {G : Group} {l : Nat} {t : Trap} {ts : List (Nat × Trap)}

/-- The traps of fibres outside handler mode are not nested. -/
theorem TrapSet.nest_outside (hG : u.group? q.core q.g = some G) (outside : ∀ e ∈ q.traps, (G.lane e.1).handler = false) :
    q.nest u = q.traps := by
  rw [TrapSet.nest, hG]
  refine (List.map_congr_left fun e he => ?_).trans (List.map_id _)
  rw [Option.map_some, Option.getD_some, outside e he]
  rfl

/-- The traps of fibres in handler mode are nested. -/
theorem TrapSet.nest_inside (hG : u.group? q.core q.g = some G) (inside : ∀ e ∈ q.traps, (G.lane e.1).handler = true) :
    q.nest u = q.traps.map fun e => (e.1, { e.2 with nested := true }) := by
  rw [TrapSet.nest, hG]
  refine List.map_congr_left fun e he => ?_
  rw [Option.map_some, Option.getD_some, inside e he]
  rfl

/-- A trap that its context's handler takes (R244 rule 6): the fibres are delivered, and at most a record is written. -/
theorem State.dispose_delivers (hG : u.group? q.core q.g = some G) (nest : q.nest u = q.traps) (traps : q.traps = (l, t) :: ts)
    (going : (u.ctx G.ctx).holdsTraps = false) (soft : t.freezes = false) (other : (t.code == fcPage) = false)
    (native : (u.team G.tid).gen = none) (outside : (G.lane l).handler = false) (free : bit ((u.ctx G.ctx).word 0x00C) t.code = false)
    (taken : bit ((u.ctx G.ctx).word 0x008) t.code = true) (timely : (t.code != fcTimeout) = true)
    (target : ((u.ctx G.ctx).dword 0x000 != 0) = true) :
    Logged ((u.modCtx G.ctx fun c => { c with disposed := some u.now }).deliverFor q ((u.ctx G.ctx).dword 0x000)) (u.dispose q) := by
  have same : ({ q with traps := (l, t) :: ts } : TrapSet) = q := by rw [← traps]
  have gen : ((u.modCtx G.ctx fun c => { c with disposed := some u.now }).team G.tid).gen.isSome = false := by
    rw [State.team, State.modCtx_teams, ← State.team, native]
    rfl
  unfold State.dispose
  rw [hG, nest, traps]
  dsimp only
  simp only [same, going, soft, other, outside, free, taken, timely, target, Bool.and_false, Bool.false_and, Bool.false_eq_true, if_false, gen, Bool.and_true, Bool.not_false, if_true]
  split
  · exact logged_logTrap ..
  · exact .refl _

/-- A trap of fibres in handler mode stops the context (R244 rule 4). -/
theorem State.dispose_stops (hG : u.group? q.core q.g = some G) (nest : q.nest u = (l, t) :: ts) (early : q.from_ ≤ 4)
    (going : (u.ctx G.ctx).holdsTraps = false) (soft : t.freezes = false) (other : (t.code == fcPage) = false)
    (native : (u.team G.tid).gen = none) (inside : (G.lane l).handler = true) :
    u.dispose q = (u.modCtx G.ctx fun c => { c with disposed := some u.now }).stopFor G.ctx G { q with traps := (l, t) :: ts } t := by
  have gen : ((u.modCtx G.ctx fun c => { c with disposed := some u.now }).team G.tid).gen.isSome = false := by
    rw [State.team, State.modCtx_teams, ← State.team, native]
    rfl
  unfold State.dispose
  rw [hG, nest]
  dsimp only
  rw [going, soft, other, inside]
  simp only [Bool.and_false, Bool.false_and, Bool.false_eq_true, if_false, gen, Bool.and_true, decide_eq_true early, if_true]

end

/-! ## The batch that issues -/

/-- The issue's parts are those of its group; its active fibres are some of the batch. -/
theorem State.issuer_parts {s : State} {I : Issue} (issuer : s.issuer = some I) :
    I.x = I.G.ctx ∧ I.T = s.team I.G.tid ∧ I.tid = I.G.tid ∧ ∃ p, I.act = I.lanes.filter p := by
  unfold State.issuer at issuer
  split at issuer
  · cases issuer
  · split at issuer
    · cases issuer
    · next B _ =>
      split at issuer
      · cases issuer
      · cases issuer
        refine ⟨rfl, rfl, rfl, ?_⟩
        dsimp only
        unfold activeLanes
        split
        · exact ⟨fun _ => true, by rw [List.filter_true]⟩
        · exact ⟨_, rfl⟩

theorem outOf_map {f : Nat → LaneOut} (lane : ∀ l, (f l).lane = l) (ls : List Nat) (l : Nat) :
    outOf (ls.map f) l = if l ∈ ls then f l else { lane := l } := by
  unfold outOf
  rw [List.find?_map]
  have : ((fun o : LaneOut => o.lane == l) ∘ f) = (· == l) := funext fun m => by rw [Function.comp_apply, lane]
  rw [this]
  by_cases here : l ∈ ls
  · rw [if_pos here]
    obtain ⟨m, hm⟩ := Option.isSome_iff_exists.1 (List.find?_isSome.2 ⟨l, here, beq_self_eq_true l⟩ : (ls.find? (· == l)).isSome)
    obtain rfl := beq_iff_eq.1 (List.find?_some (p := fun x => x == l) hm)
    rw [hm]
    rfl
  · rw [if_neg here, List.find?_eq_none.2 fun m hm => by
      rw [beq_iff_eq]
      rintro rfl
      exact here hm]
    rfl

/-- The fibres of a batch that are not active. -/
def Issue.idle (I : Issue) : List Nat := I.lanes.filter fun l => !I.act.contains l

/-- When every active fibre traps, the others of the batch go on, and then the traps are taken. -/
theorem State.finish_trapped {s : State} {I : Issue} (t : Trap) (some_of : ∃ p, I.act = I.lanes.filter p) :
    s.finish I none (I.act.map fun l => { lane := l, trap := some t }) =
      (((s.modGroup I.core I.g fun G => G.split I.bi (I.pc + 4) (I.idle.map fun l => (l, I.pc + 4))).takeTraps I.core I.g I.rpc
        (I.act.map fun l => (l, t))).leave I.core I.g) := by
  have outs : I.lanes.map (outOf (I.act.map fun l => { lane := l, trap := some t })) =
      I.lanes.map fun l => if I.act.contains l then { lane := l, trap := some t } else { lane := l } :=
    List.map_congr_left fun l _ => by
      rw [outOf_map fun _ => rfl]
      exact if_congr List.contains_iff_mem.symm rfl rfl
  have act : I.lanes.filter (fun l => I.act.contains l) = I.act := by
    obtain ⟨p, h⟩ := some_of
    conv_rhs => rw [h]
    refine List.filter_congr fun l hl => ?_
    rw [Bool.eq_iff_iff, List.contains_iff_mem, h, List.mem_filter]
    exact ⟨fun k => k.2, fun k => ⟨hl, k⟩⟩
  have out (l : Nat) : (if I.act.contains l then { lane := l, trap := some t } else { lane := l } : LaneOut) =
      { lane := l, trap := if I.act.contains l then some t else none } := by split <;> rfl
  have writes : (I.lanes.map fun l => ({ lane := l, trap := if I.act.contains l then some t else none } : LaneOut)).flatMap
      (·.writes) = [] := by simp
  have flags : (I.lanes.map fun l => ({ lane := l, trap := if I.act.contains l then some t else none } : LaneOut)).foldl
      (fun a o => a ||| o.flags) 0 = 0 := by simp [List.foldl_map]
  have traps : (I.lanes.map fun l => ({ lane := l, trap := if I.act.contains l then some t else none } : LaneOut)).filterMap
      (fun o => o.trap.map fun t => (o.lane, t)) = I.act.map fun l => (l, t) := by
    rw [List.filterMap_map, ← act, ← filterMap_ite]
    refine List.filterMap_congr fun l _ => ?_
    rw [act, Function.comp_apply]
    split <;> rfl
  have parks : (I.lanes.map fun l => ({ lane := l, trap := if I.act.contains l then some t else none } : LaneOut)).filterMap
      (fun o => if o.trap.isSome then none else o.park.map fun p => (o.lane, p)) = [] := by
    rw [List.filterMap_map, List.filterMap_eq_nil_iff]
    intro l _
    rw [Function.comp_apply]
    split <;> rfl
  have gone : (I.lanes.map fun l => ({ lane := l, trap := if I.act.contains l then some t else none } : LaneOut)).filter
      (fun o => o.trap.isNone && o.park.isNone && o.ends) = [] := by
    rw [List.filter_eq_nil_iff]
    intro o ho
    obtain ⟨l, -, rfl⟩ := List.mem_map.1 ho
    rw [Bool.and_false]
    exact Bool.false_ne_true
  have rest : (I.lanes.map fun l => ({ lane := l, trap := if I.act.contains l then some t else none } : LaneOut)).filter
      (fun o => o.trap.isNone && o.park.isNone && !o.ends) = I.idle.map fun l => { lane := l } := by
    rw [List.filter_map, Issue.idle]
    have idle : ((fun o : LaneOut => o.trap.isNone && o.park.isNone && !o.ends) ∘
        fun l => ({ lane := l, trap := if I.act.contains l then some t else none } : LaneOut)) = fun l => !I.act.contains l := by
      funext l
      rw [Function.comp_apply]
      cases I.act.contains l <;> rfl
    rw [idle]
    refine List.map_congr_left fun l hl => ?_
    rw [if_neg (by simpa using (List.mem_filter.1 hl).2)]
  have still : (I.idle.map fun l => ({ lane := l } : LaneOut)).filter (·.next.isSome) = [] := by
    rw [List.filter_eq_nil_iff]
    intro o ho
    obtain ⟨l, -, rfl⟩ := List.mem_map.1 ho
    exact Bool.false_ne_true
  simp only [State.finish, outs, out, writes, flags, traps, parks, gone, rest, still, List.map_nil, List.foldl_nil,
    Group.endLanes_nil, List.map_map, beq_self_eq_true, if_true, List.isEmpty_nil, Bool.not_true, Bool.and_false,
    Bool.false_eq_true, if_false, Group.writeVar_nil, Option.isNone_none, State.spendDelay]
  rfl

theorem State.issuer_nodup {s : State} {I : Issue} (issuer : s.issuer = some I) : I.act.Nodup := by
  have lanes : I.lanes.Nodup := by
    unfold State.issuer at issuer
    split at issuer
    · cases issuer
    · split at issuer
      · cases issuer
      · split at issuer
        · cases issuer
        · cases issuer
          exact List.nodup_range.filter _
  obtain ⟨-, -, -, p, h⟩ := State.issuer_parts issuer
  rw [h]
  exact lanes.filter p

/-- Lanes changed in turn, each once. -/
theorem Group.lane_foldl_modLane_once (G : Group) {ls : List Nat} (f : Lane → Lane) (m : Nat) (once : ls.Nodup) :
    (ls.foldl (fun H l => H.modLane l f) G).lane m = if m ∈ ls then f (G.lane m) else G.lane m := by
  induction ls generalizing G with
  | nil => rfl
  | cons l ls ih =>
    obtain ⟨fresh, once⟩ := List.nodup_cons.1 once
    rw [List.foldl_cons, ih _ once, Group.lane_modLane]
    by_cases h : l = m
    · subst h
      simp [fresh]
    · simp [h, Ne.symm h]

/-! ## Taking the traps of one instruction -/

/-- Fibres parked with a trap, to be disposed of from a rule. -/
def Group.parkAll (G : Group) (ls : List Nat) (rpc : Nat) (t : Trap) : Group :=
  ls.foldl (fun H l => H.modLane l fun L => { L with pc := rpc, parked := some (.trap t 1) }) G

theorem Group.parkAll_lane (G : Group) (ls : List Nat) (rpc : Nat) (t : Trap) (m : Nat) : (G.parkAll ls rpc t).lane m =
    if m ∈ ls then { G.lane m with pc := rpc, parked := some (.trap t 1) } else G.lane m :=
  G.lane_foldl_modLane ls (fun _ L => { L with pc := rpc, parked := some (.trap t 1) }) m fun _ _ => rfl

theorem Group.parkAll_frame (G : Group) (ls : List Nat) (rpc : Nat) (t : Trap) :
    { G.parkAll ls rpc t with lanes := G.lanes } = G :=
  G.foldl_modLane_frame ls id fun _ L => { L with pc := rpc, parked := some (.trap t 1) }

theorem State.takeTraps_one {u : State} {c g rpc : Nat} {P : Group} {ls : List Nat} {t : Trap} {mode : Bool}
    (hP : u.group? c g = some P) (some_lane : ls ≠ []) (landed : P.owes ls = false) (soft : t.freezes = false)
    (modes : ∀ l ∈ ls, (P.lane l).handler = mode) :
    u.takeTraps c g rpc (ls.map fun l => (l, t)) =
      (u.modGroup c g fun G => G.parkAll ls rpc t).dispose
        { core := c, g := g, pc := rpc, from_ := 1, traps := ls.map fun l => (l, t) } := by
  have hQ := State.group?_modGroup_self (fun G => G.parkAll ls rpc t) hP
  have names : (ls.map fun l => (l, t)).map (·.1) = ls := by simp [Function.comp_def]
  have park : (fun G : Group => (ls.map fun l => (l, t)).foldl (fun H (e : Nat × Trap) => H.modLane e.1 fun L =>
      { L with pc := rpc, parked := some (.trap e.2 1) }) G) = fun G => G.parkAll ls rpc t := funext fun G => List.foldl_map
  have one := groupCauses_one (hm := fun l => ((P.parkAll ls rpc t).lane l).handler) (t := t) some_lane (b := mode) fun l hl => by
    rw [Group.parkAll_lane, if_pos hl]
    exact modes l hl
  have calm : freezes (ls.map fun l => (l, t)) = false := by
    rw [freezes, List.any_eq_false]
    intro e he
    obtain ⟨l, -, rfl⟩ := List.mem_map.1 he
    rw [soft]
    exact Bool.false_ne_true
  have nonempty : (ls.map fun l => (l, t)).isEmpty = false := by simpa using some_lane
  rw [State.takeTraps, nonempty]
  simp only [Bool.false_eq_true, if_false, hP, Option.map_some, Option.getD_some, names, landed, park, State.disposeAll, hQ, one,
    List.filter_cons, calm, List.filter_nil, Bool.not_false, if_true, List.nil_append, List.foldl_cons, List.foldl_nil]

end Sys2Proof.Machine
end

section
/-!
SUPPORT. A TRAP is delivered to the handler, or stops the context in handler mode (O56).
-/

namespace Sys2Proof.Machine

/-! ## Before the disposition -/

/-- The group as its other fibres have gone on. -/
def Issue.left (I : Issue) (G : Group) : Group := G.split I.bi (I.pc + 4) (I.idle.map fun l => (l, I.pc + 4))

theorem Issue.left_eq (I : Issue) (G : Group) : ∃ bs, I.left G = { G.moveTo I.idle (I.pc + 4) with batches := bs } := by
  obtain ⟨bs, h⟩ := G.split_eq I.bi (I.pc + 4) (I.idle.map fun l => (l, I.pc + 4))
  rw [List.foldl_map] at h
  exact ⟨bs, h⟩

theorem Group.moveTo_frame (G : Group) (ls : List Nat) (pc : Nat) : { G.moveTo ls pc with lanes := G.lanes } = G :=
  G.foldl_modLane_frame ls id fun _ L => { L with pc := pc }

theorem Issue.left_frame (I : Issue) (G : Group) : { I.left G with lanes := G.lanes, batches := G.batches } = G := by
  obtain ⟨bs, h⟩ := I.left_eq G
  rw [h]
  exact congrArg (fun H : Group => { H with batches := G.batches }) (G.moveTo_frame I.idle (I.pc + 4))

theorem Issue.left_lane (I : Issue) (G : Group) (l : Nat) :
    (I.left G).lane l = if l ∈ I.idle then { G.lane l with pc := I.pc + 4 } else G.lane l := by
  obtain ⟨bs, h⟩ := I.left_eq G
  rw [h]
  exact G.lane_moveTo I.idle (I.pc + 4) l

theorem Issue.not_idle {I : Issue} {l : Nat} (active : l ∈ I.act) : l ∉ I.idle := by
  intro idle
  simpa [active] using (List.mem_filter.1 idle).2

/-- The group in which every active fibre is parked with its trap. -/
def Issue.parked (I : Issue) (G : Group) (t : Trap) : Group := (I.left G).parkAll I.act I.rpc t

theorem Issue.parked_frame (I : Issue) (G : Group) (t : Trap) :
    { I.parked G t with lanes := G.lanes, batches := G.batches } = G := by
  have park := (I.left G).parkAll_frame I.act I.rpc t
  have left := I.left_frame G
  calc { I.parked G t with lanes := G.lanes, batches := G.batches }
    _ = { ({ I.parked G t with lanes := (I.left G).lanes } : Group) with lanes := G.lanes, batches := G.batches } := rfl
    _ = { I.left G with lanes := G.lanes, batches := G.batches } := by rw [← park]; rfl
    _ = G := left

theorem Issue.parked_lane (I : Issue) (G : Group) (t : Trap) {l : Nat} (active : l ∈ I.act) :
    (I.parked G t).lane l = { G.lane l with pc := I.rpc, parked := some (.trap t 1) } := by
  rw [Issue.parked, Group.parkAll_lane, if_pos active, Issue.left_lane, if_neg (Issue.not_idle active)]

/-- Parking and going on keep every register. -/
theorem Issue.parked_regs (I : Issue) (G : Group) (t : Trap) (l : Nat) :
    ((I.parked G t).lane l).regs = (G.lane l).regs ∧ ((I.parked G t).lane l).preds = (G.lane l).preds := by
  rw [Issue.parked, Group.parkAll_lane, Issue.left_lane]
  split <;> split <;> exact ⟨rfl, rfl⟩

/-- The set of the active fibres with one trap. -/
def Issue.trapSet (I : Issue) (t : Trap) : TrapSet :=
  { core := I.core, g := I.g, pc := I.rpc, from_ := 1, traps := I.act.map fun l => (l, t) }

/-- The state and the set with which the traps of an instruction go to their disposition. -/
theorem State.finish_one_trap {s : State} {I : Issue} {t : Trap} {mode : Bool} {G : Group} {s' : State}
    (issuer : s'.issuer = some I) (hG : s.group? I.core I.g = some G) (active : I.act ≠ []) (landed : G.owes I.act = false)
    (soft : t.freezes = false) (modes : ∀ l ∈ I.act, (G.lane l).handler = mode) :
    ∃ u : State, s.finish I none (I.act.map fun l => { lane := l, trap := some t }) =
        (u.dispose (I.trapSet t)).leave I.core I.g ∧
      u.group? I.core I.g = some (I.parked G t) ∧ u.ctxs = s.ctxs ∧ u.teams = s.teams := by
  obtain ⟨-, -, -, part⟩ := State.issuer_parts issuer
  have hP := State.group?_modGroup_self I.left hG
  have landed' : (I.left G).owes I.act = false := by
    have : (I.left G).pending = G.pending := (congrArg Group.pending (I.left_frame G) :)
    rw [Group.owes, this]
    exact landed
  have modes' : ∀ l ∈ I.act, ((I.left G).lane l).handler = mode := fun l hl => by
    rw [Issue.left_lane, if_neg (Issue.not_idle hl)]
    exact modes l hl
  refine ⟨_, ?_, State.group?_modGroup_self (fun G => G.parkAll I.act I.rpc t) hP, rfl, rfl⟩
  rw [State.finish_trapped t part]
  exact congrArg (fun v : State => v.leave I.core I.g) (State.takeTraps_one hP active landed' soft modes')

/-! ## Delivery -/

/-- The group whose fibres have been delivered to a handler. -/
def Group.delivered (G : Group) (ls : List Nat) (t : Trap) (pc handler : Nat) : Group :=
  let H := (ls.foldl (fun H l => H.modLane l fun L => L.deliver t pc handler) G).dropShares ls
  { H with batches := H.batches ++ [Batch.fresh (maskOf ls)] }

theorem Issue.trapSet_lanes (I : Issue) (t : Trap) : (I.trapSet t).lanes = I.act := by
  simp [TrapSet.lanes, Issue.trapSet, Function.comp_def]

theorem State.deliverFor_one (s : State) (I : Issue) (t : Trap) (handler : Nat) :
    s.deliverFor (I.trapSet t) handler = s.modGroup I.core I.g fun G => G.delivered I.act t I.rpc handler := by
  simp only [State.deliverFor, Issue.trapSet_lanes]
  simp only [Issue.trapSet, List.foldl_map]
  rfl

theorem Group.delivered_lane (G : Group) {ls : List Nat} (once : ls.Nodup) (t : Trap) (pc handler m : Nat) :
    (G.delivered ls t pc handler).lane m = if m ∈ ls then (G.lane m).deliver t pc handler else G.lane m :=
  G.lane_foldl_modLane_once (fun L => L.deliver t pc handler) m once

theorem Group.delivered_last (G : Group) (ls : List Nat) (t : Trap) (pc handler : Nat) :
    (G.delivered ls t pc handler).batches.getLast? = some (Batch.fresh (maskOf ls)) := by
  simp [Group.delivered]

theorem Group.delivered_s (G : Group) (ls : List Nat) (t : Trap) (pc handler r : Nat) :
    (G.delivered ls t pc handler).s r = G.s r := by
  have frame := G.foldl_modLane_frame ls id fun _ L => L.deliver t pc handler
  have : (G.delivered ls t pc handler).sregs = G.sregs := (congrArg Group.sregs frame :)
  rw [Group.s, Group.s, this]

/-- The trap of TRAP k. -/
theorem trapi_soft (k : Nat) : (mkTrap 17 k 0).freezes = false := rfl

theorem trapi_cause {k : Nat} (small : k < 65536) : word (mkTrap 17 k 0).cause = BitVec.ofNat 32 (17 + 256 * k) := by
  have : (mkTrap 17 k 0).cause = 17 + 256 * k := by
    simp only [Trap.cause, mkTrap, b2n]
    simp
    omega
  rw [this]
  rfl

/-! ## Stopping -/

theorem logged_stopFor (s : State) (x : Nat) (G : Group) (q : TrapSet) (t : Trap) :
    Logged ((s.keepParked q 6).stopCtx x) (s.stopFor x G q t) := (logged_logTrap ..).trans (logged_event ..)

theorem stopCtx_st {s : State} {x : Nat} (issues : (s.ctx x).st.issues = true) : ((s.stopCtx x).ctx x).st = .stopped := by
  rw [State.stopCtx, State.ctx_modCtx, if_pos rfl, if_pos issues]

/-- Fibres stay parked with a trap, to be disposed of again from a rule. -/
def Group.keepAll (G : Group) (ls : List Nat) (t : Trap) (rule : Nat) : Group :=
  ls.foldl (fun H l => H.modLane l fun L => { L with parked := some (.trap t rule) }) G

theorem Group.keepAll_lane (G : Group) (ls : List Nat) (t : Trap) (rule m : Nat) :
    (G.keepAll ls t rule).lane m = if m ∈ ls then { G.lane m with parked := some (.trap t rule) } else G.lane m :=
  G.lane_foldl_modLane ls (fun _ L => { L with parked := some (.trap t rule) }) m fun _ _ => rfl

theorem State.keepParked_one (s : State) (I : Issue) (t : Trap) (rule : Nat) :
    s.keepParked (I.trapSet t) rule = s.modGroup I.core I.g fun G => G.keepAll I.act t rule := by
  simp only [State.keepParked, Issue.trapSet, List.foldl_map]
  rfl

/-- A trap of a fibre in handler mode (R241). -/
def Trap.inside (t : Trap) : Trap := { t with nested := true }

/-! ## The issue of a TRAP -/

/-- The group when its issue has been accounted for. -/
def Form.slotGroup (F : Form) (s : State) (I : Issue) : Group :=
  { I.G with
    lastIssue := s.pulses I.core + 1
    nextIssue := s.coreCycle I.core + 1 + F.gap I.hv
    giveWay := F.c.toNat % 2 == 1 }

theorem State.group?_slot {s : State} {I : Issue} (F : Form) (issuer : s.issuer = some I) :
    (F.slot s I).group? I.core I.g = some (F.slotGroup s I) :=
  State.group?_modGroup_self _ (State.issuer_group issuer).1

theorem State.act_lanes {s : State} {I : Issue} (issuer : s.issuer = some I) {l : Nat} (active : l ∈ I.act) : l ∈ I.lanes := by
  obtain ⟨-, -, -, p, h⟩ := State.issuer_parts issuer
  exact (List.mem_filter.1 (h ▸ active)).1

section
variable {k : BitVec 14} {c : BitVec 3} {s : State} {I : Issue} {F : Form}

/-- A TRAP goes to its disposition. -/
theorem exec_trap_disposes (hF : formOf (.trap k c) s = some F) (ready : Ready F s I) (landed : I.G.owes I.act = false) (mode : Bool)
    (modes : ∀ l ∈ I.act, (I.G.lane l).handler = mode) :
    ∃ u : State, exec (.trap k c) s = .next ((u.dispose (I.trapSet (mkTrap 17 k.toNat 0))).leave I.core I.g) ∧
      u.group? I.core I.g = some (I.parked (F.slotGroup s I) (mkTrap 17 k.toNat 0)) ∧ u.ctxs = s.ctxs ∧ u.teams = s.teams := by
  obtain ⟨u, done, group, ctxs, teams⟩ := State.finish_one_trap (t := mkTrap 17 k.toNat 0) ready.issuer
    (State.group?_slot F ready.issuer) ready.active landed (trapi_soft _) modes
  refine ⟨u, ?_, group, ctxs, teams⟩
  rw [← done]
  exact (trapInstructions.1 _ s I F hF ready).2.1 k c rfl

end

/-- Settles O56: the fibres park with one trap, whose set the context's handler takes or which stops the context. -/
theorem softwareTrapsDelivered : Obligations.SoftwareTrapsDelivered := by
  unfold Obligations.SoftwareTrapsDelivered
  intro k c s I F hF ready lives C notFrozen notLost native landed free taken target
  obtain ⟨hx, hT, -, -⟩ := State.issuer_parts ready.issuer
  obtain ⟨-, -, small⟩ := State.issuer_group ready.issuer
  obtain ⟨l0, rest, first⟩ := List.exists_cons_of_ne_nil ready.active
  have active0 : l0 ∈ I.act := first ▸ List.mem_cons_self ..
  have once := State.issuer_nodup ready.issuer
  have live0 := lives l0 (State.act_lanes ready.issuer active0)
  have small0 := small l0 (State.act_lanes ready.issuer active0)
  have traps : I.act.map (fun l => (l, mkTrap 17 k.toNat 0)) = (l0, mkTrap 17 k.toNat 0) :: rest.map fun l => (l, mkTrap 17 k.toNat 0) := by
    rw [first]
    rfl
  have same := I.parked_frame (F.slotGroup s I) (mkTrap 17 k.toNat 0)
  have pctx : (I.parked (F.slotGroup s I) (mkTrap 17 k.toNat 0)).ctx = I.x := ((congrArg Group.ctx same :)).trans hx.symm
  have ptid : (I.parked (F.slotGroup s I) (mkTrap 17 k.toNat 0)).tid = I.G.tid := (congrArg Group.tid same :)
  have psregs : (I.parked (F.slotGroup s I) (mkTrap 17 k.toNat 0)).sregs = I.G.sregs := (congrArg Group.sregs same :)
  have plane : ∀ l ∈ I.act, (I.parked (F.slotGroup s I) (mkTrap 17 k.toNat 0)).lane l =
      { I.G.lane l with pc := I.rpc, parked := some (.trap (mkTrap 17 k.toNat 0) 1) } :=
    fun l => I.parked_lane (F.slotGroup s I) (mkTrap 17 k.toNat 0)
  have pregs : ∀ l, ((I.parked (F.slotGroup s I) (mkTrap 17 k.toNat 0)).lane l).regs = (I.G.lane l).regs ∧
      ((I.parked (F.slotGroup s I) (mkTrap 17 k.toNat 0)).lane l).preds = (I.G.lane l).preds :=
    I.parked_regs (F.slotGroup s I) (mkTrap 17 k.toNat 0)
  have going : C.holdsTraps = false := by
    simp only [Ctx.holdsTraps, Bool.or_eq_false_iff, beq_eq_false_iff_ne]
    exact ⟨notFrozen, notLost⟩
  refine ⟨fun outside => ?_, fun inside issues => ?_⟩
  · obtain ⟨u, done, group, ctxs, teams⟩ := exec_trap_disposes hF ready landed false outside
    generalize I.parked (F.slotGroup s I) (mkTrap 17 k.toNat 0) = P at *
    have ctx : u.ctx P.ctx = C := by rw [pctx, State.ctx, ctxs]; rfl
    have gen : (u.team P.tid).gen = none := by rw [ptid, State.team, teams, ← State.team, ← hT, native]
    have nest : (I.trapSet (mkTrap 17 k.toNat 0)).nest u = _ :=
      TrapSet.nest_outside group fun e he => by
        obtain ⟨l, hl, rfl⟩ := List.mem_map.1 he
        rw [plane l hl]
        exact outside l hl
    have logged := State.dispose_delivers group nest traps (by rw [ctx, going]) (trapi_soft _) rfl gen
      (by rw [plane l0 active0]; exact outside l0 active0) (by rw [ctx, bit_eq_testBit]; exact free)
      (by rw [ctx, bit_eq_testBit]; exact taken) rfl (by rw [ctx, bne_iff_ne]; exact target)
    rw [State.deliverFor_one] at logged
    have delivered := (State.group?_congr logged.cores I.core I.g).trans
      (State.group?_modGroup_self (fun G => G.delivered I.act (mkTrap 17 k.toNat 0) I.rpc ((u.ctx P.ctx).dword 0x000)) group)
    have lane := P.delivered_lane once (mkTrap 17 k.toNat 0) I.rpc ((u.ctx P.ctx).dword 0x000)
    refine ⟨_, P.delivered I.act (mkTrap 17 k.toNat 0) I.rpc ((u.ctx P.ctx).dword 0x000), done, ?_, fun l hl => ?_, fun l r => ?_,
      fun r => ?_, P.delivered_last ..⟩
    · rw [State.leave_of_live delivered small0]
      · exact delivered
      · rw [lane, if_pos active0, plane l0 active0]
        exact live0
    · rw [lane, if_pos hl, ctx]
      exact ⟨trapi_cause (by have := k.isLt; omega), rfl, rfl, rfl, rfl, rfl⟩
    · obtain ⟨regs, preds⟩ := pregs l
      rw [Group.v, Group.p, Group.v, Group.p, Lane.v, Lane.p, Lane.v, Lane.p, lane, ← regs, ← preds]
      split <;> exact ⟨rfl, rfl⟩
    · rw [Group.delivered_s, Group.s, Group.s, psregs]
  · obtain ⟨u, done, group, ctxs, teams⟩ := exec_trap_disposes hF ready landed true inside
    generalize I.parked (F.slotGroup s I) (mkTrap 17 k.toNat 0) = P at *
    have ctx : u.ctx P.ctx = C := by rw [pctx, State.ctx, ctxs]; rfl
    have gen : (u.team P.tid).gen = none := by rw [ptid, State.team, teams, ← State.team, ← hT, native]
    have nest : (I.trapSet (mkTrap 17 k.toNat 0)).nest u = _ :=
      TrapSet.nest_inside group fun e he => by
        obtain ⟨l, hl, rfl⟩ := List.mem_map.1 he
        rw [plane l hl]
        exact inside l hl
    have nested : (I.trapSet (mkTrap 17 k.toNat 0)).nest u =
        (l0, (mkTrap 17 k.toNat 0).inside) :: rest.map fun l => (l, (mkTrap 17 k.toNat 0).inside) := by
      rw [nest, Issue.trapSet, first, List.map_map]
      rfl
    have stops := State.dispose_stops group nested (show 1 ≤ 4 by decide) (by rw [ctx, going]) rfl rfl gen
      (by rw [plane l0 active0]; exact inside l0 active0)
    have again : ({ I.trapSet (mkTrap 17 k.toNat 0) with
        traps := (l0, (mkTrap 17 k.toNat 0).inside) :: rest.map fun l => (l, (mkTrap 17 k.toNat 0).inside) } : TrapSet) =
        I.trapSet (mkTrap 17 k.toNat 0).inside := by
      simp only [Issue.trapSet, first, List.map_cons]
    rw [again] at stops
    have logged := logged_stopFor (u.modCtx P.ctx fun c => { c with disposed := some u.now }) P.ctx P
      (I.trapSet (mkTrap 17 k.toNat 0).inside) (mkTrap 17 k.toNat 0).inside
    rw [← stops, State.keepParked_one] at logged
    have stopped := (State.group?_congr logged.cores I.core I.g).trans
      (State.group?_modGroup_self (fun G => G.keepAll I.act (mkTrap 17 k.toNat 0).inside 6) group)
    have lane := P.keepAll_lane I.act (mkTrap 17 k.toNat 0).inside 6
    have stays := State.leave_of_live stopped small0 (by
      rw [lane, if_pos active0, plane l0 active0]
      exact live0)
    refine ⟨_, P.keepAll I.act (mkTrap 17 k.toNat 0).inside 6, done, ?_, ?_, fun l hl => ?_⟩
    · rw [stays]
      exact stopped
    · rw [stays, ← pctx, logged.ctx_st]
      refine stopCtx_st ?_
      rw [State.ctx, State.modGroup_ctxs, ← State.ctx, State.ctx_modCtx, if_pos rfl, ctx]
      exact issues
    · rw [lane, if_pos hl, plane l hl]
      exact ⟨rfl, rfl, rfl, rfl⟩

end Sys2Proof.Machine
end

section
/-!
SUPPORT. The groups that SPAWN places (O20).
-/

namespace Sys2Proof.Machine

/-! ## Fibres at their start -/

/-- The words given to a fibre stand in its lowest registers, above a base. -/
theorem tget_foldl_tput_zipIdx (ws : List Word) (b : Nat) (t : Tbl Word) (k : Nat) :
    tget ((ws.zipIdx b).foldl (fun t e => tput t e.2 e.1 0) t) k 0 =
      if b ≤ k ∧ k < b + ws.length then ws.getD (k - b) 0 else tget t k 0 := by
  induction ws generalizing b t with
  | nil => simp
  | cons w ws ih =>
    rw [List.zipIdx_cons, List.foldl_cons, ih, tget_tput]
    by_cases here : b = k
    · subst here
      simp
    · by_cases there : b + 1 ≤ k ∧ k < b + 1 + ws.length
      · obtain ⟨n, rfl⟩ : ∃ n, k = b + 1 + n := ⟨k - (b + 1), by omega⟩
        have next : b + 1 + n - b = n + 1 := by omega
        rw [if_pos there, if_pos ⟨by omega, by rw [List.length_cons]; omega⟩, next, List.getD_cons_succ]
        congr 1
        omega
      · rw [if_neg there, if_neg here, if_neg fun both => there (by rw [List.length_cons] at both; omega)]

theorem Lane.v_withRegs (L : Lane) (ws : List Word) (k : Nat) :
    (L.withRegs ws).v k = if k < ws.length then ws.getD k 0 else L.v k := by
  rw [Lane.v, Lane.withRegs, tget_foldl_tput_zipIdx]
  simp [Lane.v]

/-- A lane of a table made of a list of lanes. -/
theorem tget_map_pair {α : Type} (ls : List Nat) (f : Nat → α) (d : α) (l : Nat) :
    tget (ls.map fun l => (l, f l)) l d = if l ∈ ls then f l else d := by
  induction ls with
  | nil => rfl
  | cons m ls ih =>
    rw [List.map_cons, tget, tget?]
    by_cases h : m = l
    · subst h
      simp
    · simp only [beq_iff_eq, h, if_false, List.mem_cons, Ne.symm h, false_or]
      exact ih

/-- The active fibres of an issue, in lane order. -/
theorem State.issuer_act {s : State} {I : Issue} (issuer : s.issuer = some I) : ∃ p, I.act = (List.range 32).filter p := by
  obtain ⟨-, -, -, q, act⟩ := State.issuer_parts issuer
  have lanes : ∃ m, I.lanes = lanesOf m := by
    unfold State.issuer at issuer
    split at issuer
    · cases issuer
    · split at issuer
      · cases issuer
      · split at issuer
        · cases issuer
        · cases issuer
          exact ⟨_, rfl⟩
  obtain ⟨m, lanes⟩ := lanes
  exact ⟨_, by rw [act, lanes, lanesOf, List.filter_filter]⟩

/-! ## The group created -/

theorem spawned_lane (I : Issue) (a n : BitVec 7) (l : Nat) : (spawned I a n).lane l =
    if l ∈ I.act then (Lane.start (I.R.spair n.toNat)).withRegs ((List.range 8).map fun k => I.R.v l (a.toNat + k))
    else Lane.empty :=
  tget_map_pair I.act (fun l => (Lane.start (I.R.spair n.toNat)).withRegs ((List.range 8).map fun k => I.R.v l (a.toNat + k)))
    Lane.empty l

theorem spawned_live {s : State} {I : Issue} (issuer : s.issuer = some I) (a n : BitVec 7) : (spawned I a n).live = I.act := by
  obtain ⟨p, act⟩ := State.issuer_act issuer
  rw [Group.live]
  conv => rhs; rw [act]
  refine List.filter_congr fun l hl => ?_
  rw [spawned_lane]
  by_cases h : p l = true
  · rw [if_pos (by rw [act]; exact List.mem_filter.2 ⟨hl, h⟩), h]
    rfl
  · rw [if_neg fun mem => h (List.mem_filter.1 (act ▸ mem)).2, Bool.eq_false_of_not_eq_true h]
    rfl

/-! ## Placing a group -/

theorem State.scrClear_slice_group? (s : State) (core a n c g : Nat) :
    (s.scrClear (.slice core) a n).group? c g = s.group? c g :=
  State.group?_modCore (f := fun C => { C with slices := Memory.clear (s.core core).slices a n }) (by intro C; rfl) c g

theorem State.clearSlices_group? (s : State) (core l n : Nat) (a : Nat → Nat) (ks : List Nat) (c g : Nat) :
    (ks.foldl (fun u k => u.scrClear (.slice core) (a k + l) n) s).group? c g = s.group? c g :=
  List.foldlRecOn (motive := fun u : State => u.group? c g = s.group? c g) ks _ rfl fun _ h _ _ =>
    (State.scrClear_slice_group? ..).trans h

/-- A group that is placed takes a free context, and changes nothing of the group but its places and its age. -/
theorem State.placeGroup_places {s t : State} {core part lbytes g : Nat} {spawn : Bool} {G : Group}
    (placed : s.placeGroup core part lbytes spawn G = some (t, g)) :
    s.group? core g = none ∧ ∃ K, t.group? core g = some K ∧
      { K with wbase := G.wbase, lbase := G.lbase, age := G.age, lastIssue := G.lastIssue } = G := by
  unfold State.placeGroup at placed
  dsimp only at placed
  split at placed
  · cases placed
  · split at placed
    · next q _ g' w l free _ _ =>
      cases placed
      have found := List.find?_some free
      simp only [Bool.and_eq_true, Option.isNone_iff_eq_none] at found
      refine ⟨found.1.1, { G with wbase := w, lbase := l, age := (s.now, (s.core core).placed), lastIssue := s.pulses core },
        (State.clearSlices_group? ..).trans ?_, rfl⟩
      rw [State.group?, State.core_setCore, if_pos rfl]
      exact tget?_tset_self ..
    · cases placed

theorem State.trySpawn_creates {s u : State} {I : Issue} {a n : BitVec 7} (spawns : s.trySpawn I a n = some u) :
    ∃ g K, s.group? I.core g = none ∧ u.group? I.core g = some K ∧
      { K with wbase := 0, lbase := 0, age := (0, 0), lastIssue := 0 } = spawned I a n := by
  unfold State.trySpawn at spawns
  split at spawns
  · cases spawns
  · obtain ⟨⟨t, g⟩, placed, rfl⟩ := Option.map_eq_some_iff.1 spawns
    obtain ⟨free, K, hK, frame⟩ := State.placeGroup_places placed
    exact ⟨g, K, free, hK, frame⟩

theorem badTarget_none {t : Nat} (align : t % 4 = 0) (low : t < 2 ^ 52) : badTarget t = none := by
  have low : t < 4503599627370496 := low
  simp [badTarget, wellFormedVa, vaTop, align, low]

theorem Form.slot_group?_none {F : Form} {s : State} {I : Issue} {g : Nat} (free : (F.slot s I).group? I.core g = none) :
    s.group? I.core g = none := by
  have : (F.slot s I).group? I.core g = _ := State.group?_modGroup ..
  rw [this] at free
  split at free
  · exact Option.map_eq_none_iff.1 free
  · exact free

/-- Settles O20. -/
theorem spawnCreatesGroups : Obligations.SpawnCreatesGroups := by
  unfold Obligations.SpawnCreatesGroups
  intro i s I F hF ready tell
  refine ⟨?_, ?_, ?_, ?_, ?_⟩
  · rintro a n c u rfl align low spawns
    cases hF
    simp only [exec_spawn, execSpawn]
    refine (issue_ready _ ready).trans ?_
    simp only [badTarget_none align low]
    simp only [spawns]
    rfl
  · rintro a n c rfl align low full
    cases hF
    simp only [exec_spawn, execSpawn]
    refine (issue_ready _ ready).trans ?_
    simp only [badTarget_none align low]
    simp only [full]
    rfl
  · rintro k a n c u rfl align low spawns
    cases hF
    simp only [exec_spawnT, execSpawnT]
    refine (issue_ready _ ready).trans ?_
    simp only [badTarget_none align low]
    simp only [spawns]
    rfl
  · rintro k a n c rfl align low full
    cases hF
    simp only [exec_spawnT, execSpawnT]
    refine (issue_ready _ ready).trans ?_
    simp only [badTarget_none align low]
    simp only [full]
    rfl
  · intro a n u spawns
    obtain ⟨g, K, free, hK, frame⟩ := State.trySpawn_creates spawns
    have lanes : K.lanes = (spawned I a n).lanes := (congrArg Group.lanes frame :)
    have lane (l : Nat) : K.lane l = (spawned I a n).lane l := by rw [Group.lane, lanes, ← Group.lane]
    refine ⟨g, K, Form.slot_group?_none free, hK, (congrArg Group.tid frame :), (congrArg Group.ctx frame :),
      (congrArg Group.role frame :), (congrArg Group.budget frame :), ?_, (congrArg Group.sregs frame :), fun l hl => ?_⟩
    · rw [Group.live]
      simp only [lane]
      exact spawned_live ready.issuer a n
    · rw [lane, spawned_lane, if_pos hl]
      refine ⟨rfl, fun k hk => ?_⟩
      rw [Group.v, lane, spawned_lane, if_pos hl, Lane.v_withRegs]
      simp [hk]

end Sys2Proof.Machine
end

section
/-!
SUPPORT. A group whose last lane lies outside the 32 of a group (O18).
-/

namespace Sys2Proof.Machine

/-- A group with a live fibre in lane 0, which its batch holds, and one in a lane that no batch can hold. -/
def strayGroup : Group :=
  { Group.start 1 0 0 128 [(0, Lane.start 0x1000), (40, Lane.start 0x1000)] with batches := [Batch.fresh 1] }

def strayLane : State := { State.reset.setGroup 0 0 strayGroup with cur := { core := 0, g := 0, b := 0 } }

/-- The issue of lane 0. -/
def strayIssue : Issue :=
  { core := 0, g := 0, bi := 0, G := strayGroup, R := strayGroup, B := Batch.fresh 1, T := State.reset.team 1, tid := 1, x := 0,
    pc := 0x1000, rpc := 0x1000, hv := hintView [], lanes := [0], act := [0], first := true }

theorem strayLane_issuer : strayLane.issuer = some strayIssue := rfl

theorem strayLane_ready : Ready { ins := .fend 0, c := 0 } strayLane strayIssue where
  issuer := strayLane_issuer
  first := rfl
  active := by decide
  landed := by decide +kernel
  batch := by decide +kernel
  fibres := by decide +kernel

/-- What the end of the fibre in lane 0 makes of the machine. -/
def strayEnded : State :=
  (Form.slot { ins := .fend 0, c := 0 } strayLane strayIssue).finish strayIssue none [{ lane := 0, ends := true }]

/-- The group counts the fibres in its 32 lanes, and exits. -/
theorem strayLane_exits : ∃ t, exec (.fend 0) strayLane = .next t ∧ t.group? 0 0 = none := by
  refine ⟨strayEnded, ?_, rfl⟩
  simp only [exec_fend, execFend]
  exact issue_eachLane _ strayLane_ready

theorem strayIssue_lives : strayIssue.Lives := by
  rintro l (_ | ⟨_, ⟨⟩⟩)
  rfl

/-- Refutes O18: FEND in lane 0 of a group whose one other live fibre stands in lane 40 frees the group's context. -/
theorem not_fibresForkAndEnd : ¬ Obligations.FibresForkAndEnd := by
  unfold Obligations.FibresForkAndEnd
  rintro ⟨-, ends⟩
  obtain ⟨goes_on, -⟩ := ends 0 strayLane strayIssue _ rfl strayLane_ready strayIssue_lives
  obtain ⟨t, H, done, stands, -⟩ := goes_on ⟨40, by decide, by decide⟩
  obtain ⟨u, exits, gone⟩ := strayLane_exits
  rw [exits] at done
  cases done
  cases gone.symm.trans stands

end Sys2Proof.Machine
end

section
/-!
SUPPORT. The batches that a reconvergence merges (O19).
-/

namespace Sys2Proof.Machine

/-! ## Unions of lanes -/

theorem getLsbD_foldl_or {α : Type} (f : α → BitVec 32) (xs : List α) (m : BitVec 32) (l : Nat) :
    (xs.foldl (fun m x => m ||| f x) m).getLsbD l = (m.getLsbD l || xs.any fun x => (f x).getLsbD l) := by
  induction xs generalizing m with
  | nil => simp
  | cons x xs ih => rw [List.foldl_cons, ih, BitVec.getLsbD_or, List.any_cons, Bool.or_assoc]

theorem mem_lanesOf {m : BitVec 32} {l : Nat} : l ∈ lanesOf m ↔ l < 32 ∧ m.getLsbD l = true := by
  rw [lanesOf, List.mem_filter, List.mem_range]

/-! ## Merging the batches that meet a condition -/

/-- The places of the batches that meet a condition. -/
def placesOf (bs : List Batch) (p : Batch → Bool) : List Nat := (List.range bs.length).filter fun i => (bs[i]?).any p

/-- The lanes of the batches that meet a condition. -/
def lanesIn (bs : List Batch) (p : Batch → Bool) : BitVec 32 := (bs.filter p).foldl (fun m B => m ||| B.lanes) 0

theorem lanesIn_eq (bs : List Batch) (p : Batch → Bool) :
    (placesOf bs p).foldl (fun a i => a ||| ((bs[i]?).map (·.lanes)).getD 0) (0 : BitVec 32) = lanesIn bs p := by
  refine BitVec.eq_of_getLsbD_eq fun l _ => ?_
  rw [lanesIn, getLsbD_foldl_or, getLsbD_foldl_or, Bool.eq_iff_iff]
  simp only [Bool.or_eq_true, List.any_eq_true, placesOf, List.mem_filter, List.mem_range]
  refine or_congr .rfl ⟨?_, ?_⟩
  · rintro ⟨i, ⟨small, meets⟩, has⟩
    rw [List.getElem?_eq_getElem small] at meets has
    exact ⟨bs[i], ⟨List.getElem_mem small, meets⟩, has⟩
  · rintro ⟨B, ⟨mem, meets⟩, has⟩
    obtain ⟨i, small, rfl⟩ := List.mem_iff_getElem.1 mem
    refine ⟨i, ⟨small, ?_⟩, ?_⟩
    · rw [List.getElem?_eq_getElem small]
      exact meets
    · rw [List.getElem?_eq_getElem small]
      exact has

/-- What a merge makes of the batch in a place. -/
def mergeAt (old : Nat) (X : Batch) (gone : Nat → Bool) (e : Batch × Nat) : Option Batch :=
  if e.2 == old then some X else if gone e.2 then none else some e.1

/-- Behind the place of the merged batch the batches that meet the condition go, and the others stay. -/
theorem merge_behind (bs : List Batch) (k old : Nat) (X : Batch) (gone : Nat → Bool) (p : Batch → Bool)
    (meets : ∀ i B, bs[i]? = some B → gone (i + k) = p B) (behind : old < k) :
    (bs.zipIdx k).filterMap (mergeAt old X gone) = bs.filter fun B => !p B := by
  induction bs generalizing k with
  | nil => rfl
  | cons B bs ih =>
    have first := meets 0 B rfl
    rw [Nat.zero_add] at first
    have rest := ih (k + 1) (fun i C h => by
      have := meets (i + 1) C (by simpa using h)
      rwa [Nat.add_right_comm, Nat.add_assoc] at this) (by omega)
    have other : (k == old) = false := by simp; omega
    rw [List.zipIdx_cons, List.filterMap_cons, rest, mergeAt, List.filter_cons, first]
    cases p B <;> simp [other]

/-- The first batch that meets the condition becomes the merged one, and the others that meet it go. -/
theorem merge_batches (bs : List Batch) (k : Nat) (X : Batch) (gone : Nat → Bool) (p : Batch → Bool)
    (meets : ∀ i B, bs[i]? = some B → gone (i + k) = p B) (some_one : ∃ B ∈ bs, p B = true) :
    ∃ as cs, (bs.zipIdx k).filterMap
        (mergeAt ((((List.range bs.length).filter fun i => (bs[i]?).any p).headD 0) + k) X gone) = as ++ X :: cs ∧
      as ++ cs = bs.filter fun B => !p B := by
  induction bs generalizing k with
  | nil => obtain ⟨B, ⟨⟩, -⟩ := some_one
  | cons B bs ih =>
    have first := meets 0 B rfl
    rw [Nat.zero_add] at first
    have later : ∀ i C, bs[i]? = some C → gone (i + (k + 1)) = p C := fun i C h => by
      have := meets (i + 1) C (by simpa using h)
      rwa [Nat.add_right_comm, Nat.add_assoc] at this
    have places : ((List.range (B :: bs).length).filter fun i => ((B :: bs)[i]?).any p) =
        if p B then 0 :: ((List.range bs.length).filter fun i => (bs[i]?).any p).map (· + 1)
        else ((List.range bs.length).filter fun i => (bs[i]?).any p).map (· + 1) := by
      rw [List.length_cons, List.range_succ_eq_map, List.filter_cons, List.filter_map]
      simp [Function.comp_def]
    rw [places, List.zipIdx_cons, List.filterMap_cons]
    by_cases here : p B = true
    · refine ⟨[], bs.filter fun B => !p B, ?_, ?_⟩
      · rw [if_pos here, List.headD_cons, Nat.zero_add, merge_behind bs (k + 1) k X gone p later (by omega), mergeAt]
        simp
      · rw [List.filter_cons, here]
        simp
    · have some_later : ∃ C ∈ bs, p C = true := by
        obtain ⟨C, mem, holds⟩ := some_one
        rcases List.mem_cons.1 mem with rfl | mem
        · exact absurd holds here
        · exact ⟨C, mem, holds⟩
      obtain ⟨as, cs, eq, rest⟩ := ih (k + 1) later some_later
      obtain ⟨j, js, places⟩ : ∃ j js, ((List.range bs.length).filter fun i => (bs[i]?).any p) = j :: js := by
        obtain ⟨C, mem, meets⟩ := some_later
        obtain ⟨i, small, rfl⟩ := List.mem_iff_getElem.1 mem
        exact List.exists_cons_of_ne_nil (List.ne_nil_of_mem (a := i) (List.mem_filter.2
          ⟨List.mem_range.2 small, by rw [List.getElem?_eq_getElem small]; exact meets⟩))
      rw [places] at eq ⊢
      rw [List.headD_cons] at eq
      have shift : j + 1 + k = j + (k + 1) := by omega
      have other : (k == j + (k + 1)) = false := by simp; omega
      rw [if_neg here, List.map_cons, List.headD_cons, shift, eq]
      refine ⟨B :: as, cs, ?_, ?_⟩
      · rw [mergeAt, other, first]
        simp [here]
      · rw [List.cons_append, rest, List.filter_cons]
        simp [here]

/-- The group behind a merge of the batches that meet a condition. -/
theorem Group.merge_spec (G : Group) (pc : Nat) (p : Batch → Bool) (some_one : ∃ B ∈ G.batches, p B = true) :
    let H := G.merge (placesOf G.batches p) pc
    { H with lanes := G.lanes, batches := G.batches } = G ∧
    (∀ l, H.lane l = if l < 32 ∧ (lanesIn G.batches p).getLsbD l = true then { G.lane l with pc := pc } else G.lane l) ∧
    ∃ as cs, H.batches = as ++ Batch.fresh (lanesIn G.batches p) :: cs ∧
      as ++ cs = G.batches.filter fun B => !p B := by
  have frame := G.foldl_modLane_frame (lanesOf (lanesIn G.batches p)) id fun _ L => { L with pc := pc }
  have lanes (l : Nat) := G.lane_foldl_modLane (lanesOf (lanesIn G.batches p)) (fun _ L => { L with pc := pc }) l fun _ _ => rfl
  have batches : ((lanesOf (lanesIn G.batches p)).foldl (fun H l => H.modLane l fun L => { L with pc := pc }) G).batches =
    G.batches := (congrArg Group.batches frame :)
  intro H
  have merged : H = { (lanesOf (lanesIn G.batches p)).foldl (fun H l => H.modLane l fun L => { L with pc := pc }) G with
      batches := G.batches.zipIdx.filterMap
        (mergeAt ((placesOf G.batches p).headD 0) (Batch.fresh (lanesIn G.batches p)) (placesOf G.batches p).contains) } := by
    show G.merge (placesOf G.batches p) pc = _
    unfold Group.merge
    dsimp only
    rw [lanesIn_eq, batches]
    rfl
  refine ⟨?_, fun l => ?_, ?_⟩
  · rw [merged]
    exact (congrArg (fun K : Group => { K with batches := G.batches }) frame :)
  · rw [merged]
    refine (lanes l).trans ?_
    simp only [mem_lanesOf]
  · rw [merged]
    refine merge_batches G.batches 0 _ _ p (fun i B h => ?_) some_one
    rw [Nat.add_zero, Bool.eq_iff_iff, List.contains_iff_mem, placesOf, List.mem_filter, List.mem_range, h]
    exact and_iff_right (List.getElem?_eq_some_iff.1 h).1

/-! ## The batches that are ready -/

theorem Batch.rcvAt_eq {B : Batch} {a : Nat} : B.rcvAt = some a ↔ ∃ y, B.wait = some (.rcv a y) := by
  unfold Batch.rcvAt
  split
  · next b y e => simp [e]
  · next other =>
    refine ⟨fun h => (Option.some_ne_none _ h.symm).elim, fun ⟨y, e⟩ => (other a y e).elim⟩

/-- The batches at the lowest address are ready when every batch waits and no fibre is parked. -/
theorem Group.rcvReady_lowest {G : Group} {B : Batch} {bi pc : Nat} (hB : G.batches[bi]? = some B) (here : B.rcvAt = some pc)
    (unparked : ∀ e ∈ G.lanes, e.2.live = true → e.2.parked = none)
    (lowest : ∀ B ∈ G.batches, ∃ a, B.rcvAt = some a ∧ pc ≤ a) :
    G.rcvReady bi pc = some (placesOf G.batches fun B => B.rcvAt == some pc) := by
  have no_park : (G.lanes.any fun e => e.2.live && e.2.parked.isSome) = false := by
    rw [List.any_eq_false]
    intro e he both
    rw [Bool.and_eq_true] at both
    rw [unparked e he both.1] at both
    cases both.2
  have at_ : ∀ i ∈ (List.range G.batches.length).filter (· != bi), ∃ a, (G.batches[i]?).bind Batch.rcvAt = some a ∧ pc ≤ a := by
    intro i hi
    have small := List.mem_range.1 (List.mem_filter.1 hi).1
    obtain ⟨a, ha, le⟩ := lowest _ (List.getElem_mem small)
    exact ⟨a, by rw [List.getElem?_eq_getElem small, Option.bind_some, ha], le⟩
  have waits : (((List.range G.batches.length).filter (· != bi)).any fun i => ((G.batches[i]?).bind Batch.rcvAt).isNone) = false := by
    rw [List.any_eq_false]
    intro i hi none
    obtain ⟨a, ha, -⟩ := at_ i hi
    rw [ha] at none
    cases none
  have above : (((List.range G.batches.length).filter (· != bi)).any fun i =>
      ((G.batches[i]?).bind Batch.rcvAt).any (· < pc)) = false := by
    rw [List.any_eq_false]
    intro i hi below
    obtain ⟨a, ha, le⟩ := at_ i hi
    rw [ha, Option.any_some, decide_eq_true_eq] at below
    omega
  simp only [Group.rcvReady, no_park, waits, above, Bool.false_eq_true, if_false, placesOf]
  congr 1
  refine List.filter_congr fun i hi => ?_
  rw [List.getElem?_eq_getElem (List.mem_range.1 hi), Option.bind_some, Option.any_some]
  by_cases same : i = bi
  · subst same
    rw [List.getElem?_eq_getElem (List.mem_range.1 hi)] at hB
    cases hB
    simp [here]
  · simp [same]

/-- A batch behind a lower address waits on. -/
theorem Group.rcvReady_above {G : Group} {B C : Batch} {bi pc a : Nat} (hB : G.batches[bi]? = some B) (here : B.rcvAt = some pc)
    (hC : C ∈ G.batches) (there : C.rcvAt = some a) (lower : a < pc) : G.rcvReady bi pc = none := by
  obtain ⟨i, small, rfl⟩ := List.mem_iff_getElem.1 hC
  have other : i ≠ bi := by
    rintro rfl
    rw [List.getElem?_eq_getElem small] at hB
    cases hB
    rw [here] at there
    cases there
    omega
  have below : (((List.range G.batches.length).filter (· != bi)).any fun i =>
      ((G.batches[i]?).bind Batch.rcvAt).any (· < pc)) = true := by
    rw [List.any_eq_true]
    refine ⟨i, List.mem_filter.2 ⟨List.mem_range.2 small, by simpa using other⟩, ?_⟩
    rw [List.getElem?_eq_getElem small, Option.bind_some, there]
    simpa using lower
  simp only [Group.rcvReady, below, if_true]
  split
  · rfl
  · split <;> rfl

theorem State.issuer_batch {s : State} {I : Issue} (issuer : s.issuer = some I) : I.G.batches[I.bi]? = some I.B := by
  unfold State.issuer at issuer
  split at issuer
  · cases issuer
  · split at issuer
    · cases issuer
    · next hB =>
      split at issuer
      · cases issuer
      · cases issuer
        exact hB

theorem elsewhere_setGroup (s : State) (c g : Nat) (G : Group) : Elsewhere c g s (s.setGroup c g G) where
  rest := rfl
  bytes _ := rfl
  groups d h hd := by rw [State.group?_setGroup, if_neg fun e => hd ⟨e.1.symm, e.2.symm⟩]
  cores d := by
    rw [State.setGroup, State.core_modCore]
    split
    · next same =>
      subst same
      rfl
    · rfl

theorem State.group?_setGroup_self (s : State) (c g : Nat) (G : Group) : (s.setGroup c g G).group? c g = some G := by
  rw [State.group?_setGroup, if_pos ⟨rfl, rfl⟩]

/-- Batches that all wait at one address merge into one. -/
theorem Group.merge_all {G : Group} {p : Batch → Bool} (pc : Nat) (all : ∀ B ∈ G.batches, p B = true) (some_one : G.batches ≠ []) :
    let m := G.batches.foldl (fun m B => m ||| B.lanes) 0
    let H := G.merge (placesOf G.batches p) pc
    { H with lanes := G.lanes, batches := G.batches } = G ∧ H.batches = [Batch.fresh m] ∧
      ∀ l, l < 32 → m.getLsbD l = true → (H.lane l).pc = pc := by
  obtain ⟨C, hC⟩ := List.exists_mem_of_ne_nil _ some_one
  obtain ⟨frame, lanes, as, cs, batches, rest⟩ := G.merge_spec pc p ⟨C, hC, all C hC⟩
  have chosen : G.batches.filter p = G.batches := List.filter_eq_self.2 all
  have others : (G.batches.filter fun B => !p B) = [] := List.filter_eq_nil_iff.2 fun B hB => by simp [all B hB]
  obtain ⟨rfl, rfl⟩ := List.append_eq_nil_iff.1 (rest.trans others)
  rw [lanesIn, chosen] at batches lanes
  refine ⟨frame, batches, fun l small has => ?_⟩
  rw [lanes, if_pos ⟨small, has⟩]

section
variable {s : State} {I : Issue} (again : Again s I) (unparked : ∀ e ∈ I.G.lanes, e.2.live = true → e.2.parked = none)
include again unparked

/-- An RCV tried again merges the batches at its address, the lowest. -/
theorem rcv_merges (c : BitVec 3) (here : I.B.rcvAt = some I.pc) (lowest : ∀ B ∈ I.G.batches, ∃ a, B.rcvAt = some a ∧ I.pc ≤ a) :
    exec (.rcv c) s =
      .next (s.setGroup I.core I.g (I.G.merge (placesOf I.G.batches fun B => B.rcvAt == some I.pc) (I.pc + 4))) := by
  simp only [exec_rcv, execRcv]
  refine (issue_again _ again).trans ?_
  have ready := Group.rcvReady_lowest (State.issuer_batch again.issuer) here unparked lowest
  simp only [again.later, Bool.false_eq_true, if_false]
  rw [ready]
  rfl

/-- A YIELD tried again merges them likewise, and ends the touch entries. -/
theorem yield_merges (c : BitVec 3) (here : I.B.rcvAt = some I.pc) (lowest : ∀ B ∈ I.G.batches, ∃ a, B.rcvAt = some a ∧ I.pc ≤ a) :
    let G := { I.G.merge (placesOf I.G.batches fun B => B.rcvAt == some I.pc) (I.pc + 4) with touches := [] }
    exec (.yield c) s = .next (s.setGroup I.core I.g (if s.atBoundary I then { G with st := .boundary } else G)) := by
  simp only [exec_yield, execYield]
  refine (issue_again _ again).trans ?_
  have ready := Group.rcvReady_lowest (State.issuer_batch again.issuer) here unparked lowest
  simp only [again.later, Bool.false_eq_true, if_false]
  rw [ready]
  rfl

end

/-- Settles O19: the batches that wait at the lowest address are the ones that merge. -/
theorem reconvergenceMerges : Obligations.ReconvergenceMerges := by
  unfold Obligations.ReconvergenceMerges
  refine ⟨?_, ?_, ?_⟩
  · intro i s I F hF ready
    refine ⟨?_, ?_⟩
    all_goals
      rintro c rfl
      cases hF
    · simp only [exec_rcv, execRcv]
      refine (issue_ready _ ready).trans ?_
      simp only [ready.first, if_true]
      rfl
    · simp only [exec_yield, execYield]
      refine (issue_ready _ ready).trans ?_
      simp only [ready.first, if_true]
      rfl
  · intro s I again unparked waits all
    have at_ : ∀ B ∈ I.G.batches, B.rcvAt = some I.pc := fun B hB => Batch.rcvAt_eq.2 (waits B hB)
    have hB := State.issuer_batch again.issuer
    have mem : I.B ∈ I.G.batches := List.mem_of_getElem? hB
    have lowest : ∀ B ∈ I.G.batches, ∃ a, B.rcvAt = some a ∧ I.pc ≤ a := fun B hB => ⟨I.pc, at_ B hB, le_refl _⟩
    obtain ⟨frame, batches, pcs⟩ := Group.merge_all (p := fun B => B.rcvAt == some I.pc) (I.pc + 4)
      (fun B hB => by simp [at_ B hB]) (List.ne_nil_of_mem mem)
    have touches := (congrArg Group.touches frame :)
    have st := (congrArg Group.st frame :)
    refine ⟨fun c => ?_, fun c => ?_⟩
    · exact ⟨_, _, rcv_merges again unparked c (at_ _ mem) lowest, State.group?_setGroup_self .., elsewhere_setGroup ..,
        batches, pcs, touches, st⟩
    · refine ⟨_, _, yield_merges again unparked c (at_ _ mem) lowest, State.group?_setGroup_self .., elsewhere_setGroup .., ?_⟩
      cases s.atBoundary I
      · exact ⟨batches, pcs, rfl, st⟩
      · exact ⟨batches, pcs, rfl, rfl⟩
  · intro s I c again unparked here
    have hB := State.issuer_batch again.issuer
    refine ⟨?_, ?_⟩
    · intro waits all
      have lowest : ∀ B ∈ I.G.batches, ∃ a, B.rcvAt = some a ∧ I.pc ≤ a := fun B hB => by
        obtain ⟨a, y, e, le⟩ := waits B hB
        exact ⟨a, Batch.rcvAt_eq.2 ⟨y, e⟩, le⟩
      obtain ⟨-, lanes, as, cs, batches, rest⟩ := I.G.merge_spec (I.pc + 4) (fun B => B.rcvAt == some I.pc)
        ⟨I.B, List.mem_of_getElem? hB, by simp [here]⟩
      have wait : ∀ B ∈ as ++ cs, B.wait.isSome = true := fun B hB => by
        rw [rest] at hB
        obtain ⟨a, y, e, -⟩ := waits B (List.mem_filter.1 hB).1
        rw [e]
        rfl
      have front : ∀ B ∈ as, B.wait.isSome = true := fun B hB => wait B (List.mem_append_left _ hB)
      have back : ∀ B ∈ cs, B.wait.isSome = true := fun B hB => wait B (List.mem_append_right _ hB)
      refine ⟨_, _, rcv_merges again unparked c here lowest, State.group?_setGroup_self .., elsewhere_setGroup .., ?_, ?_,
        fun l small has => ?_, fun l small hasnt => ?_⟩
      · rw [batches, List.filter_append, List.filter_cons, List.filter_eq_self.2 front, List.filter_eq_self.2 back]
        exact rest
      · rw [batches, List.filter_append, List.filter_cons,
          List.filter_eq_nil_iff.2 fun B hB => by simpa [Option.isSome_iff_ne_none] using front B hB,
          List.filter_eq_nil_iff.2 fun B hB => by simpa [Option.isSome_iff_ne_none] using back B hB]
        rfl
      · rw [lanes, if_pos ⟨small, has⟩]
      · rw [lanes, if_neg fun both => Bool.false_ne_true (hasnt.symm.trans both.2)]
    · rintro ⟨C, hC, a, y, e, lower⟩
      simp only [exec_rcv, execRcv]
      refine (issue_again _ again).trans ?_
      have above := Group.rcvReady_above hB here hC (Batch.rcvAt_eq.2 ⟨y, e⟩) lower
      simp only [again.later, Bool.false_eq_true, if_false]
      rw [above]
      rfl

end Sys2Proof.Machine
end

section
/-!
SUPPORT. The queue instructions on a descriptor that can be read (O21).
-/

namespace Sys2Proof.Machine

theorem bits_low (v n : Nat) : bits v 0 n = v % 2 ^ n := by rw [bits, pow_zero, Nat.div_one]

/-- The queue behind a pop of `n` entries by the instruction. -/
def Issue.taken (I : Issue) (u : State) (k : Nat) (Q : QueueDesc) (n : Nat) : State :=
  let v := u.modGroup I.core I.g fun G => { G with lastQueue := some k }
  let overs := Q.overs && decide (Q.low ≤ Q.depth - n)
  let w := if n = 0 ∧ overs = Q.overs then v else v.corePut I (u.queueVa I.x k + 20)
    (leBytes 4 (Q.overWord overs) ++ leBytes 4 ((Q.head + n) % 2 ^ 32))
  if Q.overs && !overs then w.freePushers I.x (some k) else w

theorem Issue.taken_eq (I : Issue) (u : State) (k : Nat) (Q : QueueDesc) (n : Nat) :
    (u.modGroup I.core I.g fun G => { G with lastQueue := some k }).takeEntries I k Q n = I.taken u k Q n := by
  unfold State.takeEntries Issue.taken
  simp only [Bool.and_eq_true, beq_iff_eq]
  rfl

section
variable {I : Issue} {s t u : State} {q : BitVec 6} {Q : QueueDesc} {es : List (List Byte)} {pop : Bool}
  {k : BitVec 3} {d : BitVec 7}
  (desc : s.queueDesc I .atomic (I.R.s q.toNat).toNat = (t, .ok Q))
include desc

/-- A pop of an empty queue waits while no pre-emption is asked for. -/
theorem qpopRun_empty (empty : Q.depth = 0) (going : t.drainSeen I.x I.tid = false) :
    qpopRun true k d q I s = .wait (I.taken t (I.R.s q.toNat).toNat Q 0) (.poll 7) := by
  simp only [qpopRun, queueIdx, desc, empty, going, Nat.zero_min, Bool.false_eq_true, if_false, List.range_zero, List.map_nil,
    State.coreReads, I.taken_eq]
  rfl

theorem qpopRun_goes (on : pop = false ∨ Q.depth ≠ 0 ∨ t.drainSeen I.x I.tid = true)
    (reads : t.coreReads I .read 32 ((List.range (if t.drainSeen I.x I.tid then 0 else min Q.depth I.act.length)).map
      fun j => Q.base + 32 * ((Q.head + j) % 2 ^ 32 % Q.cap)) = (u, .ok es)) :
    let n := if t.drainSeen I.x I.tid then 0 else min Q.depth I.act.length
    let y := I.taken u (I.R.s q.toNat).toNat Q n
    qpopRun pop k d q I s =
      .go (if n = 0 then y else y.acquire I.party (some (Q.word % 2 ^ 20)) (Q.word / 2 ^ 20 % 8))
        (I.act.zipIdx.map fun (l, j) =>
          { lane := l
            writes := (match es[j]? with
              | some e => wregs l d.toNat (bytesWords 8 e) ++ [wpred l k.toNat false]
              | none => [wpred l k.toNat true]) ++ [wpred l (k.toNat + 8) (t.drainSeen I.x I.tid)] }) := by
  have stays : (pop && !t.drainSeen I.x I.tid && Q.depth == 0) = false := by
    rcases on with rfl | some_entry | drains
    · rfl
    · simp [some_entry]
    · simp [drains]
  intro n y
  simp only [qpopRun, queueIdx, desc, QueueDesc.entry, reads, I.taken_eq, stays, Bool.false_eq_true, if_false, bits_low, beq_iff_eq]
  rfl

end

/-- A push is descheduled above the high watermark. -/
def Issue.aboveHigh (I : Issue) (t : State) (k : Nat) (Q : QueueDesc) : State :=
  let u := t.corePut I (t.queueVa I.x k + 20) (leBytes 4 (Q.overWord true))
  let due := if u.draining I.x then some (u.pulses I.core + 64) else none
  { u.modGroup I.core I.g fun G => { G with st := .descheduled k u.nextOp due } with nextOp := u.nextOp + 1 }

section
variable {I : Issue} {s t u : State} {a : BitVec 7} {q : BitVec 6} {c : BitVec 3} {Q : QueueDesc}

/-- A push whose descriptor can be read appends, waits or is descheduled. -/
theorem exec_qpush_ready (ready : Ready { ins := .qpush a q c, c := c, ops := [ovn 8 a, os q] } s I)
    (desc : (Form.slot { ins := .qpush a q c, c := c, ops := [ovn 8 a, os q] } s I).queueDesc I .atomic (I.R.s q.toNat).toNat =
      (t, .ok Q)) :
    exec (.qpush a q c) s = Result.out { ins := .qpush a q c, c := c, ops := [ovn 8 a, os q] } I
      (if I.retested then
        (if I.act.length ≤ Q.cap - Q.depth then qpushAppend I t a (I.R.s q.toNat).toNat Q else .wait t (.poll 15))
      else if Q.depth + I.act.length ≤ Q.high then qpushAppend I t a (I.R.s q.toNat).toNat Q
      else .wait (I.aboveHigh t (I.R.s q.toNat).toNat Q) (.push (I.R.s q.toNat).toNat)) := by
  simp only [exec_qpush, execQpush]
  refine (issue_ready _ ready).trans ?_
  simp only [queueIdx, desc]
  rfl

/-- The entries that a push appends, each with its place. -/
def Issue.entries (I : Issue) (a : BitVec 7) (Q : QueueDesc) : List (Nat × List Byte) :=
  I.act.zipIdx.map fun (l, j) => (Q.base + 32 * ((Q.tail + j) % 2 ^ 32 % Q.cap),
    wordsBytes ((List.range 8).map fun r => I.R.v l (a.toNat + r)))

theorem qpushAppend_places (k : Nat) (places : t.corePlaces I ((I.entries a Q).map (·.1)) = (u, none)) :
    qpushAppend I t a k Q =
      if u.farStores I.core I.g then .wait u (.poll 15)
      else
        let v := (I.entries a Q).foldl (fun v e => v.corePut I e.1 e.2)
          ((u.noteObj I (Q.word % 2 ^ 20)).release I.core I.g I.x I.T I.tid (Q.word % 2 ^ 20) (Q.word / 2 ^ 20 % 8))
        .go ((v.corePut I (v.queueVa I.x k + 28) (leBytes 4 ((Q.tail + I.act.length) % 2 ^ 32))).modGroup I.core I.g
          (·.pushed I.act)) [] := by
  unfold Issue.entries at places
  simp only [qpushAppend, QueueDesc.entry, places, bits_low]
  rfl

end

/-- A status read answers with the value of the descriptor. -/
theorem qstat_ready {s t : State} {I : Issue} {i : Instr} {d q : BitVec 6} {c : BitVec 3} {Q : QueueDesc} {v : Nat}
    (f : Bool → QueueDesc → Nat) (ready : Ready { ins := i, c := c, ops := [os d, os q] } s I)
    (desc : (Form.slot { ins := i, c := c, ops := [os d, os q] } s I).queueDesc I .read (I.R.s q.toNat).toNat = (t, .ok Q))
    (value : f (t.drainSeen I.x I.tid) Q = v) :
    qstat i f d q c s = .next (t.finish I none [{ lane := I.low, writes := [(.s d.toNat, BitVec.ofNat 32 v)] }]) := by
  refine (issue_ready _ ready).trans ?_
  simp only [queueIdx, desc, Issue.scalarOut_eq ready.active, value]
  rfl

theorem State.queueDesc_beyond {s : State} {I : Issue} {k : Nat} (acc : Access) (past : (s.ctx I.x).word 0x188 ≤ k) :
    s.queueDesc I acc k = (s, .error (.trap (mkTrap 5 0 k))) := by
  rw [State.queueDesc, if_pos past]
  rfl

/-- Settles O21: the effects are the clauses', and the conditions of a clause decide its branches. -/
theorem queuesMoveEntries : Obligations.QueuesMoveEntries := by
  unfold Obligations.QueuesMoveEntries
  refine ⟨?_, ?_⟩
  · intro i s I F hF ready s0 at_ taken
    refine ⟨?_, ?_, ?_, ?_⟩
    · rintro k d q c t Q rfl desc empty going
      cases hF
      simp only [exec_qpop, execQpop]
      refine (issue_ready _ ready).trans ?_
      rw [qpopRun_empty desc empty going]
      rfl
    · rintro pop k d q c t Q u es hi desc on drain n reads y z
      cases pop
      · obtain rfl : i = .qpopT k d q c := hi
        cases hF
        simp only [exec_qpopT, execQpopT]
        refine (issue_ready _ ready).trans ?_
        rw [qpopRun_goes desc on reads]
        rfl
      · obtain rfl : i = .qpop k d q c := hi
        cases hF
        simp only [exec_qpop, execQpop]
        refine (issue_ready _ ready).trans ?_
        rw [qpopRun_goes desc on reads]
        rfl
    · rintro a q c t Q rfl desc
      cases hF
      have pushes := exec_qpush_ready ready desc
      refine ⟨fun again full => ?_, ?_, fun first above => ?_⟩
      · rw [pushes, if_pos again, if_neg (by omega)]
        rfl
      · intro fits es u places
        have appends : exec (.qpush a q c) s = _ := pushes.trans
          (congrArg (Result.out _ I) (Eq.trans (by
            split at fits
            · next again => rw [if_pos again, if_pos fits]
            · next again => rw [if_neg again, if_pos fits]) (qpushAppend_places _ places)))
        refine ⟨fun far => ?_, fun near => ?_⟩
        · rw [appends, if_pos far]
          rfl
        · rw [appends, if_neg (by rw [near]; exact Bool.false_ne_true)]
          rfl
      · rw [pushes, if_neg (by rw [first]; exact Bool.false_ne_true), if_neg (by omega)]
        rfl
    · intro q d c t Q desc ans
      refine ⟨?_, ?_, ?_⟩
      · rintro e rfl rfl
        cases hF
        simp only [exec_qstatDepth, execQstatDepth]
        exact qstat_ready _ ready desc rfl
      · rintro e rfl rfl
        cases hF
        simp only [exec_qstatFree, execQstatFree]
        exact qstat_ready _ ready desc rfl
      · rintro e rfl rfl
        cases hF
        simp only [exec_qstatFlags, execQstatFlags]
        refine qstat_ready _ ready desc ?_
        cases Q.overs <;> rfl
  · intro i s I F q hF ready names past
    have beyond (acc : Access) := State.queueDesc_beyond (s := F.slot s I) acc past
    rcases names with ⟨k, d, c, rfl | rfl⟩ | ⟨a, c, rfl⟩ | ⟨d, c, rfl | rfl | rfl⟩
    all_goals cases hF
    · simp only [exec_qpop, execQpop]
      refine (issue_ready _ ready).trans ?_
      simp only [qpopRun, queueIdx, beyond]
      rfl
    · simp only [exec_qpopT, execQpopT]
      refine (issue_ready _ ready).trans ?_
      simp only [qpopRun, queueIdx, beyond]
      rfl
    · simp only [exec_qpush, execQpush]
      refine (issue_ready _ ready).trans ?_
      simp only [queueIdx, beyond]
      rfl
    all_goals
      simp only [exec_qstatDepth, execQstatDepth, exec_qstatFree, execQstatFree, exec_qstatFlags, execQstatFlags, qstat]
      refine (issue_ready _ ready).trans ?_
      simp only [queueIdx, beyond]
      rfl

end Sys2Proof.Machine
end

section
/-!
SUPPORT. What the performing of held stores leaves, and the team barriers (O22).
-/

namespace Sys2Proof.Machine

/-! ## What performing a store leaves -/

/-- From `s` to `t` stores have been performed and records written: memories change and what is told of them, the words of
contexts' control spaces and what the sequencers have seen of queues; no group, no team and no launch. -/
structure Performed (s t : State) : Prop where
  rest : { t with mem := s.mem, poison := s.poison, past := s.past, scrPoison := s.scrPoison, ctxs := s.ctxs, host := s.host,
                  remotes := s.remotes, nextOp := s.nextOp, cores := s.cores, clusters := s.clusters, dies := s.dies } = s
  core : ∀ c, { t.core c with unit := (s.core c).unit, slices := (s.core c).slices, macros := (s.core c).macros,
                              accum := (s.core c).accum } = s.core c
  ctx  : ∀ x, { t.ctx x with ctl := (s.ctx x).ctl, queues := (s.ctx x).queues } = s.ctx x
  /-- What is written holds sound data. -/
  clean    : ∀ p ∈ t.poison, p ∈ s.poison
  cleanScr : ∀ p ∈ t.scrPoison, p ∈ s.scrPoison
  canon    : s.MemOk → t.MemOk

theorem Performed.refl (s : State) : Performed s s := ⟨rfl, fun _ => rfl, fun _ => rfl, fun _ h => h, fun _ h => h, id⟩

theorem Performed.trans {s t u : State} (h : Performed s t) (k : Performed t u) : Performed s u where
  rest := calc
    { u with mem := s.mem, poison := s.poison, past := s.past, scrPoison := s.scrPoison, ctxs := s.ctxs, host := s.host,
             remotes := s.remotes, nextOp := s.nextOp, cores := s.cores, clusters := s.clusters, dies := s.dies }
    _ = { ({ u with mem := t.mem, poison := t.poison, past := t.past, scrPoison := t.scrPoison, ctxs := t.ctxs, host := t.host,
                    remotes := t.remotes, nextOp := t.nextOp, cores := t.cores, clusters := t.clusters,
                    dies := t.dies } : State) with
          mem := s.mem, poison := s.poison, past := s.past, scrPoison := s.scrPoison, ctxs := s.ctxs, host := s.host,
          remotes := s.remotes, nextOp := s.nextOp, cores := s.cores, clusters := s.clusters, dies := s.dies } := rfl
    _ = s := by rw [k.rest, h.rest]
  core c := calc
    { u.core c with unit := (s.core c).unit, slices := (s.core c).slices, macros := (s.core c).macros,
                    accum := (s.core c).accum }
    _ = { ({ u.core c with unit := (t.core c).unit, slices := (t.core c).slices, macros := (t.core c).macros,
                           accum := (t.core c).accum } : Core) with
          unit := (s.core c).unit, slices := (s.core c).slices, macros := (s.core c).macros, accum := (s.core c).accum } := rfl
    _ = s.core c := by rw [k.core, h.core]
  ctx x := calc
    { u.ctx x with ctl := (s.ctx x).ctl, queues := (s.ctx x).queues }
    _ = { ({ u.ctx x with ctl := (t.ctx x).ctl, queues := (t.ctx x).queues } : Ctx) with
          ctl := (s.ctx x).ctl, queues := (s.ctx x).queues } := rfl
    _ = s.ctx x := by rw [k.ctx, h.ctx]
  clean p hp := h.clean p (k.clean p hp)
  cleanScr p hp := h.cleanScr p (k.cleanScr p hp)
  canon ok := k.canon (h.canon ok)

theorem Logged.scr {s t : State} (h : Logged s t) (x : Scr) : t.scr x = s.scr x := by
  have cores := h.cores
  have clusters : t.clusters = s.clusters := (congrArg State.clusters h.rest :)
  have dies : t.dies = s.dies := (congrArg State.dies h.rest :)
  cases x with
  | cluster c => rw [State.scr, State.scr, State.cluster, State.cluster, clusters]
  | die d => rw [State.scr, State.scr, State.die, State.die, dies]
  | _ c => rw [State.scr, State.scr, State.core, State.core, cores]

theorem Logged.performed {s t : State} (h : Logged s t) : Performed s t where
  rest := (congrArg (fun u : State => { u with scrPoison := s.scrPoison, cores := s.cores, clusters := s.clusters, dies := s.dies })
    h.rest :)
  core c := by rw [State.core, h.cores, ← State.core]
  ctx x := (congrArg (fun C : Ctx => { C with queues := (s.ctx x).queues }) (h.ctx x) :)
  clean := h.clean
  cleanScr _ hp := by rwa [(congrArg State.scrPoison h.rest :)] at hp
  canon ok := ⟨h.canon ok.1, fun x => by rw [h.scr]; exact ok.2 x⟩

theorem Performed.groups {s t : State} (h : Performed s t) (c : Nat) : (t.core c).groups = (s.core c).groups :=
  (congrArg Core.groups (h.core c) :)

theorem Performed.teams {s t : State} (h : Performed s t) : t.teams = s.teams := (congrArg State.teams h.rest :)

theorem Performed.group? {s t : State} (h : Performed s t) (c g : Nat) : t.group? c g = s.group? c g := by
  rw [State.group?, State.group?, h.groups]

theorem Performed.teamGroups {s t : State} (h : Performed s t) (tid : Nat) : t.teamGroups tid = s.teamGroups tid := by
  rw [State.teamGroups, State.teamGroups, State.team, h.teams, ← State.team, h.groups]

/-- A fold of changes that only perform stores only performs stores. -/
theorem performed_foldl {α : Type} {f : State → α → State} (step : ∀ s a, Performed s (f s a)) (as : List α) (s : State) :
    Performed s (as.foldl f s) :=
  List.foldlRecOn (motive := Performed s) as f (.refl s) fun t h a _ => h.trans (step t a)

theorem State.scr_setScr_self (s : State) (x : Scr) (m : List Host.Cell) : (s.setScr x m).scr x = m := by
  cases x <;> simp [State.setScr, State.scr, State.core_modCore, State.cluster_modCluster, State.die_modDie]

theorem State.scr_setScr_of_ne (s : State) {x y : Scr} (other : x ≠ y) (m : List Host.Cell) : (s.setScr x m).scr y = s.scr y := by
  have clusters (c d : Nat) (f : Core → Core) : (s.modCore c f).cluster d = s.cluster d := rfl
  have dies (c d : Nat) (f : Core → Core) : (s.modCore c f).die d = s.die d := rfl
  have cluster (c d : Nat) (f : Cluster → Cluster) :
      (s.modCluster c f).core d = s.core d ∧ (s.modCluster c f).die d = s.die d := ⟨rfl, rfl⟩
  have die (c d : Nat) (f : Die → Die) :
      (s.modDie c f).core d = s.core d ∧ (s.modDie c f).cluster d = s.cluster d := ⟨rfl, rfl⟩
  cases x <;> cases y <;>
    simp +contextual [State.setScr, State.scr, State.core_modCore, State.cluster_modCluster, State.die_modDie, clusters, dies,
      cluster, die, apply_ite Core.unit, apply_ite Core.slices, apply_ite Core.macros, apply_ite Core.accum,
      apply_ite Cluster.scratch, apply_ite Die.scratch] at other ⊢ <;>
    exact fun same => absurd same other

theorem State.scr_setScr (s : State) (x y : Scr) (m : List Host.Cell) : (s.setScr x m).scr y = if x = y then m else s.scr y := by
  split
  · next same => rw [← same, State.scr_setScr_self]
  · next other => rw [State.scr_setScr_of_ne s other]

theorem State.setScr_mem (s : State) (x : Scr) (m : List Host.Cell) : (s.setScr x m).mem = s.mem := by cases x <;> rfl
theorem State.setScr_poison (s : State) (x : Scr) (m : List Host.Cell) : (s.setScr x m).poison = s.poison := by cases x <;> rfl
theorem State.setScr_scrPoison (s : State) (x : Scr) (m : List Host.Cell) : (s.setScr x m).scrPoison = s.scrPoison := by
  cases x <;> rfl

/-- A storage that is replaced by a canonical one keeps every storage canonical. -/
theorem State.memOk_setScr {s : State} {x : Scr} {m : List Host.Cell} (ok : s.MemOk) (canon : Memory.wf m = true) :
    (s.setScr x m).MemOk := by
  refine ⟨?_, fun y => ?_⟩
  · rw [State.setScr_mem]
    exact ok.1
  · rw [State.scr_setScr]
    split
    · exact canon
    · exact ok.2 y

theorem performed_storages {s : State} {c : Nat} {f : Core → Core}
    (keep : ∀ C : Core, { f C with unit := C.unit, slices := C.slices, macros := C.macros, accum := C.accum } = C)
    (canon : s.MemOk → (s.modCore c f).MemOk) : Performed s (s.modCore c f) := by
  refine ⟨rfl, fun d => ?_, fun _ => rfl, fun _ h => h, fun _ h => h, canon⟩
  rw [State.core_modCore]
  split
  · next same =>
    subst same
    exact keep (s.core c)
  · rfl

theorem performed_setScr (s : State) (x : Scr) {m : List Host.Cell} (canon : Memory.wf (s.scr x) = true → Memory.wf m = true) :
    Performed s (s.setScr x m) := by
  have keeps : s.MemOk → (s.setScr x m).MemOk := fun ok => State.memOk_setScr ok (canon (ok.2 x))
  cases x with
  | cluster c => exact ⟨rfl, fun _ => rfl, fun _ => rfl, fun _ h => h, fun _ h => h, keeps⟩
  | die d => exact ⟨rfl, fun _ => rfl, fun _ => rfl, fun _ h => h, fun _ h => h, keeps⟩
  | unit c => exact performed_storages (f := fun C => { C with unit := m }) (fun _ => rfl) keeps
  | slice c => exact performed_storages (f := fun C => { C with slices := m }) (fun _ => rfl) keeps
  | garnet c => exact performed_storages (f := fun C => { C with macros := m }) (fun _ => rfl) keeps
  | accum c => exact performed_storages (f := fun C => { C with accum := m }) (fun _ => rfl) keeps

theorem performed_past (s : State) (ps : List Past) (p : Scr × Nat → Bool) :
    Performed s { s with past := ps, scrPoison := s.scrPoison.filter p } :=
  ⟨rfl, fun _ => rfl, fun _ => rfl, fun _ h => h, fun _ => List.mem_of_mem_filter, id⟩

theorem performed_scrWrite (s : State) (x : Scr) (a : Nat) (bs : List Byte) : Performed s (s.scrWrite x a bs) :=
  (performed_setScr s x (Memory.wf_writeList _ a bs)).trans (performed_past ..)

theorem performed_put (s : State) (x : Nat) (p : Party) (h : HeldStore) : Performed s (s.put x p h) := by
  have write : Performed s (match h.scr with
      | some d => s.scrWrite d h.pa h.bytes
      | none => s.wr h.pa h.bytes) := by
    split
    · exact performed_scrWrite ..
    · exact (logged_wr ..).performed
  obtain ⟨past, put⟩ := s.put_frame x p h
  rw [put]
  exact write.trans ⟨rfl, fun _ => rfl, fun _ => rfl, fun _ h => h, fun _ h => h, id⟩

theorem performed_perform (s : State) (x : Nat) (p : Party) (h : HeldStore) : Performed s (s.perform x p h) := by
  unfold State.perform
  split
  · exact performed_put ..
  · exact (logged_noteLine ..).performed

/-! ## What the sequencers' observation leaves -/

theorem performed_sees (s : State) (x : Nat) (f : Ctx → Tbl QueueSeen) :
    Performed s (s.modCtx x fun c => { c with queues := f c }) := by
  refine ⟨rfl, fun _ => rfl, fun y => ?_, fun _ h => h, fun _ h => h, id⟩
  rw [State.ctx_modCtx]
  split
  · next same =>
    subst same
    rfl
  · rfl

theorem performed_observeQueue (s : State) (x k : Nat) : Performed s (s.observeQueue x k) := by
  unfold State.observeQueue
  dsimp only
  split
  · split
    · exact .refl s
    · exact (performed_sees s x _).trans (logged_noteTable ..).performed
  · split
    · exact .refl s
    · split
      · refine .trans ?_ (logged_logError ..).performed
        exact .trans (logged_wr ..).performed (performed_sees ..)
      · exact .trans (logged_wr ..).performed (performed_sees ..)

theorem performed_discardQueue (s : State) (x q : Nat) : Performed s (s.discardQueue x q) := by
  have logs (Q : LaunchQueue) (n skip : Nat) := performed_foldl (f := fun u k =>
    u.logError x 2 0 (srcHdie (q % 2)) q ((Q.head + skip + k) % 2 ^ 32) 0) (fun _ _ => (logged_logError ..).performed)
    (List.range n) s
  unfold State.discardQueue
  split
  · exact .refl s
  · dsimp only
    split
    · exact logs ..
    · exact (logs ..).trans (logged_wr ..).performed

theorem performed_observeAll (s : State) : Performed s s.observeAll := by
  refine performed_foldl (fun u x => ?_) _ s
  split
  · exact performed_foldl (fun v k => performed_discardQueue v x k) _ u
  · exact performed_foldl (fun v k => performed_observeQueue v x k) _ u

theorem performed_performAll (s : State) (x : Nat) (p : Party) (hs : List HeldStore) : Performed s (s.performAll x p hs) := by
  induction hs generalizing s with
  | nil => exact .refl s
  | cons h hs ih =>
    cases hs with
    | nil => exact performed_perform ..
    | cons k hs => exact ((performed_perform ..).trans (performed_observeAll _)).trans (ih _)

/-- A change of a group that keeps its team keeps which groups every team has. -/
theorem State.teamGroups_modGroup (s : State) (c g : Nat) {f : Group → Group} (keep : ∀ G, (f G).tid = G.tid) (tid : Nat) :
    ((s.modGroup c g f).teamGroups tid).map (·.1) = (s.teamGroups tid).map (·.1) := by
  rw [State.teamGroups, State.team, State.modGroup_teams, ← State.team, State.modGroup, State.core_modCore, State.teamGroups]
  split
  · next same =>
    rw [← same, tmod, List.filter_map, List.map_map]
    have tids : ((fun e : Nat × Group => e.2.tid == tid) ∘ fun e => if e.1 == g then (e.1, f e.2) else e) =
        fun e => e.2.tid == tid := funext fun e => by
      rw [Function.comp_apply]
      split
      · rw [keep]
      · rfl
    rw [tids]
    exact List.map_congr_left fun e _ => by
      rw [Function.comp_apply]
      split <;> rfl
  · rfl

/-- Performing held stores keeps which groups every team has. -/
theorem State.teamGroups_performHeld (s : State) (c g : Nat) (p : HeldStore → Bool) (tid : Nat) :
    ((s.performHeld c g p).teamGroups tid).map (·.1) = (s.teamGroups tid).map (·.1) := by
  unfold State.performHeld
  split
  · rfl
  · refine (State.teamGroups_modGroup _ c g ?_ tid).trans ?_
    · exact fun _ => rfl
    · rw [(performed_performAll ..).teamGroups]

theorem State.teamGroups_releaseTile (s : State) (c g tid : Nat) :
    ((s.releaseTile c g).teamGroups tid).map (·.1) = (s.teamGroups tid).map (·.1) :=
  s.teamGroups_performHeld c g _ tid

/-! ## Barriers -/

/-- An arrival when every live fibre of the group is at the instruction. -/
theorem barRun_arrives {k : BitVec 3} {n : BitVec 7} {I : Issue} {s : State} (arrived : State → Nat → Result)
    (small : (I.R.s n.toNat).toNat ≤ 32) (here : (maskOf I.G.live &&& ~~~(I.G.gathered I.bi k.toNat I.pc) != 0) = false) :
    let a := (I.T.bar k.toNat).arrive I.g (I.R.s n.toNat).toNat ((s.teamGroups I.tid).map (·.1))
    barRun k n arrived I s =
      arrived ((s.releaseTile I.core I.g).modTeam I.tid fun T => { T with bars := tset T.bars k.toNat a.1 }) a.2 := by
  have few : ¬32 < (I.R.s n.toNat).toNat := by omega
  simp only [barRun, if_neg few, here, Bool.false_eq_true, if_false, State.arriveBar, State.teamGroups_releaseTile]

theorem barRun_gathers {k : BitVec 3} {n : BitVec 7} {I : Issue} {s : State} (arrived : State → Nat → Result)
    (small : (I.R.s n.toNat).toNat ≤ 32) (away : (maskOf I.G.live &&& ~~~(I.G.gathered I.bi k.toNat I.pc) != 0) = true) :
    barRun k n arrived I s = .wait s (.gather k.toNat I.pc) := by
  have few : ¬32 < (I.R.s n.toNat).toNat := by omega
  simp only [barRun, if_neg few, away, if_true]

theorem barRun_overflows {k : BitVec 3} {n : BitVec 7} {I : Issue} {s : State} (arrived : State → Nat → Result)
    (many : 32 < (I.R.s n.toNat).toNat) :
    barRun k n arrived I s = .go s (trapAll I (mkTrap 5 0 (I.R.s n.toNat).toNat)) := by
  simp only [barRun, if_pos many]
  rfl

/-! ## Phases -/

section
variable {b : Bar} {n g : Nat} (cnt : Nat) (rs : List Nat)

/-- An arrival in the phase under way, of a group that was there at its first. -/
theorem Bar.arrive_takes (count : b.cur.count = some n) (later : b.later = []) (here : g ∈ b.cur.all) (room : b.cur.arrivals < n) :
    b.arrive g cnt rs =
      (Bar.complete b.phase [{ b.cur with arrivals := b.cur.arrivals + 1, due := b.cur.due.filter (· != g) }], b.phase) := by
  have takes : b.cur.takes g = true := by
    simp [BarPhase.takes, BarPhase.full, count, here, room]
  simp only [Bar.arrive, arriveIn, takes, if_true, BarPhase.arrive, count, later]
  rfl

theorem BarPhase.full_eq {p : BarPhase} (count : p.count = some n) : p.full = decide (n ≤ p.arrivals) := by
  rw [BarPhase.full, count, Option.any_some]

theorem Bar.complete_cons {p : BarPhase} (ps : List BarPhase) (phase : Nat) (count : p.count = some n) :
    Bar.complete phase (p :: ps) =
      if n ≤ p.arrivals then Bar.complete (phase + 1) ps else { phase := phase, cur := p, later := ps } := by
  rw [Bar.complete, BarPhase.full_eq count]
  simp only [decide_eq_true_eq]

/-- The exit of a group that has not arrived in a phase given as 0. -/
theorem Bar.exit_due (count : b.cur.count = some n) (auto : b.cur.auto = true) (due : g ∈ b.cur.due) :
    b.exit g = Bar.complete b.phase ({ b.cur with
      count := some (n - 1), all := b.cur.all.filter (· != g), due := b.cur.due.filter (· != g) } ::
      b.later.map (·.exit g)) := by
  have expected : (b.cur.auto && b.cur.due.contains g) = true := by simpa [auto] using due
  rw [Bar.exit, BarPhase.exit, if_pos expected, count]
  rfl

end

/-- Settles O22: barrier instructions by what `barRun` answers, phases by the arrival that a phase takes. -/
theorem barriersArrive : Obligations.BarriersArrive := by
  unfold Obligations.BarriersArrive
  refine ⟨?_, ?_, ?_, ?_, ?_, ?_, ?_⟩
  · intro i s I F hF ready s0 missing cnt s1 arr after
    refine ⟨?_, ?_, ?_, ?_, ?_, ?_⟩
    · rintro k n z c rfl small here
      cases hF
      simp only [exec_bar, execBar]
      refine (issue_ready _ ready).trans ?_
      rw [barRun_arrives _ small here]
      rfl
    · rintro k n z c rfl small here
      cases hF
      simp only [exec_barv, execBarv]
      refine (issue_ready _ ready).trans ?_
      rw [barRun_arrives _ small here]
      rfl
    · rintro k n z c (rfl | rfl) small away
      all_goals
        cases hF
        simp only [exec_bar, execBar, exec_barv, execBarv]
        refine (issue_ready _ ready).trans ?_
        rw [barRun_gathers _ small away]
        rfl
    · rintro k n z c (rfl | rfl) many
      all_goals
        cases hF
        simp only [exec_bar, execBar, exec_barv, execBarv]
        refine (issue_ready _ ready).trans ?_
        rw [barRun_overflows _ many]
        rfl
    · rintro k z c rfl norecord
      cases hF
      simp only [exec_barw, execBarw]
      refine (issue_ready _ ready).trans ?_
      simp only [norecord, Option.map_none, Option.getD_none, lt_irrefl, if_false]
      rfl
    · rintro k z c p m rfl record t
      cases hF
      simp only [exec_barw, execBarw]
      refine (issue_ready _ ready).trans ?_
      simp only [record, Option.map_some, Option.getD_some]
      split
      · rfl
      · rfl
  · intro b n g cnt rs count later here room
    rw [Bar.arrive_takes cnt rs count later here (by omega), Bar.complete_cons [] _ (by exact count), if_neg (by simpa using room),
      ← later]
  · intro b n g cnt rs count later here last
    rw [Bar.arrive_takes cnt rs count later here (by omega), Bar.complete_cons [] _ (by exact count), if_pos (by simp [last])]
    rfl
  · intro b g cnt rs start later n
    have takes : b.cur.takes g = true := by rw [start]; rfl
    have first : b.cur.arrive g cnt rs =
        { arrivals := 1, count := some n, auto := cnt == 0, all := rs, due := rs.filter (· != g) } := by
      rw [start, BarPhase.arrive]
      simp only [BarPhase.start, beq_iff_eq]
      rfl
    simp only [Bar.arrive, arriveIn, takes, if_true, first, later]
    rw [Bar.complete_cons (n := n) [] _ rfl]
    by_cases more : 1 < n
    · rw [if_pos more, if_neg (by simpa using more)]
      rfl
    · rw [if_neg more, if_pos (by simpa using more)]
      rfl
  · intro b n g cnt rs count room later away
    have takes : b.cur.takes g = false := by simp [BarPhase.takes, count, away]
    have going : b.cur.full = false := by rw [BarPhase.full_eq count]; simpa using room
    simp only [Bar.arrive, arriveIn, takes, later, Bool.false_eq_true, if_false, Bar.complete, going]
  · intro b n g count last auto due later
    rw [Bar.exit_due count auto due, later, List.map_nil, Bar.complete_cons [] _ (by rfl), if_pos (by simp; omega)]
    rfl
  · intro b n g count room auto due
    rw [Bar.exit_due count auto due, Bar.complete_cons _ _ (by rfl), if_neg (by simp; omega)]

end Sys2Proof.Machine
end

section
/-!
SUPPORT. Answers that land at once, and the bytes of data that is loaded (O23, O25, O26).
-/

namespace Sys2Proof.Machine

/-! ## Bytes of words -/

theorem getD_sliceBytes (bs : List Byte) (o n i : Nat) : (sliceBytes bs o n).getD i 0 = if i < n then bs.getD (o + i) 0 else 0 := by
  simp only [sliceBytes, List.getD_eq_getElem?_getD, List.getElem?_append, List.getElem?_take, List.getElem?_drop,
    List.length_take, List.length_drop, List.getElem?_replicate]
  by_cases small : i < n
  · by_cases within : o + i < bs.length
    · rw [if_pos (by omega), if_pos small, if_pos small]
    · rw [if_neg (by omega), if_pos small, List.getElem?_eq_none (by omega)]
      split <;> rfl
  · rw [if_neg (by omega), if_neg small, if_neg (by omega)]
    rfl

/-- A byte of a little-endian number. -/
theorem leNat_byte (bs : List Byte) (i : Nat) : leNat bs / 2 ^ (8 * i) % 256 = (bs.getD i 0).toNat := by
  induction bs generalizing i with
  | nil => simp [leNat]
  | cons b bs ih =>
    have small := b.isLt
    cases i with
    | zero =>
      simp only [leNat, Nat.mul_zero, pow_zero, Nat.div_one, List.getD_cons_zero]
      omega
    | succ i =>
      have split : (b.toNat + 256 * leNat bs) / 2 ^ (8 * (i + 1)) = leNat bs / 2 ^ (8 * i) := by
        rw [Nat.mul_succ, pow_add, Nat.mul_comm (2 ^ (8 * i)), ← Nat.div_div_eq_div_mul]
        congr 1
        omega
      rw [leNat, split, ih, List.getD_cons_succ]

theorem word_leNat_byte (bs : List Byte) {i : Nat} (small : i < 4) :
    (word (leNat bs)).extractLsb' (8 * i) 8 = bs.getD i 0 := by
  refine BitVec.eq_of_toNat_eq ?_
  rw [BitVec.extractLsb'_toNat, word, BitVec.toNat_ofNat, Nat.shiftRight_eq_div_pow, ← leNat_byte,
    show (2 : Nat) ^ 32 = 2 ^ (8 * i) * 2 ^ (32 - 8 * i) by rw [← pow_add]; congr 1; omega, Nat.mod_mul_right_div_self]
  exact Nat.mod_mod_of_dvd _ (pow_dvd_pow 2 (by omega : 8 ≤ 32 - 8 * i))

theorem bytesWords_length (m : Nat) (bs : List Byte) : (bytesWords m bs).length = m := by
  induction m generalizing bs with
  | zero => rfl
  | succ m ih => rw [bytesWords, List.length_cons, ih]

/-- The bytes of words made of bytes. -/
theorem bytesWords_byte (m : Nat) (bs : List Byte) {j : Nat} (small : j < 4 * m) :
    ((bytesWords m bs).getD (j / 4) 0).extractLsb' (8 * (j % 4)) 8 = bs.getD j 0 := by
  induction m generalizing bs j with
  | zero => omega
  | succ m ih =>
    rw [bytesWords]
    by_cases first : j < 4
    · rw [show j / 4 = 0 by omega, List.getD_cons_zero, byteField, word_leNat_byte _ (by omega), getD_sliceBytes,
        if_pos (by omega), Nat.zero_add, Nat.mod_eq_of_lt first]
    · have step := ih (bs.drop 4) (j := j - 4) (by omega)
      rw [show j / 4 = (j - 4) / 4 + 1 by omega, List.getD_cons_succ, show j % 4 = (j - 4) % 4 by omega, step,
        List.getD_eq_getElem?_getD, List.getElem?_drop, show 4 + (j - 4) = j by omega, List.getD_eq_getElem?_getD]

theorem loadWords_length {w : Nat} (bs : List Byte) (some_words : 4 ≤ w) : (loadWords w bs).length = w / 4 := by
  rw [loadWords, bytesWords_length]
  omega

theorem loadWords_byte {w : Nat} (bs : List Byte) {j : Nat} (words : w % 4 = 0) (small : j < w) :
    ((loadWords w bs).getD (j / 4) 0).extractLsb' (8 * (j % 4)) 8 = bs.getD j 0 := by
  rw [loadWords, bytesWords_byte _ _ (by omega), getD_sliceBytes, if_pos (by omega), Nat.zero_add]

/-! ## Answers of the active fibres -/

section
variable {I : Issue} {f : Nat → LaneOut}

/-- What the answers of the active fibres write. -/
theorem Issue.mem_writes_map (lane : ∀ l, (f l).lane = l) (sub : ∀ l ∈ I.act, l ∈ I.lanes) {w : RegRef × Word} :
    w ∈ I.writes (I.act.map f) ↔ ∃ l ∈ I.act, w ∈ (f l).writes := by
  rw [Issue.writes, List.mem_flatMap]
  constructor
  · rintro ⟨o, ho, hw⟩
    obtain ⟨l, hl, rfl⟩ := List.mem_map.1 ho
    rw [outOf_map lane] at hw
    split at hw
    · next active => exact ⟨l, active, hw⟩
    · cases hw
  · rintro ⟨l, active, hw⟩
    refine ⟨_, List.mem_map.2 ⟨l, sub l active, rfl⟩, ?_⟩
    rw [outOf_map lane, if_pos active]
    exact hw

theorem Issue.flags_map (lane : ∀ l, (f l).lane = l) (quiet : ∀ l, (f l).flags = 0) : I.flags (I.act.map f) = 0 := by
  rw [Issue.flags]
  refine List.foldlRecOn (motive := (· = 0)) _ _ rfl fun n none o ho => ?_
  obtain ⟨l, -, rfl⟩ := List.mem_map.1 ho
  rw [outOf_map lane, none]
  split
  · rw [quiet, Nat.or_zero]
  · exact Nat.or_zero 0

end

/-! ## Answers that land at once -/

section
variable {u : State} {I : Issue} {outs : List LaneOut} {P : Group}

theorem State.lateness_now (now : u.delays.headD 0 = 0) (I : Issue) (outs : List LaneOut) : u.lateness I outs = 0 := by
  rw [State.lateness, now, ite_self]

theorem Issue.writes_nil (I : Issue) : I.writes [] = [] := by
  rw [Issue.writes, List.flatMap_eq_nil_iff]
  intro o ho
  obtain ⟨l, -, rfl⟩ := List.mem_map.1 ho
  rfl

theorem Issue.flags_nil (I : Issue) : I.flags [] = 0 := by
  rw [Issue.flags]
  refine List.foldlRecOn (motive := (· = 0)) _ _ rfl fun n none o ho => ?_
  obtain ⟨l, -, rfl⟩ := List.mem_map.1 ho
  rw [none]
  exact Nat.or_zero 0

@[simp] theorem Issue.allWrites_nil (I : Issue) : I.allWrites [] = [] := allWrites_eq_nil.2 ⟨I.writes_nil, I.flags_nil⟩

theorem State.lateness_nil (u : State) (I : Issue) : u.lateness I [] = 0 := by
  rw [State.lateness, I.allWrites_nil]
  rfl

theorem goesOn_nil : GoesOn [] := fun _ h => by cases h

/-- Answers without delay of fibres that go on make their writes and move the fibres. -/
theorem State.finish_lands (on : GoesOn outs) (now : u.lateness I outs = 0) (hP : u.group? I.core I.g = some P)
    (live : ∃ l, l < 32 ∧ (P.lane l).live = true) :
    (u.finish I none outs).group? I.core I.g = some ((P.writeVar (I.allWrites outs)).goOn I outs) ∧
      Elsewhere I.core I.g u (u.finish I none outs) := by
  rw [u.finish_variable I on, now, beq_self_eq_true]
  simp only [if_true]
  have hH := State.group?_modGroup_self (fun G => (G.writeVar (I.allWrites outs)).goOn I outs)
    ((State.group?_spendDelay u (!(I.allWrites outs).isEmpty) I.core I.g).trans hP)
  obtain ⟨l, small, live⟩ := live
  rw [State.leave_of_live hH small (by rw [Group.goOn_live, Group.writeVar_live]; exact live)]
  exact ⟨hH, (elsewhere_spendDelay ..).trans (elsewhere_modGroup ..)⟩

/-- A batch that answers nothing goes on behind the instruction. -/
theorem State.finish_silent (hP : u.group? I.core I.g = some P) (live : ∃ l, l < 32 ∧ (P.lane l).live = true) :
    (u.finish I none []).group? I.core I.g = some (P.goOn I []) ∧ Elsewhere I.core I.g u (u.finish I none []) := by
  have lands := State.finish_lands goesOn_nil (u.lateness_nil I) hP live
  rwa [I.allWrites_nil, Group.writeVar_nil] at lands

end

theorem Elsewhere.mem {c g : Nat} {s t : State} (h : Elsewhere c g s t) : t.mem = s.mem := (congrArg State.mem h.rest :)

end Sys2Proof.Machine
end

section
/-!
SUPPORT. Covered accesses to memory, and the loads (O23).
-/

namespace Sys2Proof.Machine

/-! ## What the requests of an instruction leave -/

/-- From `s` to `t` an instruction has requested its lines: the TLB of its core has been hit, and requests are counted and
sampled. -/
structure Requested (s t : State) : Prop where
  rest : { t with cores := s.cores, lats := s.lats, nextOp := s.nextOp } = s
  core : ∀ c, { t.core c with tlb := (s.core c).tlb, lines := (s.core c).lines } = s.core c

theorem Requested.refl (s : State) : Requested s s := ⟨rfl, fun _ => rfl⟩

theorem Requested.trans {s t u : State} (h : Requested s t) (k : Requested t u) : Requested s u where
  rest := calc
    { u with cores := s.cores, lats := s.lats, nextOp := s.nextOp }
    _ = { ({ u with cores := t.cores, lats := t.lats, nextOp := t.nextOp } : State) with
          cores := s.cores, lats := s.lats, nextOp := s.nextOp } := rfl
    _ = s := by rw [k.rest, h.rest]
  core c := calc
    { u.core c with tlb := (s.core c).tlb, lines := (s.core c).lines }
    _ = { ({ u.core c with tlb := (t.core c).tlb, lines := (t.core c).lines } : Core) with
          tlb := (s.core c).tlb, lines := (s.core c).lines } := rfl
    _ = s.core c := by rw [k.core, h.core]

theorem requested_modCore (s : State) (c : Nat) {f : Core → Core}
    (keep : ∀ C : Core, { f C with tlb := C.tlb, lines := C.lines } = C) : Requested s (s.modCore c f) := by
  refine ⟨rfl, fun d => ?_⟩
  rw [State.core_modCore]
  split
  · next same =>
    subst same
    exact keep (s.core c)
  · rfl

theorem requested_request (s : State) (I : Issue) (op : Nat) (vol : Bool) (lines : List (Nat × Nat)) :
    Requested s (s.request I op vol lines) := by
  have served : Requested s (s.serveLines I.core I.x (lines.map (·.1)).eraseDups) :=
    requested_modCore s I.core (by intro C; rfl)
  unfold State.request
  generalize s.serveLines I.core I.x (lines.map (·.1)).eraseDups = t at served ⊢
  refine served.trans ?_
  unfold State.lineRequests
  dsimp only
  split
  · exact .refl t
  · refine List.foldlRecOn (motive := Requested t) _ _ (.refl t) fun u h ln _ => h.trans ?_
    have counted := requested_modCore u I.core
      (f := fun C => { C with lines := tset C.lines I.x (tget (u.core I.core).lines I.x 0 + 1) }) (by intro C; rfl)
    split
    · exact .trans counted ⟨rfl, fun _ => rfl⟩
    · exact counted

theorem Requested.group? {s t : State} (h : Requested s t) (c g : Nat) : t.group? c g = s.group? c g := by
  rw [State.group?, State.group?, (congrArg Core.groups (h.core c) :)]

/-- An instruction without a covered fibre requests no line. -/
theorem State.request_nil (s : State) (I : Issue) (op : Nat) (vol : Bool) : s.request I op vol [] = s.serveLines I.core I.x [] := by
  unfold State.request State.lineRequests
  cases vol
  all_goals
    dsimp only [List.eraseDups_nil, List.map_nil]
    split <;> rfl

/-! ## States that agree on memory -/

/-- Addresses answer alike in `s` and `t`, and hold the same bytes. -/
structure AgreeOnMemory (s t : State) : Prop where
  reach : ∀ pa, t.reach pa = s.reach pa
  bad   : ∀ pa n, t.bad pa n = s.bad pa n
  own   : ∀ pa, t.ownAddr pa = s.ownAddr pa
  mem   : t.mem = s.mem

theorem AgreeOnMemory.refl (s : State) : AgreeOnMemory s s := ⟨fun _ => rfl, fun _ _ => rfl, fun _ => rfl, rfl⟩

theorem AgreeOnMemory.trans {s t u : State} (h : AgreeOnMemory s t) (k : AgreeOnMemory t u) : AgreeOnMemory s u :=
  ⟨fun pa => (k.reach pa).trans (h.reach pa), fun pa n => (k.bad pa n).trans (h.bad pa n),
    fun pa => (k.own pa).trans (h.own pa), k.mem.trans h.mem⟩

theorem AgreeOnMemory.rd {s t : State} (h : AgreeOnMemory s t) (pa n : Nat) : t.rd pa n = s.rd pa n := by
  rw [State.rd, State.rd, h.mem, h.own]

theorem AgreeOnMemory.badUnder {s t : State} (h : AgreeOnMemory s t) (held : List HeldStore) (pa n : Nat) :
    t.badUnder held pa n = s.badUnder held pa n := by
  simp only [State.badUnder, h.bad]

theorem Requested.agree {s t : State} (h : Requested s t) : AgreeOnMemory s t :=
  ⟨fun pa => (congrArg (fun u : State => u.reach pa) h.rest :), fun pa n => (congrArg (fun u : State => u.bad pa n) h.rest :),
    fun pa => (congrArg (fun u : State => u.ownAddr pa) h.rest :), (congrArg State.mem h.rest :)⟩

theorem agree_slot (F : Form) (s : State) (I : Issue) : AgreeOnMemory s (F.slot s I) :=
  ⟨fun _ => rfl, fun _ _ => rfl, fun _ => rfl, rfl⟩

/-! ## Accesses fibre by fibre -/

/-- What is done for each of some fibres in turn, with their answers. -/
def laneSteps (q : State → Nat → State × LaneOut) (ls : List Nat) (s : State) (outs : List LaneOut) : State × List LaneOut :=
  ls.foldl (fun (u : State × List LaneOut) l => ((q u.1 l).1, u.2 ++ [(q u.1 l).2])) (s, outs)

/-- Every answer has a property that each step gives. -/
theorem laneSteps_outs {q : State → Nat → State × LaneOut} {p : LaneOut → Prop} (each : ∀ u l, p (q u l).2) (ls : List Nat)
    (s : State) (outs : List LaneOut) (before : ∀ o ∈ outs, p o) : ∀ o ∈ (laneSteps q ls s outs).2, p o := by
  induction ls generalizing s outs with
  | nil => exact before
  | cons l ls ih =>
    refine ih (q s l).1 (outs ++ [(q s l).2]) fun o ho => ?_
    rcases List.mem_append.1 ho with ho | ho
    · exact before o ho
    · rw [List.mem_singleton.1 ho]
      exact each s l

/-- Steps that keep an invariant and answer alike wherever it holds. -/
theorem laneSteps_eq {q : State → Nat → State × LaneOut} {inv : State → Prop} {f : Nat → LaneOut} {ls : List Nat}
    (keeps : ∀ u, inv u → ∀ l ∈ ls, inv (q u l).1 ∧ (q u l).2 = f l) (s : State) (outs : List LaneOut) (start : inv s) :
    inv (laneSteps q ls s outs).1 ∧ (laneSteps q ls s outs).2 = outs ++ ls.map f := by
  induction ls generalizing s outs with
  | nil => exact ⟨start, (List.append_nil outs).symm⟩
  | cons l ls ih =>
    obtain ⟨next, out⟩ := keeps s start l List.mem_cons_self
    have rest := ih (fun u h m hm => keeps u h m (List.mem_cons_of_mem l hm)) (q s l).1 (outs ++ [(q s l).2]) next
    rw [out, List.append_assoc] at rest
    rw [laneSteps, List.foldl_cons, ← laneSteps, List.map_cons]
    rw [← out] at rest ⊢
    exact rest

/-- Without a far target an instruction goes on. -/
theorem farWait_near {I : Issue} {r : State × List LaneOut} (near : ∀ o ∈ r.2, o.far = none) : farWait I r = .go r.1 r.2 := by
  unfold farWait
  rw [List.filterMap_eq_nil_iff.2 fun o ho => by rw [near o ho]; rfl]

/-- A load for one fibre, by what covers its access. -/
def loadStep (I : Issue) (d n : Nat) (step : State → Nat → Nat → Nat → State × LaneOut) (u : State × List LaneOut)
    (e : Nat × Cover) : State × List LaneOut :=
  match e.2 with
  | .trap t => (u.1, u.2 ++ [{ lane := e.1, trap := some t }])
  | .dropped => (u.1, u.2 ++ [{ lane := e.1, writes := wregs e.1 d (List.replicate n 0) }])
  | .hit pva pa =>
    match u.1.reach pa with
    | .late => (u.1, u.2 ++ [{ lane := e.1, far := some (pva, lineOf pa) }])
    | .now => (u.1.noteLine I.x (srcCore I.core) pa 1, u.2 ++ [{ lane := e.1, trap := some (mkTrap fcPoison 0 pva) }])
    | .ok => ((step u.1 e.1 pva pa).1, u.2 ++ [(step u.1 e.1 pva pa).2])

theorem loadRun_eq (I : Issue) (s : State) (op d n : Nat) (vol : Bool) (cs : List (Nat × Cover))
    (step : State → Nat → Nat → Nat → State × LaneOut) : loadRun op vol d n cs step I s =
      farWait I (cs.foldl (loadStep I d n step) (s.request I op vol (accessLines s cs), [])) := rfl

theorem loadStep_hit {I : Issue} {d n : Nat} {step : State → Nat → Nat → Nat → State × LaneOut} {u : State} {l pva pa : Nat}
    (outs : List LaneOut) (reach : u.reach pa = .ok) : loadStep I d n step (u, outs) (l, .hit pva pa) =
      ((step u l pva pa).1, outs ++ [(step u l pva pa).2]) := by
  simp only [loadStep, reach]

section
variable {I : Issue} {op d n : Nat} {vol : Bool} {step : State → Nat → Nat → Nat → State × LaneOut}
  {q : State → Nat → State × LaneOut} {inv : State → Prop} {cover : Nat → Cover} {pva pa : Nat → Nat}

theorem loadSteps_hits {ls : List Nat} (hits : ∀ l ∈ ls, cover l = .hit (pva l) (pa l))
    (steps : ∀ u, inv u → ∀ l ∈ ls, u.reach (pa l) = .ok ∧ step u l (pva l) (pa l) = q u l ∧ inv (q u l).1)
    (u : State) (outs : List LaneOut) (start : inv u) :
    (ls.map fun l => (l, cover l)).foldl (loadStep I d n step) (u, outs) = laneSteps q ls u outs := by
  induction ls generalizing u outs with
  | nil => rfl
  | cons l ls ih =>
    obtain ⟨reach, same, next⟩ := steps u start l List.mem_cons_self
    rw [List.map_cons, List.foldl_cons, hits l List.mem_cons_self, loadStep_hit outs reach, same,
      ih (fun m hm => hits m (List.mem_cons_of_mem l hm)) (fun v h m hm => steps v h m (List.mem_cons_of_mem l hm)) _ _ next]
    rfl

/-- A load all of whose fibres are covered at addresses that answer does its step for each. -/
theorem loadRun_hits {s : State} (hits : ∀ l ∈ I.act, cover l = .hit (pva l) (pa l))
    (start : inv (s.request I op vol (accessLines s (I.act.map fun l => (l, cover l)))))
    (steps : ∀ u, inv u → ∀ l ∈ I.act, u.reach (pa l) = .ok ∧ step u l (pva l) (pa l) = q u l ∧ inv (q u l).1)
    (near : ∀ u l, (q u l).2.far = none) :
    loadRun op vol d n (I.act.map fun l => (l, cover l)) step I s =
      let r := laneSteps q I.act (s.request I op vol (accessLines s (I.act.map fun l => (l, cover l)))) []
      .go r.1 r.2 := by
  rw [loadRun_eq, loadSteps_hits hits steps _ _ start]
  exact farWait_near (laneSteps_outs near _ _ _ fun _ h => by cases h)

end

theorem State.readSeen_agree (s : State) (p : Party) (vol : Bool) (scr : Option Scr) (a n : Nat) :
    AgreeOnMemory s (s.readSeen p vol scr a n).1 := by
  obtain ⟨l, ks, e⟩ := s.readSeen_frame p vol scr a n
  rw [e]
  exact ⟨fun _ => rfl, fun _ _ => rfl, fun _ => rfl, rfl⟩

/-! ## Loads -/

section
variable {d a : BitVec 7} {sf : BitVec 4} {w : BitVec 2} {k c : BitVec 3} {s : State} {I : Issue} {F : Form}

/-- The bytes that a fibre of a load gives its registers, as its party reads them. -/
def Issue.loadLane (I : Issue) (d n : Nat) (vol : Bool) (pa : Nat → Nat) (u : State) (l : Nat) : State × LaneOut :=
  let q := u.readSeen I.party vol none (pa l) n
  (q.1, { lane := l, writes := wregs l d (loadWords n (overlay I.G.held none (pa l) q.2)) })

/-- A load of covered fibres at addresses that answer reads for each in turn. -/
theorem exec_ldg_hits (hF : formOf (.ldg d a sf w k c) s = some F) (ready : Ready F s I) {pva pa : Nat → Nat}
    (hits : ∀ l ∈ I.act, accessLane I (s.pulses I.core) sf.toNat l (I.R.v l a.toNat).toNat (4 * 2 ^ w.toNat) false none =
      .hit (pva l) (pa l))
    (sound : ∀ l ∈ I.act, s.reach (pa l) = .ok ∧ s.badUnder I.G.held (pa l) (4 * 2 ^ w.toNat) = false) :
    let at_ (l : Nat) := accessLane I (s.pulses I.core) sf.toNat l (I.R.v l a.toNat).toNat (4 * 2 ^ w.toNat) false none
    let r := laneSteps (I.loadLane d.toNat (4 * 2 ^ w.toNat) (k == 2) pa) I.act
      ((F.slot s I).request I 0 (k == 2) (accessLines (F.slot s I) (I.act.map fun l => (l, at_ l)))) []
    exec (.ldg d a sf w k c) s = .next (r.1.finish I none r.2) := by
  intro at_ r
  have requested := (agree_slot F s I).trans
    (requested_request (F.slot s I) I 0 (k == 2) (accessLines (F.slot s I) (I.act.map fun l => (l, at_ l)))).agree
  cases hF
  simp only [exec_ldg, execLdg]
  refine (issue_ready _ ready).trans ?_
  refine (congrArg (Result.out _ I) (loadRun_hits (inv := AgreeOnMemory s) hits requested
    (q := I.loadLane d.toNat (4 * 2 ^ w.toNat) (k == 2) pa) (fun u agree l hl => ?_) fun _ _ => rfl)).trans rfl
  obtain ⟨reach, good⟩ := sound l hl
  refine ⟨(agree.reach _).trans reach, ?_, agree.trans (State.readSeen_agree ..)⟩
  rw [agree.badUnder, good]
  rfl

end

end Sys2Proof.Machine
end

section
/-!
SUPPORT. What the answers of loads leave, and the statement of loads (O23).
-/

namespace Sys2Proof.Machine

theorem mem_wregs {l n : Nat} {ws : List Word} {w : RegRef × Word} :
    w ∈ wregs l n ws ↔ ∃ i < ws.length, w = (.v l (n + i), ws.getD i 0) := by
  rw [wregs, List.mem_map]
  constructor
  · rintro ⟨⟨x, i⟩, h, rfl⟩
    obtain ⟨small, e⟩ := List.getElem?_eq_some_iff.1 (List.mem_zipIdx_iff_getElem?.1 h)
    exact ⟨i, small, by rw [List.getD_eq_getElem _ _ small, e]⟩
  · rintro ⟨i, small, rfl⟩
    refine ⟨(ws[i], i), List.mem_zipIdx_iff_getElem?.2 (List.getElem?_eq_getElem small), ?_⟩
    simp [List.getD_eq_getElem?_getD, small]

/-- The answers by which each active fibre loads some words. -/
def Issue.loads (I : Issue) (d : Nat) (ws : Nat → List Word) : List LaneOut :=
  I.act.map fun l => { lane := l, writes := wregs l d (ws l) }

/-- What the group of an instruction that loads words is afterwards, seen from the group `G` before. -/
structure Loaded (I : Issue) (d : Nat) (ws : Nat → List Word) (G H : Group) : Prop where
  loaded  : ∀ l ∈ I.act, ∀ i < (ws l).length, H.v l (d + i) = (ws l).getD i 0
  kept    : ∀ l r, (l ∉ I.act ∨ r < d ∨ d + (ws l).length ≤ r) → H.v l r = G.v l r
  preds   : ∀ l r, H.p l r = G.p l r
  scalars : ∀ r, H.s r = G.s r
  flags   : H.fpflags = G.fpflags
  pcs     : ∀ l ∈ I.lanes, (H.lane l).pc = I.pc + 4

section
variable {I : Issue} {d : Nat} {ws : Nat → List Word} (sub : ∀ l ∈ I.act, l ∈ I.lanes)
include sub

theorem Issue.mem_writes_loads {w : RegRef × Word} :
    w ∈ I.writes (I.loads d ws) ↔ ∃ l ∈ I.act, ∃ i < (ws l).length, w = (.v l (d + i), (ws l).getD i 0) := by
  rw [Issue.loads, Issue.mem_writes_map (fun _ => rfl) sub]
  simp only [mem_wregs]

theorem Issue.loads_loaded (G : Group) : Loaded I d ws G ((G.writeVar (I.allWrites (I.loads d ws))).goOn I (I.loads d ws)) where
  loaded l hl i small := by
    rw [Group.goOn_v]
    refine Group.writeVar_sets (w := (.v l (d + i), (ws l).getD i 0)) (readsReg_v l (d + i)) (fun H => H.v_write1_v ..)
      (by simp [RegRef.whole]) ((Issue.mem_writes_loads sub).2 ⟨l, hl, i, small, rfl⟩) (fun u hu same => ?_) G
    obtain ⟨m, -, j, -, rfl⟩ := (Issue.mem_writes_loads sub).1 hu
    obtain ⟨rfl, e⟩ := RegRef.v.inj same
    obtain rfl : j = i := by omega
    rfl
  kept l r free := by
    rw [Group.goOn_v]
    refine Group.writeVar_keeps (readsReg_v l r) (by simp) (fun w hw same => ?_) G
    obtain ⟨m, hm, j, small, rfl⟩ := (Issue.mem_writes_loads sub).1 hw
    obtain ⟨rfl, e⟩ := RegRef.v.inj same
    rcases free with away | low | high
    · exact away hm
    · omega
    · omega
  preds l r := by
    rw [Group.goOn_p]
    refine Group.writeVar_keeps (readsReg_p l r) (by simp) (fun w hw same => ?_) G
    obtain ⟨m, -, j, -, rfl⟩ := (Issue.mem_writes_loads sub).1 hw
    cases same
  scalars r := by
    rw [Group.goOn_s]
    refine Group.writeVar_keeps (readsReg_s r) (by simp) (fun w hw same => ?_) G
    obtain ⟨m, -, j, -, rfl⟩ := (Issue.mem_writes_loads sub).1 hw
    cases same
  flags := by
    rw [Group.goOn_keeps (·.fpflags) fun _ _ _ => rfl, Group.writeVar_fpflags, Issue.loads, Issue.flags_map (fun _ => rfl) fun _ => rfl]
    · simp
    · rintro w hw
      obtain ⟨m, -, j, -, rfl⟩ := (Issue.mem_writes_loads sub).1 hw
      simp
  pcs l hl := by
    rw [Group.goOn_lane, if_pos hl, Issue.loads, outOf_map fun _ => rfl]
    split <;> rfl

end

theorem goesOn_loads (I : Issue) (d : Nat) (ws : Nat → List Word) : GoesOn (I.loads d ws) := by
  intro o ho
  obtain ⟨l, -, rfl⟩ := List.mem_map.1 ho
  exact ⟨rfl, rfl, rfl⟩

theorem Issue.Lives.some_live {I : Issue} {s : State} (lives : I.Lives) (issuer : s.issuer = some I) {P : Group}
    (same : ∀ l, P.lane l = I.G.lane l) : ∃ l, l < 32 ∧ (P.lane l).live = true := by
  obtain ⟨-, some_lane, small⟩ := State.issuer_group issuer
  obtain ⟨l, hl⟩ := List.exists_mem_of_ne_nil _ some_lane
  exact ⟨l, small l hl, by rw [same]; exact lives l hl⟩

/-- A party that has seen every store reads memory and leaves the state. -/
theorem State.readSeen_all {s : State} {p : Party} (all : ∀ e ∈ s.past, p ∉ e.unseen) (vol : Bool) (scr : Option Scr) (a n : Nat) :
    (s.readSeen p vol scr a n).1 = s := by
  unfold State.readSeen
  extract_lets newest at_ r
  rw [if_neg]
  intro hidden
  obtain ⟨e, he, both⟩ := List.any_eq_true.1 hidden
  rw [Bool.and_eq_true, List.contains_iff_mem] at both
  exact all e he both.2

/-- A group with no hidden store, or a volatile load, loads what memory holds. -/
structure LoadsNewest (s u : State) (p : Party) (vol : Bool) : Prop where
  agree  : AgreeOnMemory s u
  seen   : vol = true ∨ ∀ e ∈ u.past, p ∉ e.unseen
  delays : u.delays = s.delays
  groups : ∀ c g, u.group? c g = s.group? c g

theorem LoadsNewest.readSeen {s u : State} {p : Party} {vol : Bool} (h : LoadsNewest s u p vol) (pa n : Nat) :
    LoadsNewest s (u.readSeen p vol none pa n).1 p vol ∧ (u.readSeen p vol none pa n).2 = s.rd pa n := by
  obtain ⟨agree, seen, delays, groups⟩ := h
  refine ⟨⟨agree.trans (State.readSeen_agree ..), seen.imp_right fun all => ?_, ?_, fun c g => ?_⟩, ?_⟩
  · rw [State.readSeen_all all]
    exact all
  · obtain ⟨_, _, e⟩ := u.readSeen_frame p vol none pa n
    rw [e]
    exact delays
  · rw [State.readSeen_group?, groups]
  · rw [State.readSeen_newest _ _ _ _ _ seen, agree.rd]

theorem Requested.loadsNewest {s t : State} {p : Party} {vol : Bool} (h : Requested s t)
    (seen : vol = true ∨ ∀ e ∈ s.past, p ∉ e.unseen) : LoadsNewest s t p vol where
  agree := h.agree
  seen := by
    rw [(congrArg State.past h.rest :)]
    exact seen
  delays := (congrArg State.delays h.rest :)
  groups := h.group?

theorem lookBack_one {p : Party} {scr : Option Scr} {a n : Nat} {e : Past} (hits : e.hits scr a n = true)
    (unseen : e.unseen.contains p = true) (k : Nat) (bs : List Byte) : lookBack p scr a n k [e] bs =
      if k = 0 then ([{ e with unseen := e.unseen.filter (· != p) }], bs) else ([e], e.undo a bs) := by
  cases k with
  | zero => simp only [lookBack, hits, Bool.not_true, Nat.lt_irrefl, decide_false, Bool.false_and, Bool.false_eq_true, if_false, if_true]
  | succ k => simp only [lookBack, hits, unseen, Nat.succ_pos, decide_true, Bool.and_self, Bool.not_true, Bool.false_eq_true, if_false, if_true, Nat.succ_ne_zero]

/-- What a party reads over one store that it has not seen, and what it has seen afterwards (R311, R312). -/
theorem State.readSeen_one {s : State} {p : Party} {pa n : Nat} {e : Past} (past : s.past = [e])
    (hits : e.hits none (s.ownAddr pa) n = true) (unseen : p ∈ e.unseen) :
    s.readSeen p false none pa n =
      if s.backs.headD 0 = 0 then
        ({ s with past := unseenOnly [{ e with unseen := e.unseen.filter (· != p) }], backs := s.backs.drop 1 }, s.rd pa n)
      else ({ s with past := unseenOnly [e], backs := s.backs.drop 1 }, e.undo (s.ownAddr pa) (s.rd pa n)) := by
  have hidden : e.unseen.contains p = true := List.contains_iff_mem.2 unseen
  unfold State.readSeen
  extract_lets newest at_ r
  have any : (s.past.any fun e => e.hits none at_ n && e.unseen.contains p) = true := by
    rw [past, List.any_cons, hidden, Bool.and_true]
    exact Bool.or_eq_true_iff.2 (.inl hits)
  have look : r = lookBack p none (s.ownAddr pa) n (s.backs.headD 0) [e] (s.rd pa n) := by
    rw [← past]
    rfl
  rw [if_pos any, look, lookBack_one hits hidden]
  split <;> rfl

/-! ## Accesses that no entry covers -/

/-- An aligned access within the record that no touch entry covers (R117). -/
theorem accessLane_uncovered {I : Issue} {pulses slot l idx n : Nat} {write : Bool} (bare : I.G.touches = [])
    (within : idx * (I.T.rec_ slot).stride + n ≤ (I.T.rec_ slot).extent)
    (align : ((I.T.rec_ slot).base + idx * (I.T.rec_ slot).stride) % n = 0) :
    accessLane I pulses slot l idx n write none = .trap (mkTrap 9 0 ((I.T.rec_ slot).base + idx * (I.T.rec_ slot).stride)) := by
  have place : (I.T.rec_ slot).place idx n = .ok (some ((I.T.rec_ slot).base + idx * (I.T.rec_ slot).stride,
      swizzle ((I.T.rec_ slot).base + idx * (I.T.rec_ slot).stride) (I.T.rec_ slot).swz)) := by
    simp only [Rec.place, align, if_neg (by omega : ¬(I.T.rec_ slot).extent < idx * (I.T.rec_ slot).stride + n)]
    rfl
  simp only [accessLane, place, Group.cover, bare, List.reverse_nil, List.findSome?_nil]
  rfl

/-- Fibres of which none is covered request nothing. -/
theorem accessLines_uncovered {s : State} {ls : List Nat} {cover : Nat → Cover} {t : Nat → Trap}
    (bare : ∀ l ∈ ls, cover l = .trap (t l)) : accessLines s (ls.map fun l => (l, cover l)) = [] := by
  rw [accessLines, List.filterMap_eq_nil_iff]
  intro e he
  obtain ⟨l, hl, rfl⟩ := List.mem_map.1 he
  dsimp only
  rw [bare l hl]

/-- A load all of whose fibres are uncovered traps in each. -/
theorem loadRun_uncovered {I : Issue} {s : State} {op d n : Nat} {vol : Bool}
    {step : State → Nat → Nat → Nat → State × LaneOut} {cover : Nat → Cover} {t : Nat → Trap}
    (bare : ∀ l ∈ I.act, cover l = .trap (t l)) :
    loadRun op vol d n (I.act.map fun l => (l, cover l)) step I s =
      .go (s.serveLines I.core I.x []) (I.act.map fun l => { lane := l, trap := some (t l) }) := by
  have folds : ∀ (ls : List Nat) (u : State) (outs : List LaneOut), (∀ l ∈ ls, cover l = .trap (t l)) →
      (ls.map fun l => (l, cover l)).foldl (loadStep I d n step) (u, outs) =
        (u, outs ++ ls.map fun l => { lane := l, trap := some (t l) }) := by
    intro ls
    induction ls with
    | nil => exact fun u outs _ => by rw [List.map_nil, List.map_nil, List.append_nil]; rfl
    | cons l ls ih =>
      intro u outs traps
      have first : loadStep I d n step (u, outs) (l, cover l) = (u, outs ++ [{ lane := l, trap := some (t l) }]) := by
        rw [traps l List.mem_cons_self]
        rfl
      rw [List.map_cons, List.foldl_cons, first, ih _ _ fun m hm => traps m (List.mem_cons_of_mem l hm), List.append_assoc]
      rfl
  rw [loadRun_eq, accessLines_uncovered bare, State.request_nil, folds I.act _ _ bare, farWait_near]
  · rfl
  · intro o ho
    obtain ⟨l, -, rfl⟩ := List.mem_map.1 ho
    rfl

/-! ## Stores, fibre by fibre -/

/-- A store for one fibre, by what covers its access. -/
def storeStep (I : Issue) (kind : StoreKind) (d n : Nat) (u : State) (e : Nat × Cover) : State :=
  match e.2 with
  | .hit _ pa => u.storeBytes I kind pa (storeData I.R e.1 d n)
  | _ => u

/-- The trap of a fibre whose store is refused. -/
def storeTrap (e : Nat × Cover) : Option LaneOut :=
  match e.2 with
  | .trap t => some { lane := e.1, trap := some t }
  | _ => none

theorem exec_stg_ready {d a : BitVec 7} {sf : BitVec 4} {w : BitVec 2} {k c : BitVec 3} {s : State} {I : Issue} {F : Form}
    (hF : formOf (.stg d a sf w k c) s = some F) (ready : Ready F s I) :
    let cs := I.act.map fun l => (l, accessLane I (s.pulses I.core) sf.toNat l (I.R.v l a.toNat).toNat (4 * 2 ^ w.toNat) true none)
    exec (.stg d a sf w k c) s = .next ((cs.foldl
      (storeStep I (classKind k I.hv.relax (I.T.rec_ sf.toNat).sobj I.hv.scope) d.toNat (4 * 2 ^ w.toNat))
      ((F.slot s I).request I 1 (k == 2) (accessLines (F.slot s I) cs))).finish I none (cs.filterMap storeTrap)) := by
  cases hF
  simp only [exec_stg, execStg]
  exact (issue_ready _ ready).trans rfl

/-! ## The statement of loads -/

section
variable {d a : BitVec 7} {sf : BitVec 4} {w : BitVec 2} {k c : BitVec 3} {s : State} {I : Issue} {F : Form}

/-- A load that finds the newest bytes loads them. -/
theorem exec_ldg_loads (hF : formOf (.ldg d a sf w k c) s = some F) (ready : Ready F s I) (lives : I.Lives) {pva pa : Nat → Nat}
    (hits : ∀ l ∈ I.act, accessLane I (s.pulses I.core) sf.toNat l (I.R.v l a.toNat).toNat (4 * 2 ^ w.toNat) false none =
      .hit (pva l) (pa l))
    (sound : ∀ l ∈ I.act, s.reach (pa l) = .ok ∧ s.badUnder I.G.held (pa l) (4 * 2 ^ w.toNat) = false)
    (now : s.delays.headD 0 = 0) (newest : (k == 2) = true ∨ ∀ e ∈ s.past, I.party ∉ e.unseen) :
    ∃ t H, exec (.ldg d a sf w k c) s = .next t ∧ t.group? I.core I.g = some H ∧
      Loaded I d.toNat (fun l => loadWords (4 * 2 ^ w.toNat) (overlay I.G.held none (pa l) (s.rd (pa l) (4 * 2 ^ w.toNat)))) I.G H ∧
      t.mem = s.mem ∧ ∀ x g, ¬(x = I.core ∧ g = I.g) → t.group? x g = s.group? x g := by
  have goes := exec_ldg_hits hF ready hits sound
  dsimp only at goes
  have requested := requested_request (F.slot s I) I 0 (k == 2) (accessLines (F.slot s I) (I.act.map fun l =>
    (l, accessLane I (s.pulses I.core) sf.toNat l (I.R.v l a.toNat).toNat (4 * 2 ^ w.toNat) false none)))
  have first := requested.loadsNewest (p := I.party) (vol := k == 2) newest
  obtain ⟨last, outs⟩ := laneSteps_eq (q := I.loadLane d.toNat (4 * 2 ^ w.toNat) (k == 2) pa)
    (inv := fun u => LoadsNewest (F.slot s I) u I.party (k == 2)) (ls := I.act)
    (f := fun l => { lane := l, writes := wregs l d.toNat (loadWords (4 * 2 ^ w.toNat)
      (overlay I.G.held none (pa l) (s.rd (pa l) (4 * 2 ^ w.toNat)))) })
    (fun u newest l hl => by
      obtain ⟨next, bytes⟩ := newest.readSeen (pa l) (4 * 2 ^ w.toNat)
      refine ⟨next, ?_⟩
      rw [Issue.loadLane, bytes, (agree_slot F s I).rd]) _ [] first
  rw [outs, List.nil_append] at goes
  generalize (laneSteps _ _ _ _).1 = u at last goes
  have sub : ∀ l ∈ I.act, l ∈ I.lanes := fun l => State.act_lanes ready.issuer
  have hP := (last.groups I.core I.g).trans (State.group?_slot F ready.issuer)
  obtain ⟨hH, frame⟩ := State.finish_lands (goesOn_loads I d.toNat _) (State.lateness_now (by rw [last.delays]; exact now) ..) hP
    (lives.some_live ready.issuer fun _ => rfl)
  refine ⟨_, _, goes, hH, ?_, frame.mem.trans last.agree.mem, fun x g other => ?_⟩
  · have loaded := Issue.loads_loaded (ws := fun l => loadWords (4 * 2 ^ w.toNat)
      (overlay I.G.held none (pa l) (s.rd (pa l) (4 * 2 ^ w.toNat)))) (d := d.toNat) sub (F.slotGroup s I)
    exact ⟨loaded.loaded, loaded.kept, loaded.preds, loaded.scalars, loaded.flags, loaded.pcs⟩
  · exact (frame.groups x g other).trans ((last.groups x g).trans ((elsewhere_account ..).groups x g other))

end

/-- Settles O23. -/
theorem loadsReadMemory : Obligations.LoadsReadMemory := by
  unfold Obligations.LoadsReadMemory
  refine ⟨?_, ?_, ?_, ?_⟩
  · intro d a sf w k c s I F hF ready lives n at_ hits now newest
    choose! pva pa hit reach good using hits
    have four : 4 ≤ n := Nat.le_mul_of_pos_right 4 (Nat.two_pow_pos _)
    have words (l : Nat) : (loadWords n (overlay I.G.held none (pa l) (s.rd (pa l) n))).length = 2 ^ w.toNat := by
      rw [loadWords_length _ four]
      exact Nat.mul_div_cancel_left _ (by decide)
    obtain ⟨t, H, goes, hH, loaded, mem, others⟩ := exec_ldg_loads hF ready lives hit (fun l hl => ⟨reach l hl, good l hl⟩) now
      (newest.imp_left beq_iff_eq.2)
    refine ⟨t, H, goes, hH, fun l hl pva' pa' there j small => ?_, fun l r free => loaded.kept l r ?_, loaded.preds, loaded.scalars,
      loaded.flags, loaded.pcs, mem, others⟩
    · cases (hit l hl).symm.trans there
      rw [loaded.loaded l hl (j / 4) (by rw [words]; omega), loadWords_byte _ (Nat.mul_mod_right 4 _) small]
    · rwa [words]
  · intro d a sf w k c s I F pa hF ready n at_ hits r
    choose! pva hit reach good using hits
    exact exec_ldg_hits hF ready hit fun l hl => ⟨reach l hl, good l hl⟩
  · intro s p vol pa n
    refine ⟨State.readSeen_newest s p vol pa n, fun e past hits unseen quick => ?_⟩
    subst quick
    have reads := State.readSeen_one past hits unseen
    rw [reads]
    by_cases newest : s.backs.headD 0 = 0
    · simp only [if_pos newest]
      refine ⟨trivial, fun _ f hf => ?_, trivial⟩
      rw [List.mem_singleton.1 (List.mem_filter.1 hf).1]
      simp
    · simp only [if_neg newest]
      exact ⟨trivial, fun zero => absurd zero newest, trivial⟩
  · intro i s I F d a sf w k c hF ready names bare n at_ rec_ within
    have traps : ∀ (write : Bool), ∀ l ∈ I.act, accessLane I (s.pulses I.core) sf.toNat l (at_ l) n write none =
        .trap (mkTrap 9 0 (rec_.base + at_ l * rec_.stride)) :=
      fun write l hl => accessLane_uncovered bare (within l hl).1 (within l hl).2
    rcases names with rfl | rfl
    · cases hF
      simp only [exec_ldg, execLdg]
      refine (issue_ready _ ready).trans ?_
      refine (congrArg (Result.out _ I) (loadRun_uncovered (traps false))).trans rfl
    · rw [exec_stg_ready hF ready, accessLines_uncovered (traps true), State.request_nil, List.foldl_map, List.filterMap_map]
      refine congrArg Host.Outcome.next (congrArg₂ (fun u outs => State.finish u I none outs) ?_ ?_)
      · refine List.foldlRecOn (motive := (· = _)) _ _ rfl fun u same l hl => ?_
        rw [traps true l hl]
        exact same
      · rw [← List.filterMap_eq_map]
        refine List.filterMap_congr fun l hl => ?_
        rw [Function.comp_apply, traps true l hl]
        rfl

end Sys2Proof.Machine
end

section
/-!
SUPPORT. Stores to memory, fibre by fibre (O25).
-/

namespace Sys2Proof.Machine

/-! ## Writes in turn -/

/-- Memory behind writes in turn, each at an address. -/
def Memory.writes (m : List Host.Cell) (ws : List (Nat × List Byte)) : List Host.Cell :=
  ws.foldl (fun m w => Memory.writeList m w.1 w.2) m

/-- The write covers the address. -/
def covers (w : Nat × List Byte) (x : Nat) : Prop := w.1 ≤ x ∧ x < w.1 + w.2.length

theorem Memory.read_writes_outside (m : List Host.Cell) (ws : List (Nat × List Byte)) (x : Nat) (free : ∀ w ∈ ws, ¬covers w x) :
    Memory.read (Memory.writes m ws) x = Memory.read m x := by
  induction ws generalizing m with
  | nil => rfl
  | cons w ws ih =>
    refine (ih _ fun v hv => free v (List.mem_cons_of_mem w hv)).trans ?_
    exact (Memory.read_writeList ..).trans (if_neg (free w List.mem_cons_self))

/-- The last write that covers an address gives its byte. -/
theorem Memory.read_writes_last (m : List Host.Cell) (as : List (Nat × List Byte)) (w : Nat × List Byte)
    (bs : List (Nat × List Byte)) (x : Nat) (here : covers w x) (later : ∀ v ∈ bs, ¬covers v x) :
    Memory.read (Memory.writes m (as ++ w :: bs)) x = w.2.getD (x - w.1) 0 := by
  rw [Memory.writes, List.foldl_append, List.foldl_cons, ← Memory.writes, ← Memory.writes, Memory.read_writes_outside _ bs x later]
  exact (Memory.read_writeList ..).trans (if_pos here)

/-! ## Bytes of registers -/

theorem leBytes_length (n v : Nat) : (leBytes n v).length = n := by
  induction n generalizing v with
  | zero => rfl
  | succ n ih => rw [leBytes, List.length_cons, ih]

theorem leBytes_getD (n v : Nat) {i : Nat} (small : i < n) : (leBytes n v).getD i 0 = BitVec.ofNat 8 (v / 2 ^ (8 * i)) := by
  induction n generalizing v i with
  | zero => omega
  | succ n ih =>
    cases i with
    | zero => simp [leBytes]
    | succ i =>
      rw [leBytes, List.getD_cons_succ, ih _ (by omega), Nat.div_div_eq_div_mul, Nat.mul_succ, Nat.add_comm, pow_add]
      rfl

theorem wordsBytes_length (ws : List Word) : (wordsBytes ws).length = 4 * ws.length := by
  induction ws with
  | nil => rfl
  | cons w ws ih =>
    rw [wordsBytes, List.flatMap_cons, List.length_append, leBytes_length, ← wordsBytes, ih, List.length_cons]
    omega

theorem wordsBytes_getD (ws : List Word) {j : Nat} (small : j < 4 * ws.length) :
    (wordsBytes ws).getD j 0 = (ws.getD (j / 4) 0).extractLsb' (8 * (j % 4)) 8 := by
  induction ws generalizing j with
  | nil => simp at small
  | cons w ws ih =>
    rw [wordsBytes, List.flatMap_cons, ← wordsBytes]
    by_cases first : j < 4
    · rw [List.getD_append _ _ _ _ (by rw [leBytes_length]; exact first), leBytes_getD _ _ first, show j / 4 = 0 by omega,
        List.getD_cons_zero, Nat.mod_eq_of_lt first]
      refine BitVec.eq_of_toNat_eq ?_
      rw [BitVec.extractLsb'_toNat, BitVec.toNat_ofNat, Nat.shiftRight_eq_div_pow]
    · rw [List.getD_append_right _ _ _ _ (by rw [leBytes_length]; omega), leBytes_length,
        ih (by rw [List.length_cons] at small; omega), show j / 4 = (j - 4) / 4 + 1 by omega, List.getD_cons_succ,
        show j % 4 = (j - 4) % 4 by omega]

theorem storeData_length (R : Group) (l d : Nat) {n : Nat} (words : n % 4 = 0) (some_words : 4 ≤ n) :
    (storeData R l d n).length = n := by
  rw [storeData, List.length_take, wordsBytes_length, List.length_map, List.length_range]
  omega

theorem storeData_getD (R : Group) (l d : Nat) {n j : Nat} (words : n % 4 = 0) (small : j < n) :
    (storeData R l d n).getD j 0 = (R.v l (d + j / 4)).extractLsb' (8 * (j % 4)) 8 := by
  rw [storeData, List.getD_eq_getElem?_getD, List.getElem?_take, if_pos small, ← List.getD_eq_getElem?_getD, wordsBytes_getD,
    List.getD_eq_getElem _ _ (by simp; omega)]
  · simp
  · rw [List.length_map, List.length_range]
    omega

/-! ## Stores that are performed at once -/

/-- A group that holds no store performs none. -/
theorem State.performHeld_none {u : State} {c g : Nat} {P : Group} (hP : u.group? c g = some P) (bare : P.held = [])
    (p : HeldStore → Bool) : u.performHeld c g p = u.modGroup c g fun G => { G with held := G.held.filter fun _ => true } := by
  rw [State.performHeld, hP]
  simp only [bare, List.reverse_nil, chosenHeld, State.performAll, List.contains_nil, Bool.not_false]

theorem State.group?_performHeld_none {u : State} {c g : Nat} {P : Group} (hP : u.group? c g = some P) (bare : P.held = [])
    (p : HeldStore → Bool) (d h : Nat) : (u.performHeld c g p).group? d h = u.group? d h := by
  rw [State.performHeld_none hP bare, State.group?_modGroup]
  split
  · next same =>
    obtain ⟨rfl, rfl⟩ := same
    rw [hP, Option.map_some]
    congr 1
    rw [List.filter_true]
  · rfl

/-- The state while the fibres of a store act: addresses answer alike, the group is as it was, and stores are performed. -/
structure Storing (I : Issue) (kind : StoreKind) (s u : State) : Prop where
  reach  : ∀ pa, u.reach pa = s.reach pa
  own    : ∀ pa, u.ownAddr pa = s.ownAddr pa
  groups : ∀ c g, u.group? c g = s.group? c g
  stays  : kind.vol = true ∨ ∀ b ∈ u.stays, b = false

theorem StoreKind.performs {u : State} {kind : StoreKind} (plain : kind.nt = false)
    (stays : kind.vol = true ∨ ∀ b ∈ u.stays, b = false) : u.keeps kind = false := by
  rw [State.keeps, plain, Bool.false_or]
  rcases stays with vol | all
  · rw [vol]
    rfl
  · cases h : u.stays with
    | nil => simp
    | cons b bs => simp [all b (by rw [h]; exact List.mem_cons_self)]

theorem State.spendStay_eq (u : State) (kind : StoreKind) :
    ∃ bs, u.spendStay kind = { u with stays := bs } ∧ ∀ b ∈ bs, b ∈ u.stays := by
  unfold State.spendStay
  split
  · exact ⟨u.stays, rfl, fun _ h => h⟩
  · exact ⟨u.stays.drop 1, rfl, fun _ => List.mem_of_mem_drop⟩

/-- A store that is performed at once writes its bytes. -/
theorem Storing.stores {I : Issue} {kind : StoreKind} {s u : State} {P : Group} (h : Storing I kind s u)
    (hP : s.group? I.core I.g = some P) (bare : P.held = []) (plain : kind.nt = false) {pa : Nat} (answers : s.reach pa = .ok)
    (bs : List Byte) : Storing I kind s (u.storeBytes I kind pa bs) ∧
      (u.storeBytes I kind pa bs).mem = Memory.writeList u.mem (s.ownAddr pa) bs := by
  obtain ⟨reach, own, groups, stays⟩ := h
  obtain ⟨left, spent, fewer⟩ := u.spendStay_eq kind
  have hQ : (u.spendStay kind).group? I.core I.g = some P := by
    rw [spent]
    exact (groups ..).trans hP
  have drained := State.performHeld_none hQ bare fun h => h.meets none pa bs.length
  have stored : u.storeBytes I kind pa bs =
      ((u.spendStay kind).drainFor I.core I.g pa bs.length).put I.x I.party (u.storeOf I kind none pa bs) := by
    have ok := (reach pa).trans answers
    unfold State.storeBytes
    dsimp only
    rw [ok]
    dsimp only
    rw [if_neg (by rw [StoreKind.performs plain stays]; exact Bool.false_ne_true)]
  obtain ⟨past, put⟩ := State.put_frame ((u.spendStay kind).drainFor I.core I.g pa bs.length) I.x I.party
    (u.storeOf I kind none pa bs)
  have same : ((u.spendStay kind).drainFor I.core I.g pa bs.length) = _ := drained
  refine ⟨⟨fun a => ?_, fun a => ?_, fun c g => ?_, ?_⟩, ?_⟩
  · rw [stored, put, same, spent]
    exact reach a
  · rw [stored, put, same, spent]
    exact own a
  · rw [stored, (performed_put ..).group?]
    refine (State.group?_performHeld_none hQ bare ..).trans ?_
    rw [spent]
    exact groups c g
  · rw [stored, put, same, spent]
    exact stays.imp_right fun all b hb => all b (fewer b hb)
  · rw [stored, put, same, spent]
    exact congrArg (fun a => Memory.writeList u.mem a bs) (own pa)

/-- The writes of the fibres of a store. -/
def storeWrites (s : State) (R : Group) (d n : Nat) (cs : List (Nat × Cover)) : List (Nat × List Byte) :=
  cs.filterMap fun e =>
    match e.2 with
    | .hit _ pa => some (s.ownAddr pa, storeData R e.1 d n)
    | _ => none

/-- Stores fibre by fibre make the writes of the fibres in turn. -/
theorem Storing.all {I : Issue} {kind : StoreKind} {s : State} {P : Group} (hP : s.group? I.core I.g = some P)
    (bare : P.held = []) (plain : kind.nt = false) (d n : Nat) (cs : List (Nat × Cover))
    (answers : ∀ e ∈ cs, ∀ pva pa, e.2 = .hit pva pa → s.reach pa = .ok) {u : State} (h : Storing I kind s u) :
    Storing I kind s (cs.foldl (storeStep I kind d n) u) ∧
      (cs.foldl (storeStep I kind d n) u).mem = Memory.writes u.mem (storeWrites s I.R d n cs) := by
  induction cs generalizing u with
  | nil => exact ⟨h, rfl⟩
  | cons e cs ih =>
    obtain ⟨l, cover⟩ := e
    have later {v : State} := @ih (fun e he => answers e (List.mem_cons_of_mem _ he)) v
    cases cover with
    | hit pva pa =>
      obtain ⟨next, mem⟩ := h.stores hP bare plain (answers _ List.mem_cons_self pva pa rfl) (storeData I.R l d n)
      obtain ⟨last, rest⟩ := later next
      refine ⟨last, rest.trans ?_⟩
      rw [mem]
      rfl
    | trap t => exact later h
    | dropped => exact later h

/-! ## The statement of stores -/

theorem Requested.storing {s t : State} (h : Requested s t) {I : Issue} {kind : StoreKind}
    (stays : kind.vol = true ∨ ∀ b ∈ s.stays, b = false) : Storing I kind s t where
  reach := h.agree.reach
  own := h.agree.own
  groups := h.group?
  stays := by
    rw [(congrArg State.stays h.rest :)]
    exact stays

/-- The active fibres stand in ascending lane order. -/
theorem State.issuer_sorted {s : State} {I : Issue} (issuer : s.issuer = some I) : I.act.Pairwise (· < ·) := by
  obtain ⟨p, h⟩ := State.issuer_act issuer
  rw [h]
  exact List.pairwise_lt_range.filter p

/-- The last fibre that covers an address gives its byte. -/
theorem read_storeWrites {s : State} {R : Group} {d n : Nat} {cover : Nat → Cover} {ls : List Nat} {l pva pa x : Nat}
    (m : List Host.Cell) (size : ∀ l, (storeData R l d n).length = n) (sorted : ls.Pairwise (· < ·)) (hl : l ∈ ls)
    (hit : cover l = .hit pva pa) (here : s.ownAddr pa ≤ x ∧ x < s.ownAddr pa + n)
    (later : ∀ m ∈ ls, l < m → ¬∃ pva pa, cover m = .hit pva pa ∧ s.ownAddr pa ≤ x ∧ x < s.ownAddr pa + n) :
    Memory.read (Memory.writes m (storeWrites s R d n (ls.map fun l => (l, cover l)))) x =
      (storeData R l d n).getD (x - s.ownAddr pa) 0 := by
  obtain ⟨as, bs, rfl⟩ := List.append_of_mem hl
  have behind : ∀ m ∈ bs, l < m := (List.pairwise_cons.1 (List.pairwise_append.1 sorted).2.1).1
  have split : storeWrites s R d n ((as ++ l :: bs).map fun l => (l, cover l)) =
      storeWrites s R d n (as.map fun l => (l, cover l)) ++ (s.ownAddr pa, storeData R l d n) ::
        storeWrites s R d n (bs.map fun l => (l, cover l)) := by
    simp only [storeWrites, List.map_append, List.map_cons, List.filterMap_append, List.filterMap_cons, hit]
  rw [split]
  refine Memory.read_writes_last m _ _ _ x ⟨here.1, by rw [size]; exact here.2⟩ fun w hw at_ => ?_
  obtain ⟨e, he, hw⟩ := List.mem_filterMap.1 hw
  obtain ⟨k, hk, rfl⟩ := List.mem_map.1 he
  dsimp only at hw
  split at hw
  · next pva' pa' there =>
    cases hw
    refine later k (List.mem_append_right _ (List.mem_cons_of_mem l hk)) (behind k hk) ⟨pva', pa', there, at_.1, ?_⟩
    have high := at_.2
    rwa [size] at high
  · cases hw

theorem read_storeWrites_outside {s : State} {R : Group} {d n : Nat} {cover : Nat → Cover} {ls : List Nat} {x : Nat}
    (m : List Host.Cell) (size : ∀ l, (storeData R l d n).length = n)
    (free : ∀ l ∈ ls, ¬∃ pva pa, cover l = .hit pva pa ∧ s.ownAddr pa ≤ x ∧ x < s.ownAddr pa + n) :
    Memory.read (Memory.writes m (storeWrites s R d n (ls.map fun l => (l, cover l)))) x = Memory.read m x := by
  refine Memory.read_writes_outside m _ x fun w hw at_ => ?_
  obtain ⟨e, he, hw⟩ := List.mem_filterMap.1 hw
  obtain ⟨k, hk, rfl⟩ := List.mem_map.1 he
  dsimp only at hw
  split at hw
  · next pva pa there =>
    cases hw
    refine free k hk ⟨pva, pa, there, at_.1, ?_⟩
    have high := at_.2
    rwa [size] at high
  · cases hw

section
variable {d a : BitVec 7} {sf : BitVec 4} {w : BitVec 2} {k c : BitVec 3} {s : State} {I : Issue} {F : Form}

/-- Stores that are performed at once make their writes in lane order, and the batch goes on. -/
theorem exec_stg_performs (hF : formOf (.stg d a sf w k c) s = some F) (ready : Ready F s I) (lives : I.Lives) (plain : k ≠ 1)
    (bare : I.G.held = []) (stays : k = 2 ∨ ∀ b ∈ s.stays, b = false) {cover : Nat → Cover}
    (covered : ∀ l, accessLane I (s.pulses I.core) sf.toNat l (I.R.v l a.toNat).toNat (4 * 2 ^ w.toNat) true none = cover l)
    (goes : ∀ l ∈ I.act, cover l = .dropped ∨ ∃ pva pa, cover l = .hit pva pa ∧ s.reach pa = .ok) :
    ∃ t, exec (.stg d a sf w k c) s = .next t ∧ t.group? I.core I.g = some ((F.slotGroup s I).goOn I []) ∧
      t.mem = Memory.writes s.mem (storeWrites s I.R d.toNat (4 * 2 ^ w.toNat) (I.act.map fun l => (l, cover l))) ∧
      ∀ x g, ¬(x = I.core ∧ g = I.g) → t.group? x g = s.group? x g := by
  have issue := exec_stg_ready hF ready
  dsimp only at issue
  simp only [covered] at issue
  have quiet : (I.act.map fun l => (l, cover l)).filterMap storeTrap = [] := by
    rw [List.filterMap_map, List.filterMap_eq_nil_iff]
    intro l hl
    rcases goes l hl with drop | ⟨pva, pa, hit, -⟩
    · rw [Function.comp_apply, drop]
      rfl
    · rw [Function.comp_apply, hit]
      rfl
  rw [quiet] at issue
  have requested := requested_request (F.slot s I) I 1 (k == 2) (accessLines (F.slot s I) (I.act.map fun l => (l, cover l)))
  have first := requested.storing (I := I) (kind := classKind k I.hv.relax (I.T.rec_ sf.toNat).sobj I.hv.scope)
    (stays.imp_left beq_iff_eq.2)
  obtain ⟨last, mem⟩ := Storing.all (State.group?_slot F ready.issuer) bare (beq_eq_false_iff_ne.2 plain) d.toNat (4 * 2 ^ w.toNat)
    (I.act.map fun l => (l, cover l)) (fun e he pva pa hit => by
      obtain ⟨l, hl, rfl⟩ := List.mem_map.1 he
      rcases goes l hl with drop | ⟨pva', pa', hit', ok⟩
      · cases drop.symm.trans hit
      · cases hit'.symm.trans hit
        exact ok) first
  rw [requested.agree.mem] at mem
  generalize List.foldl (storeStep _ _ _ _) _ _ = u at issue last mem
  obtain ⟨hH, frame⟩ := State.finish_silent ((last.groups I.core I.g).trans (State.group?_slot F ready.issuer))
    (lives.some_live ready.issuer fun _ => rfl)
  exact ⟨_, issue, hH, frame.mem.trans mem, fun x g other => (frame.groups x g other).trans
    ((last.groups x g).trans ((elsewhere_account ..).groups x g other))⟩

end

/-- A store that stays on its way is held, where it does not fill its line. -/
theorem State.storeBytes_held {u : State} {I : Issue} {kind : StoreKind} {pa : Nat} {bs : List Byte} {P : Group}
    (hP : u.group? I.core I.g = some P) (answers : u.reach pa = .ok) (keeps : u.keeps kind = true)
    (part : kind.nt = true → lineFull (P.held ++ [u.storeOf I kind none pa bs]) (lineOf pa) = false) :
    u.storeBytes I kind pa bs = (u.spendStay kind).holdStore I.core I.g (u.storeOf I kind none pa bs) := by
  obtain ⟨left, spent, -⟩ := u.spendStay_eq kind
  have hQ : ((u.spendStay kind).holdStore I.core I.g (u.storeOf I kind none pa bs)).group? I.core I.g =
      some { P with held := P.held ++ [u.storeOf I kind none pa bs] } := by
    rw [spent]
    exact State.group?_modGroup_self _ hP
  have stays : (kind.nt && lineFull (P.held ++ [u.storeOf I kind none pa bs]) (lineOf pa)) = false := by
    cases h : kind.nt with
    | false => rfl
    | true => rw [part h]; rfl
  unfold State.storeBytes
  dsimp only
  rw [answers]
  dsimp only
  rw [if_pos keeps, hQ]
  dsimp only
  rw [stays]
  rfl

/-- Settles O25. -/
theorem storesWriteMemory : Obligations.StoresWriteMemory := by
  unfold Obligations.StoresWriteMemory
  refine ⟨?_, ?_⟩
  · intro d a sf w k c s I F hF ready lives plain bare stays n at_ to_ goes
    obtain ⟨t, done, hH, mem, others⟩ := exec_stg_performs hF ready lives plain bare stays (cover := at_) (fun _ => rfl) goes
    have four : 4 ≤ n := Nat.le_mul_of_pos_right 4 (Nat.two_pow_pos _)
    have words : n % 4 = 0 := Nat.mul_mod_right 4 _
    have size (l : Nat) := storeData_length I.R l d.toNat words four
    refine ⟨t, _, done, hH, fun l hl pva pa hit j small later => ?_, fun b free => ?_, fun l r => ?_, fun r => ?_, ?_, fun l hl => ?_,
      others⟩
    · rw [mem, read_storeWrites s.mem size (State.issuer_sorted ready.issuer) hl hit ⟨by omega, by omega⟩ later, Nat.add_sub_cancel_left,
        storeData_getD _ _ _ words small]
    · rw [mem, read_storeWrites_outside s.mem size free]
    · rw [Group.goOn_v, Group.goOn_p]
      exact ⟨rfl, rfl⟩
    · rw [Group.goOn_s]
      rfl
    · rw [Group.goOn_keeps (·.fpflags) fun _ _ _ => rfl]
      rfl
    · rw [Group.goOn_lane, if_pos hl]
      rfl
  · intro d a sf w k c s I F l pva pa hF ready lives one waits n hit answers h part
    have issue := exec_stg_ready hF ready
    dsimp only at issue
    rw [one, List.map_singleton, hit] at issue
    have requested := requested_request (F.slot s I) I 1 (k == 2) (accessLines (F.slot s I) [(l, .hit pva pa)])
    generalize (F.slot s I).request I 1 (k == 2) (accessLines (F.slot s I) [(l, .hit pva pa)]) = u at issue requested
    have since : u.coreCycle I.core = s.coreCycle I.core := (congrArg (fun v : State => v.coreCycle I.core) requested.rest :)
    have stays : u.stays = s.stays := (congrArg State.stays requested.rest :)
    have keeps : u.keeps (classKind k I.hv.relax (I.T.rec_ sf.toNat).sobj I.hv.scope) = true := by
      rw [State.keeps, stays]
      rcases waits with rfl | ⟨quick, waits⟩
      · rfl
      · rw [waits, Bool.and_true, Bool.or_eq_true, Bool.not_eq_true']
        exact .inr (beq_eq_false_iff_ne.2 quick)
    have made : u.storeOf I (classKind k I.hv.relax (I.T.rec_ sf.toNat).sobj I.hv.scope) none pa (storeData I.R l d.toNat n) = h := by
      rw [State.storeOf, since]
      rfl
    have hP := (requested.group? I.core I.g).trans (State.group?_slot F ready.issuer)
    have held := State.storeBytes_held hP ((requested.agree.reach pa).trans answers) keeps fun nt => by
      rw [made]
      exact part (beq_iff_eq.1 nt)
    rw [made] at held
    obtain ⟨left, spent, -⟩ := u.spendStay_eq (classKind k I.hv.relax (I.T.rec_ sf.toNat).sobj I.hv.scope)
    have issue : exec (.stg d a sf w k c) s = .next
        ((u.storeBytes I (classKind k I.hv.relax (I.T.rec_ sf.toNat).sobj I.hv.scope) pa (storeData I.R l d.toNat n)).finish I none
          []) := issue
    rw [held, spent] at issue
    obtain ⟨hH, frame⟩ := State.finish_silent (u := State.holdStore { u with stays := left } I.core I.g h)
      (P := { F.slotGroup s I with held := I.G.held ++ [h] }) (State.group?_modGroup_self _ hP)
      (lives.some_live ready.issuer fun _ => rfl)
    refine ⟨_, _, issue, hH, ?_, frame.mem.trans requested.agree.mem⟩
    exact Group.goOn_keeps (·.held) (fun _ _ _ => rfl) _ I []

end Sys2Proof.Machine
end

section
/-!
SUPPORT. Atomics on memory, fibre by fibre (O26).
-/

namespace Sys2Proof.Machine

/-! ## What stays sound -/

/-- Addresses answer alike in `s` and `t`, and what holds sound data in `s` does in `t`. -/
structure KeepsSound (s t : State) : Prop where
  reach : ∀ pa, t.reach pa = s.reach pa
  own   : ∀ pa, t.ownAddr pa = s.ownAddr pa
  clean : ∀ p ∈ t.poison, p ∈ s.poison

theorem KeepsSound.refl (s : State) : KeepsSound s s := ⟨fun _ => rfl, fun _ => rfl, fun _ h => h⟩

theorem KeepsSound.trans {s t u : State} (h : KeepsSound s t) (k : KeepsSound t u) : KeepsSound s u :=
  ⟨fun pa => (k.reach pa).trans (h.reach pa), fun pa => (k.own pa).trans (h.own pa), fun p hp => h.clean p (k.clean p hp)⟩

theorem KeepsSound.bad {s t : State} (h : KeepsSound s t) {pa n : Nat} (good : s.bad pa n = false) : t.bad pa n = false := by
  rw [State.bad, h.own, List.any_eq_false]
  intro p hp
  rw [State.bad, List.any_eq_false] at good
  exact good p (h.clean p hp)

theorem Performed.sound {s t : State} (h : Performed s t) : KeepsSound s t :=
  ⟨fun pa => (congrArg (fun u : State => u.reach pa) h.rest :), fun pa => (congrArg (fun u : State => u.ownAddr pa) h.rest :), h.clean⟩

theorem Requested.sound {s t : State} (h : Requested s t) : KeepsSound s t :=
  ⟨h.agree.reach, h.agree.own, fun p hp => by rwa [(congrArg State.poison h.rest :)] at hp⟩

theorem sound_modGroup (s : State) (c g : Nat) (f : Group → Group) : KeepsSound s (s.modGroup c g f) :=
  ⟨fun _ => rfl, fun _ => rfl, fun _ h => h⟩

theorem sound_performHeld (s : State) (c g : Nat) (p : HeldStore → Bool) : KeepsSound s (s.performHeld c g p) := by
  unfold State.performHeld
  split
  · exact .refl s
  · exact (performed_performAll ..).sound.trans (sound_modGroup ..)

theorem sound_seen (s : State) (p : Party) (ps : List (Nat × Nat)) : KeepsSound s (s.seen p ps) := by
  obtain ⟨past, backs, e⟩ := s.seen_frame p ps
  rw [e]
  exact ⟨fun _ => rfl, fun _ => rfl, fun _ h => h⟩

theorem State.seen_rdNat (s : State) (p : Party) (ps : List (Nat × Nat)) (pa n : Nat) : (s.seen p ps).rdNat pa n = s.rdNat pa n := by
  obtain ⟨past, backs, e⟩ := s.seen_frame p ps
  rw [e]
  rfl

/-! ## The atomics -/

/-- One atomic step of a fibre: what it reads with its group's own stores performed, and what it writes. -/
def Issue.atomLane (I : Issue) (d n : Nat) (pa : Nat → Nat) (f : Nat → Nat → Nat) (u : State) (l : Nat) : State × LaneOut :=
  let v := (u.drainFor I.core I.g (pa l) n).seen I.party [(pa l, n)]
  let old := v.rdNat (pa l) n
  (if f l old = old then v else v.wr (pa l) (leBytes n (f l old)), { lane := l, writes := wregs l d (loadWords n (leBytes n old)) })

theorem atomRun_eq {d n : Nat} {I : Issue} {f : Nat → Nat → Nat} {u : State} {l pva : Nat} {pa : Nat → Nat}
    (good : (u.drainFor I.core I.g (pa l) n).bad (pa l) n = false) :
    atomRun d n I f u l pva (pa l) = I.atomLane d n pa f u l := by
  simp only [atomRun, good, Bool.false_eq_true, if_false, Issue.atomLane, State.seen_rdNat, beq_iff_eq]

theorem sound_atomLane (I : Issue) (d n : Nat) (pa : Nat → Nat) (f : Nat → Nat → Nat) (u : State) (l : Nat) :
    KeepsSound u (I.atomLane d n pa f u l).1 := by
  have seen := (sound_performHeld u I.core I.g fun h => h.meets none (pa l) n).trans (sound_seen _ I.party [(pa l, n)])
  unfold Issue.atomLane
  dsimp only
  split
  · exact seen
  · exact seen.trans (logged_wr ..).performed.sound

/-- An atomic whose fibres are covered at sound addresses that answer does its step for each. -/
theorem atomics_hit {s s0 : State} {I : Issue} {d n m : Nat} {vol : Bool} {cover : Nat → Cover} {pa : Nat → Nat}
    {f : Nat → Nat → Nat} (slot : KeepsSound s s0)
    (covered : ∀ l ∈ I.act, ∃ pva, cover l = .hit pva (pa l) ∧ s.reach (pa l) = .ok ∧ s.bad (pa l) n = false) :
    loadRun 2 vol d m (I.act.map fun l => (l, cover l)) (atomRun d n I f) I s0 =
      let r := laneSteps (I.atomLane d n pa f) I.act (s0.request I 2 vol (accessLines s0 (I.act.map fun l => (l, cover l)))) []
      .go r.1 r.2 := by
  choose! pva hit reach good using covered
  refine loadRun_hits (inv := KeepsSound s) hit (slot.trans (requested_request ..).sound) (fun u sound l hl => ?_) fun _ _ => rfl
  exact ⟨(sound.reach _).trans (reach l hl), atomRun_eq ((sound.trans (sound_performHeld ..)).bad (good l hl)),
    sound.trans (sound_atomLane ..)⟩

theorem State.issuerRec_eq {s : State} {I : Issue} (issuer : s.issuer = some I) (slot : Nat) : s.issuerRec slot = I.T.rec_ slot := by
  rw [State.issuerRec, issuer]

theorem misfit_false {I : Issue} {d n : Nat} (align : d % n = 0) (within : d + n ≤ I.G.budget) : misfit I d n = false := by
  simp [misfit, align, within]

theorem sound_slot (F : Form) (s : State) (I : Issue) : KeepsSound s (F.slot s I) := ⟨fun _ => rfl, fun _ => rfl, fun _ h => h⟩

/-! ## The operations -/

section
variable {n : Nat} (old x : BitVec (8 * n))

theorem atomPick_signed (some_bytes : 0 < n) (isMax : Bool) : atomPick n true isMax old.toNat x.toNat =
    (if (if isMax then old.slt x else x.slt old) then x else old).toNat := by
  have a := sext_eq old (by omega)
  have b := sext_eq x (by omega)
  cases isMax <;> simp only [atomPick, a, b, if_true, BitVec.slt_iff_toInt_lt, Bool.false_eq_true, if_false] <;> split <;> rfl

theorem atomPick_unsigned (isMax : Bool) : atomPick n false isMax old.toNat x.toNat =
    (if (if isMax then old.ult x else x.ult old) then x else old).toNat := by
  cases isMax <;> simp [atomPick, BitVec.ult] <;> split <;> rfl

end

/-- Settles O26. -/
theorem atomicsUpdateMemory : Obligations.AtomicsUpdateMemory := by
  unfold Obligations.AtomicsUpdateMemory
  refine ⟨?_, ?_⟩
  · intro i s I F d a sf c hF ready n at_ covered lines result
    refine ⟨?_, ?_⟩
    · rintro o pa rfl align within hits
      have width : (s.issuerRec sf.toNat).atomWidth = n := by rw [State.issuerRec_eq ready.issuer]
      cases hF
      simp only [exec_atg, execAtg]
      refine (issue_ready _ ready).trans ?_
      simp only [width, misfit_false align within, Bool.false_eq_true, if_false]
      exact congrArg (Result.out _ I) (atomics_hit (sound_slot _ s I) hits)
    · rintro k pa rfl align within hits
      have width : (s.issuerRec sf.toNat).atomWidth = n := by rw [State.issuerRec_eq ready.issuer]
      cases hF
      simp only [exec_atgc, execAtgc]
      refine (issue_ready _ ready).trans ?_
      simp only [width, misfit_false align within, Bool.false_eq_true, if_false, beq_iff_eq]
      exact congrArg (Result.out _ I) (atomics_hit (sound_slot _ s I) hits)
  · intro n small old x
    have some_bytes : 0 < n := by omega
    refine ⟨?_, ?_, ?_, ?_, ?_, ?_, ?_, ?_, ?_⟩
    · exact (BitVec.toNat_add ..).symm
    · exact atomPick_signed old x some_bytes false
    · exact atomPick_unsigned old x false
    · exact atomPick_signed old x some_bytes true
    · exact atomPick_unsigned old x true
    · exact (BitVec.toNat_and ..).symm
    · exact (BitVec.toNat_or ..).symm
    · exact (BitVec.toNat_xor ..).symm
    · rfl

end Sys2Proof.Machine
end

section
/-!
SUPPORT. Multi-destination stores and reductions (O27).
-/

namespace Sys2Proof.Machine

theorem foldl_collect {α β γ ι : Type} {step : α × β × List (ι × γ) → ι → α × β × List (ι × γ)} {u : α} {v : β} {H : ι → γ}
    {ls : List ι} (each : ∀ l ∈ ls, ∀ es, step (u, v, es) l = (u, v, es ++ [(l, H l)])) (es : List (ι × γ)) :
    ls.foldl step (u, v, es) = (u, v, es ++ ls.map fun l => (l, H l)) := by
  induction ls generalizing es with
  | nil => rw [List.foldl_nil, List.map_nil, List.append_nil]
  | cons l ls ih =>
    rw [List.foldl_cons, each l List.mem_cons_self, ih fun k hk => each k (List.mem_cons_of_mem _ hk), List.map_cons,
      List.append_assoc, List.singleton_append]

theorem slotsOf_eq (mask : Nat) : slotsOf mask = (List.range 16).filter fun j => mask.testBit j :=
  congrArg (List.filter · _) (funext fun j => bit_eq_testBit mask j)

section
variable {m : BitVec 4} {a d : BitVec 7} {reads : Bool} {put : State → Issue → Nat → Nat → Nat → Nat → State} {I : Issue} {s : State}

theorem multiRun_empty (zero : (I.R.s m.toNat).toNat = 0) : multiRun m a d reads put I s = .go s [] := by
  simp only [multiRun, zero]
  rfl

theorem multiRun_beyond (beyond : 2 ^ 16 ≤ (I.R.s m.toNat).toNat) :
    multiRun m a d reads put I s = .go s (trapAll I (mkTrap 1 0 (I.R.s m.toNat).toNat)) := by
  simp only [multiRun, beyond, if_true]
  rfl

/-- The lines that the destinations of every fibre touch. -/
def Issue.destLines (I : Issue) (slots : List Nat) (a : BitVec 7) (n : Nat) : List Nat :=
  I.act.flatMap fun l => slots.filterMap fun j =>
    match (I.T.rec_ j).place (I.R.v l a.toNat).toNat n with
    | .ok (some (_, pva)) => some (lineOf pva)
    | _ => none

/-- A run of which every fibre passes every check acts on the destinations, fibre by fibre and slot by slot. -/
theorem multiRun_passes {j0 : Nat} {js : List Nat} (low : (I.R.s m.toNat).toNat < 2 ^ 16)
    (slots : (List.range 16).filter (fun j => (I.R.s m.toNat).toNat.testBit j) = j0 :: js)
    (align : d.toNat % ((I.T.rec_ j0).atomWidth / 4) = 0) (within : d.toNat + (I.T.rec_ j0).atomWidth / 4 ≤ I.G.budget) :
    let n := (I.T.rec_ j0).atomWidth
    let tr := s.xlateLines I.core I.x (if reads then .atomic else .write) (I.destLines (j0 :: js) a n)
    let D (l : Nat) : Dests := checkDests I (tr.2.map fun e => (e.1, tr.1.ownBlock I.x I.T.gen e.1 e.2)) (j0 :: js)
      (I.R.v l a.toNat).toNat n reads
    (∀ l ∈ I.act, (D l).trap = none ∧ (D l).fill = none ∧
      (reads = false ∨ ∀ h ∈ (D l).hits, tr.1.reach h.2.2 = .ok ∧ tr.1.bad h.2.2 n = false)) →
    multiRun m a d reads put I s = .go (I.act.foldl
      (fun v l => (D l).hits.foldl (fun v h => put v I l h.1 h.2.2 n) v)
      (tr.1.lineRequests I 3 none ((I.act.flatMap fun l =>
        (D l).hits.map fun h => (lineOf h.2.1, s.ownAddr (lineOf h.2.2))).eraseDups)) ) [] := by
  intro n tr D pass
  have collected (l : Nat) (hl : l ∈ I.act) : (D l).trap = none ∧ (D l).fill = none ∧
      ((D l).hits.find? fun h => reads && (tr.1.reach h.2.2 != .ok || tr.1.bad h.2.2 n)) = none := by
    obtain ⟨ht, hf, sound⟩ := pass l hl
    refine ⟨ht, hf, List.find?_eq_none.2 fun h hh => ?_⟩
    obtain off | sound := sound
    · simp [off]
    · simp [(sound h hh).1, (sound h hh).2]
  have sent : (I.act.flatMap fun l => if (D l).trap.isSome || (D l).fill.isSome then [] else
      (D l).hits.map fun h => (lineOf h.2.1, s.ownAddr (lineOf h.2.2))) =
      I.act.flatMap fun l => (D l).hits.map fun h => (lineOf h.2.1, s.ownAddr (lineOf h.2.2)) := by
    rw [List.flatMap_def, List.flatMap_def, List.map_congr_left fun l hl => ?_]
    obtain ⟨ht, hf, _⟩ := collected l hl
    simp [ht, hf]
  unfold multiRun
  simp only [if_neg (Nat.not_le.2 low), slotsOf_eq, slots, misfit_false align within, Bool.false_eq_true, if_false]
  refine Eq.trans ?_ (farWait_near (I := I) (r := (_, [])) fun _ h => by cases h)
  refine congrArg _ ?_
  rw [foldl_collect (H := fun l => (D l).hits)]
  · dsimp only
    rw [List.nil_append, List.foldl_map]
    exact congrArg (fun e => (I.act.foldl _ (tr.1.lineRequests I 3 none (List.eraseDups e)), _)) sent
  · intro l hl es
    obtain ⟨ht, hf, hfind⟩ := collected l hl
    dsimp only
    erw [ht, hf]
    dsimp only
    erw [hfind]
    rfl

end

/-- What an instruction of the kind does at one destination. -/
def destPut (i : Instr) (d a : BitVec 7) (m : BitVec 4) (k c : BitVec 3) (v : State) (I : Issue) (l j pa n : Nat) : State :=
  if (i != .mcs d a m k c) = false then
    v.storeBytes I (classKind k false (I.T.rec_ j).sobj I.hv.scope) pa (storeData I.R l d.toNat n)
  else rdsPut (if i = .rds d a m k c then 0 else 9) d v I l j pa n

theorem exec_multi {i : Instr} {s : State} {F : Form} {d a : BitVec 7} {m : BitVec 4} {k c : BitVec 3} (hF : formOf i s = some F)
    (kind : i = .mcs d a m k c ∨ i = .rds d a m k c ∨ i = .rdsF d a m k c) :
    exec i s = issue F (multiRun m a d (i != .mcs d a m k c) (destPut i d a m k c)) s := by
  obtain rfl | rfl | rfl := kind
  · have put : destPut (.mcs d a m k c) d a m k c = fun v I l j pa n =>
        v.storeBytes I (classKind k false (I.T.rec_ j).sobj I.hv.scope) pa (storeData I.R l d.toNat n) := by
      funext v I l j pa n
      rw [destPut, if_pos (bne_self_eq_false _)]
    cases hF
    rw [exec_mcs, execMcs, put, bne_self_eq_false]
  · have put : destPut (.rds d a m k c) d a m k c = rdsPut 0 d := by
      funext v I l j pa n
      rw [destPut, if_neg (by simp), if_pos rfl]
    have differ : (Instr.rds d a m k c != .mcs d a m k c) = true := by simp
    cases hF
    rw [exec_rds, execRds, put, differ]
  · have put : destPut (.rdsF d a m k c) d a m k c = rdsPut 9 d := by
      funext v I l j pa n
      rw [destPut, if_neg (by simp), if_neg (by simp)]
    have differ : (Instr.rdsF d a m k c != .mcs d a m k c) = true := by simp
    cases hF
    rw [exec_rdsF, execRdsF, put, differ]

/-- Settles O27. -/
theorem multiDestinationStores : Obligations.MultiDestinationStores := by
  unfold Obligations.MultiDestinationStores
  intro i s I F d a m k c hF ready kind mask s0
  have latency : F.lat = none := by obtain rfl | rfl | rfl := kind <;> (cases hF; rfl)
  have run : exec i s = (multiRun m a d (i != .mcs d a m k c) (destPut i d a m k c) I s0).out F I :=
    (exec_multi hF kind).trans (issue_ready _ ready)
  rw [run]
  refine ⟨fun zero => ?_, fun beyond => ?_, ?_⟩
  · rw [multiRun_empty zero, Result.out, latency]
  · rw [multiRun_beyond beyond, Result.out, latency]
    rfl
  · intro j0 js low slots n idx lines reads tr D align within pass u put
    rw [multiRun_passes low slots align within pass, Result.out, latency]
    rfl

end Sys2Proof.Machine
end

section
/-!
SUPPORT. The instructions on sync objects (O29).
-/

namespace Sys2Proof.Machine

/-- An instruction on an object that can be read is what it does to the object. -/
theorem exec_on_object {i : Instr} {s t : State} {I : Issue} {F : Form} {r : BitVec 7} {pa : Nat} {ob : Obj}
    {f : Nat → Nat → Obj → Issue → State → Result} (ready : Ready F s I)
    (read : (F.slot s I).objFor I (I.R.s r.toNat).toNat = (t, .ok (pa, ob))) (h : exec i s = issue F (onObject r f) s) :
    exec i s = (f (I.R.s r.toNat).toNat pa ob I t).out F I := by
  rw [h, issue_ready _ ready, onObject, read]

/-- A batch that comes to an instruction for the first time waits for nothing. -/
theorem Issue.idle_first {s : State} {I : Issue} (issuer : s.issuer = some I) (first : I.first = true) : I.B.wait = none := by
  have e : I.first = I.B.wait.isNone := by
    simp only [State.issuer] at issuer
    split at issuer
    · cases issuer
    · split at issuer
      · cases issuer
      · split at issuer
        · cases issuer
        · cases issuer
          rfl
  exact Option.isNone_iff_eq_none.1 (e ▸ first)

theorem Issue.lockSince_first {s : State} {I : Issue} (issuer : s.issuer = some I) (first : I.first = true) (k : Nat) :
    I.B.lockSince k = none := by
  rw [Batch.lockSince, Issue.idle_first issuer first]

/-! ## The phases of a barrier object -/

theorem Obj.advance_pending (o : Obj) : o.advance.pending = o.pending := by
  unfold Obj.advance
  split <;> rfl

theorem Obj.advance_held {o : Obj} (bytes : o.pending ≠ 0) : o.advance = o := by
  simp [Obj.advance, bytes]

theorem Obj.advance_free {o : Obj} (barrier : o.kind = 0) (free : o.pending = 0) :
    o.advance = { o with state := (o.state + o.arrivals / o.target) % 2 ^ 32, arrivals := o.arrivals % o.target } := by
  simp [Obj.advance, barrier, free, kBarrier]

theorem Obj.contribute_pending {o : Obj} (barrier : o.kind = 0) (b : Nat) : (o.contribute b).pending = o.pending - b := by
  have k : (o.kind == kBarrier) = true := by simp [barrier, kBarrier]
  rw [Obj.contribute, if_pos k, Obj.advance_pending]

/-! ## Publication and acquisition -/

theorem Past.published {s : State} {e : Past} {obj : Option Nat} {mine : Past → Bool} {r : Nat} (only : s.past = [e])
    (own : mine e = true) (object : obj ≠ some 0) :
    (s.publish e.by_ obj r mine).past = [{ e with pubs := { obj := obj, by_ := e.by_, scope := r } :: e.pubs }] := by
  have named : (obj == some 0) = false := by simpa using object
  simp only [State.publish, named, Bool.false_eq_true, if_false, only, List.map_cons, List.map_nil, beq_self_eq_true, if_true, own]

/-- A publication reaches the party that acquires the same object when each scope includes the other party. -/
theorem Pub.reaches_same (obj : Option Nat) (p q : Party) (r a sobj : Nat) :
    Pub.reaches { obj := obj, by_ := p, scope := r } q obj a sobj = (scopeIncludes r p q && scopeIncludes a q p) := by
  cases obj <;> simp [Pub.reaches]

theorem State.acquire_published {s : State} {e : Past} {q : Party} {obj : Option Nat} {r a : Nat} {mine : Past → Bool}
    (only : s.past = [e]) (fresh : e.pubs = []) (own : mine e = true) (object : obj ≠ some 0) :
    ((s.publish e.by_ obj r mine).acquire q obj a).past =
      unseenOnly [if scopeIncludes e.scope e.by_ q && scopeIncludes r e.by_ q && scopeIncludes a q e.by_ then
        { e with pubs := [{ obj := obj, by_ := e.by_, scope := r }], unseen := e.unseen.filter (· != q) }
      else { e with pubs := [{ obj := obj, by_ := e.by_, scope := r }] }] := by
  have named : (obj == some 0) = false := by simpa using object
  have published := Past.published (r := r) only own object
  rw [fresh] at published
  simp only [State.acquire, named, Bool.false_eq_true, if_false, published, List.map_cons, List.map_nil, List.any_cons,
    List.any_nil, Bool.or_false, Pub.reaches_same, Bool.and_assoc]

/-! ## The obligation -/

theorem parseObj_kind {b : List Byte} {ob : Obj} (valid : parseObj b = some ob) : ob.kind ≤ 2 := by
  simp only [parseObj, Option.ite_none_right_eq_some, Option.some.injEq, Bool.and_eq_true, decide_eq_true_eq] at valid
  obtain ⟨⟨⟨⟨⟨⟨⟨⟨⟨⟨kind, _⟩, _⟩, _⟩, _⟩, _⟩, _⟩, _⟩, _⟩, _⟩, rfl⟩ := valid
  exact kind

theorem State.objFor_kind {s t : State} {I : Issue} {k pa : Nat} {ob : Obj} (read : s.objFor I k = (t, .ok (pa, ob))) :
    ob.kind ≤ 2 := by
  simp only [State.objFor] at read
  split at read
  · cases read
  · split at read
    · cases read
    · split at read
      next valid =>
        cases read
        exact parseObj_kind valid
      next => cases read

section
variable {s t : State} {I : Issue} {F : Form} {i : Instr} {r p : BitVec 7} {sf : BitVec 3} {pa : Nat} {ob : Obj} {nf : Bool}
    (ready : Ready F s I) (read : (F.slot s I).objFor I (I.R.s r.toNat).toNat = (t, .ok (pa, ob)))
    (run : exec i s = issue F (waitpRun nf sf p r) s)
include ready read run

/-- WAITP where the phase has passed or the value is reached. -/
theorem exec_waitp_done (done : ob.kind = 0 ∧ ob.state ≠ (I.R.s p.toNat).toNat ∨
      ob.kind = 2 ∧ sub32 ob.state (I.R.s p.toNat).toNat < 2 ^ 31) :
    exec i s = Result.out F I (if !nf && ob.flags.testBit 8 then .go t (trapAll I (objTrap (I.R.s r.toNat).toNat ob))
      else .go (t.acquire I.party (some (I.R.s r.toNat).toNat) (I.scope sf.toNat)) []) := by
  refine (exec_on_object ready read run).trans (congrArg _ ?_)
  simp only [bit_eq_testBit]
  obtain ⟨kind, left⟩ | ⟨kind, reached⟩ := done
  · simp only [kind, bne_iff_ne.2 left]
    rfl
  · simp only [kind, if_pos reached]
    rfl

/-- WAITP where the barrier is still in the phase. -/
theorem exec_waitp_barrier (kind : ob.kind = 0) (same : ob.state = (I.R.s p.toNat).toNat) :
    exec i s = Result.out F I (.wait t (.object (I.R.s r.toNat).toNat (I.R.s p.toNat).toNat .none)) := by
  refine (exec_on_object ready read run).trans (congrArg _ ?_)
  simp only [kind, same, bne_self_eq_false]
  rfl

/-- WAITP where the counter has not reached the value. -/
theorem exec_waitp_counter (kind : ob.kind = 2) (below : 2 ^ 31 ≤ sub32 ob.state (I.R.s p.toNat).toNat) :
    exec i s = Result.out F I (.wait t (.poll 4)) := by
  refine (exec_on_object ready read run).trans (congrArg _ ?_)
  simp only [kind, if_neg (Nat.not_lt.2 below)]
  rfl

theorem exec_waitp_lock (kind : ob.kind = 1) : exec i s = Result.out F I (misuse pa ob t) := by
  refine (exec_on_object ready read run).trans (congrArg _ ?_)
  simp only [kind]
  rfl

end

theorem waitp_run {i : Instr} {s : State} {F : Form} {sf c : BitVec 3} {p r : BitVec 7} (hF : formOf i s = some F)
    (kind : i = .waitp sf p r c ∨ i = .waitpNf sf p r c) :
    F.ins = i ∧ F.lat = none ∧ ∃ nf, exec i s = issue F (waitpRun nf sf p r) s := by
  obtain rfl | rfl := kind
  · cases hF
    exact ⟨rfl, rfl, _, exec_waitp ..⟩
  · cases hF
    exact ⟨rfl, rfl, _, exec_waitpNf ..⟩

theorem Obj.field_arrivals (ob : Obj) : ob.field 2 = if ob.kind = 0 then ob.arrivals else 0 := by
  simp [Obj.field, kBarrier]

theorem Obj.field_pending (ob : Obj) : ob.field 3 = if ob.kind = 0 then (ob.pending % 2 ^ 32).toNat else 0 := by
  simp [Obj.field, kBarrier]

/-- Settles O29. -/
theorem syncObjectsAct : Obligations.SyncObjectsAct := by
  unfold Obligations.SyncObjectsAct
  refine ⟨?_, ?_, ?_⟩
  · intro i s t I F r pa ob hF ready read k on reads scope rel acq near misuse_ val mine
    have out := Issue.scalarOut_eq ready.active
    refine ⟨?_, ?_, ?_, ?_, ?_, ?_, ?_, ?_, ?_, ?_, ?_, ?_, ?_, ?_, ?_, ?_, ?_, ?_, ?_, ?_, ?_, ?_⟩
    · rintro sf c rfl lock free alone
      cases hF
      refine (exec_on_object ready read (exec_acq ..)).trans ?_
      simp only [Issue.lockSince_first ready.issuer ready.first, Option.getD_none, free, lock]
      simp only [k] at alone
      simp only [alone]
      rfl
    · rintro sf c rfl lock held
      cases hF
      refine (exec_on_object ready read (exec_acq ..)).trans ?_
      have notFree : (ob.state == lockFree) = false := by simpa [lockFree] using held
      simp only [Issue.lockSince_first ready.issuer ready.first, Option.getD_none, notFree, lock, ready.first]
      rfl
    · rintro sf c rfl other
      cases hF
      refine (exec_on_object ready read (exec_acq ..)).trans ?_
      have differ : (ob.kind != kLock) = true := by simpa [kLock] using other
      simp only [differ]
      rfl
    · rintro sf c rfl near lock own
      cases hF
      refine (exec_on_object ready read (exec_rel ..)).trans ?_
      have owned : (ob.state == holderWord I) = true := by simpa [holderWord] using own
      simp only [releasing_near _ near, lock, owned]
      rfl
    · rintro sf c rfl near lock other
      cases hF
      refine (exec_on_object ready read (exec_rel ..)).trans ?_
      have notOwned : (ob.state == holderWord I) = false := by simpa [holderWord] using other
      simp only [releasing_near _ near, lock, notOwned]
      rfl
    · rintro sf c rfl near other
      cases hF
      refine (exec_on_object ready read (exec_rel ..)).trans ?_
      have differ : (ob.kind != kLock) = true := by simpa [kLock] using other
      simp only [releasing_near _ near, differ]
      rfl
    · rintro sf n c rfl near barrier
      cases hF
      refine (exec_on_object ready read (exec_arv ..)).trans ?_
      simp only [releasing_near _ near, barrier, out]
      rfl
    · rintro sf n c rfl near counter
      cases hF
      refine (exec_on_object ready read (exec_arv ..)).trans ?_
      simp only [releasing_near _ near, counter, out]
      rfl
    · rintro sf n c rfl lock
      cases hF
      refine (exec_on_object ready read (exec_arv ..)).trans ?_
      simp only [lock]
      rfl
    · rintro sf n c rfl near barrier
      cases hF
      refine (exec_on_object ready read (exec_arvX ..)).trans ?_
      simp only [releasing_near _ near, barrier, out]
      rfl
    · rintro sf n c rfl other
      cases hF
      refine (exec_on_object ready read (exec_arvX ..)).trans ?_
      have differ : (ob.kind == kBarrier) = false := by simpa [kBarrier] using other
      simp only [differ]
      rfl
    · rintro sf n c (rfl | ⟨rfl, kind⟩ | ⟨rfl, kind⟩) far
      · cases hF
        refine (exec_on_object ready read (exec_rel ..)).trans ?_
        simp only [releasing_far _ far]
        rfl
      · cases hF
        refine (exec_on_object ready read (exec_arv ..)).trans ?_
        obtain barrier | counter : ob.kind = 0 ∨ ob.kind = 2 := by
          have := State.objFor_kind read
          omega
        · simp only [releasing_far _ far, barrier]
          rfl
        · simp only [releasing_far _ far, counter]
          rfl
      · cases hF
        refine (exec_on_object ready read (exec_arvX ..)).trans ?_
        simp only [releasing_far _ far, kind]
        rfl
    · rintro sf p c (⟨rfl, sound⟩ | rfl) done
      · cases hF
        refine (exec_waitp_done ready read (exec_waitp ..) done).trans ?_
        simp only [sound]
        rfl
      · cases hF
        exact exec_waitp_done ready read (exec_waitpNf ..) done
    · rintro sf p c rfl fault done
      cases hF
      refine (exec_waitp_done ready read (exec_waitp ..) done).trans ?_
      simp only [fault]
      rfl
    · intro sf p c form kind same
      obtain ⟨ins, _, nf, run⟩ := waitp_run hF form
      rw [exec_waitp_barrier ready read run kind same, ← ins]
      rfl
    · intro sf p c form kind below
      obtain ⟨ins, _, nf, run⟩ := waitp_run hF form
      rw [exec_waitp_counter ready read run kind below, ← ins]
      rfl
    · intro sf p c form kind
      obtain ⟨_, lat, nf, run⟩ := waitp_run hF form
      rw [exec_waitp_lock ready read run kind, misuse, Result.out, lat]
      rfl
    · rintro d c rfl
      cases hF
      refine (exec_on_object ready read (exec_soflg ..)).trans ?_
      simp only [out]
      rfl
    · rintro d c rfl
      cases hF
      refine (exec_on_object ready read (exec_soflg ..)).trans ?_
      simp only [out]
      rfl
    · rintro d c rfl
      cases hF
      refine (exec_on_object ready read (exec_soflg ..)).trans ?_
      simp only [out]
      exact congrArg (fun v => reads t d v) (Obj.field_arrivals ob)
    · rintro d c rfl
      cases hF
      refine (exec_on_object ready read (exec_soflg ..)).trans ?_
      simp only [out]
      exact congrArg (fun v => reads t d v) (Obj.field_pending ob)
    · rintro d c rfl
      cases hF
      refine (exec_on_object ready read (exec_soflgFlagC ..)).trans ?_
      simp only [out]
      rfl
  · intro o n b barrier target
    refine ⟨Obj.advance_pending _, Obj.contribute_pending barrier b, fun held => ?_, fun free => ?_⟩
    · rw [Obj.arrive, Obj.advance_held (by exact held)]
      exact ⟨rfl, rfl⟩
    · rw [Obj.arrive, Obj.advance_free (by exact barrier) (by exact free)]
      exact ⟨rfl, rfl⟩
  · intro s q obj r a mine e only fresh unseen own object t
    have past := State.acquire_published (q := q) (r := r) (a := a) only fresh own object
    split
    next includes =>
      rw [if_pos includes] at past
      intro f hf
      have hf := past ▸ hf
      obtain rfl := List.mem_singleton.1 (List.mem_of_mem_filter hf)
      simp
    next excludes =>
      rw [if_neg excludes] at past
      refine ⟨{ e with pubs := [{ obj := obj, by_ := e.by_, scope := r }] }, ?_, unseen⟩
      refine past ▸ List.mem_filter.2 ⟨List.mem_singleton.2 rfl, ?_⟩
      simpa using List.ne_nil_of_mem unseen

end Sys2Proof.Machine
end

section
/-!
SUPPORT. The states of a context, and the steps of pre-emption, traps, migration and partitions (O40).
-/

namespace Sys2Proof.Machine

/-- What every step of a fold keeps, the fold keeps. -/
theorem keeps_foldl {α β γ : Type} {f : α → β → α} (field : α → γ) {l : List β} (each : ∀ u, ∀ b ∈ l, field (f u b) = field u)
    (s : α) : field (l.foldl f s) = field s := by
  induction l generalizing s with
  | nil => rfl
  | cons b l ih =>
    rw [List.foldl_cons, ih fun u c hc => each u c (List.mem_cons_of_mem _ hc), each s b List.mem_cons_self]

/-! ## What leaves the contexts as they are -/

theorem State.ctx_eq {s t : State} (h : t.ctxs = s.ctxs) (x : Nat) : t.ctx x = s.ctx x := by rw [State.ctx, h, State.ctx]

theorem State.ctxs_endSleep (s : State) (core g : Nat) : (s.endSleep core g).ctxs = s.ctxs := by
  unfold State.endSleep
  split
  · rfl
  · dsimp only
    split <;> rfl

theorem State.ctxs_wakeSleepers (s : State) (x : Nat) : (s.wakeSleepers x).ctxs = s.ctxs :=
  keeps_foldl State.ctxs (fun u e _ => u.ctxs_endSleep e.1 e.2.1) s

theorem State.ctxs_freePushers (s : State) (x : Nat) (q : Option Nat) : (s.freePushers x q).ctxs = s.ctxs := by
  refine keeps_foldl State.ctxs (fun u e _ => ?_) s
  obtain ⟨c, g, G⟩ := e
  dsimp only
  split <;> rfl

theorem State.ctxs_wakeFills (s : State) (x : Nat) : (s.wakeFills x).ctxs = s.ctxs := by
  refine keeps_foldl State.ctxs (fun u b _ => ?_) s
  unfold State.wakeFill
  split
  · rfl
  · split
    · split
      · rfl
      · split <;> rfl
    · rfl

theorem State.ctx_mapGroups (s : State) (x y : Nat) (f : Group → Group) : (s.mapGroups x f).ctx y = s.ctx y := rfl

theorem State.ctxs_event (s : State) (code x : Nat) (detail : List Byte) : (s.event code x detail).ctxs = s.ctxs := by
  unfold State.event
  split <;> rfl

theorem Ctx.resumeDeadline_st (c : Ctx) (now : Nat) : (c.resumeDeadline now).st = c.st := by
  unfold Ctx.resumeDeadline
  split <;> simp_all

theorem State.ctx_modCtx_self (s : State) (x : Nat) (f : Ctx → Ctx) : (s.modCtx x f).ctx x = f (s.ctx x) := by
  rw [State.ctx_modCtx, if_pos rfl]

/-! ## The requests on a context -/

section
variable {s : State} {x : Nat}

theorem State.preempt_active (active : (s.ctx x).st = .active) : ((s.preempt x).ctx x).st = .draining ∧
    ((s.preempt x).ctx x).deadline = some (s.ptp + 1000 * (s.ctx x).deadlineUs) := by
  rw [State.preempt, if_pos (beq_iff_eq.2 active), State.ctx_eq (State.ctxs_freePushers ..), State.ctx_eq (State.ctxs_wakeSleepers ..),
    State.ctx_modCtx_self]
  exact ⟨rfl, rfl⟩

theorem State.preempt_other (other : (s.ctx x).st ≠ .active) : s.preempt x = s := if_neg (by simpa using other)

theorem State.withdraw_draining (draining : (s.ctx x).st = .draining) :
    ((s.withdraw x).ctx x).st = .active ∧ ((s.withdraw x).ctx x).deadline = none := by
  rw [State.withdraw, if_pos (beq_iff_eq.2 draining), State.ctx_mapGroups, State.ctx_modCtx_self]
  exact ⟨rfl, rfl⟩

theorem State.resume_stopped (stopped : (s.ctx x).st = .stopped) : ((s.resume x).ctx x).st = (s.ctx x).back := by
  rw [State.resume, if_pos (beq_iff_eq.2 stopped), State.ctx_mapGroups, State.ctx_modCtx_self, Ctx.resumeDeadline_st]

theorem State.thaw_frozen (frozen : (s.ctx x).st = .frozen) : ((s.thaw x).ctx x).st = (s.ctx x).back := by
  rw [State.thaw, if_pos (beq_iff_eq.2 frozen), State.ctx_eq (State.ctxs_wakeFills ..), State.ctx_modCtx_self, Ctx.resumeDeadline_st]

theorem State.clear_lost (lost : (s.ctx x).st = .lost) : ((s.clear x).ctx x).st = .active ∧ ((s.clear x).ctx x).queues = [] ∧
    ((s.clear x).ctx x).filled = (s.ctx x).filled := by
  rw [State.clear, if_pos (beq_iff_eq.2 lost), State.ctx_modCtx_self]
  exact ⟨rfl, rfl, rfl⟩

theorem State.resetCtx_lost (k : Nat) : ((s.resetCtx x k).ctx x).st = .lost ∧ ((s.resetCtx x k).ctx x).features = none ∧
    ((s.resetCtx x k).ctx x).saved = [] := by
  rw [State.resetCtx, State.ctx_modCtx_self]
  exact ⟨rfl, rfl, rfl⟩

theorem State.timeOut_lost : ((s.timeOut x).ctx x).st = .lost ∧ ((s.timeOut x).ctx x).saved = [] := by
  rw [State.timeOut, State.ctx_eq (State.ctxs_event ..)]
  exact ⟨(State.resetCtx_lost _).1, (State.resetCtx_lost _).2.2⟩

end

/-! ## The steps -/

theorem State.expired_due {s : State} {x d : Nat} (draining : (s.ctx x).st = .draining) (deadline : (s.ctx x).deadline = some d)
    (due : d ≤ s.ptp) : s.expired x = true := by
  simp [State.expired, draining, deadline, due]

/-- The one trap of a group is disposed of. -/
theorem State.disposeEach_one (s : State) (core g l pc r : Nat) (t : Trap) :
    s.disposeEach core g [(l, pc, r, t)] = s.disposeAll core g pc r [(l, t)] := by
  simp [State.disposeEach, List.eraseDups_cons]

theorem State.disposeEach_split (s : State) (core g l pc r : Nat) (t : Trap) :
    (s.disposeEach core g ([(l, pc, r, t)].filter freezing)).disposeEach core g ([(l, pc, r, t)].filter fun u => !freezing u) =
      s.disposeAll core g pc r [(l, t)] := by
  cases h : freezing (l, pc, r, t)
  · rw [List.filter_cons_of_neg (by simp [h]), List.filter_cons_of_pos (by simp [h])]
    exact State.disposeEach_one ..
  · rw [List.filter_cons_of_pos h, List.filter_cons_of_neg (by simp [h])]
    exact State.disposeEach_one ..

/-- The end of a save: the team and its groups leave the core, and stand among the saved teams of the context. -/
def State.saveTeam (w : State) (tid : Nat) (T : Team) (gs : List (Nat × Group)) : State :=
  let v := (w.endScratchInterests tid).modCore T.core fun C =>
    { C with groups := C.groups.filter fun e => e.2.tid != tid
             meshlets := C.meshlets.filter fun e => e.2.tid != tid }
  ({ v with teams := tdel v.teams tid }).modCtx T.ctx fun c =>
    { c with saved := tset c.saved tid { team := { T with migrate := none }, groups := gs, meshes := (w.core T.core).meshlets.filter fun e => e.2.tid == tid } }

theorem State.saveTeam_teams (w : State) (tid : Nat) (T : Team) (gs : List (Nat × Group)) :
    tget? (w.saveTeam tid T gs).teams tid = none := (tget?_tdel ..).trans (if_pos rfl)

theorem State.saveTeam_groups (w : State) (tid : Nat) (T : Team) (gs : List (Nat × Group)) :
    ((w.saveTeam tid T gs).core T.core).groups.filter (fun e => e.2.tid == tid) = [] := by
  have gone (hs : Tbl Group) : (hs.filter fun e => e.2.tid != tid).filter (fun e => e.2.tid == tid) = [] := by
    simp [List.filter_filter]
  change (((w.endScratchInterests tid).modCore T.core fun C =>
    { C with groups := C.groups.filter fun e => e.2.tid != tid
             meshlets := C.meshlets.filter fun e => e.2.tid != tid }).core T.core).groups.filter _ = []
  rw [State.core_modCore, if_pos rfl]
  exact gone _

theorem State.saveTeam_saved (w : State) (tid : Nat) (T : Team) (gs : List (Nat × Group)) :
    ∃ S, tget? ((w.saveTeam tid T gs).ctx T.ctx).saved tid = some S ∧ S.team = { T with migrate := none } := by
  rw [State.saveTeam, State.ctx_modCtx_self]
  exact ⟨_, (tget?_tset ..).trans (if_pos rfl), rfl⟩

/-- A team that may be saved, whose slot can be written, is saved. -/
theorem execTeamSave_ok {s t : State} {tid : Nat} {T : Team} {L : Launch} {ps : List (Nat × Nat)} (savable : s.savable tid = true)
    (quiet : s.pendingFault (.save tid) = false) (team : tget? s.teams tid = some T) (sound : (s.ctx T.ctx).doomed = false)
    (launch : tget? s.launches T.lid = some L)
    (served : s.served (.save tid) none T.ctx none (wants .write (slotVa L.block T.index) (slotSize L.block)) = (t, .ok ps)) :
    ∃ (w : State) (gs : List (Nat × Group)), execTeamSave tid s = .next (w.saveTeam tid T gs) := by
  have named : s.team tid = T := by rw [State.team, tget, team, Option.getD_some]
  simp only [execTeamSave, savable, quiet, named, sound, launch, served]
  exact ⟨_, _, rfl⟩

/-! ## Partitions and the balancer -/

/-- What a written partition register holds beside the boundary. -/
theorem Core.partition_written {C : Core} {b : Nat} (v : BitVec 32) (low : b < 2 ^ 7)
    (part : C.part = word (b + bits v.toNat 8 7 * 2 ^ 8 + bits v.toNat 16 7 * 2 ^ 16 + bits v.toNat 24 1 * 2 ^ 24)) :
    C.boundary = b ∧ C.bmin = min 64 (v.extractLsb' 8 7).toNat ∧ C.bmax = min 64 (v.extractLsb' 16 7).toNat ∧
      C.auto = v.getLsbD 24 := by
  have all : C.part.toNat = b + v.toNat / 2 ^ 8 % 2 ^ 7 * 2 ^ 8 + v.toNat / 2 ^ 16 % 2 ^ 7 * 2 ^ 16 + v.toNat / 2 ^ 24 % 2 * 2 ^ 24 := by
    rw [part, word, BitVec.toNat_ofNat]
    simp only [bits]
    omega
  refine ⟨?_, congrArg (min 64) ?_, congrArg (min 64) ?_, ?_⟩
  · rw [Core.boundary, bits, all]
    omega
  · rw [bits, all, BitVec.extractLsb'_toNat, Nat.shiftRight_eq_div_pow]
    omega
  · rw [bits, all, BitVec.extractLsb'_toNat, Nat.shiftRight_eq_div_pow]
    omega
  · rw [Core.auto, bit_eq_testBit, BitVec.getLsbD, Nat.testBit_eq_decide_div_mod_eq, Nat.testBit_eq_decide_div_mod_eq, all,
      decide_eq_decide]
    omega

theorem State.balance_core (s : State) {f : State → Nat → State} {cs : List Nat} (die c : Nat) (other : c / 24 ≠ die)
    (step : ∀ u d, d ≠ c → (f u d).core c = u.core c) :
    ((cs.filter fun c => dieOf c == die).foldl f s).core c = s.core c := by
  refine keeps_foldl (fun u => State.core u c) (fun u d hd => step u d ?_) s
  rintro rfl
  exact other (by simpa [dieOf] using (List.mem_filter.1 hd).2)

/-- Settles O40. -/
theorem preemptionStepsAct : Obligations.PreemptionStepsAct := by
  unfold Obligations.PreemptionStepsAct
  refine ⟨fun s x => ⟨fun active => ?_, fun q active => ?_, State.preempt_other, State.withdraw_draining, State.resume_stopped,
    State.thaw_frozen, State.clear_lost, State.resetCtx_lost⟩, ?_, ?_, ?_, ?_, ?_, ?_, ?_, ?_, ?_, ?_⟩
  · obtain ⟨st, deadline⟩ := State.preempt_active active
    refine ⟨st, deadline.trans ?_⟩
    simp only [Ctx.deadlineUs, beq_iff_eq]
  · exact congrArg Host.Outcome.next (if_pos (beq_iff_eq.2 active))
  · intro s x d draining deadline due
    refine ⟨s.timeOut x, ?_, State.timeOut_lost⟩
    exact congrArg Host.Outcome.next (if_pos (State.expired_due draining deadline due))
  · intro s t tid T L ps savable quiet team sound launch served
    obtain ⟨w, gs, saved⟩ := execTeamSave_ok savable quiet team sound launch served
    obtain ⟨S, stands, same⟩ := State.saveTeam_saved w tid T gs
    exact ⟨_, S, saved, State.saveTeam_teams .., State.saveTeam_groups .., stands, same⟩
  · intro s x core unsaved saved none_
    have sub : 2 ^ 32 + x - 2 ^ 32 = x := Nat.add_sub_cancel_left ..
    simp only [exec_teamRestore, execTeamRestore, unsaved, sub, saved, none_]
    exact congrArg Host.Outcome.next (if_pos (by simp))
  · intro s t u x tid core S L ps news found launch restores quiet bound served placed v w
    have restore : (s.ctx x).restores = true := by obtain h | h := restores <;> simp [Ctx.restores, h]
    have core_ : (s.boundCores S.team.lid).contains (core, S.team.part) = true := by simpa using bound
    simp only [exec_teamRestore, execTeamRestore, found, launch, restore, quiet, core_, served, placed]
    rfl
  · intro s core g l pc r G t group free one
    simp only [exec_trapDisposition, execTrapDisposition, group, free, one, Bool.false_eq_true, if_false,
      State.disposeEach_split]
  · intro s tok f c g fault who due
    simp only [exec_pageService, execPageService, fault, who, FaultWho.isFibres, if_true, State.serviceFault, due, bit_eq_testBit,
      Bool.not_true, Bool.false_eq_true, if_false, Bool.or_eq_true, or_assoc]
  · intro s tid T team begun running normal unasked long
    refine congrArg Host.Outcome.next (if_pos ?_)
    simp [State.migratable, team, begun, running, normal, unasked, long]
  · intro s tid d T team asked past unsavable draining
    have named : s.team tid = T := by rw [State.team, tget, team, Option.getD_some]
    simp only [exec_migrationWithdraw, execMigrationWithdraw, team, Option.bind_some, asked, unsavable, named, draining, Bool.or_false,
      decide_eq_true_eq, if_neg (Nat.not_lt.2 past), if_true]
  · intro s core v order
    have low : (s.core core).boundary < 2 ^ 7 := Nat.mod_lt _ (by decide)
    have ordered : ¬ bits v.toNat 16 7 < bits v.toNat 8 7 := by
      have := BitVec.le_def.1 order
      simp only [BitVec.extractLsb'_toNat, Nat.shiftRight_eq_div_pow] at this
      simpa [bits] using this
    refine ⟨_, if_neg ordered, ?_⟩
    rw [State.core_modCore, if_pos rfl]
    obtain ⟨boundary, bmin, bmax, auto⟩ := Core.partition_written (C := { s.core core with part := _ }) v low rfl
    exact ⟨bmin, bmax, auto, boundary, fun c other => (State.core_modCore ..).trans (if_neg (Ne.symm other))⟩
  · intro s die small due
    refine ⟨_, congrArg Host.Outcome.next (if_neg (by simp; omega)), ?_, fun c other => ?_⟩
    · rw [State.die_modDie, if_pos rfl]
      refine congrArg (fun D : Die => D.balance + 57600) (congrArg (fun t => tget t die Die.start) (?_ : _ = s.dies))
      refine keeps_foldl State.dies (fun u c _ => ?_) s
      rfl
    · refine State.balance_core s die c other fun u d hd => ?_
      exact (State.core_modCore ..).trans (if_neg hd)

end Sys2Proof.Machine
end

section
/-!
SUPPORT. The timers of a group (O41).
-/

namespace Sys2Proof.Machine

/-! ## A pusher that comes back -/

theorem Group.repush_frame (G : Group) : { G.repush with lanes := G.lanes } = { G with st := .resident } := by
  exact (Group.foldl_modLane_frame { G with st := .resident } ((G.batches.filter Batch.pushes).flatMap fun B => lanesOf B.lanes) id
    fun _ L => { L with retested := some L.pc } :)

theorem Group.repush_lane {G : Group} {B : Batch} {l : Nat} (mem : B ∈ G.batches) (pushes : B.pushes = true)
    (lane : l ∈ lanesOf B.lanes) : (G.repush.lane l).retested = some (G.lane l).pc := by
  have listed : l ∈ (G.batches.filter Batch.pushes).flatMap fun B => lanesOf B.lanes :=
    List.mem_flatMap.2 ⟨B, List.mem_filter.2 ⟨mem, pushes⟩, lane⟩
  rw [Group.repush, Group.lane_foldl_modLane _ _ (fun _ L => { L with retested := some L.pc }) l fun _ _ => rfl, if_pos listed]
  rfl

/-! ## A held store whose time is over -/

theorem State.perform_near {s : State} {h : HeldStore} (x : Nat) (p : Party) (plain : h.scr = none) (near : s.reach h.pa = .ok) :
    ∃ past, s.perform x p h = { s.wr h.pa h.bytes with past := past } := by
  obtain ⟨past, put⟩ := s.put_frame x p h
  rw [plain] at put
  exact ⟨past, (if_pos (by simp [near])).trans put⟩

/-- The one store of a group is performed. -/
theorem State.performHeld_one {s : State} {c g : Nat} {G : Group} {h : HeldStore} {p : HeldStore → Bool} (group : s.group? c g = some G)
    (held : G.held = [h]) (chosen : p h = true) (plain : h.scr = none) (near : s.reach h.pa = .ok) :
    ∃ past, s.performHeld c g p =
      ({ s.wr h.pa h.bytes with past := past } : State).modGroup c g fun G => { G with held := G.held.filter fun k => !([h].contains k) } := by
  obtain ⟨past, put⟩ := State.perform_near (s := s) G.ctx (partyOf c g G) plain near
  have go : (chosenHeld p [] G.held.reverse).reverse = [h] := by simp [held, chosenHeld, chosen]
  refine ⟨past, ?_⟩
  rw [State.performHeld, group]
  dsimp only
  rw [go, State.performAll, put]

/-! ## A sleep that ends -/

theorem State.group?_endSleep {s : State} {c g d : Nat} {low : Bool} {G : Group} (group : s.group? c g = some G)
    (sleep : G.sleep = some (d, low)) : (s.endSleep c g).group? c g = some { G with sleep := none } := by
  have woken : (s.modGroup c g fun G => { G with sleep := none }).group? c g = some { G with sleep := none } := by
    rw [State.group?_modGroup, if_pos ⟨rfl, rfl⟩, group]
    rfl
  have e : ((s.group? c g).bind fun G => G.sleep.map fun e => (G, e.2)) = some (G, low) := by
    rw [group, Option.bind_some, sleep, Option.map_some]
  rw [State.endSleep, e]
  dsimp only
  split
  · rw [State.modQuad, State.group?, State.core_modCore, if_pos rfl]
    exact woken
  · exact woken

/-! ## A wave -/

theorem Group.proceed_one {G : Group} {B : Batch} (only : G.batches = [B]) :
    (G.proceed 0).batches = [Batch.fresh B.lanes] ∧ ∀ l ∈ lanesOf B.lanes, ((G.proceed 0).lane l).pc = G.batchPc B + 4 := by
  have frame := Group.foldl_modLane_frame G (lanesOf B.lanes) id fun _ L => { L with pc := G.batchPc B + 4 }
  have at_ : G.batches[0]? = some B := by rw [only]; rfl
  rw [Group.proceed, at_]
  refine ⟨?_, fun l hl => ?_⟩
  · exact (congrArg (fun bs : List Batch => bs.modify 0 fun _ => Batch.fresh B.lanes)
      (((congrArg Group.batches frame :) : _ = G.batches).trans only)).trans rfl
  · have lane := Group.lane_foldl_modLane G (lanesOf B.lanes) (fun _ L => { L with pc := G.batchPc B + 4 }) l fun _ _ => rfl
    rw [if_pos hl] at lane
    exact (congrArg Lane.pc lane :)

/-- The wave of a core whose one batch waits for its cycle. -/
theorem execBarrierWaveRelease_one {s : State} {core g k ph due : Nat} {G : Group} {B : Batch} (only : (s.core core).groups = [(g, G)])
    (issues : (s.ctx G.ctx).st.issues = true) (batch : G.batches = [B]) (waits : B.wait = some (.phase k ph (some due)))
    (come : due ≤ s.coreCycle core) :
    ∃ t, execBarrierWaveRelease core s = .next t ∧ t.group? core g = some (G.proceed 0) := by
  have released : B.released (s.coreCycle core) = true := by simp [Batch.released, waits, come]
  have waveDue : s.waveDue core G = true := by simp [State.waveDue, issues, batch, released]
  have group : s.group? core g = some G := by simp [State.group?, only, tget?]
  refine ⟨_, rfl, ?_⟩
  rw [only, List.filter_cons_of_pos (by exact waveDue), List.filter_nil, List.foldl_cons, List.foldl_nil, State.group?_modGroup,
    if_pos ⟨rfl, rfl⟩, group, Option.map_some]
  simp [batch, List.range_succ, released, Group.releaseBatch, waits]

/-- Settles O41. -/
theorem groupTimersAct : Obligations.GroupTimersAct := by
  unfold Obligations.GroupTimersAct
  refine ⟨?_, ?_, ?_, ?_, ?_⟩
  · intro s core g G group issues ready
    refine ⟨?_, (congrArg Group.st G.repush_frame :), (congrArg Group.batches G.repush_frame :),
      fun B mem pushes l lane => Group.repush_lane mem pushes lane⟩
    simp only [exec_pusherReschedule, execPusherReschedule, group, issues, ready, Bool.and_self, if_true]
  · intro s core g G group
    refine ⟨_, { G with touches := G.touches.filter (·.live (s.pulses core)) }, rfl, ?_, fun e => ?_, rfl⟩
    · rw [State.group?_modGroup, if_pos ⟨rfl, rfl⟩, group, Option.map_some]
    · simp [Touch.live]
  · intro s core g G h group held nt plain near due
    have late : h.due (s.coreCycle core) = true := by simp [HeldStore.due, nt, due]
    obtain ⟨past, performed⟩ := State.performHeld_one (p := (·.due (s.coreCycle core))) group held late plain near
    refine ⟨_, { G with held := [] }, congrArg Host.Outcome.next performed, ?_, rfl, rfl⟩
    rw [State.group?_modGroup, if_pos ⟨rfl, rfl⟩]
    refine (congrArg (Option.map _) group).trans ?_
    simp [held]
  · intro s core g d low G group sleep
    have slept : G.slept (s.pulses core) = decide (d ≤ s.pulses core) := by simp [Group.slept, sleep]
    by_cases come : d ≤ s.pulses core
    · refine ⟨s.endSleep core g, { G with sleep := none }, ?_, State.group?_endSleep group sleep, (if_pos come).symm⟩
      simp [execSleepEnd, group, slept, come]
    · refine ⟨s, G, ?_, group, sleep.trans (if_neg come).symm⟩
      simp [execSleepEnd, group, slept, come]
  · intro s core g k ph due G B only issues batch waits come
    obtain ⟨t, run, group⟩ := execBarrierWaveRelease_one only issues batch waits come
    exact ⟨t, _, run, group, Group.proceed_one batch⟩

end Sys2Proof.Machine
end

section
/-!
SUPPORT. The steps of engines and matrix units, and the waits that they end (O42).
-/

namespace Sys2Proof.Machine

/-- How a far request ends: one that nobody waits for is gone, and one that a unit waits for is marked. -/
theorem State.endRemote_entry (s : State) (n : Nat) (r : Remote) : tget? (s.endRemote n r).remotes n =
    match r.who with
    | none => none
    | some (.posted _ _ _) => none
    | some _ => some { r with ended := true } := by
  have gone (t : State) : tget? (tdel t.remotes n) n = none := (tget?_tdel ..).trans (if_pos rfl)
  have marked (t : State) : tget? (tset t.remotes n { r with ended := true }) n = some { r with ended := true } :=
    (tget?_tset ..).trans (if_pos rfl)
  obtain ⟨_, _, _, _, _, _, _, who, _, _⟩ := r
  cases who with
  | none => exact gone _
  | some w =>
    cases w with
    | posted x n drop =>
      cases drop with
      | none => exact gone _
      | some d => exact gone _
    | _ => exact marked _

/-- The service of a fault whose party may go on. -/
theorem State.serviceFault_due {s : State} {tok : Nat} {f : FaultRec} (due : f.due s = true) : s.serviceFault tok f =
    if f.denied = true then s.denyFault tok f
    else if f.settled = true ∨ f.fill = true ∨ s.resolved f.ctx f.va = true then s.settleFault tok f
    else if ((s.ctx f.ctx).word 0x050).testBit 1 then s.forwardFault tok f else s.denyFault tok f := by
  simp only [State.serviceFault, due, bit_eq_testBit, Bool.not_true, Bool.false_eq_true, if_false, Bool.or_eq_true, or_assoc]

section
variable {s : State} {I : Issue} {tk rs : Nat}

theorem matrixIssue_ended {kind : Nat} {sf : BitVec 3} {n : BitVec 7} {o : Option (BitVec 7)} {fail : Option Nat}
    (waits : I.B.wait = some (.op tk rs)) (ended : tget? s.tickets tk = some fail) :
    matrixIssue kind sf n o I s = .go { s with tickets := tdel s.tickets tk } (fail.elim [] fun a => trapAll I (mkTrap 13 0 a)) := by
  simp only [matrixIssue, waits, ended]
  cases fail <;> rfl

/-- A waiting matrix form that is tried again. -/
theorem exec_matrix_again {i : Instr} {sf c : BitVec 3} {n : BitVec 7} (again : Again s I)
    (form : i = .mbldW sf n c ∨ i = .mmulW sf n c ∨ i = .mhadW sf n c ∨ i = .mscaW sf n c ∨ i = .mqntW sf n c) :
    ∃ kind, exec i s = (matrixIssue kind sf n none I s).out (matrixForm i kind n none c) I := by
  obtain rfl | rfl | rfl | rfl | rfl := form
  · exact ⟨_, issue_again _ again⟩
  · exact ⟨_, issue_again _ again⟩
  · exact ⟨_, issue_again _ again⟩
  · exact ⟨_, issue_again _ again⟩
  · exact ⟨_, issue_again _ again⟩

end

/-- Settles O42. -/
theorem engineStepsAct : Obligations.EngineStepsAct := by
  unfold Obligations.EngineStepsAct
  refine ⟨⟨?_, ?_, ?_, ?_, ?_, ?_, ?_, ?_⟩, ?_⟩
  · intro s die o next ring
    simp only [exec_engineTake, execEngineTake, next, beq_self_eq_true, if_true, State.beginOp, ring]
  · intro s die op o found due
    simp only [exec_operationCompletion, execOperationCompletion, found, due, Bool.not_true, Bool.false_eq_true, if_false]
  · intro s tok f fault unit due
    simp only [exec_engineLineService, execEngineLineService, fault, unit, Bool.false_eq_true, if_false, State.serviceFault_due due]
  · intro s t die x stream src n st swz bf o ps bs due kind S reached read
    have key : streamKey x stream = 16 * x + stream := by rw [streamKey, Nat.mul_comm]
    simp only [S] at reached read
    simp only [exec_tableReady, execTableReady, key, due, kind, reached, read]
  · intro s die x stream stalled late
    have key : streamKey x stream = 16 * x + stream := by rw [streamKey, Nat.mul_comm]
    refine congrArg Host.Outcome.next ?_
    rw [key, if_pos]
    simp [State.statusDue, stalled, late]
  · intro s n c contribution quiet
    simp only [exec_byteContribution, execByteContribution, contribution, quiet, Bool.false_eq_true, if_false]
  · intro s core m rest queue due r u
    simp only [exec_matrixOpComplete, execMatrixOpComplete, queue, due, Bool.not_true, Bool.false_eq_true, if_false,
      Option.isNone_iff_eq_none]
    rfl
  · intro s n r remote due running
    refine ⟨s.endRemote n r, ?_, State.endRemote_entry s n r⟩
    simp only [exec_remoteTimeout, execRemoteTimeout, remote, running, Bool.or_false, decide_eq_true_eq, if_neg (Nat.not_lt.2 due)]
  · intro i s I tk rs again waits
    refine ⟨?_, ?_, ?_⟩
    · rintro n m c rfl ended
      simp only [exec_tmovW, execTmovW]
      refine (issue_again _ again).trans ?_
      simp only [ticketRetry, waits, ended, if_true]
      rfl
    · rintro r n c rfl settled
      have iter (v : Nat) : nameIter v = v % 2 ^ 16 := congrArg (· % 2 ^ 16) (Nat.div_one v)
      simp only [exec_nret, execNret]
      refine (issue_again _ again).trans ?_
      simp only [waits, Issue.scope, iter, nameTensor, bits, settled]
      rfl
    · intro sf n c form
      obtain ⟨kind, run⟩ := exec_matrix_again again form
      refine ⟨fun ended => ?_, fun a ended => ?_⟩
      · rw [run, matrixIssue_ended waits ended]
        rfl
      · rw [run, matrixIssue_ended waits ended]
        rfl

end Sys2Proof.Machine
end

section
/-!
SUPPORT. The requests of a session, in its turn (O47).
-/

namespace Sys2Proof.Machine

/-! ## A request in its turn -/

theorem sub32_self {a : Nat} (small : a < 2 ^ 32) : sub32 a a = 0 := by
  rw [sub32, Nat.mod_eq_of_lt small, Nat.add_sub_cancel' small.le, Nat.mod_self]

/-- The session as it stands when its message has been heard. -/
def Session.told (S : Session) (ptp : Nat) : Session := { S with heard := ptp }

theorem State.hear_session {s : State} {k : Nat} {S : Session} (named : tget? s.host.sessions k = some S) :
    tget? (s.hear k).host.sessions k = some (S.told s.ptp) := by
  change tget? (tmod s.host.sessions k fun S => S.told s.ptp) k = _
  rw [tget?_tmod_self, named, Option.map_some]

theorem State.hear_other (s : State) {k j : Nat} (other : j ≠ k) :
    tget? (s.hear k).host.sessions j = tget? s.host.sessions j :=
  tget?_tmod_of_ne s.host.sessions (fun S => S.told s.ptp) (Ne.symm other)

/-- A request of a session in its turn, of an owner where it needs one, is served. -/
theorem State.performReq_serves {t : State} {k seq : Nat} {S : Session} {r : HostReq} (valid : t.ptp < S.expiry)
    (thawn : S.frozen = false) (boot : t.host.boot = 0 ∨ r.inRecovery = true) (owner : r.needsOwner = false ∨ t.host.owner = some k)
    (at_ : Nat) : t.performReq k seq at_ S r = t.serve k seq at_ S r := by
  have running : (t.host.boot != 0 && !r.inRecovery) = false := by
    obtain b | b := boot <;> simp [b]
  have allowed : (r.needsOwner && t.host.owner != some k) = false := by
    obtain o | o := owner <;> simp [o]
  simp only [State.performReq, Session.valid, valid, thawn, running, allowed, decide_true, Bool.not_true, Bool.false_eq_true, if_false]

section
variable {s : State} {k seq : Nat} {S : Session} {r : HostReq} (inTurn : s.InTurn k seq S)
include inTurn

theorem State.receive_inTurn : s.receive k seq r = (s.hear k).performNext k seq s.ptp r := by
  obtain ⟨heard, named, turn, small, ahead, thawn, valid⟩ := inTurn
  simp only [State.receive, State.arrive, heard, if_true, State.takeRequest, named, ahead, turn, List.any_nil, Bool.false_eq_true,
    if_false, sub32_self small, Nat.mod_eq_of_lt small, beq_self_eq_true]

/-- A request in its turn that is answered OK: the reply is sent and kept. -/
theorem State.receive_ok (boot : s.host.boot = 0 ∨ r.inRecovery = true) (owner : r.needsOwner = false ∨ s.host.owner = some k)
    {t : State} {p : List Byte} (served : (s.hear k).serve k seq s.ptp (S.told s.ptp) r = { state := t, status := 0, payload := p }) :
    s.receive k seq r = t.replied k seq r.type 0 p := by
  rw [State.receive_inTurn inTurn, State.performNext, State.hear_session inTurn.named]
  dsimp only
  rw [State.performReq_serves (by exact inTurn.valid) (by exact inTurn.thawn) (by exact boot) (by exact owner), served]
  rfl

/-- A request in its turn that is answered OK without a payload. -/
theorem State.receive_done (boot : s.host.boot = 0 ∨ r.inRecovery = true) (owner : r.needsOwner = false ∨ s.host.owner = some k)
    {t : State} (served : (s.hear k).serve k seq s.ptp (S.told s.ptp) r = answered (t, 0)) :
    s.receive k seq r = t.replied k seq r.type 0 [] := State.receive_ok inTurn boot owner served

end

/-! ## Bytes of messages -/

theorem leNat_leBytes (n v : Nat) : leNat (leBytes n v) = v % 2 ^ (8 * n) := by
  induction n generalizing v with
  | zero => rw [Nat.mul_zero, pow_zero, Nat.mod_one]; rfl
  | succ n ih =>
    rw [leBytes, leNat, ih, BitVec.toNat_ofNat, Nat.mul_succ, Nat.add_comm (8 * n) 8, pow_add]
    exact (Nat.mod_mul ..).symm

/-- The bytes at a place of a message. -/
theorem sliceBytes_middle (as bs cs : List Byte) : sliceBytes (as ++ bs ++ cs) as.length bs.length = bs := by
  rw [sliceBytes, List.append_assoc, List.drop_left, List.take_left, Nat.sub_self]
  exact List.append_nil _

theorem byteField_middle (as cs : List Byte) (n v : Nat) :
    byteField (as ++ leBytes n v ++ cs) as.length n = v % 2 ^ (8 * n) := by
  have h := sliceBytes_middle as (leBytes n v) cs
  rw [leBytes_length] at h
  rw [byteField, h, leNat_leBytes]

theorem byteField_first (cs : List Byte) (n v : Nat) : byteField (leBytes n v ++ cs) 0 n = v % 2 ^ (8 * n) :=
  byteField_middle [] cs n v

theorem byteField_alone (n v : Nat) : byteField (leBytes n v) 0 n = v % 2 ^ (8 * n) := by
  rw [← byteField_first [] n v, List.append_nil]

/-! ## The requests -/

theorem Session.candidate_told (S : Session) (ptp : Nat) : (S.told ptp).candidate ptp = S.candidate ptp := rfl

theorem State.setOwner_owner (s : State) (k cause : Nat) : (s.setOwner k cause).host.owner = some k := by
  unfold State.setOwner State.event
  dsimp only
  split <;> rfl

/-- A context without features takes an offered set that holds the base. -/
theorem State.acceptFeatures_ok {s : State} {x : Nat} {f : BitVec 256} (fresh : (s.ctx x).features = none) (base : f.getLsbD 0 = true)
    (within : f &&& 0x3FF = f) : s.acceptFeatures x f = (s.modCtx x fun c => { c with features := some f }, 0) := by
  simp only [State.acceptFeatures, offered, fresh, base, within, bne_self_eq_false]
  rfl

/-- A claim where no session is owner wins. -/
theorem State.hostClaim_free {s : State} (k at_ : Nat) (free : s.host.owner = none) : s.hostClaim k at_ =
    { state := (s.modSession k fun S => { S with claim := some (at_ + 500000000) }).setOwner k 0, status := 0, payload := [1, 0, 0, 0] } := by
  simp only [State.hostClaim, free, Option.isNone_none, if_true, State.setOwner_owner, beq_self_eq_true, b2n]
  rfl

theorem State.hostClaim_owned {s : State} (k at_ : Nat) (owned : s.host.owner ≠ none) : s.hostClaim k at_ =
    { state := s.modSession k fun S => { S with claim := some (at_ + 500000000) }, status := 0,
      payload := [if s.host.owner = some k then 1 else 0, 0, 0, 0] } := by
  have e : s.host.owner.isNone = false := by rwa [← Bool.not_eq_true, Option.isNone_iff_eq_none]
  have kept : (s.modSession k fun S => { S with claim := some (at_ + leaseNs) }).host.owner = s.host.owner := rfl
  simp only [State.hostClaim, e, Bool.false_eq_true, if_false, kept]
  by_cases mine : s.host.owner = some k
  · simp only [mine, beq_self_eq_true, if_true]
    rfl
  · simp only [beq_eq_false_iff_ne.2 mine, if_neg mine]
    rfl

/-- A WRITE of a legal size to a space goes to that space. -/
theorem State.hostWrite_fits {s : State} {k seq space x addr : Nat} {data : List Byte} (known : space ≤ 3) (named : ctxOk space x = true)
    (few : data.length ≤ 8192) (some_ : data ≠ [] ∨ space = 3) : s.hostWrite k seq space x addr data =
      match (generalizing := false) space with
      | 0 => s.writeMem k x addr data
      | 1 => answered (s.writeCtl x seq addr data)
      | 2 => answered (s.writeDevice addr data)
      | _ => if s.host.boot == 0 then refuse s stInvalid else s.writeImage addr data := by
  have ok : (3 < space || !ctxOk space x || accessMax < data.length || (data.length == 0 && space != 3)) = false := by
    simp only [named, Bool.or_eq_false_iff, decide_eq_false_iff_not, Nat.not_lt, accessMax]
    refine ⟨⟨⟨known, rfl⟩, decide_eq_false (Nat.not_lt.2 few)⟩, ?_⟩
    obtain data | image := some_
    · simp [data]
    · simp [image]
  simp only [State.hostWrite, ok, Bool.false_eq_true, if_false] <;> rfl

theorem State.writeDevice_command {s : State} {data : List Byte} (whole : data.length = 8) :
    s.writeDevice 0x080 data = s.sessionCommand data := by
  simp [State.writeDevice, whole]

/-- The session command thaws a frozen session. -/
theorem State.sessionCommand_thaws {s : State} {target : Nat} {N : Session} (small : target < 2 ^ 32)
    (named : tget? s.host.sessions target = some N) (frozen : N.frozen = true) :
    s.sessionCommand (leBytes 4 1 ++ leBytes 4 target) =
      (s.modHost fun H => { H with sessions := tset H.sessions target { N with frozen := false } }, 0) := by
  have id : byteField (leBytes 4 1 ++ leBytes 4 target) 4 4 = target := by
    have h := byteField_middle (leBytes 4 1) [] 4 target
    rw [List.append_nil, leBytes_length] at h
    rw [h, Nat.mod_eq_of_lt small]
  have op : byteField (leBytes 4 1 ++ leBytes 4 target) 0 4 = 1 := byteField_first ..
  simp only [State.sessionCommand, id, named, op, frozen]
  rfl

/-- Settles O47. -/
theorem sessionRequestsServed : Obligations.SessionRequestsServed := by
  unfold Obligations.SessionRequestsServed
  refine ⟨fun s k seq S inTurn => ⟨?_, ?_, ?_, ?_, ?_, ?_, ?_⟩, fun s k seq S inTurn => ⟨?_, ?_, ?_, ?_, ?_⟩⟩
  · intro boot
    exact congrArg Host.Outcome.next (State.receive_ok inTurn (.inl boot) (.inl rfl) rfl)
  · intro x f boot owner low fresh base offered_
    refine congrArg Host.Outcome.next (State.receive_done inTurn (.inl boot) (.inr owner) ?_)
    rw [State.serve, if_pos low, State.acceptFeatures_ok (s := s.hear k) fresh base offered_]
  · rintro u rfl
    refine ⟨fun free => ?_, fun owned => ?_⟩
    · exact congrArg Host.Outcome.next (State.receive_ok inTurn (.inr rfl) (.inl rfl)
        (State.hostClaim_free (s := s.hear k) k s.ptp free))
    · exact congrArg Host.Outcome.next (State.receive_ok inTurn (.inr rfl) (.inl rfl)
        (State.hostClaim_owned (s := s.hear k) k s.ptp owned))
  · intro to_ N owner named candidate boot
    refine congrArg Host.Outcome.next (State.receive_done inTurn (.inl boot) (.inr owner) ?_)
    have fit : ((tget? (s.hear k).host.sessions to_).map fun S => S.candidate s.ptp).getD false = true := by
      by_cases self : to_ = k
      · subst self
        rw [State.hear_session named]
        exact candidate
      · rw [State.hear_other s self, named]
        exact candidate
    exact if_pos fit
  · rintro fin rfl owner
    exact congrArg Host.Outcome.next (State.receive_ok inTurn (.inr rfl) (.inr owner) rfl)
  · intro p boot power length
    refine congrArg Host.Outcome.next (State.receive_done inTurn (.inl boot) (.inl rfl) ?_)
    have right : (S.told s.ptp).power = true := power
    simp only [State.serve, State.hostPower, right, length]
    rfl
  · intro target N boot owner small named frozen
    refine congrArg Host.Outcome.next (State.receive_done inTurn (.inl boot) (.inr owner) ?_)
    have other : target ≠ k := by
      rintro rfl
      exact absurd (Option.some.inj (named.symm.trans inTurn.named) ▸ frozen) (by rw [inTurn.thawn]; decide)
    rw [State.serve, State.hostWrite_fits (by decide) (by rfl) (by simp [leBytes_length]) (.inl (by simp [leBytes]))]
    exact congrArg answered ((State.writeDevice_command (by simp [leBytes_length])).trans <| State.sessionCommand_thaws small ((s.hear_other other).trans named) frozen)
  · intro x va n bs boot low some_ few inside read
    refine congrArg Host.Outcome.next (State.receive_ok inTurn (.inl boot) (.inl rfl) ?_)
    have ok : (3 < 0 || !ctxOk 0 x || n == 0 || accessMax < n) = false := by
      simp only [ctxOk, Bool.or_eq_false_iff]
      exact ⟨⟨⟨rfl, by simpa using low⟩, by simpa using some_.ne'⟩, decide_eq_false (Nat.not_lt.2 few)⟩
    simp only [State.serve, State.hostRead, ok, Bool.false_eq_true, if_false, State.readMem, vaTop, if_neg (Nat.not_lt.2 inside), read]
    rfl
  · intro x va bs t boot owner low some_ few inside write
    refine congrArg Host.Outcome.next (State.receive_done inTurn (.inl boot) (.inr owner) ?_)
    rw [State.serve, State.hostWrite_fits (by decide) (by simp [ctxOk, low]) few (.inl some_)]
    simp only [State.writeMem, vaTop, if_neg (Nat.not_lt.2 inside), write]
    rfl
  · intro x q blocks Q t boot owner low lowq some_ few whole live queue enabled going room put
    refine congrArg Host.Outcome.next (State.receive_ok inTurn (.inl boot) (.inr owner) ?_)
    have ok : (4096 ≤ x || 16 ≤ q || blocks.length == 0 || 32 < blocks.length || blocks.any fun b => b.length != 256) = false := by
      simp [some_]
      exact ⟨⟨⟨low, lowq⟩, few⟩, whole⟩
    have alive : ((s.hear k).ctx x).st ≠ .lost := live
    simp only [State.serve, State.hostSubmit, ok, beq_eq_false_iff_ne.2 alive, queue, enabled, going, Bool.not_true, Bool.false_or,
      Nat.not_lt.2 room, decide_false, Bool.false_eq_true, if_false, put]
    rfl
  · intro addr bs boot owner some_ few inside
    refine congrArg Host.Outcome.next (State.receive_done inTurn (.inr rfl) (.inr owner) ?_)
    have recovery : ((s.hear k).host.boot == 0) = false := by exact beq_eq_false_iff_ne.2 boot
    have data : bs.isEmpty = false := by simpa using some_
    rw [State.serve, State.hostWrite_fits (by decide) (by rfl) few (.inl some_)]
    simp only [recovery, Bool.false_eq_true, if_false, State.writeImage, data, imageTop]
    exact if_neg (Nat.not_lt.2 inside)
  · intro boot owner
    refine congrArg Host.Outcome.next (State.receive_done inTurn (.inr rfl) (.inr owner) ?_)
    have recovery : ((s.hear k).host.boot == 0) = false := by exact beq_eq_false_iff_ne.2 boot
    have size : (s.host.imageSize == (s.hear k).host.imageSize) = true := by exact beq_self_eq_true _
    rw [State.serve, State.hostWrite_fits (by decide) (by rfl) (by decide) (.inr rfl)]
    simp only [recovery, Bool.false_eq_true, if_false, State.writeImage, List.isEmpty_nil, if_true, size]
    rfl

end Sys2Proof.Machine
end

section
/-!
SUPPORT. The commands of the owner, in turn (O48).
-/

namespace Sys2Proof.Machine

/-! ## The bytes of a command -/

theorem commandBytes_eq {op : Nat} {args : List Byte} (fits : args.length ≤ 56) :
    commandBytes op args = leBytes 4 op ++ leBytes 4 0 ++ args ++ List.replicate (56 - args.length) 0 := by
  have length : (leBytes 4 op ++ leBytes 4 0 ++ args).length = 8 + args.length := by
    simp only [List.length_append, leBytes_length]
  rw [commandBytes, sliceBytes, List.drop_zero, List.take_of_length_le (by omega), length, show 64 - (8 + args.length) = 56 - args.length by omega]

/-- The bytes of a command hold its op and its arguments, with zeros behind. -/
theorem parseCommand_commandBytes {op : Nat} {args : List Byte} (small : op < 2 ^ 32) (fits : args.length ≤ 56) :
    parseCommand (commandBytes op args) = some { op := op, args := args ++ List.replicate (56 - args.length) 0 } := by
  rw [commandBytes_eq fits]
  have length : (leBytes 4 op ++ leBytes 4 0 ++ args ++ List.replicate (56 - args.length) 0).length = 64 := by
    simp only [List.length_append, leBytes_length, List.length_replicate]
    omega
  have first : byteField (leBytes 4 op ++ leBytes 4 0 ++ args ++ List.replicate (56 - args.length) 0) 0 4 = op := by
    rw [List.append_assoc, List.append_assoc, byteField_first, Nat.mod_eq_of_lt small]
  have second : byteField (leBytes 4 op ++ leBytes 4 0 ++ args ++ List.replicate (56 - args.length) 0) 4 4 = 0 := by
    have h := byteField_middle (leBytes 4 op) (args ++ List.replicate (56 - args.length) 0) 4 0
    rw [leBytes_length, ← List.append_assoc] at h
    exact h
  have rest : (leBytes 4 op ++ leBytes 4 0 ++ args ++ List.replicate (56 - args.length) 0).drop 8 =
      args ++ List.replicate (56 - args.length) 0 := by
    rw [List.append_assoc]
    exact List.drop_left' (by simp only [List.length_append, leBytes_length])
  rw [parseCommand, length, second, first, rest]
  rfl

section
variable {s : State} {k seq x op : Nat} {S : Session} {args : List Byte} {t : State}

/-- A command of the owner, in turn, whose arguments fill what its op uses: it is performed, and its reply is OK. -/
theorem State.sendCommand_ok (inTurn : s.InTurn k seq S) (boot : s.host.boot = 0) (owner : s.host.owner = some k) (low : x < 4096)
    (small : op < 2 ^ 32) (fits : args.length = commandArgs op) (most : args.length ≤ 56)
    (run : ∀ zs, ((args ++ zs).drop (commandArgs op)).any (· != 0) = false →
      (s.hear k).command x seq { op := op, args := args ++ zs } = (t, 0)) :
    s.sendCommand k seq x op args = t.replied k seq 7 0 [] := by
  refine State.receive_done inTurn (.inl boot) (.inr owner) ?_
  have length : (commandBytes op args).length = 64 := by
    rw [commandBytes_eq most]
    simp only [List.length_append, leBytes_length, List.length_replicate]
    omega
  have zeros : ((args ++ List.replicate (56 - args.length) (0 : Byte)).drop (commandArgs op)).any (· != 0) = false := by
    rw [← fits, List.drop_left, List.any_eq_false]
    intro b hb
    simp [List.eq_of_mem_replicate hb]
  rw [State.serve, State.hostWrite_fits (by decide) (by simp [ctxOk, low]) (by omega) (.inl (by rintro e; simp [e] at length))]
  simp only [State.writeCtl, length, parseCommand_commandBytes small most, run _ zeros]
  rfl

end

/-- A command that takes effect at once. -/
theorem State.cmdIf_ok {s t : State} {ok : Bool} {x op seq : Nat} (h : ok = true) :
    s.cmdIf ok x op seq t = (t.cmdDone x op 0 seq, 0) := if_pos h

theorem State.openToken_eq {s : State} {x tok : Nat} {F : FaultRec} (fault : tget? s.faults tok = some F) (own : F.ctx = x)
    (forwarded : F.forwarded = true) (denied : F.denied = false) (settled : F.settled = false) : s.openToken x tok = some F := by
  simp [State.openToken, fault, own, forwarded, denied, settled]

theorem State.cmdInvalidate_all {s : State} {x seq : Nat} :
    s.cmdInvalidate x 0 0 seq = (s.startInval x none (some (8, 0, seq)) none, 0) := rfl

theorem State.cmdInvalidate_range {s : State} {x va len seq : Nat} (some_ : len ≠ 0) (inside : va + len ≤ 2 ^ 52) :
    s.cmdInvalidate x va len seq = (s.startInval x (some (va, len)) (some (8, 0, seq)) none, 0) := by
  have ok : (vaTop ≤ va || vaTop < len || vaTop < va + len || (len == 0 && va != 0)) = false := by
    have : vaTop = 2 ^ 52 := rfl
    simp only [Bool.or_eq_false_iff, decide_eq_false_iff_not, beq_eq_false_iff_ne.2 some_, Bool.false_and, and_true]
    omega
  rw [State.cmdInvalidate, ok, beq_eq_false_iff_ne.2 some_]
  rfl

/-- The eviction of a FILLED block begins, or waits for another one of its range. -/
theorem State.cmdEvict_filled {s : State} {x va seq : Nat} {l : Leaf} {r : RangeDesc} (small : va < 2 ^ 52)
    (leaf : s.procLeaf x va = some l) (range : s.rangeOf x va = some r) (registered : s.registered x l = true)
    (filled : s.fillState x l = fsFilled) (quiet : ∀ f ∈ (s.ctx x).fills, f.block ≠ l.va) : s.cmdEvict x va seq =
      (if (s.ctx x).evicts r.idx then s.modCtx x fun c => { c with evictq := c.evictq ++ [(l.va, r.idx, r.bsize, seq)] }
       else s.startEvict x l.va r.idx r.bsize (some (9, 0, seq)), 0) := by
  have idle : ((s.ctx x).fills.any fun f => f.block == l.va) = false := by simpa using quiet
  simp only [State.cmdEvict, vaTop, if_neg (Nat.not_le.2 small), leaf, range, registered, filled, idle]
  by_cases busy : (s.ctx x).evicts r.idx = true
  · simp only [busy]
    rfl
  · simp only [busy]
    rfl

/-- Settles O48. -/
theorem commandsServed : Obligations.CommandsServed := by
  unfold Obligations.CommandsServed
  intro s k seq x S inTurn boot owner low h done
  have send {op : Nat} {args : List Byte} {t : State} := State.sendCommand_ok (op := op) (args := args) (t := t) inTurn boot owner low
  refine ⟨?_, ?_, ?_, ?_, ?_, ?_, ?_, ?_, ?_, ?_, ?_, ?_, ?_⟩
  · intro f fresh base offered_
    refine congrArg Host.Outcome.next (send (by decide) (leBytes_length ..) (by simp [leBytes_length]) fun zs tail => ?_)
    have set_ : BitVec.ofNat 256 (byteField (leBytes 32 f.toNat ++ zs) 0 32) = f := by
      rw [byteField_first, Nat.mod_eq_of_lt f.isLt, BitVec.ofNat_toNat, BitVec.setWidth_eq]
    simp only [State.command, tail, Bool.false_eq_true, if_false, set_, State.acceptFeatures_ok (s := s.hear k) fresh base offered_]
    rfl
  · intro other active
    have host : (k == 0) = false := beq_eq_false_iff_ne.2 other
    simp only [exec_requestPreemption, execRequestPreemption, host, Bool.false_eq_true, if_false]
    refine congrArg Host.Outcome.next (send (by decide) rfl (by decide) fun zs tail => ?_)
    simp only [State.command, tail, Bool.false_eq_true, if_false]
    exact State.cmdIf_ok (beq_iff_eq.2 active)
  · intro draining
    refine congrArg Host.Outcome.next (send (by decide) rfl (by decide) fun zs tail => ?_)
    simp only [State.command, tail, Bool.false_eq_true, if_false]
    exact State.cmdIf_ok (beq_iff_eq.2 draining)
  · intro stopped
    refine congrArg Host.Outcome.next (send (by decide) rfl (by decide) fun zs tail => ?_)
    simp only [State.command, tail, Bool.false_eq_true, if_false]
    exact State.cmdIf_ok (beq_iff_eq.2 stopped)
  · intro frozen
    refine congrArg Host.Outcome.next (send (by decide) rfl (by decide) fun zs tail => ?_)
    simp only [State.command, tail, Bool.false_eq_true, if_false]
    exact State.cmdIf_ok (beq_iff_eq.2 frozen)
  · refine congrArg Host.Outcome.next (send (by decide) rfl (by decide) fun zs tail => ?_)
    simp only [State.command, tail, Bool.false_eq_true, if_false]
    exact State.cmdIf_ok (s := h) rfl
  · intro lost
    refine congrArg Host.Outcome.next (send (by decide) rfl (by decide) fun zs tail => ?_)
    simp only [State.command, tail, Bool.false_eq_true, if_false]
    exact State.cmdIf_ok (beq_iff_eq.2 lost)
  · refine congrArg Host.Outcome.next (send (by decide) rfl (by decide) fun zs tail => ?_)
    have start : byteField (leBytes 8 0 ++ leBytes 8 0 ++ zs) 0 8 = 0 := by rw [List.append_assoc, byteField_first, Nat.zero_mod]
    have size : byteField (leBytes 8 0 ++ leBytes 8 0 ++ zs) 8 8 = 0 := by
      have at_ := byteField_middle (leBytes 8 0) zs 8 0
      rwa [leBytes_length, Nat.zero_mod] at at_
    simp only [State.command, tail, Bool.false_eq_true, if_false, start, size]
    exact State.cmdInvalidate_all (s := h)
  · intro va len some_ inside
    refine congrArg Host.Outcome.next (send (by decide) rfl (by simp [leBytes_length]) fun zs tail => ?_)
    have start : byteField (leBytes 8 va ++ leBytes 8 len ++ zs) 0 8 = va := by
      rw [List.append_assoc, byteField_first]
      exact Nat.mod_eq_of_lt (by omega)
    have size : byteField (leBytes 8 va ++ leBytes 8 len ++ zs) 8 8 = len := by
      have at_ := byteField_middle (leBytes 8 va) zs 8 len
      rw [leBytes_length] at at_
      rw [at_]
      exact Nat.mod_eq_of_lt (by omega)
    simp only [State.command, tail, Bool.false_eq_true, if_false, start, size]
    exact State.cmdInvalidate_range some_ inside
  · intro va l r small leaf range registered filled quiet
    refine congrArg Host.Outcome.next (send (by decide) rfl (by simp [leBytes_length]) fun zs tail => ?_)
    have start : byteField (leBytes 8 va ++ zs) 0 8 = va := by
      rw [byteField_first]
      exact Nat.mod_eq_of_lt (by omega)
    simp only [State.command, tail, Bool.false_eq_true, if_false, start]
    exact State.cmdEvict_filled (s := h) small leaf range registered filled quiet
  · refine congrArg Host.Outcome.next (send (by decide) rfl (by decide) fun zs tail => ?_)
    simp only [State.command, tail, Bool.false_eq_true, if_false]
    exact State.cmdIf_ok (s := h) rfl
  · refine congrArg Host.Outcome.next (send (by decide) rfl (by decide) fun zs tail => ?_)
    simp only [State.command, tail, Bool.false_eq_true, if_false]
    exact State.cmdIf_ok (s := h) rfl
  · intro tok F small fault own forwarded denied settled
    have named (zs : List Byte) : byteField (leBytes 8 tok ++ zs) 0 8 = tok := by
      rw [byteField_first]
      exact Nat.mod_eq_of_lt small
    have open_ : (s.hear k).openToken x tok = some F := State.openToken_eq fault own forwarded denied settled
    refine ⟨congrArg Host.Outcome.next (send (by decide) rfl (by simp [leBytes_length]) fun zs tail => ?_),
      congrArg Host.Outcome.next (send (by decide) rfl (by simp [leBytes_length]) fun zs tail => ?_)⟩
    · simp only [State.command, tail, Bool.false_eq_true, if_false, named, open_]
      exact State.cmdIf_ok (s := h) rfl
    · simp only [State.command, tail, Bool.false_eq_true, if_false, named, open_]
      exact State.cmdIf_ok (s := h) rfl

end Sys2Proof.Machine
end

section
/-!
SUPPORT. Writes of the owner to control spaces, and the steps of sessions (O49, O50).
-/

namespace Sys2Proof.Machine

/-! ## Writes to control spaces -/

theorem offsetWords_one (addr : Nat) {v : Nat} (small : v < 2 ^ 32) : offsetWords addr (leBytes 4 v) = [(addr, v)] := by
  have value : (word (byteField (leBytes 4 v) 0 4)).toNat = v := by
    rw [byteField_alone, word, BitVec.toNat_ofNat]
    omega
  simp only [offsetWords, leBytes_length, bytesWords, Nat.div_self (by decide : 0 < 4), List.zipIdx_cons, List.zipIdx_nil, List.map_cons,
    List.map_nil, Nat.mul_zero, Nat.add_zero, value]

/-- A word that the device control space may take is written. -/
theorem State.writeDevice_word {s : State} {addr v : Nat} (aligned : addr % 4 = 0) (inside : addr + 4 ≤ 0x400) (small : v < 2 ^ 32)
    (ok : deviceWordOk addr v = true) : s.writeDevice addr (leBytes 4 v) = (s.putDevice addr v, 0) := by
  have fits : (addr % 4 != 0 || 4 % 4 != 0 || 0x400 < addr + 4) = false := by
    simp only [aligned, bne_self_eq_false, Bool.false_or, decide_eq_false_iff_not]
    omega
  simp only [State.writeDevice, leBytes_length, fits, Bool.false_eq_true, if_false, offsetWords_one addr small, List.all_cons, ok, List.all_nil,
    Bool.and_true, List.foldl_cons, List.foldl_nil]
  exact if_neg (by simp)

/-- A write to the blocks of a control space, the command block aside. -/
theorem State.writeCtl_space {s t : State} {x seq addr : Nat} {data : List Byte} (aligned : addr % 4 = 0) (words : data.length % 4 = 0)
    (some_ : data ≠ []) (inside : addr + data.length ≤ 0x200 ∨ 0x240 ≤ addr ∧ addr + data.length ≤ 4096)
    (takes : s.writeSpace x addr data = some t) : s.writeCtl x seq addr data = (t, 0) := by
  have length : 0 < data.length := List.length_pos_of_ne_nil some_
  have fits : (addr % 4 != 0 || data.length % 4 != 0 || 4096 < addr + data.length) = false := by
    simp only [aligned, words, bne_self_eq_false, Bool.false_or, decide_eq_false_iff_not]
    omega
  have other : ¬ (addr == 0x200 && data.length == 64) = true := by
    simp only [Bool.and_eq_true, beq_iff_eq]
    omega
  have apart : ¬ (addr < 0x240 && 0x200 < addr + data.length) = true := by
    simp only [Bool.and_eq_true, decide_eq_true_eq]
    omega
  simp only [State.writeCtl, fits, Bool.false_eq_true, if_false, if_neg other, if_neg apart, takes]
  rfl

/-- The word of a core's sampling control register. -/
theorem sampling_word {s : State} {core v : Nat} (small : core < 192) (period : bit v 20 = true → 16 ≤ bits v 0 20) :
    deviceWordOk (0x100 + 4 * core) v = true ∧ s.putDevice (0x100 + 4 * core) v = s.writeSampling core v := by
  have high (o : Nat) (low : o < 0x100) : ¬ (0x100 + 4 * core == o) = true := by
    rw [beq_iff_eq]
    omega
  have mid : ¬ (0x040 ≤ 0x100 + 4 * core && 0x100 + 4 * core < 0x070) = true := by
    simp only [Bool.and_eq_true, decide_eq_true_eq]
    omega
  have here : (0x100 ≤ 0x100 + 4 * core && 0x100 + 4 * core < 0x400) = true := by
    simp only [Bool.and_eq_true, decide_eq_true_eq]
    omega
  constructor
  · rw [deviceWordOk, if_neg (high 0 (by decide)), if_neg (high 4 (by decide)), if_neg (high 8 (by decide)), if_neg mid, if_pos here]
    cases on : bit v 20
    · rfl
    · simpa using period on
  · rw [State.putDevice, if_neg (high 0 (by decide)), if_neg (high 4 (by decide)), if_neg (high 8 (by decide)), if_neg mid, if_pos here,
      Nat.add_sub_cancel_left, Nat.mul_div_cancel_left _ (by decide)]

section
variable {s t : State} {k seq : Nat} {S : Session}

/-- A write of the owner, in turn, to the device control space. -/
theorem State.sendDevice_word (inTurn : s.InTurn k seq S) (boot : s.host.boot = 0) (owner : s.host.owner = some k) {addr v : Nat}
    (aligned : addr % 4 = 0) (inside : addr + 4 ≤ 0x400) (small : v < 2 ^ 32) (ok : deviceWordOk addr v = true) :
    s.sendDevice k seq addr (leBytes 4 v) = ((s.hear k).putDevice addr v).replied k seq 7 0 [] := by
  refine State.receive_done inTurn (.inl boot) (.inr owner) ?_
  rw [State.serve, State.hostWrite_fits (by decide) (by rfl) (by simp [leBytes_length]) (.inl (by simp [leBytes]))]
  exact congrArg answered (State.writeDevice_word aligned inside small ok)

/-- A write of the owner, in turn, to a block of a context's control space. -/
theorem State.sendBlock_ok (inTurn : s.InTurn k seq S) (boot : s.host.boot = 0) (owner : s.host.owner = some k) {x base off : Nat}
    {data : List Byte} (low : x < 4096) (aligned : (base + off) % 4 = 0) (words : data.length % 4 = 0) (some_ : data ≠ [])
    (few : data.length ≤ 4096)
    (inside : base + off + data.length ≤ 0x200 ∨ 0x240 ≤ base + off ∧ base + off + data.length ≤ 4096)
    (takes : (s.hear k).writeSpace x (base + off) data = some t) : s.sendBlock k seq x base off data = t.replied k seq 7 0 [] := by
  refine State.receive_done inTurn (.inl boot) (.inr owner) ?_
  rw [State.serve, State.hostWrite_fits (by decide) (by simp [ctxOk, low]) (by omega) (.inl some_)]
  exact congrArg answered (State.writeCtl_space aligned words some_ inside takes)

end

/-- Settles O49. -/
theorem controlWritesServed : Obligations.ControlWritesServed := by
  unfold Obligations.ControlWritesServed
  intro s k seq S inTurn boot owner h
  refine ⟨?_, ?_, ?_, ?_, ?_⟩
  · intro i x off bs base t block low some_ few words aligned inside takes
    have whole : (base + off) % 4 = 0 := by
      have : base % 4 = 0 := by obtain ⟨_, rfl⟩ | ⟨_, rfl⟩ | ⟨_, rfl⟩ | ⟨_, rfl⟩ | ⟨_, rfl⟩ | ⟨_, rfl⟩ | ⟨_, rfl⟩ | ⟨_, rfl⟩ := block <;> rfl
      omega
    have sent := State.sendBlock_ok inTurn boot owner low whole words some_ few inside takes
    obtain ⟨rfl, rfl⟩ | ⟨rfl, rfl⟩ | ⟨rfl, rfl⟩ | ⟨rfl, rfl⟩ | ⟨rfl, rfl⟩ | ⟨rfl, rfl⟩ | ⟨rfl, rfl⟩ | ⟨rfl, rfl⟩ := block <;>
      exact congrArg Host.Outcome.next sent
  · intro core v small period
    obtain ⟨ok, put⟩ := sampling_word (core := core) small (v := v.toNat) (s := h) fun on => by
      have least := period (by rw [BitVec.getLsbD, ← bit_eq_testBit]; exact on)
      rwa [BitVec.extractLsb'_toNat, Nat.shiftRight_eq_div_pow] at least
    refine (congrArg Host.Outcome.next (State.sendDevice_word inTurn boot owner (by omega) (by omega) v.isLt ok)).trans ?_
    rw [put]
  · intro mib small
    have ok : deviceWordOk 0x000 mib = true := decide_eq_true small
    exact congrArg Host.Outcome.next (State.sendDevice_word inTurn boot owner (by decide) (by decide) (by omega) ok)
  · intro id small
    have ok : deviceWordOk 0x008 id.toNat = true := decide_eq_true small
    refine (congrArg Host.Outcome.next (State.sendDevice_word inTurn boot owner (by decide) (by decide) id.isLt ok)).trans ?_
    have same : word id.toNat = id := by rw [word, BitVec.ofNat_toNat, BitVec.setWidth_eq]
    rw [State.putDevice]
    simp only [same]
    rfl
  · intro w least most
    have ok : deviceWordOk 0x004 w = true := by simp [deviceWordOk, least, most]
    exact congrArg Host.Outcome.next (State.sendDevice_word inTurn boot owner (by decide) (by decide) (by omega) ok)

/-! ## The steps of sessions -/

/-- An event changes nothing of the host link but the events. -/
theorem State.event_host (s : State) (code x : Nat) (bs : List Byte) :
    { (s.event code x bs).host with events := s.host.events, eventNum := s.host.eventNum } = s.host := by
  unfold State.event
  split <;> rfl

theorem State.elect_nobody {s : State} (nobody : ∀ e ∈ s.host.sessions, e.2.candidate s.ptp = false) : s.elect.host.owner = none := by
  have empty : (s.host.sessions.filter fun e => e.2.candidate s.ptp) = [] :=
    List.filter_eq_nil_iff.2 fun e he => by rw [nobody e he]; decide
  rw [State.elect, empty]
  exact (congrArg HostState.owner (State.event_host ..) :)

theorem State.elect_only {s : State} {k : Nat} {S : Session} (only : s.host.sessions = [(k, S)]) (candidate : S.candidate s.ptp = true) :
    s.elect.host.owner = some k ∧ s.elect.host.leaseEnd = s.ptp + 500000000 := by
  have one : (s.host.sessions.filter fun e => e.2.candidate s.ptp) = [(k, S)] := by
    rw [only, List.filter_cons_of_pos (by exact candidate), List.filter_nil]
  rw [State.elect, one]
  exact ⟨(congrArg HostState.owner (State.event_host ..) :), (congrArg HostState.leaseEnd (State.event_host ..) :)⟩

/-- What a HELLO does. -/
theorem State.hello_cases (s : State) (seq : Nat) (cred nonce : List Byte) :
    { s.hello seq cred nonce with host := s.host } = s ∧
    (∀ j, j ≠ s.host.nextSess → tget? (s.hello seq cred nonce).host.sessions j = tget? s.host.sessions j) ∧
    (if credentialFits cred = false ∨ nonce.length ≠ 32 then (s.hello seq cred nonce).host.nextSess = s.host.nextSess ∧
       (s.hello seq cred nonce).host.sessions = s.host.sessions ∧
       (s.hello seq cred nonce).host.sent = [(0, { seq := seq % 2 ^ 32, type := 1, status := 4, payload := [] })]
     else if credentialOk cred s.ptp = true then (s.hello seq cred nonce).host.nextSess = s.host.nextSess + 1 ∧
       tget? (s.hello seq cred nonce).host.sessions s.host.nextSess = some (s.newSession seq cred) ∧
       (s.hello seq cred nonce).host.sent = [(0, s.helloReply s.host.nextSess seq nonce)]
     else s.hello seq cred nonce = s.modHost fun h => { h with sent := [] }) := by
  have misfit : (!credentialFits cred || nonce.length != 32) = true ↔ credentialFits cred = false ∨ nonce.length ≠ 32 := by simp
  unfold State.hello
  by_cases unfit : credentialFits cred = false ∨ nonce.length ≠ 32
  · simp only [if_pos unfit, if_pos (misfit.2 unfit)]
    exact ⟨rfl, fun _ _ => rfl, rfl, rfl, rfl⟩
  · simp only [if_neg unfit, if_neg (mt misfit.1 unfit)]
    by_cases valid : credentialOk cred s.ptp = true
    · simp only [valid, Bool.not_true, Bool.false_eq_true, if_false, if_true]
      exact ⟨rfl, fun j other => tget?_tset_of_ne _ _ (Ne.symm other), rfl, (tget?_tset ..).trans (if_pos rfl), rfl⟩
    · simp only [Bool.not_eq_true] at valid
      simp only [valid, Bool.not_false, if_true, Bool.false_eq_true, if_false]
      exact ⟨rfl, fun _ _ => rfl, trivial⟩

/-- Settles O50. -/
theorem sessionStepsAct : Obligations.SessionStepsAct := by
  unfold Obligations.SessionStepsAct
  refine ⟨?_, ?_, ?_, ?_, ?_, ?_, ?_, ?_⟩
  · intro s seq cred nonce hears
    exact ⟨_, congrArg Host.Outcome.next (if_pos hears), State.hello_cases s seq cred nonce⟩
  · intro s k owner ended
    exact congrArg Host.Outcome.next (if_pos (by simp [State.leaseDue, owner, ended]))
  · intro s k S owner named expired
    exact congrArg Host.Outcome.next (if_pos (by simp [State.credentialDue, owner, named, Session.valid, expired]))
  · intro s nobody
    exact State.elect_nobody nobody
  · intro s k S only candidate
    exact State.elect_only only candidate
  · intro s k S named silent
    exact congrArg Host.Outcome.next (if_pos (by simp [State.silent, named, silenceNs, silent]))
  · intro s k num hears
    exact ⟨_, congrArg Host.Outcome.next (if_pos hears), rfl⟩
  · intro s e only late
    have due : (e.sent + resendCycles ≤ s.now) := late
    have resend : s.resendDue e.num = true := by simp [State.resendDue, only, due]
    refine congrArg Host.Outcome.next ((if_pos resend).trans ?_)
    simp [State.modHost, only, due, EventRec.resent]

end Sys2Proof.Machine
end

section
/-!
SUPPORT. Touch entries (O24).
-/

namespace Sys2Proof.Machine

/-- A fold that leaves its state and collects one answer for each element. -/
theorem foldl_gather {α β ι : Type} {step : α × List β → ι → α × List β} {u : α} {out : ι → β} {ls : List ι}
    (each : ∀ l ∈ ls, ∀ os, step (u, os) l = (u, os ++ [out l])) (os : List β) :
    ls.foldl step (u, os) = (u, os ++ ls.map out) := by
  induction ls generalizing os with
  | nil => rw [List.foldl_nil, List.map_nil, List.append_nil]
  | cons l ls ih =>
    rw [List.foldl_cons, each l List.mem_cons_self, ih fun k hk => each k (List.mem_cons_of_mem _ hk), List.map_cons,
      List.append_assoc, List.singleton_append]

theorem State.touchLane_ok {t : State} {I : Issue} {rs : List (Nat × Xlate)} {acc : Access} {l va pva pa f : Nat}
    (line : lineResult rs pva = .ok pa f) :
    t.touchLane I rs acc l va pva = (t, some { lane := l, dropped := false, va := pva, pa := pa }, { lane := l }) := by
  simp only [State.touchLane, State.touchPa, line]
  rfl

/-- Settles O24. -/
theorem touchRecords : Obligations.TouchRecords := by
  unfold Obligations.TouchRecords
  intro a sf w k c s I F hF ready n at_ lines tr share found
  cases hF
  simp only [exec_tch, execTch]
  refine (issue_ready _ ready).trans ?_
  rw [foldl_gather (out := fun l => (some (share l), ({ lane := l } : LaneOut)))]
  · have some_ : ((([] : List (Option TouchShare × LaneOut)) ++ I.act.map fun l => (some (share l), ({ lane := l } : LaneOut))).filterMap
        (·.1)) = I.act.map share := by
      rw [List.nil_append, List.filterMap_map]
      exact congrFun (List.filterMap_eq_map' (f := share)) I.act
    have outs : (([] : List (Option TouchShare × LaneOut)) ++ I.act.map fun l => (some (share l), ({ lane := l } : LaneOut))).map (·.2) =
        I.act.map fun l => { lane := l } := by
      rw [List.nil_append, List.map_map]
      rfl
    have many : (I.act.map share).isEmpty = false := by simpa using ready.active
    simp only [some_, outs, many, Bool.false_eq_true, if_false]
    refine (congrArg (Result.out _ I) (farWait_near fun o ho => ?_)).trans rfl
    obtain ⟨l, _, rfl⟩ := List.mem_map.1 ho
    rfl
  · intro l hl os
    obtain ⟨dropped, same⟩ | ⟨va, pva, pa, f, placed, line, same⟩ := found l hl
    · have dropped : (I.T.rec_ sf.toNat).addr (I.R.v l a.toNat).toNat (4 * 2 ^ w.toNat) (k == 0) (k == 1) = .ok none := dropped
      simp only [dropped, same]
    · have placed : (I.T.rec_ sf.toNat).addr (I.R.v l a.toNat).toNat (4 * 2 ^ w.toNat) (k == 0) (k == 1) = .ok (some (va, pva)) := placed
      simp only [placed, same]
      erw [State.touchLane_ok line]

end Sys2Proof.Machine
end

section
/-!
SUPPORT. Accesses to scratchpads and lane slices (O28).
-/

namespace Sys2Proof.Machine

/-! ## The places of the accesses -/

theorem xWidth_eq (w : BitVec 2) : xWidth w = if w = 0 then 4 else if w = 1 then 8 else if w = 2 then 16 else 2 := by
  revert w
  decide

theorem atxCode_eq (p : BitVec 3) (q : BitVec 2) : atxCode p q = (p ++ q).toNat := by
  revert p q
  decide

theorem atx_width (w : BitVec 1) : 4 + 4 * w.toNat = if w = 0 then 4 else 8 := by
  revert w
  decide

theorem placeOffset_eq (I : Issue) (l : Nat) (a : BitVec 7) (o : Nat) : placeOffset I l a o = (I.R.v l a.toNat).toNat + 16 * o := by
  rw [placeOffset, Nat.mul_comm]

theorem placeAddr_ok {p : Place} {o n : Nat} (sw : Nat) (inside : o + n ≤ p.2.2) (aligned : o % n = 0) :
    placeAddr p o n sw = .ok (swizzle (p.2.1 + o) sw) := by
  rw [placeAddr, if_neg (Nat.not_lt.2 inside), if_neg (by simpa using aligned)]

/-! ## Fibres in turn -/

/-- Fibres that act as `q` says wherever an invariant holds. -/
theorem laneOuts_follow {f : Issue → Nat → State → State × LaneOut} {q : State → Nat → State × LaneOut} {inv : State → Prop}
    {I : Issue} {s : State} (start : inv s) (each : ∀ u, inv u → ∀ l ∈ I.act, f I l u = q u l ∧ inv (q u l).1) :
    laneOuts f I s = laneSteps q I.act s [] := by
  have follow (ls : List Nat) (sub : ∀ l ∈ ls, l ∈ I.act) (u : State) (outs : List LaneOut) (h : inv u) :
      ls.foldl (fun (a : State × List LaneOut) l =>
        let q := f I l a.1
        (q.1, a.2 ++ [q.2])) (u, outs) = laneSteps q ls u outs := by
    induction ls generalizing u outs with
    | nil => rfl
    | cons l ls ih =>
      obtain ⟨same, next⟩ := each u h l (sub l List.mem_cons_self)
      rw [List.foldl_cons, laneSteps, List.foldl_cons]
      dsimp only
      rw [same]
      exact ih (fun k hk => sub k (List.mem_cons_of_mem _ hk)) _ _ next
  exact follow I.act (fun _ h => h) s [] start

/-- Steps whose answers say nothing of the state. -/
theorem laneSteps_silent (g : State → Nat → State) (out : Nat → LaneOut) (ls : List Nat) (s : State) (outs : List LaneOut) :
    laneSteps (fun u l => (g u l, out l)) ls s outs = (ls.foldl g s, outs ++ ls.map out) := by
  induction ls generalizing s outs with
  | nil => rw [List.map_nil, List.append_nil]; rfl
  | cons l ls ih =>
    refine (ih (g s l) (outs ++ [out l])).trans ?_
    rw [List.map_cons, List.append_assoc, List.foldl_cons, List.singleton_append]

theorem State.readSeen_scrPoison (s : State) (p : Party) (vol : Bool) (scr : Option Scr) (a n : Nat) :
    (s.readSeen p vol scr a n).1.scrPoison = s.scrPoison := by
  obtain ⟨l, ks, e⟩ := s.readSeen_frame p vol scr a n
  rw [e]

theorem State.scrBadUnder_congr {s t : State} (h : t.scrPoison = s.scrPoison) (held : List HeldStore) (d : Scr) (a n : Nat) :
    t.scrBadUnder held d a n = s.scrBadUnder held d a n := by
  simp only [State.scrBadUnder, State.scrBad, h]

/-! ## Loads and stores -/

section
variable {place : Nat → Place} {d a : BitVec 7} {sw o : Nat} {w : BitVec 2} {I : Issue} {s : State}

/-- The step of one fibre of a load from a place. -/
def Issue.placeLane (I : Issue) (place : Nat → Place) (d a : BitVec 7) (sw o n : Nat) (u : State) (l : Nat) : State × LaneOut :=
  let ph := swizzle ((place l).2.1 + ((I.R.v l a.toNat).toNat + 16 * o)) sw
  let q := u.readSeen I.party false (some (place l).1) ph n
  (q.1, { lane := l, writes := wregs l d.toNat (loadWords n (overlay I.G.held (some (place l).1) ph q.2)) })

theorem placeLoads {s0 : State} (slot : s0.scrPoison = s.scrPoison)
    (fits : ∀ l ∈ I.act, (I.R.v l a.toNat).toNat + 16 * o + xWidth w ≤ (place l).2.2 ∧ ((I.R.v l a.toNat).toNat + 16 * o) % xWidth w = 0)
    (clean : ∀ l ∈ I.act,
      s.scrBadUnder I.G.held (place l).1 (swizzle ((place l).2.1 + ((I.R.v l a.toNat).toNat + 16 * o)) sw) (xWidth w) = false) :
    eachLaneState (placeLoad place d a sw o w) I s0 =
      let r := laneSteps (I.placeLane place d a sw o (xWidth w)) I.act s0 []
      .go r.1 r.2 := by
  rw [eachLaneState, laneOuts_follow (q := I.placeLane place d a sw o (xWidth w)) (inv := fun u => u.scrPoison = s.scrPoison) slot]
  intro u same l hl
  obtain ⟨inside, aligned⟩ := fits l hl
  refine ⟨?_, (State.readSeen_scrPoison ..).trans same⟩
  have sound := (State.scrBadUnder_congr same I.G.held _ _ _).trans (clean l hl)
  simp only [placeLoad, placeOffset_eq, placeAddr_ok sw inside aligned, sound, Bool.false_eq_true, if_false]
  rfl

theorem placeStores (put : Scr → Nat → List Byte → State → State)
    (fits : ∀ l ∈ I.act, (I.R.v l a.toNat).toNat + 16 * o + xWidth w ≤ (place l).2.2 ∧ ((I.R.v l a.toNat).toNat + 16 * o) % xWidth w = 0) :
    eachLaneState (placeStore put place d a sw o w) I s = .go (I.act.foldl (fun u l =>
      put (place l).1 (swizzle ((place l).2.1 + ((I.R.v l a.toNat).toNat + 16 * o)) sw) (storeData I.R l d.toNat (xWidth w)) u) s)
      (I.act.map fun l => { lane := l }) := by
  rw [eachLaneState, laneOuts_follow (q := fun u l => (put (place l).1
    (swizzle ((place l).2.1 + ((I.R.v l a.toNat).toNat + 16 * o)) sw) (storeData I.R l d.toNat (xWidth w)) u, { lane := l }))
    (inv := fun _ => True) trivial, laneSteps_silent]
  · rfl
  · intro u _ l hl
    obtain ⟨inside, aligned⟩ := fits l hl
    simp only [placeStore, placeOffset_eq, placeAddr_ok sw inside aligned, and_true]

end

/-! ## Atomics: what the group holds of the bytes is performed first -/

theorem State.scrWrite_sound (s : State) (d : Scr) (a : Nat) (bs : List Byte) : ∀ q ∈ (s.scrWrite d a bs).scrPoison,
    ¬ (q.1 = d ∧ a ≤ q.2 ∧ q.2 < a + bs.length) := by
  rintro q hq ⟨same, low, high⟩
  have kept := (List.mem_filter.1 hq).2
  simp [same, low, high] at kept

/-- What a performed store to a scratchpad covers holds sound data. -/
theorem State.performAll_sound {x : Nat} {p : Party} (hs : List HeldStore) (s : State) {h : HeldStore} (mem : h ∈ hs) {d : Scr}
    (scr : h.scr = some d) : ∀ q ∈ (s.performAll x p hs).scrPoison, h.over (some q.1) q.2 = false := by
  have one (u : State) : ∀ q ∈ (u.perform x p h).scrPoison, h.over (some q.1) q.2 = false := by
    intro q hq
    obtain ⟨past, put⟩ := u.put_frame x p h
    have performed : u.perform x p h = u.put x p h := if_pos (by simp [scr])
    rw [performed, put, scr] at hq
    have apart := u.scrWrite_sound d h.pa h.bytes q hq
    simp only [HeldStore.over, scr, Bool.and_eq_false_imp, decide_eq_false_iff_not, Option.some.injEq]
    simp only [Bool.and_eq_true, decide_eq_true_eq, and_imp]
    intro same low high
    exact apart ⟨same.symm, low, high⟩
  induction hs generalizing s with
  | nil => cases mem
  | cons k hs ih =>
    intro q hq
    cases hs with
    | nil =>
      obtain rfl := List.mem_singleton.1 mem
      exact one s q hq
    | cons j hs =>
      obtain rfl | later := List.mem_cons.1 mem
      · exact one s q ((performed_observeAll _).cleanScr q ((performed_performAll ..).cleanScr q hq))
      · exact ih _ later q hq

theorem mem_chosenHeld {p : HeldStore → Bool} {hs later : List HeldStore} {h : HeldStore} (mem : h ∈ hs) (chosen : p h = true) :
    h ∈ chosenHeld p later hs := by
  induction hs generalizing later with
  | nil => cases mem
  | cons k hs ih =>
    rw [chosenHeld]
    obtain rfl | rest := List.mem_cons.1 mem
    · rw [chosen, Bool.true_or, if_pos rfl]
      exact List.mem_cons_self
    · split
      · exact List.mem_cons_of_mem _ (ih rest)
      · exact ih rest

/-- A state reached while the fibres of an atomic act: what the group held is held still, or has made its bytes sound. -/
structure HoldsOn (I : Issue) (s u : State) : Prop where
  clean : ∀ q ∈ u.scrPoison, q ∈ s.scrPoison
  held  : ∃ H, u.group? I.core I.g = some H ∧ ∀ h ∈ I.G.held, h.scr = none ∨ h ∈ H.held ∨ ∀ q ∈ u.scrPoison, h.over (some q.1) q.2 = false

theorem HoldsOn.slot {I : Issue} {s : State} (F : Form) (issuer : s.issuer = some I) : HoldsOn I s (F.slot s I) :=
  ⟨fun _ h => h, _, State.group?_slot F issuer, fun _ hh => .inr (.inl hh)⟩

theorem HoldsOn.scrWrite {I : Issue} {s u : State} (k : HoldsOn I s u) (d : Scr) (a : Nat) (bs : List Byte) :
    HoldsOn I s (u.scrWrite d a bs) := by
  obtain ⟨clean, H, group, held⟩ := k
  have performed := performed_scrWrite u d a bs
  exact ⟨fun q hq => clean q (performed.cleanScr q hq), H, (performed.group? ..).trans group, fun h hh =>
    (held h hh).imp_right fun kept => kept.imp_right fun sound q hq => sound q (performed.cleanScr q hq)⟩

theorem HoldsOn.performHeld {I : Issue} {s u : State} (k : HoldsOn I s u) (p : HeldStore → Bool) :
    HoldsOn I s (u.performHeld I.core I.g p) ∧
      ∀ h ∈ I.G.held, p h = true → h.scr ≠ none → ∀ q ∈ (u.performHeld I.core I.g p).scrPoison, h.over (some q.1) q.2 = false := by
  obtain ⟨clean, H, group, held⟩ := k
  have performed := performed_performAll u H.ctx (partyOf I.core I.g H) (chosenHeld p [] H.held.reverse).reverse
  have sound (h : HeldStore) (chosen : h ∈ (chosenHeld p [] H.held.reverse).reverse) (scr : h.scr ≠ none) :=
    let ⟨_, same⟩ := Option.ne_none_iff_exists'.1 scr
    State.performAll_sound (x := H.ctx) (p := partyOf I.core I.g H) _ u chosen same
  rw [State.performHeld, group]
  refine ⟨⟨fun q hq => clean q (performed.cleanScr q hq), ?_⟩, fun h hh chosen scr => ?_⟩
  · refine ⟨{ H with held := H.held.filter fun h => !(chosenHeld p [] H.held.reverse).reverse.contains h }, ?_, fun h hh => ?_⟩
    · rw [State.group?_modGroup, if_pos ⟨rfl, rfl⟩, performed.group?, group]
      rfl
    · obtain scr | kept | clear := held h hh
      · exact .inl scr
      · by_cases chosen : h ∈ (chosenHeld p [] H.held.reverse).reverse
        · by_cases scr : h.scr = none
          · exact .inl scr
          · exact .inr (.inr (sound h chosen scr))
        · exact .inr (.inl (List.mem_filter.2 ⟨kept, by simpa using chosen⟩))
      · exact .inr (.inr fun q hq => clear q (performed.cleanScr q hq))
  · obtain none_ | kept | clear := held h hh
    · exact absurd none_ scr
    · exact sound h (List.mem_reverse.2 (mem_chosenHeld (List.mem_reverse.2 kept) chosen)) scr
    · exact fun q hq => clear q (performed.cleanScr q hq)

theorem HeldStore.meets_of_over {h : HeldStore} {scr : Option Scr} {a b n : Nat} (over_ : h.over scr b = true) (low : a ≤ b)
    (high : b < a + n) : h.meets scr a n = true := by
  simp only [HeldStore.over, HeldStore.meets, Bool.and_eq_true, decide_eq_true_eq] at over_ ⊢
  obtain ⟨⟨same, first⟩, last⟩ := over_
  exact ⟨⟨same, by omega⟩, by omega⟩

/-- Bytes that are sound, or that the group's held stores replace, are sound once those stores have been performed. -/
theorem HoldsOn.sound {I : Issue} {s u : State} (k : HoldsOn I s u) {d : Scr} {a n : Nat} (clean : s.scrBadUnder I.G.held d a n = false) :
    (u.performHeld I.core I.g fun h => h.meets (some d) a n).scrBad d a n = false := by
  obtain ⟨next, clear⟩ := k.performHeld fun h => h.meets (some d) a n
  rw [State.scrBad, List.any_eq_false]
  intro q hq bad
  simp only [Bool.and_eq_true, decide_eq_true_eq] at bad
  obtain ⟨⟨same, low⟩, high⟩ := bad
  have before := next.clean q hq
  have whole : s.scrBad d a n = true := List.any_eq_true.2 ⟨q, before, by simp [same, low, high]⟩
  rw [State.scrBadUnder, whole, Bool.true_and, List.any_eq_false] at clean
  have here : s.scrBad d (a + (q.2 - a)) 1 = true := List.any_eq_true.2 ⟨q, before, by simp [same]; omega⟩
  have covered := clean (q.2 - a) (List.mem_range.2 (by omega))
  rw [here, Bool.true_and, Bool.not_eq_true, Bool.not_eq_false', List.any_eq_true] at covered
  obtain ⟨h, held, over_⟩ := covered
  rw [Nat.add_sub_cancel' low] at over_
  have scr : h.scr ≠ none := by
    simp only [HeldStore.over, Bool.and_eq_true, decide_eq_true_eq] at over_
    simp [over_.1.1]
  have := clear h held (HeldStore.meets_of_over over_ low high) scr q hq
  rw [same, over_] at this
  cases this

/-- The step of one fibre of an atomic on a place. -/
def Issue.placeAtom (I : Issue) (place : Nat → Place) (d a : BitVec 7) (code n : Nat) (u : State) (l : Nat) : State × LaneOut :=
  let ph := swizzle ((place l).2.1 + ((I.R.v l a.toNat).toNat + 16 * 0)) 0
  let v := u.performHeld I.core I.g fun h => h.meets (some (place l).1) ph n
  let old := leNat (v.scrRead (place l).1 ph n)
  (v.scrWrite (place l).1 ph (leBytes n (atomStep code n old (regValue I.R l d.toNat n))),
    { lane := l, writes := wregs l d.toNat (loadWords n (leBytes n old)) })

/-- Settles O28. -/
theorem scratchpadAccesses : Obligations.ScratchpadAccesses := by
  unfold Obligations.ScratchpadAccesses
  intro i s I F hF ready s0 width off fits pa clean loads stores slice
  have widths (w : BitVec 2) : width w = xWidth w := (xWidth_eq w).symm
  refine ⟨?_, ?_, ?_, ?_, ?_⟩
  · rintro d a lv sw w o c rfl p inside sound
    rw [widths] at inside sound
    cases hF
    simp only [exec_ldx, execLdx]
    refine (issue_ready _ ready).trans ?_
    rw [widths]
    refine (congrArg (Result.out _ I) (placeLoads (place := fun _ => I.T.level lv.toNat) (s := s) (by rfl) inside sound)).trans ?_
    rfl
  · rintro d a lv sw w o c rfl p inside
    rw [widths] at inside
    cases hF
    simp only [exec_stx, execStx]
    refine (issue_ready _ ready).trans ?_
    rw [widths]
    refine (congrArg (Result.out _ I) (placeStores (place := fun _ => I.T.level lv.toNat) _ inside)).trans ?_
    rfl
  · rintro d a w o c rfl inside sound
    rw [widths] at inside sound
    cases hF
    simp only [exec_ldl, execLdl]
    refine (issue_ready _ ready).trans ?_
    rw [widths]
    refine (congrArg (Result.out _ I) (placeLoads (place := slicePlace I) (s := s) (by rfl) inside sound)).trans ?_
    rfl
  · rintro d a w o c rfl inside
    rw [widths] at inside
    cases hF
    simp only [exec_stl, execStl]
    refine (issue_ready _ ready).trans ?_
    rw [widths]
    refine (congrArg (Result.out _ I) (placeStores (place := slicePlace I) _ inside)).trans ?_
    rfl
  · rintro d a lv q w r c rfl n p inside sound res
    have size : n = 4 + 4 * w.toNat := (atx_width w).symm
    clear_value n
    subst size
    cases hF
    simp only [exec_atx, execAtx]
    refine (issue_ready _ ready).trans ?_
    rw [eachLaneState, laneOuts_follow (q := I.placeAtom p d a (q ++ r).toNat (4 + 4 * w.toNat)) (inv := HoldsOn I s)
      (.slot _ ready.issuer)]
    · rfl
    · intro u holds l hl
      obtain ⟨within, aligned⟩ := inside l hl
      have good := holds.sound (sound l hl)
      refine ⟨?_, (holds.performHeld _).1.scrWrite ..⟩
      have place : placeAddr (I.T.level lv.toNat) ((I.R.v l a.toNat).toNat + 16 * 0) (4 + 4 * w.toNat) 0 = _ :=
        placeAddr_ok 0 within aligned
      simp only [placeOffset_eq, place, atxCode_eq]
      exact if_neg (by rw [good]; decide)

end Sys2Proof.Machine
end

section
/-!
SUPPORT. The ring instructions (O30).
-/

namespace Sys2Proof.Machine

section
variable {i : Instr} {s t : State} {I : Issue} {F : Form} {d n r : BitVec 7} {pa : Nat} {rg : Ring} (ready : Ready F s I)
    (read : (F.slot s I).ringFor I (I.R.s r.toNat).toNat = (t, .ok (pa, rg)))
include ready read

/-- An instruction on a ring that can be read is what it does to the ring. -/
theorem exec_on_ring {f : Nat → Ring → Issue → State → Result} (h : exec i s = issue F (onRing r f) s) :
    exec i s = (f pa rg I t).out F I := by
  rw [h, issue_ready _ ready, onRing, read]

/-- A step that yields a slot. -/
theorem exec_ringSlot_some {step : Ring → Option (Nat × Ring)} {acq : Option (BitVec 3)} {wait : Bool} {slot : Nat} {next : Ring}
    (h : exec i s = issue F (ringSlot step acq wait d r) s) (step_ : step rg = some (slot, next)) :
    exec i s = Result.out F I (.go (acq.elim (t.putRing pa next) fun sf =>
      (t.putRing pa next).acquire I.party (some rg.fobj) (I.scope sf.toNat)) [{ lane := I.low, writes := [(.s d.toNat, word slot)] }]) := by
  refine (exec_on_ring ready read h).trans ?_
  simp only [step_, Issue.scalarOut_eq ready.active]
  cases acq <;> rfl

/-- A step that finds no slot. -/
theorem exec_ringSlot_none {step : Ring → Option (Nat × Ring)} {acq : Option (BitVec 3)} {wait : Bool}
    (h : exec i s = issue F (ringSlot step acq wait d r) s) (step_ : step rg = none) :
    exec i s = Result.out F I (if wait then .wait t (.poll 5)
      else .go t [{ lane := I.low, writes := [(.s d.toNat, 0xFFFFFFFF)] }]) := by
  refine (exec_on_ring ready read h).trans ?_
  simp only [step_, Issue.scalarOut_eq ready.active]

variable {step : Ring → Nat → Option Ring} {sf : BitVec 3} (h : exec i s = issue F (ringCount step sf n r) s)
include h

theorem exec_ringCount_zero (zero : (I.R.s n.toNat).toNat = 0) : exec i s = Result.out F I (.go t []) := by
  refine (exec_on_ring ready read h).trans ?_
  simp only [zero]
  rfl

/-- A step of a count that fits is a release of the ring's object. -/
theorem exec_ringCount_some {next : Ring} (some_ : (I.R.s n.toNat).toNat ≠ 0) (step_ : step rg (I.R.s n.toNat).toNat = some next) :
    exec i s = Result.out F I (releasing rg.fobj (I.scope sf.toNat) I t fun u => .go (u.putRing pa next) []) := by
  refine (exec_on_ring ready read h).trans ?_
  simp only [beq_eq_false_iff_ne.2 some_, step_, Bool.false_eq_true, if_false]

theorem exec_ringCount_none (some_ : (I.R.s n.toNat).toNat ≠ 0) (step_ : step rg (I.R.s n.toNat).toNat = none) :
    exec i s = Result.out F I (.go t (trapAll I (mkTrap 5 0 (I.R.s n.toNat).toNat))) := by
  refine (exec_on_ring ready read h).trans ?_
  simp only [beq_eq_false_iff_ne.2 some_, step_, Bool.false_eq_true, if_false]
  rfl

end

theorem Ring.claim_some {g : Ring} (free : g.fr ≠ 0) : g.claim = some (g.w % g.c, { g with w := (g.w + 1) % 2 ^ 32, fr := g.fr - 1 }) := by
  rw [Ring.claim, if_neg (by simpa using free)]

theorem Ring.claim_none {g : Ring} (full : g.fr = 0) : g.claim = none := by rw [Ring.claim, if_pos (by simpa using full)]

theorem Ring.take_some {g : Ring} (filled : g.f ≠ 0) : g.take = some (g.rd % g.c, { g with rd := (g.rd + 1) % 2 ^ 32, f := g.f - 1 }) := by
  rw [Ring.take, if_neg (by simpa using filled)]

theorem Ring.take_none {g : Ring} (empty : g.f = 0) : g.take = none := by rw [Ring.take, if_pos (by simpa using empty)]

/-- Settles O30. -/
theorem ringsAct : Obligations.RingsAct := by
  unfold Obligations.RingsAct
  intro i s t I F r pa rg hF ready read put gives claimed taken out rel near
  refine ⟨?_, ?_, ?_, ?_, ?_, ?_, ?_, ?_, ?_, ?_, ?_⟩
  · rintro sf d c (rfl | rfl) free
    · cases hF
      refine (exec_ringSlot_some ready read (exec_rclm ..) (Ring.claim_some free)).trans ?_
      rfl
    · cases hF
      refine (exec_ringSlot_some ready read (exec_rclmT ..) (Ring.claim_some free)).trans ?_
      rfl
  · rintro sf d c (rfl | rfl) filled
    · cases hF
      refine (exec_ringSlot_some ready read (exec_rget ..) (Ring.take_some filled)).trans ?_
      rfl
    · cases hF
      refine (exec_ringSlot_some ready read (exec_rgetT ..) (Ring.take_some filled)).trans ?_
      rfl
  · rintro sf d c rfl full
    cases hF
    refine (exec_ringSlot_none ready read (exec_rclm ..) (Ring.claim_none full)).trans ?_
    rfl
  · rintro sf d c rfl empty
    cases hF
    refine (exec_ringSlot_none ready read (exec_rget ..) (Ring.take_none empty)).trans ?_
    rfl
  · rintro sf d c rfl full
    cases hF
    refine (exec_ringSlot_none ready read (exec_rclmT ..) (Ring.claim_none full)).trans ?_
    rfl
  · rintro sf d c rfl empty
    cases hF
    refine (exec_ringSlot_none ready read (exec_rgetT ..) (Ring.take_none empty)).trans ?_
    rfl
  · rintro sf n c (rfl | rfl) zero
    · cases hF
      refine (exec_ringCount_zero ready read (exec_rpub ..) zero).trans ?_
      rfl
    · cases hF
      refine (exec_ringCount_zero ready read (exec_rput ..) zero).trans ?_
      rfl
  · rintro sf n c (⟨rfl, fits⟩ | ⟨rfl, fits⟩) some_ far
    · cases hF
      refine (exec_ringCount_some ready read (exec_rpub ..) some_ (if_neg (Nat.not_lt.2 fits))).trans ?_
      rw [releasing_far _ far]
      rfl
    · cases hF
      refine (exec_ringCount_some ready read (exec_rput ..) some_ (if_neg (Nat.not_lt.2 fits))).trans ?_
      rw [releasing_far _ far]
      rfl
  · rintro sf n c rfl near some_ fits
    cases hF
    refine (exec_ringCount_some ready read (exec_rpub ..) some_ (if_neg (Nat.not_lt.2 fits))).trans ?_
    rw [releasing_near _ near]
    rfl
  · rintro sf n c rfl near some_ fits
    cases hF
    refine (exec_ringCount_some ready read (exec_rput ..) some_ (if_neg (Nat.not_lt.2 fits))).trans ?_
    rw [releasing_near _ near]
    rfl
  · rintro sf n c (⟨rfl, many⟩ | ⟨rfl, many⟩)
    · cases hF
      refine (exec_ringCount_none ready read (exec_rpub ..) (by omega) (if_pos many)).trans ?_
      rfl
    · cases hF
      refine (exec_ringCount_none ready read (exec_rput ..) (by omega) (if_pos many)).trans ?_
      rfl

end Sys2Proof.Machine
end

section
/-!
SUPPORT. Copies, decodes, table loads and tile moves enter the queue of their die (O31).
-/

namespace Sys2Proof.Machine

/-! ## Checks that all pass -/

theorem firstTrap_none {l : List (Option Trap)} (pass : ∀ t ∈ l, t = none) : firstTrap l = none :=
  List.findSome?_eq_none_iff.2 pass

theorem trapIf_false {b : Bool} (h : b = false) (code detail addr : Nat) : trapIf b code detail addr = none := by rw [h]; rfl

theorem illopIf_false {b : Bool} (h : b = false) (v : Nat) : illopIf b v = none := trapIf_false h ..

theorem startOp_room {I : Issue} {s : State} {major op obj scope : Nat} {kind : OpKind}
    (room : s.queueRoom (I.core / 24) I.x 1 = true) :
    startOp I s major op kind obj scope = .go (s.enqueue I major op kind obj scope 1 false) [] := if_pos room

/-! ## Block copies -/

section
variable {I : Issue} {s t : State} {F : Form} {sf c : BitVec 3} {n m : BitVec 7}

/-- Register `j` of those from `n`. -/
def Issue.sreg (I : Issue) (n : BitVec 7) (j : Nat) : Nat := (I.R.s (n.toNat + j)).toNat

theorem sregs_four (I : Issue) (n : BitVec 7) : sregs I n 4 = [I.sreg n 0, I.sreg n 1, I.sreg n 2, I.sreg n 3] := rfl
theorem sregs_two (I : Issue) (n : BitVec 7) : sregs I n 2 = [I.sreg n 0, I.sreg n 1] := rfl

/-- A field that must be zero where another one is. -/
theorem zero_with {a b : Nat} (h : a = 0 → b = 0) : (a == 0 && b != 0) = false := by
  by_cases z : a = 0
  · rw [h z, bne_self_eq_false, Bool.and_false]
  · rw [beq_eq_false_iff_ne.2 z, Bool.false_and]

theorem bne_zero {a : Nat} (h : a = 0) : (a != 0) = false := by rw [h]; rfl

theorem bits_high {v lo : Nat} (n : Nat) (h : v / 2 ^ lo = 0) : (bits v lo n != 0) = false :=
  bne_zero (by rw [bits, h, Nat.zero_mod])

theorem only_if {p q : Bool} (h : p = true → q = false) : (p && q) = false := by
  cases p
  · rfl
  · exact h rfl

/-- The answers of lanes of which every one has a part. -/
theorem gathered_answers {α β : Type} (l : List Nat) (f : Nat → α) (g : Nat → β) :
    (([] : List (Option α × β)) ++ l.map fun x => (some (f x), g x)).filterMap (·.1) = l.map f := by
  rw [List.nil_append, List.filterMap_map]
  exact congrFun (List.filterMap_eq_map' (f := f)) l

theorem gathered_outs {α β : Type} (l : List Nat) (f : Nat → α) (g : Nat → β) :
    (([] : List (Option α × β)) ++ l.map fun x => (some (f x), g x)).map (·.2) = l.map g := by
  rw [List.nil_append, List.map_map]
  rfl

theorem State.cpyLane_ok {u : State} {a : BitVec 7} {w ctl l va pva pa fl : Nat} {rs : List (Nat × Xlate)}
    (placed : (I.T.rec_ (ctl % 16)).addr (I.R.v l (a.toNat + 1)).toNat w (!ctl.testBit 6) (ctl.testBit 6) = .ok (some (va, pva)))
    (line : lineResult rs pva = .ok pa fl)
    (within : (I.R.v l a.toNat).toNat + w ≤ (I.T.level (ctl / 16 % 4)).2.2) (aligned : (I.R.v l a.toNat).toNat % w = 0) :
    let scr := swizzle ((I.T.level (ctl / 16 % 4)).2.1 + (I.R.v l a.toNat).toNat) (ctl / 2 ^ 7 % 8)
    u.cpyLane I a w ctl rs l = (u, some { va := pva, pa := pa, scr := scr }, { lane := l }) := by
  intro scr
  have touched (acc : Access) : u.touchPa I rs acc l va pva = (u, .ok pa) := by
    simp only [State.touchPa, line]
    rfl
  have level : bits ctl 4 2 = ctl / 16 % 4 := rfl
  simp only [State.cpyLane, bits_low ctl 4, bit_eq_testBit, level]
  erw [placed]
  dsimp only
  rw [touched]
  dsimp only
  rw [firstTrap_none]
  · rfl
  · simp only [List.forall_mem_cons, List.not_mem_nil, false_imp_iff, implies_true, and_true]
    exact ⟨trapIf_false (decide_eq_false (Nat.not_lt.2 within)) .., trapIf_false (bne_zero aligned) ..⟩

end

/-- Settles O31. -/
theorem copiesEnterTheQueue : Obligations.CopiesEnterTheQueue := by
  unfold Obligations.CopiesEnterTheQueue
  refine ⟨?_, ?_⟩
  · intro s I n m c tk again waits
    simp only [exec_tmovW, execTmovW]
    refine (issue_again _ again).trans ?_
    simp only [ticketRetry, waits]
    by_cases ended : (tget? s.tickets tk).isSome = true
    · simp only [if_pos ended]
      rfl
    · simp only [if_neg ended]
      rfl
  · intro i s I F hF ready s0 r room fits
    refine ⟨?_, ?_, ?_, ?_, ?_, ?_⟩
    · rintro n m c k ob t rfl op object free
      cases hF
      simp only [exec_tmov, execTmov]
      refine (issue_ready _ ready).trans ?_
      rw [op]
      dsimp only
      rw [object]
      dsimp only
      rw [startOp_room free]
      rfl
    · rintro n m c k ob rfl op free
      cases hF
      simp only [exec_tmovW, execTmovW]
      refine (issue_ready _ ready).trans ?_
      rw [ticketRetry, Issue.idle_first ready.issuer ready.first]
      dsimp only
      rw [op]
      dsimp only
      rw [if_pos (by exact free)]
      rfl
    · rintro sf n m c t rfl high slot S D swzS swzD obj fitS fitD ring alignS alignD words names free
      cases hF
      simp only [exec_cpyb, execCpyb]
      refine (issue_ready _ ready).trans ?_
      have here : bit (I.sreg n 0) 18 = slot := bit_eq_testBit ..
      simp only [sregs_four, sregs_two, bits_low (I.sreg n 0) 4, here]
      rw [firstTrap_none]
      · dsimp only
        erw [names]
        dsimp only
        rw [startOp_room free]
        rfl
      · simp only [List.forall_mem_cons, List.not_mem_nil, false_imp_iff, implies_true, and_true]
        refine ⟨illopIf_false ?_ _, illopIf_false ?_ _, illopIf_false ?_ _, illopIf_false ?_ _, fitS.1, ?_, trapIf_false ?_ .., trapIf_false ?_ ..,
          trapIf_false ?_ .., fitS.2, ?_⟩
        · simp only [bits_high (v := I.sreg n 0) 13 high, Bool.false_or, Bool.or_eq_false_iff]
          refine ⟨⟨zero_with swzS, zero_with swzD⟩, only_if fun h => ?_⟩
          obtain ⟨space, first, _⟩ := ring h
          exact Bool.or_eq_false_iff.2 ⟨bne_zero space, bne_zero first⟩
        · exact only_if fun h => bne_zero (ring h).2.2.1
        · exact decide_eq_false (Nat.not_le.2 obj)
        · exact only_if fun h => beq_eq_false_iff_ne.2 (ring h).2.2.2
        · split
          · rfl
          · next off => exact (fitD (Bool.not_eq_true _ ▸ off)).1
        · exact bne_zero alignS
        · exact bne_zero alignD
        · exact bne_zero words
        · split
          · rfl
          · next off => exact (fitD (Bool.not_eq_true _ ▸ off)).2
    · rintro sf n m c t rfl wide high width block some_ whole obj cb S D swz fitS fitD alignS alignD names free
      cases hF
      simp only [exec_cpyd, execCpyd]
      refine (issue_ready _ ready).trans ?_
      simp only [sregs_four, sregs_two, bits_low (I.sreg n 0) 4]
      rw [firstTrap_none]
      · dsimp only
        erw [names]
        dsimp only
        rw [startOp_room free]
        rfl
      · simp only [List.forall_mem_cons, List.not_mem_nil, false_imp_iff, implies_true, and_true]
        refine ⟨illopIf_false ?_ _, illopIf_false ?_ _, illopIf_false ?_ _, fitS.1, fitD.1, trapIf_false ?_ .., trapIf_false ?_ ..,
          fitS.2, fitD.2⟩
        · have narrow : bit (I.sreg n 0) 12 = false := (bit_eq_testBit ..).trans wide
          simp only [narrow, bits_high (v := I.sreg n 0) 9 high, Bool.false_or, Bool.or_eq_false_iff]
          exact ⟨⟨beq_eq_false_iff_ne.2 (Nat.ne_of_lt width), decide_eq_false (Nat.not_le.2 block)⟩, zero_with swz⟩
        · exact Bool.or_eq_false_iff.2 ⟨beq_eq_false_iff_ne.2 some_, bne_zero whole⟩
        · exact decide_eq_false (Nat.not_le.2 obj)
        · exact bne_zero alignS
        · exact bne_zero alignD
    · rintro n c rfl high least most S key fitS aligned free tables
      cases hF
      simp only [exec_ctab, execCtab]
      refine (issue_ready _ ready).trans ?_
      have head : (I.R.s n.toNat).toNat = I.sreg n 0 := rfl
      have second : (I.R.s (n.toNat + 1)).toNat = I.sreg n 1 := rfl
      simp only [head, second, bits_low (I.sreg n 0) 4, bit_eq_testBit]
      rw [firstTrap_none]
      · dsimp only
        rw [if_neg]
        · rfl
        · rw [Bool.or_eq_true, not_or]
          refine ⟨?_, fun h => ?_⟩
          · rw [decide_eq_true_eq]
            exact Nat.not_le.2 tables
          · rw [Bool.not_eq_true'] at h
            exact absurd (h.symm.trans free) (by decide)
      · simp only [List.forall_mem_cons, List.not_mem_nil, false_imp_iff, implies_true, and_true]
        refine ⟨illopIf_false ?_ _, fitS.1, trapIf_false ?_ .., fitS.2⟩
        · simp only [bits_high (v := I.sreg n 0) 18 high, Bool.false_or, Bool.or_eq_false_iff]
          exact ⟨beq_eq_false_iff_ne.2 (Nat.ne_of_gt least), decide_eq_false (Nat.not_lt.2 most)⟩
        · exact bne_zero aligned
    · rintro w a n c t rfl high level obj object width toMem at_ lines tr p o f found glines free
      cases hF
      simp only [exec_cpy, execCpy]
      refine (issue_ready _ ready).trans ?_
      have head : (I.R.s n.toNat).toNat = I.sreg n 0 := rfl
      have second : (I.R.s (n.toNat + 1)).toNat = I.sreg n 1 := rfl
      simp only [head, second, bits_low (I.sreg n 0) 4, bit_eq_testBit]
      rw [firstTrap_none]
      · dsimp only
        erw [object]
        dsimp only
        rw [foldl_gather (out := fun l => (some (f l), ({ lane := l } : LaneOut)))]
        · have many : (I.act.map f).isEmpty = false := by simpa using ready.active
          have spaces : transferLines (I.act.map f) = glines := rfl
          simp only [gathered_answers, gathered_outs, many, spaces, Bool.false_eq_true, if_false]
          rw [if_pos (by exact free)]
          refine (congrArg (Result.out _ I) (farWait_near fun o ho => ?_)).trans rfl
          obtain ⟨l, _, rfl⟩ := List.mem_map.1 ho
          rfl
        · intro l hl os
          obtain ⟨within, aligned, va, pva, pa, fl, placed, line, same⟩ := found l hl
          have step : tr.1.cpyLane I a width (I.sreg n 0) tr.2 l = (tr.1, some (f l), { lane := l }) :=
            (State.cpyLane_ok (u := tr.1) placed line within aligned).trans (by rw [same])
          exact congrArg (fun q => (q.1, os ++ [q.2])) step
      · simp only [List.forall_mem_cons, List.not_mem_nil, false_imp_iff, implies_true, and_true]
        refine ⟨illopIf_false ?_ _, illopIf_false (decide_eq_false (Nat.not_le.2 obj)) _⟩
        simp only [bits_high (v := I.sreg n 0) 22 high, Bool.false_or]
        exact beq_eq_false_iff_ne.2 (Nat.ne_of_lt level)

end Sys2Proof.Machine
end

section
/-!
SUPPORT. A retirement behind stores whose performance opens operations (O32).
-/

namespace Sys2Proof.Machine

/-- A store of a byte that is on its way to address 0. -/
def heldZero : HeldStore := { since := 0, scr := none, pa := 0, bytes := [0], nt := false, sobj := 0, relax := false }

/-- One group that holds two stores. Its context has one tensor, and a page table in a package that does not answer. -/
def farTable : State :=
  ((State.reset.withFetchWord 32 0).modGroup 0 0 fun G => { G with held := [heldZero, heldZero] }).modCtx 0 fun c =>
    ((c.setWord 0x0C8 1).setWord 0x040 0).setWord 0x044 0x80200

theorem farTable_issues : farTable.issuer.isSome = true := by decide +kernel

def farIssue : Issue := farTable.issuer.get farTable_issues

/-- The count of operations behind an outcome. -/
def opsBehind : Out → Nat
  | .next t => t.nextOp
  | _ => 0

theorem farTable_ready : Ready { ins := .nret 2 4 0, c := 0, ops := [osn 2 (4 : BitVec 7)], scope := true, feat := 3 } farTable farIssue where
  issuer := (Option.some_get farTable_issues).symm
  first := by decide +kernel
  active := by decide +kernel
  landed := by decide +kernel
  batch := by decide +kernel
  fibres := by decide +kernel

/-- Refutes O32: the stores that NRET performs first let the sequencers observe the launch queues between two of them. Here
that opens operations for the lines of a page table in a package that does not answer. NRET goes on counting from its own
ticket, and not behind those operations. -/
theorem not_namesAct : ¬ Obligations.NamesAct := by
  unfold Obligations.NamesAct
  intro h
  obtain ⟨-, -, nret, -⟩ := h (.nret 2 4 0) farTable farIssue _ 4 2 rfl farTable_ready (by decide +kernel)
  have same := congrArg opsBehind (nret 0 rfl (by decide +kernel) (by decide +kernel))
  exact absurd same (by decide +kernel)
end Sys2Proof.Machine
end

section
/-!
SUPPORT. The generator instructions (O33).
-/

namespace Sys2Proof.Machine

/-! ## A block that a fibre meets -/

theorem State.ownBlock_proc {s : State} {x b fs va : Nat} {gen : Option GenFill} (other : gen.map (·.block) ≠ some b) :
    s.ownBlock x gen va (.proc b fs) = .proc b fs := by
  simp only [State.ownBlock, beq_eq_false_iff_ne.2 other, Bool.false_eq_true, if_false]

theorem State.meetBlock_unfilled {s : State} {x b va : Nat} {gen : Option GenFill}
    (shallow : ∀ g, gen = some g → g.depth < (s.ctx x).depthLimit) :
    s.meetBlock x gen b fsUnfilled va = (s.beginFill x gen b, none) := by
  unfold State.meetBlock
  rw [if_pos (beq_self_eq_true _)]
  cases gen with
  | none => rfl
  | some g => exact if_neg (Nat.not_le.2 (shallow g rfl))

theorem State.meetBlock_deep {s : State} {x b va : Nat} {g : GenFill} (deep : (s.ctx x).depthLimit ≤ g.depth) :
    s.meetBlock x (some g) b fsUnfilled va = (s, some (mkTrap fcFill 0xFFFE va)) := if_pos deep

theorem State.meetBlock_filling {s : State} {x b va : Nat} {gen : Option GenFill}
    (apart : ∀ g, gen = some g → s.inChain x g b = false) : s.meetBlock x gen b fsFilling va = (s, none) := by
  cases gen with
  | none => rfl
  | some g => exact if_neg (Bool.not_eq_true _ ▸ apart g rfl)

theorem State.meetBlock_chained {s : State} {x b va : Nat} {g : GenFill} (chained : s.inChain x g b = true) :
    s.meetBlock x (some g) b fsFilling va = (s, some (mkTrap fcFill 0xFFFD va)) := if_pos chained

/-! ## Verdicts -/

section
variable {I : Issue} {s : State} {g : GenFill} {v : Option Nat}

theorem decideFill_takes (near : s.farStores I.core I.g = false) (gen : I.T.gen = some g)
    (takes : (!g.decided && (g.verdict.isNone || (g.verdict == some none && v.isSome))) = true) :
    decideFill v I s = .go ((s.drainWc I.core I.g).modTeam I.tid fun T => { T with gen := some { g with verdict := some v } }) [] := by
  simp only [decideFill, gen, near, takes, Bool.false_eq_true, if_false, if_true]

theorem decideFill_none (gen : I.T.gen = none) : decideFill v I s = .go s (trapAll I (mkTrap fcProt 0 0)) := by
  simp only [decideFill, gen]

end

/-- Settles O33. -/
theorem generatorsAct : Obligations.GeneratorsAct := by
  unfold Obligations.GeneratorsAct
  intro i s I F hF ready s0 ctl at_ tells drained verdict
  refine ⟨?_, ?_, ?_, ?_, ?_, ?_⟩
  · rintro n d c rfl small dropped
    cases hF
    simp only [exec_greq, execGreq]
    rw [issue_ready _ ready, if_neg (Nat.not_le.2 small)]
    simp only [Issue.scalarOut_eq ready.active]
    have dropped : (I.T.rec_ (I.R.s n.toNat).toNat).addr (I.R.s (n.toNat + 1)).toNat 4 true false = .ok none := dropped
    rw [dropped]
    rfl
  · rintro n d c va pva t pa flags rfl small placed found
    cases hF
    simp only [exec_greq, execGreq]
    rw [issue_ready _ ready, if_neg (Nat.not_le.2 small)]
    simp only [Issue.scalarOut_eq ready.active]
    have placed : (I.T.rec_ (I.R.s n.toNat).toNat).addr (I.R.s (n.toNat + 1)).toNat 4 true false = .ok (some (va, pva)) := placed
    rw [placed]
    dsimp only
    erw [found]
    dsimp only [State.ownBlock]
    rw [bit_eq_testBit]
    cases flags.testBit 7 <;> rfl
  · rintro n d c va pva t b fs rfl small placed found other
    cases hF
    simp only [exec_greq, execGreq]
    rw [issue_ready _ ready, if_neg (Nat.not_le.2 small)]
    simp only [Issue.scalarOut_eq ready.active]
    have placed : (I.T.rec_ (I.R.s n.toNat).toNat).addr (I.R.s (n.toNat + 1)).toNat 4 true false = .ok (some (va, pva)) := placed
    rw [placed]
    dsimp only
    erw [found]
    rw [State.ownBlock_proc other]
    dsimp only
    refine ⟨?_, ?_, ?_, ?_, ?_⟩
    · intro evicts
      rw [if_pos evicts]
      rfl
    · rintro kept rfl
      rw [kept, if_neg Bool.false_ne_true, if_pos (beq_self_eq_true _)]
      rfl
    · rintro kept rfl shallow
      rw [kept, State.meetBlock_unfilled shallow]
      rfl
    · rintro kept rfl apart
      rw [kept, State.meetBlock_filling apart]
      rfl
    · rintro g gen kept (⟨rfl, deep⟩ | ⟨rfl, chained⟩)
      · rw [kept, gen, State.meetBlock_deep deep]
        rfl
      · rw [kept, gen, State.meetBlock_chained chained]
        rfl
  · rintro c g rfl near gen undecided silent
    cases hF
    simp only [exec_gdone, execGdone]
    refine (issue_ready _ ready).trans ?_
    rw [decideFill_takes near gen (by rw [undecided, silent]; rfl)]
    rfl
  · rintro k c g rfl near gen undecided said
    cases hF
    simp only [exec_gfail, execGfail]
    refine (issue_ready _ ready).trans ?_
    rw [decideFill_takes near gen (by obtain said | said := said <;> rw [undecided, said] <;> rfl)]
    rfl
  · rintro (⟨c, rfl⟩ | ⟨k, c, rfl⟩) gen
    · cases hF
      simp only [exec_gdone, execGdone]
      refine (issue_ready _ ready).trans ?_
      rw [decideFill_none gen]
      rfl
    · cases hF
      simp only [exec_gfail, execGfail]
      refine (issue_ready _ ready).trans ?_
      rw [decideFill_none gen]
      rfl

end Sys2Proof.Machine
end

section
/-!
SUPPORT. The matrix instructions enter the queue of their core (O34).
-/

namespace Sys2Proof.Machine

section
variable {I : Issue} {s t : State} {kind : Nat} {sf : BitVec 3} {n : BitVec 7} {o : Option (BitVec 7)} {bytes : Nat} {bs : List Byte}

theorem mblockBytes_eq (kind : Nat) : mblockBytes kind = if kind = 3 then 64 else if kind = 4 then 48 else 32 := by
  simp only [mblockBytes, beq_iff_eq]

theorem State.unitRead_sound {T : Team} {off len : Nat} (sound : s.scrBad (.unit T.core) (T.ubase + off) len = false) :
    s.unitRead T off len = .ok (s.scrRead (.unit T.core) (T.ubase + off) len) :=
  if_neg (Bool.not_eq_true _ ▸ sound)

/-- The object that a matrix instruction names. -/
def matrixObject (I : Issue) : Option (BitVec 7) → Nat
  | some r => (I.R.s r.toNat).toNat
  | none => 0

/-- What enters the queue for a matrix instruction, before its ticket and its count are known. -/
def matrixEntry (I : Issue) (kind : Nat) (sf : BitVec 3) (o : Option (BitVec 7)) (ws : List Word) : MatrixOp :=
  { ctx := I.x, tid := I.tid, gctx := I.g, gage := I.G.age, kind := kind, words := ws, fpmode := I.R.fpmode,
    rnd := I.hv.rnd, obj := matrixObject I o, scope := sf.toNat, ticket := 0, chan := 0, count := 0, origin := I.origin }

/-- A matrix instruction whose checks all pass enters the queue. -/
theorem matrixIssue_enters (idle : I.B.wait = none) (size : mblockBytes kind = bytes) (aligned : (I.R.s n.toNat).toNat % 64 = 0)
    (within : (I.R.s n.toNat).toNat + bytes ≤ I.T.usize)
    (read : (s.drainWc I.core I.g).unitRead I.T (I.R.s n.toNat).toNat bytes = .ok bs)
    (pass : ∀ c ∈ matrixChecks kind I.T (bytesWords (bytes / 4) bs), c = none) (small : matrixObject I o < 2 ^ 20)
    (object : (s.drainWc I.core I.g).checkObj I (matrixObject I o) = (t, none)) :
    matrixIssue kind sf n o I s = enterMatrix I t (matrixEntry I kind sf o (bytesWords (bytes / 4) bs)) o.isNone := by
  subst size
  have place : firstTrap [trapIf ((I.R.s n.toNat).toNat % 64 != 0) fcAlign 0 (I.R.s n.toNat).toNat,
      trapIf (I.T.usize < (I.R.s n.toNat).toNat + mblockBytes kind) fcOob 0 (I.R.s n.toNat).toNat] = none := by
    refine firstTrap_none ?_
    simp only [List.forall_mem_cons, List.not_mem_nil, false_imp_iff, implies_true, and_true]
    exact ⟨trapIf_false (bne_zero aligned) .., trapIf_false (decide_eq_false (Nat.not_lt.2 within)) ..⟩
  have checks : firstTrap (matrixChecks kind I.T (bytesWords (mblockBytes kind / 4) bs) ++
      [illopIf (2 ^ 20 ≤ matrixObject I o) (matrixObject I o)]) = none :=
    firstTrap_none fun c hc => (List.mem_append.1 hc).elim (pass c) fun last =>
      (List.mem_singleton.1 last).trans (illopIf_false (decide_eq_false (Nat.not_le.2 small)) _)
  cases o <;>
  · simp only [matrixIssue, idle, place, read]
    erw [checks]
    dsimp only
    erw [object]
    rfl

end

/-- Settles O34. -/
theorem matrixOperationsEnterTheQueue : Obligations.MatrixOperationsEnterTheQueue := by
  unfold Obligations.MatrixOperationsEnterTheQueue
  intro i s t I F kind sf n o c hF ready five form
  have run : exec i s = issue F (matrixIssue kind sf n o) s ∧ F.ins = i ∧ F.lat = none := by
    interval_cases kind <;> cases o <;> (subst form; cases hF; exact ⟨rfl, rfl, rfl⟩)
  obtain ⟨run, ins, lat⟩ := run
  intro off bytes ob s0 aligned within sound ws pass small object room chan counts cnt e u
  have size : mblockBytes kind = bytes := mblockBytes_eq kind
  have named : matrixObject I o = ob := by cases o <;> rfl
  rw [run, issue_ready _ ready, matrixIssue_enters (bs := s0.scrRead (.unit I.T.core) (I.T.ubase + off) bytes)
    (Issue.idle_first ready.issuer ready.first) size aligned within (State.unitRead_sound sound) pass (named ▸ small)
    (named ▸ object)]
  have full : ¬ 8 ≤ (t.core I.core).mqueue.length := Nat.not_le.2 room
  simp only [enterMatrix, if_neg full, bit_eq_testBit]
  cases o with
  | none =>
    simp only [Option.isNone_none, if_true, Result.out, ins]
    rfl
  | some r =>
    simp only [Option.isNone_some, Bool.false_eq_true, if_false, Result.out, lat, reduceCtorEq]
    rfl

end Sys2Proof.Machine
end

section
/-!
SUPPORT. The geometry instructions (O35).
-/

namespace Sys2Proof.Machine

/-- Collecting the answers of the elements that give one, where no step changes the state. -/
theorem foldl_filterMap {α β σ : Type} {step : σ → α → σ × Option β} {f : α → Option β} {s : σ} {l : List α}
    (same : ∀ a ∈ l, step s a = (s, f a)) (acc : List β) :
    l.foldl (fun (u : σ × List β) a => ((step u.1 a).1, u.2 ++ (step u.1 a).2.toList)) (s, acc) = (s, acc ++ l.filterMap f) := by
  induction l generalizing acc with
  | nil => rw [List.foldl_nil, List.filterMap_nil, List.append_nil]
  | cons a l ih =>
    rw [List.foldl_cons, same a List.mem_cons_self, ih fun b hb => same b (List.mem_cons_of_mem _ hb)]
    cases h : f a with
    | none => rw [List.filterMap_cons_none h, Option.toList_none, List.append_nil]
    | some b => rw [List.filterMap_cons_some h, Option.toList_some, List.append_assoc, List.singleton_append]

theorem State.primRec_default {s : State} {P : Pass} {b t prim topo cull : Nat} {vs : List (List Word × List Word)}
    (image : tget? P.images 1 = none) : s.primRec P b t prim topo cull vs =
    (s, (binDefault P.rs topo cull (vs.map (·.1))).map fun q =>
      { batchSeq := b, team := t, prim := prim, topo := topo, verts := { xyzw := q.1, attrs := vs.map (·.2) }, tiles := q.2 }) := by
  simp only [State.primRec, image]

/-- A submission of a team whose batch is in a pass. -/
theorem primSend_pass {I : Issue} {s : State} {recs : List PrimRec} {lid b : Nat} {P : Pass}
    (pass : s.batchPass I.T = some (lid, b, P)) : primSend I s recs =
    if P.admits b I.T.index recs then .go { s with passes := tset s.passes lid (P.submit recs) } [] else .wait s (.prim recs) := by
  simp only [primSend, pass]

/-- Settles O35. -/
theorem geometryFeedsTheBinners : Obligations.GeometryFeedsTheBinners := by
  unfold Obligations.GeometryFeedsTheBinners
  intro i s I F hF ready s0 r
  refine ⟨?_, ?_⟩
  · rintro n d c k rfl off cnt na stride last some_ most attrs high whole wide zero aligned within sound free verts own
    cases hF
    simp only [exec_mout, execMout]
    rw [issue_ready _ ready]
    have count : (bits (I.sreg n 1) 0 9) = cnt := bits_low ..
    have slot : Core.freeMeshlet (s0.core I.core) = some k := free
    simp only [sregs_four, count]
    rw [firstTrap_none]
    · dsimp only
      erw [slot]
      simp only [Issue.scalarOut_eq ready.active, State.unitWords, own]
      rfl
    · simp only [List.forall_mem_cons, List.not_mem_nil, false_imp_iff, implies_true, and_true]
      refine ⟨illopIf_false ?_ _, illopIf_false ?_ _, illopIf_false (bne_zero zero) _, trapIf_false (bne_zero aligned) ..,
        trapIf_false (decide_eq_false (Nat.not_lt.2 within)) .., trapIf_false sound ..⟩
      · simp only [Bool.or_eq_false_iff]
        exact ⟨⟨⟨beq_eq_false_iff_ne.2 (Nat.ne_of_gt some_), decide_eq_false (Nat.not_lt.2 most)⟩,
          decide_eq_false (Nat.not_lt.2 attrs)⟩, bits_high (v := I.sreg n 1) 18 high⟩
      · exact Bool.or_eq_false_iff.2 ⟨bne_zero whole, decide_eq_false (Nat.not_lt.2 wide)⟩
  · rintro n c M lid b P rfl h topo cull cnt per base idx shape side high some_ most upper mesh mine within sound known last
      pass opened image spans s1 s2 recs
    cases hF
    simp only [exec_prim, execPrim]
    rw [issue_ready _ ready]
    simp only [Issue.idle_first ready.issuer ready.first, sregs_four]
    have slot : bits (I.sreg n 0) 0 4 = h := bits_low ..
    have count : bits (I.sreg n 2) 0 16 = cnt := bits_low ..
    simp only [slot, count]
    rw [firstTrap_none]
    · dsimp only
      have found : (tget? (s0.core I.core).meshlets h).filter (fun M => M.tid == I.tid) = some M := by
        rw [mesh]
        exact if_pos (beq_iff_eq.2 mine)
      erw [found]
      dsimp only
      rw [firstTrap_none]
      · dsimp only
        have fed : (s0.batchPass I.T).filter (fun p => !p.2.2.closed) = some (lid, b, P) := by
          rw [pass]
          exact if_pos (congrArg not opened)
        erw [fed]
        dsimp only
        rw [List.find?_eq_none.2]
        · dsimp only
          have gathered := foldl_filterMap (s := s2) (l := (primVerts M per idx cnt).zipIdx)
            (step := fun u e => u.primRec P b I.T.index (base + e.2) topo cull e.1) (fun e _ => State.primRec_default image) []
          have pass : s2.batchPass I.T = some (lid, b, P) := by
            unfold s2
            split <;> exact pass
          simp only [bit_eq_testBit]
          refine (congrArg (fun q : State × List PrimRec => Result.out _ I (primSend I q.1 q.2)) gathered).trans ?_
          rw [List.nil_append, primSend_pass pass]
          by_cases admitted : P.admits b I.T.index recs = true
          · refine (congrArg (Result.out _ I) (if_pos admitted)).trans ?_
            rw [if_pos admitted]
            rfl
          · refine (congrArg (Result.out _ I) (if_neg admitted)).trans ?_
            rw [if_neg admitted]
            rfl
        · intro j hj
          obtain ⟨low, up⟩ := spans j (List.mem_range.1 hj)
          have inside : (decide ((primSpan P.rs.pspan I.T.index).1 ≤ base + j) &&
              decide (base + j < (primSpan P.rs.pspan I.T.index).2)) = true := by
            rw [decide_eq_true low, decide_eq_true up]
            rfl
          exact Bool.not_eq_true _ ▸ congrArg not inside
      · simp only [List.forall_mem_cons, List.not_mem_nil, false_imp_iff, implies_true, and_true]
        refine ⟨trapIf_false ?_ .., trapIf_false sound .., ?_, illopIf_false ?_ _⟩
        · exact congrArg not (decide_eq_true within)
        · have fits : decide (I.sreg n 1 + cnt * per ≤ I.T.usize) = true := decide_eq_true within
          have all : idx.findIdx? (fun i => decide (M.verts.length ≤ i)) = none :=
            List.findIdx?_eq_none_iff.2 fun j hj => decide_eq_false (Nat.not_le.2 (known j hj))
          exact congrArg (Option.map _) ((if_pos fits).trans all)
        · cases before : I.T.lastPrim with
          | none => rfl
          | some p => exact decide_eq_false (Nat.not_le.2 (last p before))
    · simp only [List.forall_mem_cons, List.not_mem_nil, false_imp_iff, implies_true, and_true]
      refine ⟨illopIf_false ?_ _, illopIf_false ?_ _⟩
      · simp only [Bool.or_eq_false_iff]
        exact ⟨⟨beq_eq_false_iff_ne.2 shape, beq_eq_false_iff_ne.2 side⟩, bits_high (v := I.sreg n 0) 23 high⟩
      · simp only [Bool.or_eq_false_iff]
        exact ⟨⟨beq_eq_false_iff_ne.2 (Nat.ne_of_gt some_), decide_eq_false (Nat.not_lt.2 most)⟩,
          bits_high (v := I.sreg n 2) 16 upper⟩

end Sys2Proof.Machine
end

section
/-!
SUPPORT. The tile instructions and the depth test (O36).
-/

namespace Sys2Proof.Machine

/-! ## What a storage reads after a write -/

theorem Memory.readList_writeList_self (m : List Host.Cell) (a : Nat) (bs : List Byte) :
    Memory.readList (Memory.writeList m a bs) a bs.length = bs := by
  rw [Memory.readList_eq]
  refine List.ext_getElem (by rw [List.length_map, List.length_range]) fun i _ hi => ?_
  rw [List.getElem_map, List.getElem_range, Memory.read_writeList, if_pos ⟨Nat.le_add_right a i, Nat.add_lt_add_left hi a⟩,
    Nat.add_sub_cancel_left]
  exact (List.getElem_eq_getD 0).symm

theorem State.scrRead_scrWrite_self (s : State) (x : Scr) (a : Nat) (bs : List Byte) :
    (s.scrWrite x a bs).scrRead x a bs.length = bs := by
  have stored : (s.scrWrite x a bs).scr x = Memory.writeList (s.scr x) a bs := s.scr_setScr_self x _
  rw [State.scrRead, stored, Memory.readList_writeList_self]

theorem State.group?_scrWrite (s : State) (x : Scr) (a : Nat) (bs : List Byte) (c g : Nat) :
    (s.scrWrite x a bs).group? c g = s.group? c g :=
  (congrArg (fun C : Core => tget? C.groups g) ((performed_scrWrite s x a bs).core c) :)

theorem State.mem_scrWrite (s : State) (x : Scr) (a : Nat) (bs : List Byte) : (s.scrWrite x a bs).mem = s.mem := by
  cases x <;> rfl

theorem State.scrRead_modGroup (s : State) (c g d : Nat) (f : Group → Group) (a n : Nat) :
    (s.modGroup c g f).scrRead (.unit d) a n = s.scrRead (.unit d) a n :=
  (congrArg (fun C : Core => Memory.readList C.unit a n) (s.core_modGroup_rest c g d f) :)

/-! ## The depth test at one pixel -/

section
variable {I : Issue} {s : State} {G : Group} {l k : Nat} {b : Bool}

/-- Writing the predicate of a fibre. -/
def Issue.putPred (I : Issue) (k l : Nat) (s : State) (b : Bool) : State := s.modGroup I.core I.g fun G => G.writeVar [wpred l k b]

theorem Issue.putPred_group (group : s.group? I.core I.g = some G) (real : k < 31) :
    ∃ H, (I.putPred k l s b).group? I.core I.g = some H ∧ H.p l k = b := by
  refine ⟨_, State.group?_modGroup_self _ group, ?_⟩
  refine (Group.p_write1_p _ l k (bword b) real).trans ?_
  cases b <;> rfl

theorem Issue.putPred_scrRead (I : Issue) (k l : Nat) (s : State) (b : Bool) (c a n : Nat) :
    (I.putPred k l s b).scrRead (.unit c) a n = s.scrRead (.unit c) a n := s.scrRead_modGroup ..

variable {p : Plane} {test : Bool} {d a : BitVec 7}

theorem depthLane_helper (helper : (I.G.lane l).helper = true) : depthLane I p test k d a l s = (I.putPred k l s false, none) := by
  unfold depthLane
  exact if_pos helper

theorem depthLane_fragment {o : Nat} (fragment : (I.G.lane l).helper = false) (place : I.T.ubase + p.at_ (pixelOf I.R l a) = o)
    (sound : s.scrBad (.unit I.core) o 4 = false) :
    let z := I.R.v l d.toNat
    let pass := depthPass p.cmp z (BitVec.ofNat 32 (leNat (s.scrRead (.unit I.core) o 4)))
    depthLane I p test k d a l s =
      (I.putPred k l (if pass && !test then s.scrWrite (.unit I.core) o (leBytes 4 z.toNat) else s) pass, none) := by
  subst place
  unfold depthLane
  simp only [fragment, sound, Bool.false_eq_true, if_false]
  rfl

end

/-! ## The tile that a team holds -/

theorem State.passes_performHeld (s : State) (c g : Nat) (p : HeldStore → Bool) : (s.performHeld c g p).passes = s.passes := by
  unfold State.performHeld
  split
  · rfl
  · exact (congrArg State.passes (performed_performAll ..).rest :)

section
variable {s : State} {T : Team} {tile : TileTask} {P : Pass}

theorem State.heldTile_some (pass : tget? s.passes T.lid = some P) (holds : T.tile = some tile) (held : tile.held = true) :
    s.heldTile T = some (tile, P) := by
  simp only [State.heldTile, holds, pass, held, if_true]

theorem State.tilePlane_some {k : Nat} {p : Plane} (tile : s.heldTile T = some (tile, P)) (plane : P.rs.plane k = some p) :
    s.tilePlane T k = some p := by
  rw [State.tilePlane, tile]
  exact plane

end

/-- A step for the elements that satisfy a predicate is the fold over those elements. -/
theorem foldl_unless {α σ : Type} (f : σ → α → σ) (skip : α → Bool) (l : List α) (s : σ) :
    l.foldl (fun u a => if skip a then u else f u a) s = (l.filter fun a => !skip a).foldl f s := by
  rw [List.foldl_filter]
  refine congrArg (fun g => l.foldl g s) (funext fun u => funext fun a => ?_)
  cases skip a <;> rfl

/-- An order-slot instruction that is tried first. -/
theorem ordered_first {F : Form} {I : Issue} {a : BitVec 7} {s : State} {f : Nat → State → State × Option Trap}
    (idle : I.B.wait = none) (lat : F.lat = none) :
    (ordered I a s [] f).out F I =
      let r := (byKey I.G I.act).foldl (orderStep I a f) { s := s, served := 0, outs := [], left := false }
      .next (if r.left then r.s.hold I (some F.ins) (.order r.served) r.outs else r.s.finish I none r.outs) := by
  have all : (I.act.filter fun l => !(0 : BitVec 32).getLsbD l && !([] : List LaneOut).any fun o => o.lane == l) = I.act :=
    List.filter_eq_self.2 fun l _ => by simp
  simp only [ordered, idle, all]
  split
  · rfl
  · rw [Result.out, lat]

theorem hsrTraps_none {I : Issue} {P : Pass} (late : P.rs.hsr = false) : hsrTraps I P = [] :=
  if_neg (Bool.not_eq_true _ ▸ late)

/-- Settles O36. -/
theorem tileInstructionsAct : Obligations.TileInstructionsAct := by
  unfold Obligations.TileInstructionsAct
  refine ⟨?_, ?_⟩
  · intro i s I F tile P hF ready pass holds held s0 pix at_ done
    have idle := Issue.idle_first ready.issuer ready.first
    have here : (F.slot s I).heldTile I.T = some (tile, P) := State.heldTile_some (s := F.slot s I) pass holds held
    have still : s0.heldTile I.T = some (tile, P) :=
      State.heldTile_some ((congrArg (tget? · I.T.lid) (State.passes_performHeld ..)).trans pass) holds held
    have pixel (l : Nat) (a : BitVec 7) : pixelOf I.R l a = pix a l := bits_low _ 10
    refine ⟨?_, ?_, ?_, ?_, ?_, ?_⟩
    · rintro k d a c p rfl plane aligned sound
      cases hF
      simp only [exec_tld, execTld]
      refine (issue_ready _ ready).trans ?_
      rw [State.tilePlane_some still plane]
      dsimp only
      rw [if_neg (Bool.not_eq_true _ ▸ bne_zero aligned)]
      refine congrArg (fun outs => Host.Outcome.next (s0.finish I none outs)) (List.map_congr_left fun l hl => ?_)
      rw [pixel]
      erw [sound l hl]
    · rintro k d a c p rfl plane aligned
      cases hF
      simp only [exec_tst, execTst]
      refine (issue_ready _ ready).trans ?_
      rw [State.tilePlane_some still plane]
      dsimp only
      rw [if_neg (Bool.not_eq_true _ ▸ bne_zero aligned)]
      simp only [pixel, foldl_unless]
      rfl
    · rintro k d a c p rfl plane low high
      cases hF
      simp only [exec_blnd, execBlnd]
      refine (issue_ready _ ready).trans ?_
      have blends : (some p).filter (fun p => decide (1 ≤ p.fmt) && decide (p.fmt ≤ 3)) = some p :=
        if_pos (Bool.and_eq_true_iff.2 ⟨decide_eq_true low, decide_eq_true high⟩)
      rw [State.tilePlane_some here plane, blends]
      exact ordered_first idle rfl
    · rintro k d a c p test (⟨rfl, rfl⟩ | ⟨rfl, rfl⟩) depth late
      · cases hF
        simp only [exec_dpth, execDpth]
        refine (issue_ready _ ready).trans ?_
        simp only [depthRun, here, depth, hsrTraps_none late]
        exact ordered_first idle rfl
      · cases hF
        simp only [exec_dpthT, execDpthT]
        refine (issue_ready _ ready).trans ?_
        simp only [depthRun, here, depth, hsrTraps_none late]
        exact ordered_first idle rfl
    · rintro c rfl late
      cases hF
      simp only [exec_disc, execDisc]
      refine (issue_ready _ ready).trans ?_
      have all : (I.act.filter fun l => !([] : List LaneOut).any fun o => o.lane == l) = I.act :=
        List.filter_eq_self.2 fun l _ => rfl
      simp only [here, hsrTraps_none late, all]
      rfl
    · rintro n c t p rfl w ob small few plane object u mine
      cases hF
      simp only [exec_tret, execTret]
      refine (issue_ready _ ready).trans ?_
      have low (v : Nat) : bits v 0 3 = v % 8 := bits_low v 3
      simp only [ready.first, here, low]
      rw [firstTrap_none]
      · dsimp only
        erw [object]
        simp only [tretRun]
        erw [mine]
        dsimp only
        by_cases ended : u.tileDone I.tid tile = true
        · refine (congrArg (Result.out _ I) (if_pos ended)).trans ?_
          rw [if_pos ended]
          rfl
        · refine (congrArg (Result.out _ I) (if_neg ended)).trans ?_
          rw [if_neg ended]
          rfl
      · simp only [List.forall_mem_cons, List.not_mem_nil, false_imp_iff, implies_true, and_true]
        refine ⟨illopIf_false (bits_high (v := w) 29 small) _, illopIf_false (decide_eq_false (Nat.not_le.2 few)) _, ?_⟩
        exact if_neg (by erw [plane]; exact Bool.false_ne_true)
  · intro I p test k d a l s G group real o z old sound
    have place : I.T.ubase + p.at_ (pixelOf I.R l a) = o := congrArg (I.T.ubase + p.at_ ·) (bits_low _ 10)
    cases fragment : (I.G.lane l).helper with
    | true =>
      obtain ⟨H, here, told⟩ := Issue.putPred_group (l := l) (b := false) group real
      exact ⟨_, H, depthLane_helper fragment, here, told, I.putPred_scrRead .., rfl⟩
    | false =>
      let u := if depthPass p.cmp z old && !test then s.scrWrite (.unit I.core) o (leBytes 4 z.toNat) else s
      have same : u.group? I.core I.g = some G := by
        unfold u
        split
        · exact (s.group?_scrWrite ..).trans group
        · exact group
      obtain ⟨H, here, told⟩ := Issue.putPred_group (l := l) (b := depthPass p.cmp z old) same real
      refine ⟨_, H, depthLane_fragment fragment place sound, here, told, (I.putPred_scrRead ..).trans ?_, ?_⟩
      · simp only [Bool.not_false, Bool.true_and]
        split
        · exact s.scrRead_scrWrite_self _ o (leBytes 4 z.toNat)
        · rfl
      · split
        · exact s.mem_scrWrite ..
        · rfl

end Sys2Proof.Machine
end

section
/-!
SUPPORT. Sampling (O37) and rays (O38).
-/

namespace Sys2Proof.Machine

/-- Fibres whose answers leave the state. -/
theorem laneOuts_answers {f : Issue → Nat → State → State × LaneOut} {I : Issue} {s : State} {out : Nat → LaneOut}
    (each : ∀ l ∈ I.act, f I l s = (s, out l)) : laneOuts f I s = (s, I.act.map out) := by
  rw [laneOuts, foldl_gather (out := out)]
  · rfl
  · intro l hl os
    simp only [each l hl]

theorem farWait_trapAll (I : Issue) (s : State) (t : Trap) : farWait I (s, trapAll I t) = .go s (trapAll I t) :=
  farWait_near fun o ho => by
    obtain ⟨l, _, rfl⟩ := List.mem_map.1 ho
    rfl

/-! ## Sampling -/

section
variable {I : Issue} {s u : State} {k lodr : Nat} {gather grad : Bool} {d a : BitVec 7} {b : List Byte} {x : Tex}

/-- A sampling instruction whose descriptor lies past the table. -/
theorem sampleOuts_past (past : (s.ctx I.x).word 0x1C0 % 2 ^ 20 ≤ k) :
    sampleOuts lodr gather grad k d a I s = (s, trapAll I (mkTrap 5 0 k)) := by
  unfold sampleOuts
  exact if_pos (le_of_eq_of_le (bits_low _ 20) past)

/-- A sampling instruction whose descriptor has been read. -/
theorem sampleOuts_read (within : k < (s.ctx I.x).word 0x1C0 % 2 ^ 20) (image : tget? (s.ctx I.x).images 2 = none)
    (read : (s.reload I.core I.x 2).unitFetch I I.low ((s.ctx I.x).dword 0x1B8 % 2 ^ 52 + 64 * k) 64 = (u, .ok b)) :
    sampleOuts lodr gather grad k d a I s =
      match parseTex b with
      | none => (u, trapAll I (mkTrap 1 0 k))
      | some x => laneOuts (sampleLane { x with lodr := lodr } gather grad d.toNat a.toNat) I u := by
  unfold sampleOuts
  simp only [bits_low, if_neg (Nat.not_le.2 within), image, read]
  rfl

/-- The sampling instructions. -/
def sampleInstr (gather grad : Bool) (t : BitVec 3) (d a : BitVec 7) (c : BitVec 3) : Instr :=
  if gather then (if grad then .smpgG t d a c else .smpg t d a c) else if grad then .smplG t d a c else .smpl t d a c

theorem exec_sample {t c : BitVec 3} {F : Form} (form : formOf (sampleInstr gather grad t d a c) s = some F) (ready : Ready F s I) :
    exec (sampleInstr gather grad t d a c) s =
      (farWait I (sampleOuts 0 gather grad (I.R.s t.toNat).toNat d a I (F.slot s I))).out F I ∧ F.lat = none := by
  cases gather <;> cases grad <;> (cases form; exact ⟨issue_ready _ ready, rfl⟩)

end

/-- Settles O37. -/
theorem samplingActs : Obligations.SamplingActs := by
  unfold Obligations.SamplingActs
  intro i s I F hF ready s0
  have past (gather grad : Bool) (t : BitVec 3) (d a : BitVec 7) (c : BitVec 3) (hi : i = sampleInstr gather grad t d a c)
      (out : (s.ctx I.x).word 0x1C0 % 2 ^ 20 ≤ (I.R.s t.toNat).toNat) : exec i s = .next (s0.finish I none
        (I.act.map fun l => { lane := l, trap := some (mkTrap 5 0 (I.R.s t.toNat).toNat) })) := by
    subst hi
    obtain ⟨run, lat⟩ := exec_sample hF ready
    rw [run, sampleOuts_past (s := F.slot s I) out, farWait_trapAll, Result.out, lat]
    rfl
  refine ⟨?_, ?_, ?_, ?_⟩
  · rintro j d a h c rfl triangles
    cases hF
    simp only [exec_ipol, execIpol]
    refine (issue_ready _ ready).trans ?_
    have index : (h ++ j).toNat = j.toNat + 8 * h.toNat := by
      rw [BitVec.toNat_append, ← Nat.shiftLeft_add_eq_or_of_lt j.isLt, Nat.shiftLeft_eq, Nat.mul_comm, Nat.add_comm]
    rw [eachLaneState, laneOuts_answers (out := fun l => match (I.G.lane l).frag with
        | some f => { lane := l, writes := [(.v l d.toNat,
            ipolWord f.verts (h ++ j).toNat (I.R.v l a.toNat) (I.R.v l (a.toNat + 1)))] }
        | none => { lane := l })]
    · rfl
    · intro l hl
      obtain ⟨f, frag, three⟩ := triangles l hl
      simp only [frag, three, index, beq_self_eq_true, if_true]
      rfl
  · rintro j d a h c rfl bare
    cases hF
    simp only [exec_ipol, execIpol]
    refine (issue_ready _ ready).trans ?_
    rw [eachLaneState, laneOuts_answers (out := fun l => { lane := l, trap := some (mkTrap 1 0 0) })]
    · rfl
    · intro l hl
      rw [bare l hl]
      rfl
  · rintro gather grad t d a c u b x rfl k c0 within read image r
    obtain ⟨run, lat⟩ := exec_sample hF ready
    rw [sampleOuts_read (s := F.slot s I) within image read] at run
    refine ⟨fun parsed near => run.trans ?_, fun parsed => run.trans ?_⟩
    · rw [parsed]
      dsimp only
      have fibres : laneOuts (sampleLane { x with lodr := 0 } gather grad d.toNat a.toNat) I u = r := rfl
      rw [fibres, farWait_near near, Result.out, lat]
    · rw [parsed]
      dsimp only
      rw [farWait_trapAll, Result.out, lat]
      rfl
  · rintro t d a c (rfl | rfl | rfl | rfl) out
    · exact past false false t d a c rfl out
    · exact past false true t d a c rfl out
    · exact past true false t d a c rfl out
    · exact past true true t d a c rfl out

/-! ## Rays -/

/-- Fibres that read nothing at a far target. -/
theorem eachLaneFar_near {f : Issue → Nat → State → State × LaneOut} {q : Nat → State → State × LaneOut} {I : Issue} {s : State}
    (each : ∀ l ∈ I.act, ∀ u, f I l u = q l u) (near : ∀ o ∈ (laneSteps (fun u l => q l u) I.act s []).2, o.far = none) :
    eachLaneFar f I s = .go (laneSteps (fun u l => q l u) I.act s []).1 (laneSteps (fun u l => q l u) I.act s []).2 := by
  have fibres : laneOuts f I s = laneSteps (fun u l => q l u) I.act s [] :=
    laneOuts_follow (inv := fun _ => True) trivial fun u _ l hl => ⟨each l hl u, trivial⟩
  rw [eachLaneFar, fibres, farWait_near near]

/-- Fibres of which none has a candidate trap. -/
theorem eachLaneFar_rayResume_none {I : Issue} {s : State} {accept : Bool} {d : Nat} (bare : ∀ l ∈ I.act, (I.G.lane l).ray = none) :
    eachLaneFar (rayResume accept d) I s = .go s (I.act.map fun l => { lane := l, trap := some (mkTrap 1 0 0) }) := by
  rw [eachLaneFar, laneOuts_answers (out := fun l => { lane := l, trap := some (mkTrap 1 0 0) })]
  · exact farWait_trapAll I s (mkTrap 1 0 0)
  · intro l hl
    simp only [rayResume, bare l hl]
    rfl

theorem rayResume_candidate {I : Issue} {l d : Nat} {s : State} {q : RayQuery} {h : RayHit} {accept : Bool}
    (ray : (I.G.lane l).ray = some q) (cand : q.cand = some h) :
    rayResume accept d I l s = rayGo I l d (if accept then ({ q with cand := none } : RayQuery).commit h else { q with cand := none }) s := by
  simp only [rayResume, ray, cand]

section
variable {I : Issue} {s u : State} {opq : Bool} {sr : BitVec 3} {d a : BitVec 7} {b : List Byte}

theorem rayqRun_past (past : (s.ctx I.x).word 0x1C4 % 2 ^ 20 ≤ (I.R.s sr.toNat).toNat) :
    rayqRun opq sr d a I s = .go s (trapAll I (mkTrap 5 0 (I.R.s sr.toNat).toNat)) := by
  unfold rayqRun
  exact if_pos (le_of_eq_of_le (bits_low _ 20) past)

theorem rayqRun_read (within : (I.R.s sr.toNat).toNat < (s.ctx I.x).word 0x1C4 % 2 ^ 20)
    (read : (s.reload I.core I.x 3).unitFetch I I.low ((s.ctx I.x).dword 0x1C8 % 2 ^ 52 + 32 * (I.R.s sr.toNat).toNat) 32 =
      (u, .ok b)) :
    rayqRun opq sr d a I s = eachLaneFar (rayqLane opq ((s.ctx I.x).dword 0x1C8 % 2 ^ 52 + 32 * (I.R.s sr.toNat).toNat)
      (byteField b 0 8) ((tget? (s.ctx I.x).images 3).isSome || (b.drop 8).all (· == 0)) d.toNat a.toNat) I u := by
  unfold rayqRun
  simp only [bits_low, if_neg (Nat.not_le.2 within), read]

/-- RAYQ and RAYQ.O. -/
def rayqInstr (opq : Bool) (sr : BitVec 3) (d a : BitVec 7) (c : BitVec 3) : Instr := if opq then .rayqO sr d a c else .rayq sr d a c

theorem exec_rayqInstr {c : BitVec 3} {F : Form} (form : formOf (rayqInstr opq sr d a c) s = some F) (ready : Ready F s I) :
    exec (rayqInstr opq sr d a c) s = (rayqRun opq sr d a I (F.slot s I)).out F I ∧ F.lat = none := by
  cases opq <;> (cases form; exact ⟨issue_ready _ ready, rfl⟩)

end

/-- Settles O38. -/
theorem raysAct : Obligations.RaysAct := by
  unfold Obligations.RaysAct
  intro i s I F hF ready s0 each near
  refine ⟨?_, ?_, ?_, ?_, ?_⟩
  · rintro opq sr d a c u b rfl k c0 within read f close
    obtain ⟨run, lat⟩ := exec_rayqInstr hF ready
    refine run.trans ?_
    rw [rayqRun_read (s := F.slot s I) within read, eachLaneFar_near (q := f) (fun _ _ _ => rfl) close, Result.out, lat]
    rfl
  · rintro opq sr d a c rfl out
    obtain ⟨run, lat⟩ := exec_rayqInstr hF ready
    refine run.trans ?_
    rw [rayqRun_past (s := F.slot s I) out, Result.out, lat]
    rfl
  · rintro d c q h rfl pending f close
    cases hF
    simp only [exec_rayc, execRayc]
    refine (issue_ready _ ready).trans ?_
    rw [eachLaneFar_near (q := f) (fun l hl u => rayResume_candidate (pending l hl).1 (pending l hl).2) close]
    rfl
  · rintro d c q h rfl pending f close
    cases hF
    simp only [exec_raya, execRaya]
    refine (issue_ready _ ready).trans ?_
    rw [eachLaneFar_near (q := f) (fun l hl u => rayResume_candidate (pending l hl).1 (pending l hl).2) close]
    rfl
  · rintro d c (rfl | rfl) bare
    · cases hF
      simp only [exec_rayc, execRayc]
      refine (issue_ready _ ready).trans ?_
      rw [eachLaneFar_rayResume_none bare]
      rfl
    · cases hF
      simp only [exec_raya, execRaya]
      refine (issue_ready _ ready).trans ?_
      rw [eachLaneFar_rayResume_none bare]
      rfl

end Sys2Proof.Machine
end

section
/-!
SUPPORT. The steps of launches (O39).
-/

namespace Sys2Proof.Machine

/-! ## Predecessors -/

section
variable {s : State} {L : Launch}

theorem State.predBad_none (done : s.predsDone L = true) : s.predBad L = none := by
  have each : ∀ e ∈ L.block.preds.zipIdx, ¬ (s.predTest L.ctx e.1).isNone = true := fun e he => by
    have satisfied := List.all_eq_true.1 done e.1 (List.fst_mem_of_mem_zipIdx he)
    rw [beq_iff_eq.1 satisfied]
    exact Bool.false_ne_true
  rw [State.predBad, List.find?_eq_none.2 each]
  rfl

/-- A launch whose predecessors are tested. -/
theorem State.predsDue_true (waiting : L.st = .waiting) (free : (s.ctx L.ctx).holdsTraps = false)
    (quiet : s.pendingFault (.launch L.ctx L.queue) = false) (told : s.predsDone L = true ∨ (s.predBad L).isSome = true) :
    s.predsDue L = true := by
  have tested : (s.predsDone L || (s.predBad L).isSome) = true := Bool.or_eq_true_iff.2 told
  simp only [State.predsDue, waiting, Ctx.moves, free, quiet, tested, beq_self_eq_true, Bool.not_false, Bool.and_true, Bool.true_or]

end

/-! ## The end of a launch -/

/-- A dropped launch stays gone, with its pass. -/
structure Dropped (lid : Nat) (s : State) : Prop where
  launch : tget? s.launches lid = none
  pass   : tget? s.passes lid = none

theorem State.dropLaunch_contribs (s : State) (lid : Nat) (L : Launch) : (s.dropLaunch lid L).contribs = s.contribs := by
  unfold State.dropLaunch
  split <;> rfl

theorem dropped_self (s : State) (lid : Nat) (L : Launch) : Dropped lid (s.dropLaunch lid L) := by
  have launch : tget? (tdel s.launches lid) lid = none := by rw [tget?_tdel, if_pos rfl]
  have pass : tget? (tdel s.passes lid) lid = none := by rw [tget?_tdel, if_pos rfl]
  unfold State.dropLaunch
  split
  · exact ⟨launch, pass⟩
  · refine ⟨launch, (tget?_tmod ..).trans ?_⟩
    erw [pass]
    exact ite_self none

theorem Dropped.dropLaunch {s : State} {lid : Nat} (gone : Dropped lid s) (k : Nat) (M : Launch) : Dropped lid (s.dropLaunch k M) := by
  have launch : tget? (tdel s.launches k) lid = none := by rw [tget?_tdel, gone.launch, ite_self]
  have pass : tget? (tdel s.passes k) lid = none := by rw [tget?_tdel, gone.pass, ite_self]
  unfold State.dropLaunch
  split
  · exact ⟨launch, pass⟩
  · refine ⟨launch, (tget?_tmod ..).trans ?_⟩
    erw [pass]
    exact ite_self none

theorem Dropped.foldl {s : State} {lid : Nat} (gone : Dropped lid s) (es : List (Nat × Launch)) :
    Dropped lid (es.foldl (fun u e => u.dropLaunch e.1 e.2) s) := by
  induction es generalizing s with
  | nil => exact gone
  | cons e es ih => exact ih (gone.dropLaunch e.1 e.2)

/-- Every launch of a list is gone behind the drops. -/
theorem dropped_foldl {lid : Nat} {es : List (Nat × Launch)} {L : Launch} (listed : (lid, L) ∈ es) (s : State) :
    Dropped lid (es.foldl (fun u e => u.dropLaunch e.1 e.2) s) := by
  obtain ⟨before, after, rfl⟩ := List.append_of_mem listed
  rw [List.foldl_append, List.foldl_cons]
  exact (dropped_self _ lid L).foldl after

theorem mem_of_tget? {α : Type} {t : Tbl α} {k : Nat} {v : α} (found : tget? t k = some v) : (k, v) ∈ t := by
  induction t with
  | nil => cases found
  | cons e t ih =>
    rw [tget?] at found
    split at found
    · next same =>
      cases found
      rw [← beq_iff_eq.1 same]
      exact List.mem_cons_self
    · exact List.mem_cons_of_mem _ (ih found)

/-- A Completing launch of which no step is left is dropped. -/
theorem State.sweepCompleting_drops {s : State} {lid : Nat} {L : Launch} (stands : tget? s.launches lid = some L)
    (completing : L.st = .completing) (free : (s.ctx L.ctx).holdsTraps = false)
    (made : ∀ c ∈ s.contribs, c.2.ctx = L.ctx → c.2.done ≠ some (L.queue, L.index)) :
    Dropped lid s.sweepCompleting ∧ s.sweepCompleting.contribs = s.contribs := by
  refine ⟨dropped_foldl (L := L) (List.mem_filter.2 ⟨mem_of_tget? stands, ?_⟩) s, keeps_foldl State.contribs (fun u (e : Nat × Launch) _ => u.dropLaunch_contribs e.1 e.2) ..⟩
  have none_left : (s.contribs.any fun c => c.2.ctx == L.ctx && c.2.done == some (L.queue, L.index)) = false := by
    refine List.any_eq_false.2 fun c hc both => ?_
    obtain ⟨mine, named⟩ := Bool.and_eq_true_iff.1 both
    exact made c hc (beq_iff_eq.1 mine) (beq_iff_eq.1 named)
  simp only [completing, free, none_left, beq_self_eq_true, Bool.not_false, Bool.and_true]

theorem State.addDone_none (s : State) (x q index : Nat) (fcode : Option Nat) : s.addDone x q index 0 fcode = s := rfl

theorem State.launchEnded_moves {s : State} {lid : Nat} {L : Launch} (ended : s.launchEnded lid L = true) :
    (s.ctx L.ctx).holdsTraps = false := by
  simp only [State.launchEnded, Ctx.moves, Bool.and_eq_true, Bool.not_eq_true'] at ended
  exact ended.1.1.1.1.2

/-- Settles O39. -/
theorem launchStepsAct : Obligations.LaunchStepsAct := by
  unfold Obligations.LaunchStepsAct
  refine ⟨?_, ?_, ?_, ?_, ?_, ?_, ?_, ?_, ?_⟩
  · intro s t u x q Q bs b head read sound L v
    simp only [exec_launchHeadRead, execLaunchHeadRead, head, read, sound]
    rfl
  · intro s lid L launch waiting free quiet done
    simp only [exec_predecessorTest, execPredecessorTest, launch, State.predsDue_true waiting free quiet (.inl done),
      State.predBad_none done, done, if_true]
  · intro s lid o L launch waiting free quiet bad
    simp only [exec_predecessorTest, execPredecessorTest, launch,
      State.predsDue_true waiting free quiet (.inr (Option.isSome_iff_exists.2 ⟨o, bad⟩)), bad, if_true]
  · intro s lid p L P launch evaluated free pass P'
    simp only [exec_geometryBatchTake, execGeometryBatchTake, launch, evaluated, Ctx.moves, free, pass, beq_self_eq_true,
      Bool.not_false, Bool.and_self, if_true]
    rfl
  · intro s die slot v small low heeded bare
    have inside : (decide (8 ≤ die) || decide (64 ≤ slot)) = false :=
      Bool.or_eq_false_iff.2 ⟨decide_eq_false (Nat.not_le.2 small), decide_eq_false (Nat.not_le.2 low)⟩
    have kept : ((parseBind v).valid && !s.heeds (parseBind v)) = false := by
      obtain invalid | heeds := heeded
      · rw [invalid, Bool.false_and]
      · rw [heeds, Bool.not_true, Bool.and_false]
    simp only [exec_bindRecordWrite, execBindRecordWrite, inside, kept, bare, Option.map_none, beq_iff_eq, Bool.false_eq_true, if_false]
  · intro s t lid L bs bases launch needs aligned read pass rs dies u many placed open_
    have whole : (L.block.rstate % 64 != 0) = false := bne_zero aligned
    have all : (bases.length == dies.length && t.basesOk L.ctx rs.lsize bases && u.passReady lid L) = true := by
      rw [many, placed, open_, beq_self_eq_true]
      rfl
    have mask (n : Nat) : bit n = n.testBit := funext (bit_eq_testBit n)
    simp only [exec_listStoreAlloc, execListStoreAlloc, launch, needs, whole, read, pass, mask, Bool.not_true, Bool.false_eq_true,
      if_false]
    exact congrArg Host.Outcome.next (if_pos all)
  · intro s t core slot lid L ts chosen
    simp only [exec_indexTake, execIndexTake, chosen]
    rfl
  · intro s lid L launch gated running ts whole
    have ready : s.gridWhole lid L = true := by
      simp only [State.gridWhole, gated, running, beq_self_eq_true, Bool.true_and]
      exact beq_iff_eq.2 whole
    simp only [exec_persistentGridStart, execPersistentGridStart, launch, ready, if_true]
    rfl
  · intro s lid L launch ended
    have run : exec (.launchCompletion lid) s = .next
        ((({ s with launches := tset s.launches lid { L with st := .completing } } : State).addDone L.ctx L.queue L.index
          L.block.done none).sweepCompleting) := by
      simp only [exec_launchCompletion, execLaunchCompletion, launch, ended, if_true]
    refine ⟨run, fun silent made => ⟨_, run, ?_⟩⟩
    have free : (s.ctx L.ctx).holdsTraps = false := State.launchEnded_moves ended
    rw [silent, State.addDone_none]
    obtain ⟨gone, contribs⟩ := State.sweepCompleting_drops
      (s := { s with launches := tset s.launches lid { L with st := .completing } }) (tget?_tset_self ..) rfl
      free made
    exact ⟨gone.launch, gone.pass, contribs⟩

end Sys2Proof.Machine
end

section
/-!
SUPPORT. The steps of rendering and of Onyx translation (O43).
-/

namespace Sys2Proof.Machine

/-! ## The lists of a pass -/

theorem Pass.tile_modTile (P : Pass) (t k : Nat) (f : TileRec → TileRec) :
    (P.modTile t f).tile k = if t = k then f (P.tile t) else P.tile k := by
  simp only [Pass.tile, Pass.modTile, tget, tget?_tset]
  split <;> rfl

/-- A flush cuts lists and keeps their entries. -/
theorem Pass.entries_flush (P : Pass) (d n k : Nat) : ((P.flush d n).tile k).entries = (P.tile k).entries := by
  induction n generalizing P with
  | zero => rfl
  | succ n ih =>
    rw [Pass.flush]
    split
    · rfl
    · split
      · rfl
      · next t _ =>
        rw [ih, Pass.tile_modTile]
        split
        · next same => rw [same]; rfl
        · rfl

theorem Pass.entries_afterAppend (P : Pass) (d k : Nat) : ((P.afterAppend d).tile k).entries = (P.tile k).entries := by
  unfold Pass.afterAppend
  split
  · exact P.entries_flush ..
  · rfl

/-- An entry goes to the first tile of its record alone. -/
theorem Pass.entries_append {P : Pass} {d t k : Nat} {ts : List Nat} {r : PrimRec} (first : r.tiles = t :: ts) :
    ((P.append d r).tile k).entries = if t = k then (P.tile k).entries ++ [{ r with tiles := [] }] else (P.tile k).entries := by
  simp only [Pass.append, first]
  rw [Pass.entries_afterAppend, Pass.tile_modTile]
  split
  · next same => rw [same]; rfl
  · rfl

/-! ## Passes, tiles and sequencers at work -/

section
variable {s : State} {lid tid : Nat} {L : Launch} {P : Pass} {T : Team} {t : TileTask}

theorem State.passOpen_some (launch : tget? s.launches lid = some L) (running : L.st = .running)
    (free : (s.ctx L.ctx).holdsTraps = false) (pass : tget? s.passes lid = some P) : s.passOpen lid = some P := by
  simp only [State.passOpen, launch, running, Ctx.moves, free, pass, beq_self_eq_true, Bool.not_false, Bool.and_self, if_true]

theorem State.rasterTask_some (team : tget? s.teams tid = some T) (task : T.tile = some t) (pass : tget? s.passes T.lid = some P)
    (begun : T.begun = true) (held : t.held = true) (left : t.at_ < t.hi) (issues : (s.ctx T.ctx).st.issues = true) :
    s.rasterTask tid = some (T, t, P) := by
  simp only [State.rasterTask, team, task, pass, begun, held, left, issues, decide_true, Bool.and_self, if_true]

theorem State.tretDue_some {fin : Bool} {r : Nat × Nat × Origin} (quiet : s.pendingFault (.tile tid) = false)
    (team : tget? s.teams tid = some T) (task : T.tile = some t) (pass : tget? s.passes T.lid = some P) (final : t.final = fin)
    (over_ : t.tret = some r) : s.tretDue tid fin = some (T, t, r, P) := by
  simp only [State.tretDue, quiet, team, task, pass, final, over_, beq_self_eq_true, Bool.false_eq_true, if_false, if_true]
  rfl

end

section
variable {s : State} {tid : Nat} {T : Team} {t : TileTask} {P : Pass} {r : PrimRec}

/-- The raster sequencer resolves no hidden surfaces at this step. -/
def NoSurfaces (P : Pass) (t : TileTask) : Prop := P.rs.depth = none ∨ (P.rs.hsr && t.image.isNone && t.winners.isNone) = false

theorem noSurfaces_of (other : P.rs.depth = none ∨ P.rs.hsr = false ∨ t.image ≠ none ∨ t.winners ≠ none) : NoSurfaces P t := by
  refine other.imp_right fun rest => ?_
  obtain plain | loaded | known := rest
  · rw [plain, Bool.false_and, Bool.false_and]
  · rw [Option.isNone_eq_false_iff.2 (Option.isSome_iff_ne_none.2 loaded), Bool.and_false, Bool.false_and]
  · rw [Option.isNone_eq_false_iff.2 (Option.isSome_iff_ne_none.2 known), Bool.and_false]

/-- An entry of which no quad is left is skipped. -/
theorem State.rasterStep_skip (work : s.rasterTask tid = some (T, t, P)) (other : NoSurfaces P t)
    (entry : (P.tile t.tile).entries[t.at_]? = some r) (drawn : (s.rasterImage T t).nextQuad T t P r = none) :
    s.rasterStep tid =
      some ((s.rasterImage T t).modTeam tid fun T => { T with tile := some { t with at_ := t.at_ + 1, quad := 0 } }) := by
  simp only [State.rasterStep, work, entry, drawn]
  obtain none_ | plain := other
  · rw [none_]
  · rw [plain]
    cases P.rs.depth <;> rfl

/-- The next quad of an entry receives its fibres in free lanes. -/
theorem State.rasterStep_quad {q g l0 : Nat} {L : Launch} {d : RoleDesc} (work : s.rasterTask tid = some (T, t, P)) (other : NoSurfaces P t)
    (entry : (P.tile t.tile).entries[t.at_]? = some r) (next : (s.rasterImage T t).nextQuad T t P r = some q)
    (free : (s.rasterImage T t).freeQuad tid P.rs.frole = some (g, l0)) (launch : tget? s.launches T.lid = some L)
    (role : L.block.roles[P.rs.frole]? = some d) :
    s.rasterStep tid = some ((s.rasterImage T t).createQuad tid g l0 q T t P r (L.block.cbase + d.pcoff)) := by
  have launch : tget? (s.rasterImage T t).launches T.lid = some L := launch
  simp only [State.rasterStep, work, entry, next, free, launch, role, Option.bind_some, Option.map_some]
  obtain none_ | plain := other
  · rw [none_]
  · rw [plain]
    cases P.rs.depth <;> rfl

end

/-- Settles O43. -/
theorem renderStepsAct : Obligations.RenderStepsAct := by
  unfold Obligations.RenderStepsAct
  refine ⟨?_, ?_, ?_, ?_, ?_, ?_, ?_, ?_, ?_⟩
  · intro s die lid L P r launch running free pass next u
    simp only [exec_binnerAppend, execBinnerAppend, State.passOpen_some launch running free pass, next]
    rfl
  · intro P die t ts r first
    refine ⟨?_, fun k other => ?_⟩
    · rw [Pass.entries_append first, if_pos rfl]
    · rw [Pass.entries_append first, if_neg (Ne.symm other)]
  · intro s lid src dst L P launch pass
    simp only [exec_linkFailed, execLinkFailed, launch, pass, Option.isSome_some, if_true]
    rfl
  · intro s u v w lid tile core lo hi part fin L P bs launch open_ active small quiet next bound task atStart placed loaded admitted
    refine ⟨fun fresh => ?_, ?_⟩
    · simp only [State.loadPlanes, fresh, Bool.not_false, if_true, Prod.mk.injEq, Option.some.injEq] at loaded
      exact ⟨loaded.1.symm, loaded.2.symm⟩
    · have ready : s.taskReady lid tile core = some (L, P, (lo, hi, fin), part) := by
        simp only [State.taskReady, launch, open_, bound, active, quiet, next, decide_eq_true small, beq_self_eq_true,
          Bool.not_false, Bool.and_self, if_true, Option.map_some]
      have die : dieOf core = core / 24 := rfl
      have admits : s.admitTask lid tile core = some ((v.setPlanes (v.team s.nextTid) (if bs.isEmpty then [] else P.rs.described) bs).modTile
          lid tile fun r => { r with served := hi, cuts := if fin then r.cuts else r.cuts.drop 1,
                                     st := if fin then .finalRunning else .prefixRunning }) := by
        simp only [atStart, task] at placed admitted
        simp only [State.admitTask, ready, placed, die, loaded, admitted, Option.map_some]
      simp only [exec_tileTaskAdmit, execTileTaskAdmit, admits]
      rfl
  · intro s tid T t P team task pass begun held left issues u
    have work := State.rasterTask_some team task pass begun held left issues
    refine ⟨?_, ?_⟩
    · intro p depth hsr image winners
      simp only [exec_fragmentCreate, execFragmentCreate, State.rasterStep, work, depth, hsr, image, winners]
      rfl
    · intro other
      have other := noSurfaces_of other
      refine ⟨fun r entry drawn => ?_, fun r q g l0 L d entry next free launch role => ?_⟩
      · simp only [exec_fragmentCreate, execFragmentCreate, State.rasterStep_skip work other entry drawn]
        rfl
      · simp only [exec_fragmentCreate, execFragmentCreate, State.rasterStep_quad work other entry next free launch role]
        rfl
  · intro s tid k ob o T t P p team task over_ pass quiet
    refine ⟨?_, ?_, ?_⟩
    · intro final sound good plane clean n rows u ps served
      simp only [exec_tileExport, execTileExport, State.tretDue_some quiet team task pass final over_, sound, good, plane, State.export_,
        clean, Bool.false_eq_true, if_false]
      erw [served]
    · intro final sound good plane dirty
      simp only [exec_tileExport, execTileExport, State.tretDue_some quiet team task pass final over_, sound, good, plane, State.export_,
        dirty, if_true]
      rfl
    · intro prefix_ clean u ps served
      simp only [exec_tileSpill, execTileSpill, State.tretDue_some quiet team task pass prefix_ over_, State.spill, clean,
        Bool.false_eq_true, if_false]
      erw [served]
  · intro s u kind core g img G I sequencer group image stands issuer v
    have which : (kind == 2 || kind == 3) = true := by
      obtain rfl | rfl := sequencer <;> rfl
    simp only [exec_seqHang, execSeqHang, which, if_true, State.hangTrap, group, image, stands, Option.bind_some, issuer, Option.map_some,
      Option.isNone_some, Bool.false_eq_true, if_false, beq_iff_eq]
    rfl
  · intro s kind core g lid img L sampler ray pass image launch
    have which : (kind == 2 || kind == 3) = false := Bool.or_eq_false_iff.2 ⟨beq_eq_false_iff_ne.2 sampler, beq_eq_false_iff_ne.2 ray⟩
    simp only [exec_seqHang, execSeqHang, which, pass, image, launch, Option.isNone_some, Bool.false_eq_true, if_false, beq_iff_eq]
  · intro s x pa core g mode G B waiters batches waits group fresh room
    simp only [exec_onyxTranslate, execOnyxTranslate, waiters, batches, fresh, room, Option.isNone_none, Bool.and_self, if_true,
      List.foldl_cons, List.foldl_nil, List.find?_cons, waits, Option.map_some, Option.getD_some]

end Sys2Proof.Machine
end

section
/-!
SUPPORT. The steps of routers, fills and invalidations (O44).
-/

namespace Sys2Proof.Machine

/-- The first element that satisfies two tests is the first that satisfies one of them, where it satisfies the other. -/
theorem find?_and {α : Type} {p q : α → Bool} {l : List α} {a : α} (found : l.find? p = some a) (both : q a = true) :
    l.find? (fun x => p x && q x) = some a := by
  induction l with
  | nil => cases found
  | cons b l ih =>
    cases h : p b with
    | true =>
      rw [List.find?_cons_of_pos h] at found
      cases found
      exact List.find?_cons_of_pos (Bool.and_eq_true_iff.2 ⟨h, both⟩)
    | false =>
      rw [List.find?_cons_of_neg (Bool.not_eq_true _ ▸ h)] at found
      rw [List.find?_cons_of_neg (by rw [h, Bool.false_and]; exact Bool.false_ne_true), ih found]

theorem packageHome_eq (name : Nat) : packageHome name = 8 + name / 2 ^ 44 % 2 :=
  congrArg (8 + ·) (Nat.mod_mod_of_dvd _ (by decide))

/-! ## Interests -/

section
variable {s : State} {die e : Nat} {i : Interest}

theorem State.forwardDue_some (stands : tget? (s.die die).interests e = some i) (waiting : i.st = .waiting) (fresh : i.sent = false)
    (far : 3 ≤ i.reach)
    (goes : s.outstanding die i = true ∨ (s.findCopy (8 + i.name / 2 ^ 44 % 2) i.ctx i.name).isSome = true ∨
      (s.hdie (8 + i.name / 2 ^ 44 % 2 - 8)).requests.length < 16384) : s.forwardDue die e = some i := by
  have sends : i.toSend = true := by
    simp only [Interest.toSend, waiting, fresh, decide_eq_true far, decide_true, Bool.not_false, Bool.and_self]
  rw [State.forwardDue, stands]
  refine if_pos (Bool.and_eq_true_iff.2 ⟨sends, ?_⟩)
  rw [packageHome_eq]
  simpa only [Bool.or_eq_true, decide_eq_true_eq, or_assoc] using goes

/-- Reaping a team leaves memory and the interests of every die. -/
theorem State.reapTeam_frame (s : State) (tid : Nat) : (s.reapTeam tid).mem = s.mem ∧ (s.reapTeam tid).dies = s.dies := by
  have marked (T : Team) : (s.endMarker T).mem = s.mem ∧ (s.endMarker T).dies = s.dies := by
    unfold State.endMarker
    split <;> exact ⟨rfl, rfl⟩
  unfold State.reapTeam
  dsimp only
  split
  · exact marked _
  · exact ⟨rfl, rfl⟩

/-- An interest whose outcome is final is Ending. -/
theorem State.endInterest_ends (stands : tget? (s.die die).interests e = some i) (code addr cause : Nat) :
    tget? ((s.endInterest die e code addr cause).die die).interests e = some { i with st := .ending code } ∧
      (s.endInterest die e code addr cause).mem = s.mem := by
  simp only [State.endInterest, stands]
  obtain ⟨mem, dies⟩ := State.reapTeam_frame
    ((s.modDie die fun D => { D with interests := tset D.interests e { i with st := .ending code } }).addContribution
      { ctx := i.ctx, obj := i.obj, bytes := i.cap, done := none, fcode := if code == 0 then none else some code, flags := 0,
        origin := i.origin, srckind := 1, src := die, major := 0x32, op := 0, addr := addr, gcause := cause,
        interest := some (die, e) }) i.tid
  refine ⟨(congrArg (fun d => tget? (tget d die Die.start).interests e) dies :).trans ?_, mem⟩
  exact (congrArg (fun D : Die => tget? D.interests e)
    ((s.die_modDie die die fun D => { D with interests := tset D.interests e { i with st := .ending code } }).trans (if_pos rfl))).trans
    (tget?_tset_self ..)

end

/-- Settles O44. -/
theorem routerAndFillStepsAct : Obligations.RouterAndFillStepsAct := by
  unfold Obligations.RouterAndFillStepsAct
  refine ⟨?_, ?_, ?_, ?_, ?_, ?_, ?_, ?_, ?_⟩
  · intro s die e i stands waiting fresh far q t
    have home : packageHome i.name = q := packageHome_eq _
    refine ⟨fun c copy => ?_, fun bare joined => ?_, fun bare alone room => ?_⟩
    · simp only [exec_interestForward, execInterestForward,
        State.forwardDue_some stands waiting fresh far (.inr (.inl (Option.isSome_iff_exists.2 ⟨c, copy⟩))), State.sendRequest, home, copy]
      rfl
    · simp only [exec_interestForward, execInterestForward, State.forwardDue_some stands waiting fresh far (.inl joined),
        State.sendRequest, home, bare, joined, if_true]
      rfl
    · simp only [exec_interestForward, execInterestForward, State.forwardDue_some stands waiting fresh far (.inr (.inr room)),
        State.sendRequest, home, bare, alone, Bool.false_eq_true, if_false]
      rfl
  · intro s n f found due t gone
    have iter : nameIter f.name = f.name % 2 ^ 16 := bits_low ..
    have mark (u : State) : u.retiredAt f.ctx f.at_ (nameTensor f.name) (nameIter f.name) =
        u.retiredAt f.ctx f.at_ (f.name / 2 ^ 44 % 2 ^ 20) (f.name % 2 ^ 16) := by rw [iter]; rfl
    have here : s.retiredAt f.ctx f.at_ (nameTensor f.name) (nameIter f.name) = gone := mark s
    have there : t.retiredAt f.ctx f.at_ (nameTensor f.name) (nameIter f.name) = gone := mark t
    have run : exec (.tileArrival n) s = .next (if f.up then t.visit f else if gone then t else t.giveTile f) := by
      simp only [exec_tileArrival, execTileArrival, found, due, here, Bool.not_true, Bool.false_eq_true, if_false]
      rfl
    rw [run, State.visit, there]
    refine ⟨fun up retired => ?_, fun up stands held => ?_, ?_, fun down => ?_⟩
    · rw [if_pos up, if_pos retired]
    · rw [if_pos up, if_neg (Bool.not_eq_true _ ▸ stands), if_pos held]
    · intro up stands bare u
      rw [if_pos up, if_neg (Bool.not_eq_true _ ▸ stands), bare]
      simp only [Option.isSome_none, Bool.false_eq_true, if_false, packageHome_eq, beq_iff_eq]
      rfl
    · rw [if_neg (Bool.not_eq_true _ ▸ down)]
  · intro s t die e since i bs ps stands writing earlier fits quiet ws served u
    have due : s.writeDue die e = some (i, bs) := by
      simp only [State.writeDue, quiet, stands, writing, Option.bind_some, earlier, Bool.false_eq_true, if_false, if_true]
    simp only [exec_interestWriteDone, execInterestWriteDone, due, if_neg (Nat.not_lt.2 fits)]
    erw [served]
  · intro s die e i stands waiting expired
    obtain ⟨ends, mem⟩ := State.endInterest_ends stands fcNever i.name 0
    refine ⟨_, _, ?_, ends, rfl, mem⟩
    simp only [exec_interestLifetimeEnd, execInterestLifetimeEnd, stands, waiting, decide_eq_true expired, decide_true, Bool.and_self,
      if_true]
  · intro s n r found earlier t u
    have due : s.retireDue n = some r :=
      find?_and (p := fun r : Retire => r.id == n) (q := fun r => decide (r.since < s.now)) found (decide_eq_true earlier)
    refine ⟨fun package => ?_, fun low => ?_⟩
    · simp only [exec_retirementApply, execRetirementApply, due, State.applyRetire, if_pos package]
      rfl
    · simp only [exec_retirementApply, execRetirementApply, due, State.applyRetire, if_neg (Nat.not_le.2 low)]
      rfl
  · intro s t v x va core f r b small issues quiet fill range read u g placed
    have start : s.fillToStart x va = some f := by
      simp only [State.fillToStart, issues, quiet, fill, Bool.not_false, Bool.and_self, if_true]
    simp only [exec_generatorStart, execGeneratorStart, start, range, read, if_neg (Nat.not_le.2 small)]
    have started : (t.clearFaults (.generator x va)).startFill x core f r b = some (v.modCtx x fun c =>
        { c with fills := modFirst (fun e => e.block == f.block) (fun e => { e with started := true }) c.fills }) :=
      congrArg (Option.map _) placed
    rw [started]
    rfl
  · intro s x range just b r done bare apart free desc budget over_ victim
    have asked : (s.ctx x).evictq.find? (fun e => e.2.1 == range) = none :=
      List.find?_eq_none.2 fun e he same => bare e he (beq_iff_eq.1 same)
    have exceeds : (r.budget != 0 && decide (r.budget < r.filled)) = true :=
      Bool.and_eq_true_iff.2 ⟨bne_iff_ne.2 budget, decide_eq_true over_⟩
    simp only [exec_procEviction, execProcEviction, apart, free, asked, done, desc, exceeds, victim, Bool.or_self, Bool.false_eq_true,
      if_false, if_true]
  · intro s x range va bsize seq l asked apart free u leaf filled
    simp only [exec_procEviction, execProcEviction, apart, free, asked, State.startAsked, leaf, Option.any_some, filled, Bool.or_self,
      Bool.false_eq_true, if_false]
    rfl
  · intro s n v found idle s1 s2
    simp only [exec_invalidationComplete, execInvalidationComplete, found, idle, Bool.false_eq_true, if_false]
    rfl

end Sys2Proof.Machine
end

section
/-!
SUPPORT. The steps of observation and power (O45).
-/

namespace Sys2Proof.Machine

theorem bits_eq_extractLsb' {w : Nat} (v : BitVec w) (lo n : Nat) : bits v.toNat lo n = (v.extractLsb' lo n).toNat := by
  rw [bits, BitVec.extractLsb'_toNat, Nat.shiftRight_eq_div_pow]

/-- An event is of the host link alone. -/
theorem State.event_rest (s : State) (code x : Nat) (bs : List Byte) : { s.event code x bs with host := s.host } = s := by
  unfold State.event
  split <;> rfl

theorem State.die_event (s : State) (code x : Nat) (bs : List Byte) (d : Nat) : (s.event code x bs).die d = s.die d :=
  (congrArg (State.die · d) (State.event_rest s code x bs) :)

/-- Two changes of a core that agree on what the core is. -/
theorem State.modCore_congr {s : State} {c : Nat} {f g : Core → Core} (same : f (s.core c) = g (s.core c)) :
    s.modCore c f = s.modCore c g := congrArg (s.setCore c) same

theorem State.expiryDue_some {s : State} {core due : Nat} (on : (s.core core).sampling.getLsbD 20 = true)
    (expiry : (s.core core).expiry = some due) (come : due ≤ s.coreCycle core) (clocked : s.clocked core = true) :
    s.expiryDue core = true := by
  rw [State.expiryDue, clocked, bit_eq_testBit, expiry]
  exact Bool.and_eq_true_iff.2 ⟨on, decide_eq_true come⟩

/-- The next instant of a schedule lies behind the present one, by at most its period. -/
theorem next_instant {due now : Nat} (n : Nat) (come : due ≤ now) (pos : 0 < n) :
    now < due + n * ((now - due) / n + 1) ∧ due + n * ((now - due) / n + 1) ≤ now + n ∧
      (due + n * ((now - due) / n + 1) - due) % n = 0 := by
  have whole := Nat.div_add_mod (now - due) n
  have part := Nat.mod_lt (now - due) pos
  refine ⟨?_, ?_, ?_⟩
  · rw [Nat.mul_add, Nat.mul_one]
    omega
  · rw [Nat.mul_add, Nat.mul_one]
    omega
  · rw [Nat.add_sub_cancel_left, Nat.mul_mod_right]

theorem Die.setKhz_khz (D : Die) (khz : Nat) : (D.setKhz khz).khz = khz := by
  unfold Die.setKhz
  split
  case isTrue same => exact (beq_iff_eq.1 same).symm
  case isFalse => rfl

theorem Die.setKhz_sync {D : Die} {khz : Nat} (new : D.khz ≠ khz) : (D.setKhz khz).sync.2 = true := by
  rw [Die.setKhz, if_neg (mt beq_iff_eq.1 new.symm)]

/-- A plan of supply steps first, and of frequency steps at the highest supply, is one that R434 allows. -/
theorem Die.planOk_plan {D : Die} (n : Nat) (low : D.mv ≤ 540) (step : D.mv % 5 = 0) : D.planOk (D.plan n).1 (D.plan n).2 = true := by
  simp only [Die.planOk, Bool.and_eq_true, Bool.or_eq_true, decide_eq_true_eq, beq_iff_eq]
  simp only [Die.plan, Die.planKhz]
  omega

/-- Settles O45. -/
theorem observationAndPowerStepsAct : Obligations.ObservationAndPowerStepsAct := by
  unfold Obligations.ObservationAndPowerStepsAct
  refine ⟨⟨?_, ?_, ?_, ?_, ?_⟩, ?_, ?_, ?_, ?_, ?_, ?_, ?_, ?_, ?_, ?_, ?_, ?_, ?_⟩
  · intro s core due on expiry come clocked t
    have next : (s.modCore core fun C => { C with expiry := C.expiry.map fun t => t + bits C.sampling.toNat 0 20 }) = t :=
      State.modCore_congr (by simp only [expiry, Option.map_some, bits_eq_extractLsb'])
    have due := State.expiryDue_some on expiry come clocked
    constructor
    · intro nobody
      simp only [exec_sampleExpiry, execSampleExpiry, due, Bool.not_true, Bool.false_eq_true, if_false, nobody, next]
    · intro g G found
      simp only [exec_sampleExpiry, execSampleExpiry, due, Bool.not_true, Bool.false_eq_true, if_false, found, next]
  · intro s die edge asked
    have due : s.syncDue die = true := by
      rw [State.syncDue, edge, Bool.true_and]
      exact (Bool.or_eq_true _ _).mpr asked
    simp only [exec_syncPacket, execSyncPacket, due, Bool.not_true, Bool.false_eq_true, if_false, State.draw, bit_eq_testBit]
  · intro s n L due
    simp only [exec_latencyAccount, execLatencyAccount, due, dieOf]
  · intro s ns small
    simp only [exec_ptpMessage, execPtpMessage, Nat.mod_eq_of_lt small]
  · intro s
    rfl
  · intro s cl v some_
    simp only [exec_clockPatternWrite, execClockPatternWrite, beq_iff_eq, if_neg some_, State.writePattern]
  · intro s cl v some_ narrow
    simp only [exec_thermalThrottle, execThermalThrottle, narrow, bne_iff_ne.2 some_, beq_self_eq_true, Bool.and_self, if_true,
      State.writePattern]
  · intro s cl v width gap
    have legal : ¬ (bits v.toNat 0 6 == 0 || bits v.toNat 8 8 == 0) = true := by
      rw [bits_eq_extractLsb', bits_eq_extractLsb']
      simp only [Bool.or_eq_true, beq_iff_eq, not_or, BitVec.toNat_eq, ne_eq] at width gap ⊢
      exact ⟨width, gap⟩
    simp only [exec_currentSlopeWrite, execCurrentSlopeWrite, if_neg legal]
  · intro s die v legal
    simp only [exec_powerRegisterWrite, execPowerRegisterWrite, bits_eq_extractLsb', if_neg (Nat.not_lt.2 legal)]
  · intro s core q k due
    simp only [exec_ntEntry, execNtEntry, due, if_true]
  · intro s core q k t leaving come
    have ends : s.ntEnds core q k = true := by
      rw [State.ntEnds, List.getD_eq_getElem?_getD, leaving]
      exact decide_eq_true come
    simp only [exec_ntExit, execNtExit, ends, if_true]
  · intro s core q t known quad hold over_ empty few
    have none_ : ((s.core core).groups.filter fun e => e.1 / 16 == q).isEmpty = true :=
      List.isEmpty_iff.2 (List.filter_eq_nil_iff.2 fun e he => by rw [beq_iff_eq]; exact empty e he)
    have due : s.holdDue core q = true := by
      simp only [State.holdDue, hold, none_, Bool.and_true, Bool.and_eq_true, decide_eq_true_eq]
      exact ⟨over_, by rw [dieOf]; omega⟩
    simp only [exec_holdExpiry, execHoldExpiry, decide_eq_true known, decide_eq_true quad, due, Bool.and_self, if_true]
  · intro s die core q t rest ramps come free
    have head : s.rampHead die = some (core, q) := by
      simp only [State.rampHead, ramps, decide_eq_true come, free, Bool.not_false, Bool.and_self, if_true]
    simp only [exec_rampAdmit, execRampAdmit, head]
  · intro s core q t ramping come
    have ends : s.rampEnds core q = true := by
      simp only [State.rampEnds, ramping, decide_eq_true come]
    simp only [exec_rampDone, execRampDone, ends, if_true]
  · intro s t lease come
    have ended : s.host.budgetOver s.ptp = true := by
      rw [HostState.budgetOver, lease]
      exact decide_eq_true come
    simp only [exec_budgetLeaseEnd, execBudgetLeaseEnd, ended, if_true]
  · intro s die mv mhz come ok
    have due : (!s.replanDue die || !(s.die die).planOk mv mhz) = false := by
      rw [State.replanDue, decide_eq_true come, ok]
      rfl
    obtain ⟨later, bound, schedule⟩ := next_instant replanNs come (by decide)
    refine ⟨_, by simp only [exec_ageingReplan, execAgeingReplan, due, Bool.false_eq_true, if_false]; rfl, ?_⟩
    split
    · simp only [State.die_event, State.die_modDie, if_true, Die.setKhz_khz, Die.planKhz, true_and]
      exact ⟨later, bound, schedule⟩
    · simp only [State.die_modDie, if_true, Die.setKhz_khz, Die.planKhz, true_and]
      exact ⟨later, bound, schedule⟩
  · exact fun D n => Die.planOk_plan n
  · intro s die khz some_ most
    have legal : ¬ (khz == 0 || decide (refKhz < khz)) = true := by
      simp only [Bool.or_eq_true, beq_iff_eq, decide_eq_true_eq, not_or]
      exact ⟨some_, Nat.not_lt.2 most⟩
    refine ⟨s.modDie die (Die.setKhz · khz), congrArg Host.Outcome.next (if_neg legal), ?_, ?_⟩
    · rw [State.die_modDie, if_pos rfl, Die.setKhz_khz]
    · intro new
      rw [State.die_modDie, if_pos rfl, Die.setKhz_sync new]

end Sys2Proof.Machine
end

section
/-!
SUPPORT. The steps of the device (O46).
-/

namespace Sys2Proof.Machine

/-- A table that gives every key of a list the same value. -/
theorem tget?_map_const {α : Type} {l : List Nat} {k : Nat} (v : α) (mem : k ∈ l) : tget? (l.map fun x => (x, v)) k = some v := by
  induction l with
  | nil => cases mem
  | cons j l ih =>
    rw [List.map_cons, tget?]
    by_cases same : j = k
    · rw [if_pos (beq_iff_eq.2 same)]
    · rw [if_neg (mt beq_iff_eq.1 same)]
      exact ih ((List.mem_cons.1 mem).resolve_left (Ne.symm same))

theorem State.fabricUp_setFabric (s : State) (port : Nat) (up : Bool) : (s.setFabric port up).fabricUp port = up := by
  rw [State.fabricUp, State.setFabric, State.modHost, tget_tput, if_pos rfl]

theorem State.ports_event (s : State) (code x : Nat) (bs : List Byte) : (s.event code x bs).host.ports = s.host.ports :=
  (congrArg HostState.ports (State.event_host s code x bs) :)

theorem State.portUp_event (s : State) (code x : Nat) (bs : List Byte) : (s.event code x bs).host.portUp = s.host.portUp :=
  (congrArg HostState.portUp (State.event_host s code x bs) :)

theorem State.fabricUp_linkEvent (s : State) (port st ns p : Nat) : (s.linkEvent port st ns).fabricUp p = s.fabricUp p := by
  rw [State.fabricUp, State.linkEvent, State.ports_event, State.fabricUp]

theorem State.portUp_linkEvent (s : State) (port st ns : Nat) : (s.linkEvent port st ns).host.portUp = s.host.portUp :=
  s.portUp_event ..

theorem State.hdie_linkEvent (s : State) (port st ns h : Nat) : (s.linkEvent port st ns).hdie h = s.hdie h :=
  (congrArg (State.hdie · h) (State.event_rest s ..) :)

/-- Settles O46. -/
theorem deviceStepsAct : Obligations.DeviceStepsAct := by
  unfold Obligations.DeviceStepsAct
  refine ⟨?_, ?_, ?_, ?_, ?_, ?_, ?_, ?_, ?_, ?_, ?_⟩
  · intro s image
    refine ⟨_, rfl, rfl, rfl, rfl, rfl, rfl, rfl, rfl, ?_⟩
    simp only [State.modHost, beq_iff_eq]
  · intro s
    refine ⟨_, rfl, rfl, rfl, rfl, rfl, fun x low => ?_⟩
    rw [State.ctx, tget, tget?_map_const _ (List.mem_range.2 low)]
    rfl
  · intro s port known up
    refine ⟨_, ?_, ?_, rfl⟩
    · simp only [exec_linkLoss, execLinkLoss, decide_eq_true known, up, Bool.and_self, if_true]
    · rw [State.fabricUp_linkEvent, State.fabricUp_setFabric]
  · intro s port ns known down
    refine ⟨_, ?_, ?_, rfl⟩
    · simp only [exec_linkRetrainDone, execLinkRetrainDone, if_pos known, down, Bool.false_eq_true, if_false]
    · rw [State.fabricUp_linkEvent, State.fabricUp_linkEvent, State.fabricUp_setFabric]
  · intro s h ns known down
    have port : ((0x100 + h == 0x100 || 0x100 + h == 0x101) && !(s.hdie (0x100 + h - 0x100)).cxlUp) = true := by
      rw [Nat.add_sub_cancel_left, down, Bool.not_false, Bool.and_true, Bool.or_eq_true, beq_iff_eq, beq_iff_eq]
      omega
    refine ⟨_, congrArg Host.Outcome.next ((if_neg (by omega)).trans (if_pos port)), ?_⟩
    rw [State.hdie_linkEvent, State.hdie_linkEvent, Nat.add_sub_cancel_left, State.hdie_modHdie, if_pos rfl]
  · intro s h known up
    have port : (decide (h < 2) && (s.hdie h).cxlUp) = true := by rw [decide_eq_true known, up, Bool.and_self]
    refine ⟨_, congrArg Host.Outcome.next (if_pos port), ?_⟩
    rw [State.hdie_linkEvent, State.hdie_modHdie, if_pos rfl]
  · intro s up ns change
    refine ⟨_, congrArg Host.Outcome.next (if_neg (mt beq_iff_eq.1 change)), ?_⟩
    rw [State.portUp_linkEvent]
    rfl
  · intro s
    rfl
  · intro s key new
    have absent : ¬ s.host.keys.contains key = true := by rwa [List.contains_iff_mem]
    exact congrArg (fun h => Host.Outcome.next { s with host := h }) (if_neg absent)
  · intro s written quiet
    have due : s.sizeDue = true := Bool.and_eq_true_iff.2 ⟨bne_iff_ne.2 written, quiet⟩
    exact ⟨_, congrArg Host.Outcome.next (if_pos due), rfl, rfl⟩
  · intro s written quiet
    have due : s.idDue = true := Bool.and_eq_true_iff.2 ⟨bne_iff_ne.2 written, quiet⟩
    exact congrArg Host.Outcome.next (if_pos due)

end Sys2Proof.Machine
end

section
/-!
SUPPORT. Canonical storages (O58): what it means that an answer keeps them, and the changes of a state that keep them.

Of each function of the model that gives a state there is one lemma: from a state whose storages are canonical it gives
such a state. They stand in the order of the model.
-/

namespace Sys2Proof.Machine

-- The lemmas are elaborated one after another: side by side they need more threads than the memory limit leaves room for.
set_option Elab.async false

/-! ## Answers that hold a state -/

/-- A state whose storages are canonical, if any. -/
def MaybeMemOk : Option State → Prop
  | some s => s.MemOk
  | none => True

/-- A state whose storages are canonical, or an error. -/
def ExceptMemOk {ε : Type} : Except ε State → Prop
  | .ok s => s.MemOk
  | .error _ => True

/-- The storages are canonical where the instruction stands. -/
def Result.MemOk : Result → Prop
  | .go s _ => s.MemOk
  | .wait s _ => s.MemOk
  | .waitPart s _ _ => s.MemOk
  | .done s => s.MemOk

/-- The storages of the next state, if any, are canonical. -/
def Out.MemOk : Out → Prop
  | .next s => s.MemOk
  | _ => True

/-- The storages are canonical where the query stands. -/
def Trav.MemOk : Trav → Prop
  | .more s _ => s.MemOk
  | .cand s _ => s.MemOk
  | .fin s _ => s.MemOk
  | .fault s _ _ => s.MemOk

variable {s t : State}

theorem State.MemOk.of_eq {α : Type} {p : State × α} {a : α} (h : p.1.MemOk) (e : p = (t, a)) : t.MemOk := by
  rw [e] at h
  exact h

theorem MaybeMemOk.of_eq {o : Option State} (h : MaybeMemOk o) (e : o = some t) : t.MemOk := by
  rw [e] at h
  exact h

theorem MaybeMemOk.of_fst {α : Type} {o : Option (State × α)} {a : α} (h : MaybeMemOk (o.map Prod.fst))
    (e : o = some (t, a)) : t.MemOk := by
  rw [e] at h
  exact h

theorem MaybeMemOk.map {o : Option State} {f : State → State} (h : MaybeMemOk o) (keeps : ∀ u, u.MemOk → (f u).MemOk) :
    MaybeMemOk (o.map f) := by
  cases o with
  | none => trivial
  | some u => exact keeps u h

theorem maybeMemOk_map {α : Type} {o : Option α} {f : α → State} (gives : ∀ a, (f a).MemOk) : MaybeMemOk (o.map f) := by
  cases o with
  | none => trivial
  | some a => exact gives a

theorem MaybeMemOk.getD {o : Option State} (h : MaybeMemOk o) (hs : s.MemOk) : (o.getD s).MemOk := by
  cases o with
  | none => exact hs
  | some u => exact h

theorem ExceptMemOk.of_eq {ε : Type} {o : Except ε State} (h : ExceptMemOk o) (e : o = .ok t) : t.MemOk := by
  rw [e] at h
  exact h

theorem ExceptMemOk.of_fst {ε α : Type} {o : Except ε (State × α)} {a : α} (h : ExceptMemOk (o.map Prod.fst))
    (e : o = .ok (t, a)) : t.MemOk := by
  rw [e] at h
  exact h

theorem exceptMemOk_map {ε α β : Type} {o : Except ε α} {f : α → State × β} (gives : ∀ a, (f a).1.MemOk) :
    ExceptMemOk ((o.map f).map Prod.fst) := by
  cases o with
  | error e => trivial
  | ok a => exact gives a

/-! ## Choices and repetitions -/

theorem State.MemOk.ite {c : Prop} [Decidable c] (h : s.MemOk) (k : t.MemOk) : (if c then s else t).MemOk := by
  split
  · exact h
  · exact k

theorem State.MemOk.foldl {α : Type} {f : State → α → State} {l : List α} (h : s.MemOk)
    (each : ∀ u a, u.MemOk → (f u a).MemOk) : (l.foldl f s).MemOk := by
  induction l generalizing s with
  | nil => exact h
  | cons a l ih => exact ih (each s a h)

theorem memOk_foldl_fst {α β : Type} {f : State × β → α → State × β} {l : List α} {p : State × β} (h : p.1.MemOk)
    (each : ∀ u a, u.1.MemOk → (f u a).1.MemOk) : (l.foldl f p).1.MemOk := by
  induction l generalizing p with
  | nil => exact h
  | cons a l ih => exact ih (each p a h)

/-! ## Changes of a core, a cluster or a die that leave its storages alone -/

/-- The storages of a core. -/
def Core.storages (C : Core) : List (List Host.Cell) := [C.unit, C.slices, C.macros, C.accum]

/-- A state with the storages of one whose storages are canonical. -/
theorem State.MemOk.keep (h : s.MemOk) (mem : t.mem = s.mem := by rfl)
    (cores : ∀ c, (t.core c).storages = (s.core c).storages := by exact fun _ => rfl)
    (clusters : ∀ c, (t.cluster c).scratch = (s.cluster c).scratch := by exact fun _ => rfl)
    (dies : ∀ d, (t.die d).scratch = (s.die d).scratch := by exact fun _ => rfl) : t.MemOk := by
  simp only [Core.storages, List.cons.injEq, and_true] at cores
  refine ⟨mem ▸ h.1, fun x => ?_⟩
  have same : t.scr x = s.scr x := by
    cases x with
    | unit c => exact (cores c).1
    | slice c => exact (cores c).2.1
    | garnet c => exact (cores c).2.2.1
    | accum c => exact (cores c).2.2.2
    | cluster c => exact clusters c
    | die d => exact dies d
  exact same ▸ h.2 x

/-- What a table's entry shows is the same where a change of the entries leaves it alone. -/
theorem tget_map_keeps {α β : Type} {g : Nat × α → Nat × α} {l : Tbl α} {d : α} (p : α → β)
    (keys : ∀ e, (g e).1 = e.1 := by exact fun _ => rfl)
    (keeps : ∀ e, p (g e).2 = p e.2 := by exact fun _ => rfl) (k : Nat) : p (tget (l.map g) k d) = p (tget l k d) := by
  induction l with
  | nil => rfl
  | cons e l ih =>
    obtain ⟨j, a⟩ := e
    have here : g (j, a) = (j, (g (j, a)).2) := Prod.ext (keys (j, a)) rfl
    rw [tget, tget] at ih ⊢
    rw [List.map_cons, here, tget?, tget?]
    split
    · exact keeps (j, a)
    · exact ih

theorem State.MemOk.setCore {c : ℕ} {C : Core} (h : s.MemOk) (keeps : C.storages = (s.core c).storages := by rfl) :
    (s.setCore c C).MemOk := by
  refine h.keep (cores := fun d => ?_)
  change (tget (tset s.cores c C) d Core.start).storages = _
  rw [tget_tset]
  split
  · next same => exact same ▸ keeps
  · rfl

theorem State.MemOk.modCore {c : ℕ} {f : Core → Core} (h : s.MemOk)
    (keeps : ∀ C, (f C).storages = C.storages := by exact fun _ => rfl) : (s.modCore c f).MemOk := h.setCore (keeps _)

theorem State.MemOk.modCluster {c : ℕ} {f : Cluster → Cluster} (h : s.MemOk)
    (keeps : ∀ C, (f C).scratch = C.scratch := by exact fun _ => rfl) : (s.modCluster c f).MemOk := by
  refine h.keep (clusters := fun d => ?_)
  change (tget (tset s.clusters c (f (s.cluster c))) d Cluster.start).scratch = _
  rw [tget_tset]
  split
  · next same => exact same ▸ keeps _
  · rfl

theorem State.MemOk.modDie {d : ℕ} {f : Die → Die} (h : s.MemOk)
    (keeps : ∀ D, (f D).scratch = D.scratch := by exact fun _ => rfl) : (s.modDie d f).MemOk := by
  refine h.keep (dies := fun e => ?_)
  change (tget (tset s.dies d (f (s.die d))) e Die.start).scratch = _
  rw [tget_tset]
  split
  · next same => exact same ▸ keeps _
  · rfl

theorem State.MemOk.setNextOp {n : ℕ} (h : s.MemOk) : ({ s with nextOp := n } : State).MemOk := h

/-! ## Writes -/

theorem State.MemOk.wr {pa : ℕ} {bs : List Byte} (h : s.MemOk) : (s.wr pa bs).MemOk :=
  ⟨Memory.wf_writeList _ _ _ h.1, h.2⟩

theorem State.MemOk.scrWrite {x : Scr} {a : ℕ} {bs : List Byte} (h : s.MemOk) : (s.scrWrite x a bs).MemOk :=
  State.memOk_setScr h (Memory.wf_writeList _ _ _ (h.2 x))

theorem State.MemOk.scrClear {x : Scr} {a n : ℕ} (h : s.MemOk) : (s.scrClear x a n).MemOk :=
  State.memOk_setScr h (Memory.wf_clear _ _ _ (h.2 x))

end Sys2Proof.Machine
end

section
/-!
SUPPORT. Canonical storages (O58): what lies beneath the instructions. Events, translation, traps, blocks, the ends of groups, and
the issue.
-/

namespace Sys2Proof.Machine

-- The lemmas are elaborated one after another: side by side they need more threads than the memory limit leaves room for.
set_option Elab.async false

variable {s t : State}

/-! ## Events, errors and the launch queues -/

theorem memOk_onNext {f : State → State} {o : Out} (h : Out.MemOk o) (keeps : ∀ u, u.MemOk → (f u).MemOk) :
    Out.MemOk (onNext f o) := by
  cases o with
  | next u => exact keeps u h
  | fault e => trivial
  | refused r => trivial

theorem State.MemOk.eventTo {to_ : List ℕ} {code x : ℕ} {detail : List Byte} (h : s.MemOk) :
    (s.eventTo to_ code x detail).MemOk := h

theorem State.MemOk.event {code x : ℕ} {detail : List Byte} (h : s.MemOk) : (s.event code x detail).MemOk := by
  unfold State.event
  split
  · exact h
  · exact h.eventTo

theorem State.MemOk.modCtx {x : ℕ} {f : Ctx → Ctx} (h : s.MemOk) : (s.modCtx x f).MemOk := h

theorem State.MemOk.ringDrop {x drop : ℕ} (h : s.MemOk) : (s.ringDrop x drop).MemOk := h.modCtx

theorem State.MemOk.wrParts {ps : List (ℕ × ℕ)} {bs : List Byte} (h : s.MemOk) : (s.wrParts ps bs).MemOk := by
  induction ps generalizing s bs with
  | nil => exact h
  | cons p ps ih => exact ih h.wr

theorem State.MemOk.vaWrite {x va : ℕ} {bs : List Byte} (h : s.MemOk) : ExceptMemOk (s.vaWrite x va bs) := by
  unfold State.vaWrite
  split
  · trivial
  · exact h.wrParts

theorem State.MemOk.ringAppend {x : ℕ} {r : RingAt} {rec_ : List Byte} (h : s.MemOk) :
    (s.ringAppend x r rec_).1.MemOk := by
  unfold State.ringAppend
  extract_lets
  split
  · exact h.ringDrop
  · split
    · next e =>
        exact (h.vaWrite.of_eq e).modCtx
    · exact h.ringDrop

theorem State.MemOk.logError {a0 a1 a2 x code fcode : ℕ} {src : ErrSrc} (h : s.MemOk) :
    (s.logError x code fcode src a0 a1 a2).MemOk := h.ringAppend.event

theorem State.MemOk.discardQueue {q x : ℕ} (h : s.MemOk) : (s.discardQueue x q).MemOk := by
  unfold State.discardQueue
  split
  · exact h
  · exact .ite (h.foldl fun _ _ h => h.logError) (h.foldl fun _ _ h => h.logError).wr

theorem State.MemOk.openPosted {line x : ℕ} {src : ErrSrc} {drop : Option ℕ} (h : s.MemOk) :
    (s.openPosted x src line drop).MemOk := h

theorem State.MemOk.noteLine {x pa n : ℕ} {src : ErrSrc} (h : s.MemOk) : (s.noteLine x src pa n).MemOk :=
  .ite h.logError h

theorem State.MemOk.noteTable {x va : ℕ} {src : ErrSrc} (h : s.MemOk) : (s.noteTable x src va).MemOk := by
  unfold State.noteTable
  refine .ite h ?_
  split
  · exact h.openPosted
  · split
    · exact h.noteLine
    · exact h
    · exact h.logError
    · exact h.noteLine

theorem State.MemOk.observeQueue {x k : ℕ} (h : s.MemOk) : (s.observeQueue x k).MemOk := by
  unfold State.observeQueue
  extract_lets
  split
  · exact .ite h h.modCtx.noteTable
  · exact .ite h (.ite h.wr.modCtx.logError h.wr.modCtx)

theorem State.MemOk.observeQueues {x : ℕ} (h : s.MemOk) : (s.observeQueues x).MemOk :=
  h.foldl fun _ _ h => h.observeQueue

theorem State.MemOk.observeAll (h : s.MemOk) : s.observeAll.MemOk :=
  h.foldl fun _ _ h => .ite (h.foldl fun _ _ h => h.discardQueue) h.observeQueues

/-! ## Translation and fetches -/

theorem State.MemOk.modGroup {c g : ℕ} {f : Group → Group} (h : s.MemOk) : (s.modGroup c g f).MemOk := h.modCore

theorem State.MemOk.sendHeat {e : TlbEntry} {n : ℕ} (h : s.MemOk) : (s.sendHeat e n).MemOk :=
  .ite h (.ite h.wr (.ite h (.logError h)))

theorem State.MemOk.fillTlb2 {e : TlbEntry} {d : ℕ} (h : s.MemOk) : (s.fillTlb2 d e).MemOk := by
  unfold State.fillTlb2
  refine .ite h.modDie ?_
  split
  · exact h
  · exact h.modDie.sendHeat

theorem State.MemOk.noteRanges {x : ℕ} (h : s.MemOk) : (s.noteRanges x).MemOk := by
  unfold State.noteRanges
  split
  · exact h.noteTable
  · exact h

theorem State.MemOk.noteWalk {x va : ℕ} (h : s.MemOk) : (s.noteWalk x va).MemOk := by
  unfold State.noteWalk
  refine .ite h ?_
  split
  · exact .ite h h.noteRanges.logError
  · exact h
  · exact h.logError
  · exact .ite h h.noteLine

theorem State.MemOk.leafDie {d x va : ℕ} (h : s.MemOk) : (s.leafDie d x va).1.MemOk := by
  unfold State.leafDie
  split
  · exact h
  · split
    · exact h.modDie
    · split
      · split
        · exact .ite h.fillTlb2 h
        · exact h.noteWalk
      · exact h.noteWalk

theorem State.MemOk.dropTlb1 {e : TlbEntry} {d : ℕ} (h : s.MemOk) : (s.dropTlb1 d e).MemOk := by
  unfold State.dropTlb1
  split
  · exact .ite h.modDie.sendHeat h.modDie
  · exact h.sendHeat

theorem State.MemOk.fillTlb1 {e : TlbEntry} {c : ℕ} (h : s.MemOk) : (s.fillTlb1 c e).MemOk := by
  unfold State.fillTlb1
  refine .ite h.modCore ?_
  split
  · exact h
  · exact h.modCore.dropTlb1

theorem State.MemOk.leafCore {c x va : ℕ} (h : s.MemOk) : (s.leafCore c x va).1.MemOk := by
  unfold State.leafCore
  split
  · exact h
  · split
    · exact h.modCore
    · split
      · next e1 =>
          exact .ite (h.leafDie.of_eq e1).fillTlb1 (h.leafDie.of_eq e1)
      · next e1 =>
          exact h.leafDie.of_eq e1

theorem State.MemOk.codeLeaf {waited : Bool} {core x va : ℕ} (h : s.MemOk) : (s.codeLeaf core x va waited).1.MemOk := by
  unfold State.codeLeaf
  split
  · exact h
  · exact h.leafCore

theorem State.MemOk.readCode {core x va pa : ℕ} (h : s.MemOk) : (s.readCode core x va pa).1.MemOk := by
  unfold State.readCode
  extract_lets
  split
  · exact h
  · split
    · exact h.noteLine
    · split
      · exact h
      · exact h.modCore

theorem State.MemOk.spendDelay {used : Bool} (h : s.MemOk) : (s.spendDelay used).MemOk := .ite h h

theorem State.MemOk.fetch {waited : Bool} {core x va : ℕ} (h : s.MemOk) : (s.fetch core x va waited).1.MemOk := by
  unfold State.fetch
  split
  · next e =>
      exact h.codeLeaf.of_eq e
  · next e =>
      split
      · exact h.codeLeaf.of_eq e
      · split
        · split
          · exact h.codeLeaf.of_eq e
          · split
            · exact (h.codeLeaf.of_eq e).spendDelay.readCode
            · exact (h.codeLeaf.of_eq e).spendDelay
        · exact h.codeLeaf.of_eq e
        · exact h.codeLeaf.of_eq e

theorem State.MemOk.fetchCur {x pc : ℕ} {f : Fetched} {u : State} (h : s.MemOk)
    (e : s.fetchCur = some (x, pc, u, f)) : u.MemOk := by
  unfold State.fetchCur at e
  split at e
  · cases e
  · split at e
    · cases e
    · split at e
      · cases e
      · cases e
        exact h.fetch.modGroup

theorem State.MemOk.scoreGroup {c g : ℕ} (h : s.MemOk) : (s.scoreGroup c g).MemOk := h.modGroup

theorem State.MemOk.scoreAll (h : s.MemOk) : s.scoreAll.MemOk := h.foldl fun _ _ h => .ite h.scoreGroup h

theorem State.MemOk.inboxTake {p : Input → Bool} {i : Input} {u : State} (h : s.MemOk)
    (e : s.inboxTake p = some (i, u)) : u.MemOk := by
  unfold State.inboxTake at e
  split at e
  · cases e
    exact h
  · cases e

/-! ## Accounts of an issue -/

theorem State.MemOk.freeSlot {c g : ℕ} (h : s.MemOk) : (s.freeSlot c g).MemOk := h

theorem State.MemOk.stall {I : Issue} (h : s.MemOk) : (s.stall I).MemOk := h.modGroup.freeSlot

theorem State.MemOk.account {c g gap : ℕ} {mark : Option Bool} (h : s.MemOk) : (s.account c g gap mark).MemOk :=
  h.modGroup

/-! ## Parked traps -/

theorem State.MemOk.keepParked {q : TrapSet} {rule : ℕ} (h : s.MemOk) : (s.keepParked q rule).MemOk := h.modGroup

theorem State.MemOk.ringPut {x : ℕ} {r : RingAt} {rec_ : List Byte} (h : s.MemOk) : (s.ringPut x r rec_).1.MemOk := by
  unfold State.ringPut
  split
  · exact h.ringAppend
  · split
    · exact h.openPosted
    · exact h.ringAppend.noteWalk

theorem State.MemOk.logTrap {x : ℕ} {r : TrapRec} (h : s.MemOk) : (s.logTrap x r).MemOk := h.ringPut

theorem State.MemOk.freezeCtx {x : ℕ} (h : s.MemOk) : (s.freezeCtx x).MemOk := h.modCtx

theorem State.MemOk.freezeFor {q : TrapSet} {tr : Trap} {x : ℕ} {G : Group} (h : s.MemOk) :
    (s.freezeFor x G q tr).MemOk := h.keepParked.freezeCtx.logTrap.event

theorem State.MemOk.serviceFor {q : TrapSet} {x : ℕ} (h : s.MemOk) : (s.serviceFor x q).MemOk := by
  unfold State.serviceFor
  refine memOk_foldl_fst h fun _ _ h => ?_
  extract_lets
  split
  · exact h.modGroup
  · exact .modGroup h

/-! ## Stores performed and blocks filled -/

theorem State.MemOk.put {x : ℕ} {p : Party} {k : HeldStore} (h : s.MemOk) : (s.put x p k).MemOk := by
  unfold State.put
  dsimp only
  split
  · split
    · exact h.scrWrite
    · exact h.wr
  · split
    · exact h.scrWrite
    · exact h.wr

theorem State.MemOk.perform {x : ℕ} {p : Party} {k : HeldStore} (h : s.MemOk) : (s.perform x p k).MemOk :=
  .ite h.put h.noteLine

theorem State.MemOk.performAll {x : ℕ} {p : Party} {hs : List HeldStore} (h : s.MemOk) :
    (s.performAll x p hs).MemOk := by
  induction hs generalizing s with
  | nil => exact h
  | cons a hs ih =>
    cases hs with
    | nil => exact h.perform
    | cons b hs => exact ih h.perform.observeAll

theorem State.MemOk.modHdie {k : ℕ} {f : HDie → HDie} (h : s.MemOk) : (s.modHdie k f).MemOk := h

theorem State.MemOk.freeInterest {e d : ℕ} (h : s.MemOk) : (s.freeInterest d e).MemOk := by
  unfold State.freeInterest
  split
  · exact h
  · exact .ite h.modDie h.modDie.modHdie

theorem State.MemOk.dropInterests {tid : ℕ} (h : s.MemOk) : (s.dropInterests tid).MemOk :=
  h.foldl fun _ _ h => h.foldl fun _ _ h => h.freeInterest

theorem State.MemOk.forget {p : Party → Bool} (h : s.MemOk) : (s.forget p).MemOk := h

theorem State.MemOk.killGroups {tid : ℕ} {t : Trap} (h : s.MemOk) : (s.killGroups tid t).MemOk := by
  unfold State.killGroups
  extract_lets T s1 s2
  have logged : s1.MemOk := h.foldl fun _ _ h => h.logTrap.performAll
  have left : (s2.dropInterests tid).MemOk := (State.MemOk.modCore logged).dropInterests
  exact left.keep (dies := fun d => tget_map_keeps Die.scratch (k := d))

theorem State.MemOk.modTeam {tid : ℕ} {f : Team → Team} (h : s.MemOk) : (s.modTeam tid f).MemOk := h

theorem State.MemOk.setFs {l : Leaf} {fs : ℕ} (h : s.MemOk) : (s.setFs l fs).MemOk := h.wr

theorem State.MemOk.endFill {fs x block : ℕ} (h : s.MemOk) : (s.endFill x block fs).MemOk := by
  unfold State.endFill
  refine .modCtx ?_
  split
  · exact h.setFs
  · exact h

theorem State.MemOk.reveal {p : Past → Bool} (h : s.MemOk) : (s.reveal p).MemOk := h

theorem State.MemOk.revealBlock {x block : ℕ} (h : s.MemOk) : (s.revealBlock x block).MemOk := by
  unfold State.revealBlock
  split
  · exact h.reveal
  · exact h

theorem State.MemOk.mapGroups {x : ℕ} {f : Group → Group} (h : s.MemOk) : (s.mapGroups x f).MemOk :=
  h.keep (cores := fun c => tget_map_keeps Core.storages (k := c))

theorem State.MemOk.wakeFill {x block : ℕ} (h : s.MemOk) : (s.wakeFill x block).MemOk := by
  unfold State.wakeFill
  refine .ite h ?_
  split
  · exact .ite h.mapGroups (.ite h h.mapGroups)
  · exact h.mapGroups

theorem State.MemOk.fillBlock {x block range : ℕ} (h : s.MemOk) : (s.fillBlock x block range).MemOk := by
  unfold State.fillBlock
  refine .wakeFill ?_
  split
  · exact h.revealBlock.endFill.modCtx.wr
  · exact h.revealBlock.endFill.modCtx.noteTable

theorem State.MemOk.poisonBlock {x block cause : ℕ} (h : s.MemOk) : (s.poisonBlock x block cause).MemOk :=
  h.endFill.modCtx.wakeFill

theorem State.MemOk.settleGen {tid : ℕ} {cause : Option ℕ} (h : s.MemOk) : (s.settleGen tid cause).MemOk := by
  unfold State.settleGen
  extract_lets
  split
  · exact h
  · refine .ite h ?_
    split
    · exact h.fillBlock.modTeam
    · exact h.poisonBlock.modTeam
    · exact h.poisonBlock.modTeam
    · exact h

/-! ## Delivery of traps -/

theorem State.MemOk.killTeam {tr : Trap} {tid : ℕ} (h : s.MemOk) : (s.killTeam tid tr).MemOk := h.settleGen.killGroups

theorem State.MemOk.stopCtx {x : ℕ} (h : s.MemOk) : (s.stopCtx x).MemOk := h.modCtx

theorem State.MemOk.stopFor {q : TrapSet} {tr : Trap} {x : ℕ} {G : Group} (h : s.MemOk) : (s.stopFor x G q tr).MemOk :=
  h.keepParked.stopCtx.logTrap.event

theorem State.MemOk.deliverFor {q : TrapSet} {handler : ℕ} (h : s.MemOk) : (s.deliverFor q handler).MemOk := h.modGroup

theorem State.MemOk.dispose {q : TrapSet} (h : s.MemOk) : (s.dispose q).MemOk := by
  unfold State.dispose
  split
  · exact .ite h.keepParked (.ite (.ite h.keepParked h.freezeFor) (.ite h.modCtx.serviceFor (.ite h.modCtx.killTeam
      (.ite h.modCtx.stopFor (.ite h.modCtx.stopFor
        (.ite (.ite h.modCtx.deliverFor.logTrap h.modCtx.deliverFor) h.modCtx.stopFor))))))
  · exact h

theorem State.MemOk.disposeAll {rule c g pc : ℕ} {ts : List (ℕ × Trap)} (h : s.MemOk) :
    (s.disposeAll c g pc rule ts).MemOk := by
  unfold State.disposeAll
  split
  · exact h
  · exact h.foldl fun _ _ h => h.dispose

theorem State.MemOk.takeTraps {ts : List (ℕ × Trap)} {c g rpc : ℕ} (h : s.MemOk) : (s.takeTraps c g rpc ts).MemOk :=
  .ite h (.ite h.modGroup h.modGroup.disposeAll)

/-! ## Ends of groups and teams -/

theorem State.MemOk.endMarker {T : Team} (h : s.MemOk) : (s.endMarker T).MemOk := by
  unfold State.endMarker
  split
  · exact h
  · exact h

theorem State.MemOk.reapTeam {tid : ℕ} (h : s.MemOk) : (s.reapTeam tid).MemOk := by
  unfold State.reapTeam
  extract_lets T s1
  have h1 : s1.MemOk := h.endMarker.modCore
  exact .ite h1 h

theorem State.MemOk.exitGroup {c g : ℕ} (h : s.MemOk) : (s.exitGroup c g).MemOk := by
  unfold State.exitGroup
  split
  · exact h
  · exact .ite h.performAll.forget.modCore.modTeam.settleGen.modTeam.reapTeam h.performAll.forget.modCore.modTeam

theorem State.MemOk.sweepFrags {tid : ℕ} (h : s.MemOk) : (s.sweepFrags tid).MemOk := by
  unfold State.sweepFrags
  extract_lets
  split
  · exact .ite (h.foldl fun _ _ h => h.exitGroup) h
  · exact h

theorem State.MemOk.leave {c g : ℕ} (h : s.MemOk) : (s.leave c g).MemOk := by
  unfold State.leave
  split
  · exact h
  · exact .ite h (.ite h.sweepFrags h.exitGroup.sweepFrags)

theorem State.MemOk.finish {I : Issue} {lat : Option ℕ} {outs : List LaneOut} (h : s.MemOk) :
    (s.finish I lat outs).MemOk := h.spendDelay.modGroup.takeTraps.leave

/-! ## Issues -/

theorem memOk_remoteRetry {I : Issue} {k : Unit → Result} (h : s.MemOk) (keeps : ∀ a, (k a).MemOk) :
    (remoteRetry I s k).MemOk := by
  unfold Machine.remoteRetry
  split
  · split
    · exact h
    · exact h
  · exact keeps _

theorem State.MemOk.hold {i : Option Instr} {pre : List LaneOut} {I : Issue} {w : Wait} (h : s.MemOk) :
    (s.hold I i w pre).MemOk := h.modGroup.takeTraps

theorem memOk_issue {F : Form} {run : Issue → State → Result} (h : s.MemOk)
    (keeps : ∀ I u, u.MemOk → (run I u).MemOk) : Out.MemOk (issue F run s) := by
  unfold Machine.issue
  split
  · trivial
  · next I _ =>
    extract_lets s1 c pre J
    have accounted : s1.MemOk := .ite h.account h
    have ran : (if J.first then run J s1 else remoteRetry J s1 fun _ => run J s1).MemOk := by
      split
      · exact keeps _ _ accounted
      · exact memOk_remoteRetry accounted fun _ => keeps _ _ accounted
    split
    · exact h.stall
    · split
      · exact State.MemOk.finish accounted
      · split
        · exact State.MemOk.finish accounted
        · split
          · next e =>
            rw [e] at ran
            exact State.MemOk.finish ran
          · next e =>
            rw [e] at ran
            exact State.MemOk.hold ran
          · next e =>
            rw [e] at ran
            exact State.MemOk.hold ran
          · next e =>
            rw [e] at ran
            exact ran

/-! ## Special registers, fences and marks -/

theorem State.MemOk.draw (h : s.MemOk) : s.draw.1.MemOk := h

theorem memOk_mtsValue {k v : ℕ} {w : BitVec 1} (h : s.MemOk) : (mtsValue s k w v).1.MemOk := by
  unfold Machine.mtsValue
  split
  · exact h
  · exact h.draw

theorem memOk_mtsRun {k : ℕ} {w : BitVec 1} {val : Issue → ℕ → ℕ} {I : Issue} (h : s.MemOk) :
    (mtsRun k w val I s).MemOk := by
  unfold Machine.mtsRun
  extract_lets
  split
  · exact h
  · split
    · exact h.foldl fun _ _ h => .modGroup (memOk_mtsValue h)
    · exact h.modGroup

theorem State.MemOk.endSlot {tid slot : ℕ} (h : s.MemOk) : (s.endSlot tid slot).MemOk := h.modCore

theorem memOk_execMtsB {d : BitVec 7} {b : BitVec 4} {c : BitVec 3} {u : State} (h : u.MemOk) :
    Out.MemOk (execMtsB d b c u) := by
  unfold Machine.execMtsB
  refine memOk_issue h fun _ _ h => ?_
  extract_lets
  split
  · exact h.modTeam.endSlot
  · exact h

theorem State.MemOk.drainWc {c g : ℕ} (h : s.MemOk) : (s.drainWc c g).MemOk := by
  unfold State.drainWc
  split
  · exact h
  · exact h.performAll.modGroup

theorem State.MemOk.acquire {q : Party} {obj : Option ℕ} {scope : ℕ} (h : s.MemOk) : (s.acquire q obj scope).MemOk :=
  .ite h h

theorem State.MemOk.publish {mine : Past → Bool} {p : Party} {obj : Option ℕ} {scope : ℕ} (h : s.MemOk) :
    (s.publish p obj scope mine).MemOk := .ite h h

theorem memOk_fenceRun {sf : BitVec 3} {I : Issue} (h : s.MemOk) : (fenceRun sf I s).MemOk := by
  unfold Machine.fenceRun
  extract_lets
  split
  · exact h.drainWc
  · exact h.drainWc.publish.acquire

theorem memOk_sleepRun {lv : Bool} {n : BitVec 7} {I : Issue} (h : s.MemOk) : (sleepRun lv n I s).MemOk := by
  unfold Machine.sleepRun
  extract_lets
  split
  · exact h
  · exact h.modGroup

theorem State.MemOk.putTrace {w : TraceWait} (h : s.MemOk) : (s.putTrace w).MemOk := by
  unfold State.putTrace
  split
  · next e =>
      exact (h.ringPut.of_eq e).logError
  · next e =>
      exact h.ringPut.of_eq e

theorem State.MemOk.logTrace {w : TraceWait} (h : s.MemOk) : (s.logTrace w).MemOk := .ite h h.putTrace

theorem memOk_execMark {n k : BitVec 7} {c : BitVec 3} {u : State} (h : u.MemOk) : Out.MemOk (execMark n k c u) := by
  unfold Machine.execMark
  refine memOk_issue h fun _ _ h => ?_
  split
  · exact h.logTrace
  · exact h

theorem memOk_regionEdge {I : Issue} {enter : Bool} {id : BitVec 16} {rs : List (BitVec 16)} (h : s.MemOk) :
    (regionEdge I s enter id rs).MemOk := .ite h.modGroup.stopCtx.logTrap.event h.modGroup

theorem memOk_regionRun {I : Issue} {enter : Bool} {id : BitVec 16} {rs : List (BitVec 16)} (h : s.MemOk) :
    (regionRun I s enter id rs).MemOk := by
  unfold Machine.regionRun
  extract_lets
  split
  · exact h
  · exact memOk_regionEdge h

theorem memOk_execRegl {c : BitVec 3} {u : State} (h : u.MemOk) : Out.MemOk (execRegl c u) := by
  unfold Machine.execRegl
  refine memOk_issue h fun _ _ h => ?_
  split
  · exact h
  · exact memOk_regionRun h

theorem memOk_execCsw {n d : BitVec 7} {c : BitVec 3} {u : State} (h : u.MemOk) : Out.MemOk (execCsw n d c u) := by
  unfold Machine.execCsw
  refine memOk_issue h fun _ _ h => ?_
  extract_lets
  split
  · exact h
  · exact h

end Sys2Proof.Machine
end

section
/-!
SUPPORT. Canonical storages (O58): instructions of fibres, queues, barriers, memory and sync objects.
-/

namespace Sys2Proof.Machine

-- The lemmas are elaborated one after another: side by side they need more threads than the memory limit leaves room for.
set_option Elab.async false

variable {s t : State}

/-! ## Fibres and groups -/

theorem memOk_eachLane {f : Issue → ℕ → LaneOut} {I : Issue} (h : s.MemOk) : (eachLane f I s).MemOk := h

theorem memOk_transfer {f : Issue → ℕ → Option (ℕ × List (RegRef × Word))} {I : Issue} (h : s.MemOk) :
    (transfer f I s).MemOk := memOk_eachLane h

theorem memOk_branch {i : Instr} {dist : BitVec 14} {c : BitVec 3} {ops : List Opnd} {taken : Issue → ℕ → Bool}
    {peers : Group → List ℕ → ℕ → List (RegRef × ℕ)} {u : State} (h : u.MemOk) :
    Out.MemOk (branch i c ops dist taken peers u) := memOk_issue h fun _ _ h => memOk_transfer h

theorem memOk_execFork {d n : BitVec 7} {c : BitVec 3} {u : State} (h : u.MemOk) : Out.MemOk (execFork d n c u) := by
  unfold Machine.execFork
  refine memOk_issue h fun _ _ h => ?_
  extract_lets
  split
  · exact h
  · exact h.modGroup

theorem State.MemOk.setGroup {c g : ℕ} {G : Group} (h : s.MemOk) : (s.setGroup c g G).MemOk := h.modCore

theorem memOk_execRcv {c : BitVec 3} {u : State} (h : u.MemOk) : Out.MemOk (execRcv c u) := by
  unfold Machine.execRcv
  refine memOk_issue h fun _ _ h => ?_
  split
  · exact h.setGroup
  · exact h

theorem State.MemOk.placeGroup {spawn : Bool} {core part lbytes : ℕ} {G : Group} (h : s.MemOk) :
    MaybeMemOk ((s.placeGroup core part lbytes spawn G).map Prod.fst) := by
  unfold State.placeGroup
  extract_lets
  split
  · trivial
  · split
    · exact h.setCore.foldl fun _ _ h => h.scrClear
    · trivial

theorem State.MemOk.trySpawn {I : Issue} {a n : BitVec 7} (h : s.MemOk) : MaybeMemOk (s.trySpawn I a n) := by
  unfold State.trySpawn
  split
  · trivial
  · exact h.placeGroup

theorem memOk_execSpawn {a n : BitVec 7} {c : BitVec 3} {u : State} (h : u.MemOk) : Out.MemOk (execSpawn a n c u) := by
  unfold Machine.execSpawn
  refine memOk_issue h fun _ _ h => ?_
  split
  · exact h
  · split
    · next e1 =>
        exact h.trySpawn.of_eq e1
    · exact h

theorem memOk_execSpawnT {k c : BitVec 3} {a n : BitVec 7} {u : State} (h : u.MemOk) :
    Out.MemOk (execSpawnT k a n c u) := by
  unfold Machine.execSpawnT
  refine memOk_issue h fun _ _ h => ?_
  split
  · exact h
  · extract_lets
    split
    · next e1 =>
        exact h.trySpawn.of_eq e1
    · exact h

theorem memOk_execYield {c : BitVec 3} {u : State} (h : u.MemOk) : Out.MemOk (execYield c u) := by
  unfold Machine.execYield
  refine memOk_issue h fun _ _ h => ?_
  split
  · exact h.setGroup
  · exact h

/-! ## Reads and writes of a core -/

theorem State.MemOk.xlateCore {c x va : ℕ} {acc : Access} (h : s.MemOk) : (s.xlateCore c x va acc).1.MemOk := by
  unfold State.xlateCore
  split
  · next e =>
      exact h.leafCore.of_eq e
  · next e =>
      exact h.leafCore.of_eq e

theorem State.MemOk.unreached {I : Issue} {va pa n : ℕ} (h : s.MemOk) : (s.unreached I va pa n).1.MemOk := by
  unfold State.unreached
  split
  · exact h
  · exact h.noteLine

theorem State.MemOk.performHeld {c g : ℕ} {p : HeldStore → Bool} (h : s.MemOk) : (s.performHeld c g p).MemOk := by
  unfold State.performHeld
  split
  · exact h
  · exact h.performAll.modGroup

theorem State.MemOk.coreParts {I : Issue} {acc : Access} {ps : List (ℕ × ℕ)} (h : s.MemOk) :
    (s.coreParts I acc ps).1.MemOk := by
  induction ps generalizing s with
  | nil => exact h
  | cons p ps ih =>
    unfold State.coreParts
    split
    · next e =>
        split
        · exact (h.xlateCore.of_eq e).unreached
        · split
          · next e1 =>
              exact (ih (h.xlateCore.of_eq e).performHeld).of_eq e1
          · next e1 =>
              exact (ih (h.xlateCore.of_eq e).performHeld).of_eq e1
    · next e =>
        exact h.xlateCore.of_eq e
    · next e =>
        exact h.xlateCore.of_eq e

theorem State.MemOk.readSeen {p : Party} {vol : Bool} {scr : Option Scr} {a n : ℕ} (h : s.MemOk) :
    (s.readSeen p vol scr a n).1.MemOk := by
  unfold State.readSeen
  extract_lets
  split
  · exact h
  · exact h

theorem State.MemOk.seen {ps : List (ℕ × ℕ)} {p : Party} (h : s.MemOk) : (s.seen p ps).MemOk :=
  h.foldl fun _ _ h => h.readSeen

theorem State.MemOk.coreRead {I : Issue} {acc : Access} {va n : ℕ} (h : s.MemOk) : (s.coreRead I acc va n).1.MemOk := by
  unfold State.coreRead
  split
  · next e =>
      exact h.coreParts.of_eq e
  · next e =>
      split
      · exact (h.coreParts.of_eq e).unreached
      · exact (h.coreParts.of_eq e).seen

theorem State.MemOk.queueDesc {I : Issue} {acc : Access} {k : ℕ} (h : s.MemOk) : (s.queueDesc I acc k).1.MemOk := by
  unfold State.queueDesc
  extract_lets
  split
  · exact h
  · split
    · next e =>
        exact h.coreRead.of_eq e
    · next e =>
        split
        · exact h.coreRead.of_eq e
        · exact h.coreRead.of_eq e

theorem State.MemOk.openFar {I : Issue} {lines : List ℕ} {store : Bool} (h : s.MemOk) :
    (s.openFar I lines store).1.MemOk := h

theorem CoreErr.memOk_stop {e : CoreErr} {I : Issue} (h : s.MemOk) : (CoreErr.stop e I s).MemOk := by
  unfold Machine.CoreErr.stop
  split
  · exact h
  · exact h.openFar

theorem State.MemOk.coreReads {I : Issue} {acc : Access} {n : ℕ} {vas : List ℕ} (h : s.MemOk) :
    (s.coreReads I acc n vas).1.MemOk := by
  induction vas generalizing s with
  | nil => exact h
  | cons va vas ih =>
    unfold State.coreReads
    split
    · next e =>
        exact h.coreRead.of_eq e
    · next e =>
        split
        · next e1 =>
            exact (ih (h.coreRead.of_eq e)).of_eq e1
        · next e1 =>
            exact (ih (h.coreRead.of_eq e)).of_eq e1

theorem State.MemOk.coreWrite {I : Issue} {va : ℕ} {bs : List Byte} (h : s.MemOk) : (s.coreWrite I va bs).1.MemOk := by
  unfold State.coreWrite
  split
  · next e =>
      exact h.coreParts.of_eq e
  · next e =>
      exact (h.coreParts.of_eq e).wrParts

theorem State.MemOk.corePut {I : Issue} {va : ℕ} {bs : List Byte} (h : s.MemOk) : (s.corePut I va bs).MemOk :=
  h.coreWrite

/-! ## Queues and barriers -/

theorem State.MemOk.freePushers {q : Option ℕ} {x : ℕ} (h : s.MemOk) : (s.freePushers x q).MemOk :=
  h.foldl fun _ _ h => .ite h.modGroup h

theorem State.MemOk.takeEntries {q : QueueDesc} {I : Issue} {k n : ℕ} (h : s.MemOk) : (s.takeEntries I k q n).MemOk :=
  .ite (.freePushers (.ite h h.corePut)) (.ite h h.corePut)

theorem memOk_qpopRun {qr : BitVec 6} {wait : Bool} {k : BitVec 3} {d : BitVec 7} {I : Issue} (h : s.MemOk) :
    (qpopRun wait k d qr I s).MemOk := by
  unfold Machine.qpopRun
  extract_lets
  split
  · next e =>
      exact CoreErr.memOk_stop (h.queueDesc.of_eq e)
  · next e =>
      extract_lets
      split
      · next e1 =>
          exact CoreErr.memOk_stop ((h.queueDesc.of_eq e).coreReads.of_eq e1)
      · next e1 =>
          have read := (h.queueDesc.of_eq e).coreReads.of_eq e1
          extract_lets
          split
          · exact read.modGroup.takeEntries
          · exact .ite read.modGroup.takeEntries read.modGroup.takeEntries.acquire

theorem State.MemOk.corePlaces {I : Issue} {vas : List ℕ} (h : s.MemOk) : (s.corePlaces I vas).1.MemOk := by
  induction vas generalizing s with
  | nil => exact h
  | cons va vas ih =>
    unfold State.corePlaces
    split
    · next e =>
        exact h.coreParts.of_eq e
    · next e =>
        exact ih (h.coreParts.of_eq e)

theorem State.MemOk.release {core g x tid k scope : ℕ} {T : Team} (h : s.MemOk) :
    (s.release core g x T tid k scope).MemOk := h.performHeld.publish

theorem State.MemOk.noteFault {e : ℕ × ℕ} {x : ℕ} {src : ErrSrc} (h : s.MemOk) : (s.noteFault x src e).MemOk := by
  unfold State.noteFault
  refine .ite h.noteWalk (.ite ?_ h)
  split
  · exact h.openPosted
  · split
    · exact h.noteLine
    · exact h.noteWalk

theorem State.MemOk.noteObj {I : Issue} {k : ℕ} (h : s.MemOk) : (s.noteObj I k).MemOk := by
  unfold State.noteObj
  refine .ite h ?_
  split
  · exact h
  · exact h.noteFault

theorem memOk_qpushAppend {k : ℕ} {q : QueueDesc} {I : Issue} {a : BitVec 7} (h : s.MemOk) :
    (qpushAppend I s a k q).MemOk := by
  unfold Machine.qpushAppend
  extract_lets
  split
  · next e =>
      exact CoreErr.memOk_stop (h.corePlaces.of_eq e)
  · next e =>
      split
      · exact h.corePlaces.of_eq e
      · exact ((h.corePlaces.of_eq e).noteObj.release.foldl fun _ _ h => h.corePut).corePut.modGroup

theorem memOk_execQpush {a : BitVec 7} {qr : BitVec 6} {c : BitVec 3} {u : State} (h : u.MemOk) :
    Out.MemOk (execQpush a qr c u) := by
  unfold Machine.execQpush
  refine memOk_issue h fun I s h => ?_
  extract_lets
  split
  · next e =>
      exact CoreErr.memOk_stop (h.queueDesc.of_eq e)
  · next t q e =>
      have read : t.MemOk := h.queueDesc.of_eq e
      split
      · split
        · exact memOk_qpushAppend read
        · exact read
      · split
        · exact memOk_qpushAppend read
        · have above : (t.corePut I (t.queueVa I.x (queueIdx I qr) + 20) (leBytes 4 (q.overWord true))).MemOk :=
            read.corePut
          exact State.MemOk.setNextOp above.modGroup

theorem memOk_qstat {i : Instr} {q d : BitVec 6} {f : Bool → QueueDesc → ℕ} {c : BitVec 3} {u : State} (h : u.MemOk) :
    Out.MemOk (qstat i f d q c u) := by
  unfold Machine.qstat
  refine memOk_issue h fun _ _ h => ?_
  split
  · next e =>
      exact CoreErr.memOk_stop (h.queueDesc.of_eq e)
  · next e =>
      exact h.queueDesc.of_eq e

theorem State.MemOk.arriveBar {cnt k : ℕ} {I : Issue} (h : s.MemOk) : (s.arriveBar I k cnt).1.MemOk := h.modTeam

theorem State.MemOk.releaseTile {core g : ℕ} (h : s.MemOk) : (s.releaseTile core g).MemOk := h.performHeld.reveal

theorem memOk_barRun {k : BitVec 3} {n : BitVec 7} {arrived : State → ℕ → Result} {I : Issue} (h : s.MemOk)
    (keeps : ∀ v a, v.MemOk → (arrived v a).MemOk) : (barRun k n arrived I s).MemOk := by
  unfold Machine.barRun
  extract_lets
  split
  · exact h
  · split
    · exact h
    · exact keeps _ _ h.releaseTile.arriveBar

theorem memOk_execBarw {k c : BitVec 3} {z : BitVec 1} {u : State} (h : u.MemOk) : Out.MemOk (execBarw k z c u) := by
  unfold Machine.execBarw
  refine memOk_issue h fun _ _ h => ?_
  extract_lets
  split
  · exact h.modGroup
  · exact h.modGroup

/-! ## Instructions that only answer -/

theorem memOk_pred2 {i : Instr} {m n : BitVec 1} {f : Bool → Bool → Bool} {k a b : BitVec 5} {c : BitVec 3}
    {u : State} (h : u.MemOk) : Out.MemOk (pred2 i f k m a n b c u) := memOk_issue h fun _ _ h => memOk_eachLane h

theorem memOk_scalar3 {i : Instr} {f : Word → Word → Word → Word} {d a b : BitVec 6} {c : BitVec 3} {u : State}
    (h : u.MemOk) : Out.MemOk (scalar3 i f d a b c u) := memOk_issue h fun _ _ h => h

theorem memOk_scalar2 {i : Instr} {imm : Bool} {f : Issue → Word → Word} {d a : BitVec 6} {c : BitVec 3} {u : State}
    (h : u.MemOk) : Out.MemOk (scalar2 i imm f d a c u) := memOk_issue h fun _ _ h => h

theorem memOk_vec3 {i : Instr} {lat : ℕ} {mods : Option ℕ} {f : Issue → Word → Word → Word → Word × ℕ}
    {d a b : BitVec 7} {c : BitVec 3} {u : State} (h : u.MemOk) : Out.MemOk (vec3 i lat mods f d a b c u) :=
  memOk_issue h fun _ _ h => memOk_eachLane h

theorem memOk_vecPlain {i : Instr} {f : Word → Word → Word → Word} {d a b : BitVec 7} {c : BitVec 3} {u : State}
    (h : u.MemOk) : Out.MemOk (vecPlain i f d a b c u) := memOk_vec3 h

theorem memOk_vec2 {i : Instr} {imm : Bool} {f : Issue → Word → Word} {d a : BitVec 7} {c : BitVec 3} {u : State}
    (h : u.MemOk) : Out.MemOk (vec2 i imm f d a c u) := memOk_issue h fun _ _ h => memOk_eachLane h

theorem memOk_vecDiv {i : Instr} {f : Word → Word → Word} {d a b : BitVec 7} {c : BitVec 3} {u : State}
    (h : u.MemOk) : Out.MemOk (vecDiv i f d a b c u) := memOk_vec3 h

theorem memOk_float3 {i : Instr} {mods : Option ℕ} {f : FEnv → Word → Word → Word → Word × ℕ} {d a b : BitVec 7}
    {c : BitVec 3} {u : State} (h : u.MemOk) : Out.MemOk (float3 i mods f d a b c u) :=
  memOk_issue h fun _ _ h => memOk_eachLane h

theorem memOk_float2 {i : Instr} {o : FOp} {d a b : BitVec 7} {c : BitVec 3} {u : State} (h : u.MemOk) :
    Out.MemOk (float2 i o d a b c u) := memOk_float3 h

theorem memOk_float1 {i : Instr} {lat : ℕ} {mods : Option ℕ} {f : FEnv → Word → Word × ℕ} {d a : BitVec 7}
    {c : BitVec 3} {u : State} (h : u.MemOk) : Out.MemOk (float1 i lat mods f d a c u) :=
  memOk_issue h fun _ _ h => memOk_eachLane h

theorem memOk_double3 {i : Instr} {f : FEnv → ℕ → ℕ → ℕ → ℕ × ℕ} {d a b : BitVec 7} {c : BitVec 3} {u : State}
    (h : u.MemOk) : Out.MemOk (double3 i f d a b c u) := memOk_issue h fun _ _ h => memOk_eachLane h

theorem memOk_floatFn {i : Instr} {o : UnFn} {d a : BitVec 7} {c : BitVec 3} {u : State} (h : u.MemOk) :
    Out.MemOk (floatFn i o d a c u) := memOk_float1 h

theorem memOk_convert {i : Instr} {sw dw feat : ℕ} {f : FEnv → ℕ → ℕ × ℕ} {d a : BitVec 7} {k : BitVec 1}
    {c : BitVec 3} {u : State} (h : u.MemOk) : Out.MemOk (convert i feat sw dw f d a k c u) :=
  memOk_issue h fun _ _ h => memOk_eachLane h

/-! ## Global memory -/

theorem State.MemOk.lineRequests {I : Issue} {op : ℕ} {eng : Option ℕ} {lines : List (ℕ × ℕ)} (h : s.MemOk) :
    (s.lineRequests I op eng lines).MemOk := by
  refine .ite h (h.foldl fun u ln h => ?_)
  extract_lets k u1
  have counted : u1.MemOk := h.modCore
  exact .ite counted counted

theorem State.MemOk.serveLines {c x : ℕ} {lines : List ℕ} (h : s.MemOk) : (s.serveLines c x lines).MemOk := h.modCore

theorem State.MemOk.request {I : Issue} {op : ℕ} {vol : Bool} {lines : List (ℕ × ℕ)} (h : s.MemOk) :
    (s.request I op vol lines).MemOk := h.serveLines.lineRequests

theorem memOk_farWait {I : Issue} {r : State × List LaneOut} (h : r.1.MemOk) : (farWait I r).MemOk := by
  unfold Machine.farWait
  split
  · exact h
  · exact h.openFar.modGroup

theorem memOk_loadRun {op d nwords : ℕ} {vol : Bool} {cs : List (ℕ × Cover)}
    {step : State → ℕ → ℕ → ℕ → State × LaneOut} {I : Issue} (h : s.MemOk)
    (keeps : ∀ u l pva pa, u.MemOk → (step u l pva pa).1.MemOk) : (loadRun op vol d nwords cs step I s).MemOk := by
  unfold Machine.loadRun
  refine memOk_farWait (memOk_foldl_fst h.request fun _ _ h => ?_)
  extract_lets
  split
  · exact h
  · exact h
  · split
    · exact h
    · exact h.noteLine
    · exact keeps _ _ _ _ h

theorem memOk_execLdg {sf : BitVec 4} {d a : BitVec 7} {w : BitVec 2} {k c : BitVec 3} {u : State} (h : u.MemOk) :
    Out.MemOk (execLdg d a sf w k c u) := by
  unfold Machine.execLdg
  refine memOk_issue h fun _ _ h => ?_
  refine memOk_loadRun h fun _ _ _ _ h => ?_
  split
  · exact h.noteLine
  · exact h.readSeen

theorem State.MemOk.spendStay {k : StoreKind} (h : s.MemOk) : (s.spendStay k).MemOk := .ite h h

theorem State.MemOk.holdStore {core g : ℕ} {k : HeldStore} (h : s.MemOk) : (s.holdStore core g k).MemOk := h.modGroup

theorem State.MemOk.drainFor {core g pa n : ℕ} (h : s.MemOk) : (s.drainFor core g pa n).MemOk := h.performHeld

theorem State.MemOk.storeBytes {I : Issue} {k : StoreKind} {pa : ℕ} {bs : List Byte} (h : s.MemOk) :
    (s.storeBytes I k pa bs).MemOk := by
  unfold State.storeBytes
  extract_lets
  split
  · refine .ite ?_ h.spendStay.drainFor.put
    split
    · exact .ite h.spendStay.holdStore.performHeld h.spendStay.holdStore
    · exact h.spendStay.holdStore
  · exact h.spendStay.noteLine
  · exact h.spendStay.openFar

theorem memOk_execStg {sf : BitVec 4} {d a : BitVec 7} {w : BitVec 2} {k c : BitVec 3} {u : State} (h : u.MemOk) :
    Out.MemOk (execStg d a sf w k c u) := by
  unfold Machine.execStg
  refine memOk_issue h fun _ _ h => ?_
  refine h.request.foldl fun _ _ h => ?_
  split
  · exact h.storeBytes
  · exact h

theorem State.MemOk.xlateLines {core x : ℕ} {acc : Access} {lines : List ℕ} (h : s.MemOk) :
    (s.xlateLines core x acc lines).1.MemOk := memOk_foldl_fst h fun _ _ h => h.xlateCore

theorem State.MemOk.beginFill {x block : ℕ} {gen : Option GenFill} (h : s.MemOk) : (s.beginFill x gen block).MemOk := by
  unfold State.beginFill
  split
  · exact h
  · exact .modCtx h.setFs

theorem State.MemOk.meetBlock {fs x block va : ℕ} {gen : Option GenFill} (h : s.MemOk) :
    (s.meetBlock x gen block fs va).1.MemOk := by
  unfold State.meetBlock
  split
  · split
    · split
      · exact h
      · exact h.beginFill
    · exact h.beginFill
  · split
    · exact h
    · split
      · split
        · exact h
        · exact h
      · exact h

theorem State.MemOk.touchPa {l pva va : ℕ} {I : Issue} {rs : List (ℕ × Xlate)} {acc : Access} (h : s.MemOk) :
    (s.touchPa I rs acc l va pva).1.MemOk := by
  unfold State.touchPa
  split
  · exact h
  · exact h
  · split
    · exact h
    · exact h.meetBlock

theorem State.MemOk.touchLane {l pva va : ℕ} {I : Issue} {rs : List (ℕ × Xlate)} {acc : Access} (h : s.MemOk) :
    (s.touchLane I rs acc l va pva).1.MemOk := by
  unfold State.touchLane
  split
  · next e =>
      exact h.touchPa.of_eq e
  · next e =>
      exact h.touchPa.of_eq e

theorem memOk_execTch {a : BitVec 7} {sf : BitVec 4} {w : BitVec 2} {k : BitVec 1} {c : BitVec 3} {u : State}
    (h : u.MemOk) : Out.MemOk (execTch a sf w k c u) := by
  unfold Machine.execTch
  refine memOk_issue h fun _ _ h => ?_
  extract_lets
  split
  · next e =>
      extract_lets r
      have touched : r.1.MemOk := by
        refine memOk_foldl_fst (h.xlateLines.of_eq e) fun _ _ h => ?_
        split
        · exact h
        · exact h
        · exact h.touchLane
      exact memOk_farWait (.ite touched touched.modGroup)

theorem memOk_atomRun {l pva d w pa : ℕ} {I : Issue} {f : ℕ → ℕ → ℕ} (h : s.MemOk) :
    (atomRun d w I f s l pva pa).1.MemOk := by
  unfold Machine.atomRun
  extract_lets
  split
  · exact h.drainFor.noteLine
  · exact .ite h.drainFor.seen h.drainFor.seen.wr

theorem memOk_execAtg {sf : BitVec 4} {d a : BitVec 7} {o : BitVec 5} {c : BitVec 3} (h : s.MemOk) :
    Out.MemOk (execAtg d a sf o c s) := by
  unfold Machine.execAtg
  refine memOk_issue h fun _ _ h => ?_
  split
  · exact h
  · exact memOk_loadRun h fun _ _ _ _ h => memOk_atomRun h

theorem memOk_execAtgc {sf : BitVec 4} {d a : BitVec 7} {k c : BitVec 3} (h : s.MemOk) :
    Out.MemOk (execAtgc d a sf k c s) := by
  unfold Machine.execAtgc
  refine memOk_issue h fun _ _ h => ?_
  split
  · exact h
  · exact memOk_loadRun h fun _ _ _ _ h => memOk_atomRun h

theorem memOk_multiRun {m : BitVec 4} {a d : BitVec 7} {reads : Bool} {put : State → Issue → ℕ → ℕ → ℕ → ℕ → State}
    {I : Issue} (h : s.MemOk) (keeps : ∀ u I l k pa w, u.MemOk → (put u I l k pa w).MemOk) :
    (multiRun m a d reads put I s).MemOk := by
  unfold Machine.multiRun
  generalize (if reads then Access.atomic else Access.write) = acc
  extract_lets
  split
  · exact h
  · split
    · exact h
    · extract_lets
      split
      · exact h
      · split
        next e =>
        refine memOk_farWait (.foldl (.lineRequests (memOk_foldl_fst (h.xlateLines.of_eq e) fun _ _ h => ?_))
          fun _ _ h => h.foldl fun _ _ h => keeps _ _ _ _ _ _ h)
        extract_lets
        split
        · exact h
        · exact h.meetBlock
        · split
          · split
            · exact h
            · exact h.noteLine
          · exact h

theorem memOk_rdsPut {l j code pa w : ℕ} {d : BitVec 7} {I : Issue} (h : s.MemOk) :
    (rdsPut code d s I l j pa w).MemOk := h.drainFor.wr

/-! ## Scratchpads -/

theorem memOk_laneOuts {f : Issue → ℕ → State → State × LaneOut} {I : Issue} (h : s.MemOk)
    (keeps : ∀ a b v, v.MemOk → (f a b v).1.MemOk) : (laneOuts f I s).1.MemOk :=
  memOk_foldl_fst h fun _ _ h => keeps _ _ _ h

theorem memOk_eachLaneState {f : Issue → ℕ → State → State × LaneOut} {I : Issue} (h : s.MemOk)
    (keeps : ∀ a b v, v.MemOk → (f a b v).1.MemOk) : (eachLaneState f I s).MemOk :=
  memOk_laneOuts h fun _ _ _ h => keeps _ _ _ h

theorem memOk_placeLoad {sw l off : ℕ} {place : ℕ → Place} {d a : BitVec 7} {w : BitVec 2} {I : Issue} (h : s.MemOk) :
    (placeLoad place d a sw off w I l s).1.MemOk := by
  unfold Machine.placeLoad
  extract_lets
  split
  · exact h
  · split
    · exact h
    · exact h.readSeen

theorem memOk_placeStore {sw l off : ℕ} {put : Scr → ℕ → List Byte → State → State} {place : ℕ → Place}
    {d a : BitVec 7} {w : BitVec 2} {I : Issue} (h : s.MemOk) (keeps : ∀ a b c v, v.MemOk → (put a b c v).MemOk) :
    (placeStore put place d a sw off w I l s).1.MemOk := by
  unfold Machine.placeStore
  extract_lets
  split
  · exact h
  · exact keeps _ _ _ _ h

theorem State.MemOk.storeScr {I : Issue} {d : Scr} {a : ℕ} {bs : List Byte} (h : s.MemOk) :
    (s.storeScr I d a bs).MemOk := .ite h.spendStay.holdStore h.spendStay.performHeld.put

theorem memOk_execAtx {lv q : BitVec 2} {d a : BitVec 7} {p c : BitVec 3} {w : BitVec 1} {u : State} (h : u.MemOk) :
    Out.MemOk (execAtx d a lv p w q c u) := by
  unfold Machine.execAtx
  refine memOk_issue h fun _ _ h => ?_
  refine memOk_eachLaneState h fun _ _ _ h => ?_
  extract_lets
  split
  · exact h
  · extract_lets
    split
    · exact h.performHeld
    · exact h.performHeld.scrWrite

/-! ## Sync objects -/

theorem State.MemOk.structPa {I : Issue} {va : ℕ} (h : s.MemOk) : (s.structPa I va).1.MemOk := by
  unfold State.structPa
  split
  · next e =>
      split
      · exact h.xlateCore.of_eq e
      · split
        · exact h.xlateCore.of_eq e
        · exact (h.xlateCore.of_eq e).performHeld
  · next e =>
      exact h.xlateCore.of_eq e
  · next e =>
      exact h.xlateCore.of_eq e

theorem State.MemOk.objFor {I : Issue} {k : ℕ} (h : s.MemOk) : (s.objFor I k).1.MemOk := by
  unfold State.objFor
  extract_lets
  split
  · exact h
  · split
    · next e =>
        exact h.structPa.of_eq e
    · next e =>
        split
        · exact h.structPa.of_eq e
        · exact h.structPa.of_eq e

theorem State.MemOk.checkObj {I : Issue} {k : ℕ} (h : s.MemOk) : (s.checkObj I k).1.MemOk := by
  unfold State.checkObj
  split
  · exact h
  · split
    · next e =>
        exact h.objFor.of_eq e
    · next e =>
        exact h.objFor.of_eq e

theorem State.MemOk.enqueue {I : Issue} {major op obj scope size : ℕ} {kind : OpKind} {waits : Bool} (h : s.MemOk) :
    (s.enqueue I major op kind obj scope size waits).MemOk := .modDie h.drainWc

theorem memOk_startOp {I : Issue} {major op obj scope : ℕ} {kind : OpKind} (h : s.MemOk) :
    (startOp I s major op kind obj scope).MemOk := by
  unfold Machine.startOp
  split
  · exact h.enqueue
  · exact h

theorem memOk_execTmov {m n : BitVec 7} {c : BitVec 3} {u : State} (h : u.MemOk) : Out.MemOk (execTmov n m c u) := by
  unfold Machine.execTmov
  refine memOk_issue h fun _ _ h => ?_
  split
  · exact h
  · split
    · next e1 =>
        exact CoreErr.memOk_stop (h.checkObj.of_eq e1)
    · next e1 =>
        exact memOk_startOp (h.checkObj.of_eq e1)

theorem memOk_ticketRetry {I : Issue} {k : Unit → Result} (h : s.MemOk) (keeps : ∀ a, (k a).MemOk) :
    (ticketRetry I s k).MemOk := by
  unfold Machine.ticketRetry
  split
  · split
    · exact h
    · exact h
  · exact keeps _

theorem memOk_execTmovW {m n : BitVec 7} {c : BitVec 3} {u : State} (h : u.MemOk) : Out.MemOk (execTmovW n m c u) := by
  unfold Machine.execTmovW
  refine memOk_issue h fun _ _ h => ?_
  refine memOk_ticketRetry h fun _ => ?_
  split
  · exact h
  · split
    · exact h.enqueue
    · exact h

theorem memOk_onObject {o : BitVec 7} {f : ℕ → ℕ → Obj → Issue → State → Result} {I : Issue} (h : s.MemOk)
    (keeps : ∀ a b c d v, v.MemOk → (f a b c d v).MemOk) : (onObject o f I s).MemOk := by
  unfold Machine.onObject
  extract_lets
  split
  · next e =>
      exact CoreErr.memOk_stop (h.objFor.of_eq e)
  · next e =>
      exact keeps _ _ _ _ _ (h.objFor.of_eq e)

theorem State.MemOk.putObj {pa : ℕ} {o : Obj} (h : s.MemOk) : (s.putObj pa o).MemOk := h.wr

theorem memOk_execAcq {sf c : BitVec 3} {o : BitVec 7} {u : State} (h : u.MemOk) : Out.MemOk (execAcq sf o c u) := by
  unfold Machine.execAcq
  refine memOk_issue h fun _ _ h => ?_
  refine memOk_onObject h fun _ _ _ _ _ h => ?_
  extract_lets
  split
  · exact h.acquire
  · split
    · exact h.putObj.acquire
    · exact .ite h h

theorem memOk_releasing {obj scope : ℕ} {I : Issue} {k : State → Result} (h : s.MemOk)
    (keeps : ∀ v, v.MemOk → (k v).MemOk) : (releasing obj scope I s k).MemOk := by
  unfold Machine.releasing
  split
  · exact h
  · exact keeps _ h.release

theorem memOk_misuse {ob : Obj} {pa : ℕ} (h : s.MemOk) : (misuse pa ob s).MemOk := h.putObj

theorem memOk_execRel {sf c : BitVec 3} {o : BitVec 7} {u : State} (h : u.MemOk) : Out.MemOk (execRel sf o c u) := by
  unfold Machine.execRel
  refine memOk_issue h fun _ _ h => ?_
  refine memOk_onObject h fun _ _ _ _ _ h => ?_
  refine memOk_releasing h fun _ h => ?_
  split
  · exact h
  · split
    · exact h.putObj
    · exact memOk_misuse h

theorem memOk_execArv {sf c : BitVec 3} {n o : BitVec 7} {u : State} (h : u.MemOk) :
    Out.MemOk (execArv sf n o c u) := by
  unfold Machine.execArv
  refine memOk_issue h fun _ _ h => ?_
  refine memOk_onObject h fun _ _ _ _ _ h => ?_
  extract_lets
  split
  · exact memOk_releasing h (fun _ h => h.putObj)
  · split
    · exact memOk_releasing h (fun _ h => h.putObj)
    · exact memOk_misuse h

theorem memOk_execArvX {sf c : BitVec 3} {n o : BitVec 7} {u : State} (h : u.MemOk) :
    Out.MemOk (execArvX sf n o c u) := by
  unfold Machine.execArvX
  refine memOk_issue h fun _ _ h => ?_
  refine memOk_onObject h fun _ _ _ _ _ h => ?_
  split
  · exact memOk_releasing h (fun _ h => h.putObj)
  · exact memOk_misuse h

theorem memOk_waitpRun {nf : Bool} {sf : BitVec 3} {I : Issue} {p o : BitVec 7} {u : State} (h : u.MemOk) :
    (waitpRun nf sf p o I u).MemOk := by
  unfold Machine.waitpRun
  refine memOk_onObject h fun _ _ _ _ _ h => ?_
  dsimp only
  split
  · split
    · split
      · exact h
      · exact h.acquire
    · exact h
  · split
    · split
      · split
        · exact h
        · exact h.acquire
      · exact h
    · exact memOk_misuse h

theorem State.MemOk.ringFor {I : Issue} {k : ℕ} (h : s.MemOk) : (s.ringFor I k).1.MemOk := by
  unfold State.ringFor
  extract_lets
  split
  · exact h
  · split
    · next e =>
        exact h.structPa.of_eq e
    · next e =>
        split
        · exact h.structPa.of_eq e
        · split
          · next e2 =>
              exact (h.structPa.of_eq e).objFor.of_eq e2
          · next e2 =>
              exact (h.structPa.of_eq e).objFor.of_eq e2
          · next e2 =>
              exact (h.structPa.of_eq e).objFor.of_eq e2

theorem memOk_onRing {r : BitVec 7} {f : ℕ → Ring → Issue → State → Result} {I : Issue} (h : s.MemOk)
    (keeps : ∀ a b c v, v.MemOk → (f a b c v).MemOk) : (onRing r f I s).MemOk := by
  unfold Machine.onRing
  split
  · next e =>
      exact CoreErr.memOk_stop (h.ringFor.of_eq e)
  · next e =>
      exact keeps _ _ _ _ (h.ringFor.of_eq e)

theorem State.MemOk.putRing {pa : ℕ} {r : Ring} (h : s.MemOk) : (s.putRing pa r).MemOk := h.wr

end Sys2Proof.Machine
end

section
/-!
SUPPORT. Canonical storages (O58): copies, names, matrix and rendering instructions, rays, and what is served for a unit.
-/

namespace Sys2Proof.Machine

-- The lemmas are elaborated one after another: side by side they need more threads than the memory limit leaves room for.
set_option Elab.async false

variable {s t : State}

/-! ## Rings and copies -/

theorem memOk_ringSlot {acq : Option (BitVec 3)} {I : Issue} {step : Ring → Option (ℕ × Ring)} {wait : Bool}
    {d r : BitVec 7} {u : State} (h : u.MemOk) : (ringSlot step acq wait d r I u).MemOk := by
  unfold Machine.ringSlot
  refine memOk_onRing h fun _ _ _ _ h => ?_
  split
  · exact by
      split
      · exact h.putRing.acquire
      · exact h.putRing
  · split
    · exact h
    · exact h

theorem memOk_ringCount {sf : BitVec 3} {I : Issue} {step : Ring → ℕ → Option Ring} {n r : BitVec 7} {u : State}
    (h : u.MemOk) : (ringCount step sf n r I u).MemOk := by
  unfold Machine.ringCount
  refine memOk_onRing h fun _ _ _ _ h => ?_
  extract_lets
  split
  · exact h
  · split
    · exact memOk_releasing h (fun _ h => h.putRing)
    · exact h

theorem State.MemOk.cpyLane {l w ctl : ℕ} {I : Issue} {a : BitVec 7} {rs : List (ℕ × Xlate)} (h : s.MemOk) :
    (s.cpyLane I a w ctl rs l).1.MemOk := by
  unfold State.cpyLane
  extract_lets
  split
  · exact h
  · exact h
  · split
    · next e1 =>
        exact h.touchPa.of_eq e1
    · next e1 =>
        split
        · exact h.touchPa.of_eq e1
        · exact h.touchPa.of_eq e1

theorem memOk_execCpy {w : BitVec 2} {a n : BitVec 7} {c : BitVec 3} {u : State} (h : u.MemOk) :
    Out.MemOk (execCpy w a n c u) := by
  unfold Machine.execCpy
  refine memOk_issue h fun _ _ h => ?_
  extract_lets
  split
  · exact h
  · split
    · next e =>
        exact CoreErr.memOk_stop (h.checkObj.of_eq e)
    · next e =>
        split
        next e2 =>
          have lanes := (h.checkObj.of_eq e).xlateLines.of_eq e2
          extract_lets
          split
          · exact memOk_farWait (memOk_foldl_fst lanes fun _ _ h => h.cpyLane)
          · split
            · exact memOk_farWait (.lineRequests (.enqueue (memOk_foldl_fst lanes fun _ _ h => h.cpyLane)))
            · exact h.checkObj.of_eq e

theorem State.MemOk.checkNames {I : Issue} {obj ring : ℕ} {slot : Option ℕ} (h : s.MemOk) :
    (s.checkNames I obj ring slot).1.MemOk := by
  unfold State.checkNames
  split
  · next e =>
      exact h.checkObj.of_eq e
  · next e =>
      split
      · exact h.checkObj.of_eq e
      · split
        · next e1 =>
            exact (h.checkObj.of_eq e).ringFor.of_eq e1
        · next e1 =>
            split
            · exact (h.checkObj.of_eq e).ringFor.of_eq e1
            · exact (h.checkObj.of_eq e).ringFor.of_eq e1

theorem memOk_execCpyb {sf c : BitVec 3} {m n : BitVec 7} {u : State} (h : u.MemOk) :
    Out.MemOk (execCpyb sf n m c u) := by
  unfold Machine.execCpyb
  refine memOk_issue h fun _ _ h => ?_
  split
  · extract_lets
    split
    · exact h
    · split
      · next e2 =>
          exact CoreErr.memOk_stop (h.checkNames.of_eq e2)
      · next e2 =>
          exact memOk_startOp (h.checkNames.of_eq e2)
  · exact h

theorem memOk_execCpyd {sf c : BitVec 3} {m n : BitVec 7} {u : State} (h : u.MemOk) :
    Out.MemOk (execCpyd sf n m c u) := by
  unfold Machine.execCpyd
  refine memOk_issue h fun _ _ h => ?_
  split
  · extract_lets
    split
    · exact h
    · split
      · next e2 =>
          exact CoreErr.memOk_stop (h.checkNames.of_eq e2)
      · next e2 =>
          exact memOk_startOp (h.checkNames.of_eq e2)
  · exact h

theorem memOk_execCtab {n : BitVec 7} {c : BitVec 3} {u : State} (h : u.MemOk) : Out.MemOk (execCtab n c u) := by
  unfold Machine.execCtab
  refine memOk_issue h fun _ _ h => ?_
  extract_lets
  split
  · exact h
  · split
    · exact h
    · exact h.modDie.enqueue

/-! ## Names and generators -/

theorem State.MemOk.touchRange {D : Side} {I : Issue} {len : ℕ} (h : s.MemOk) : (s.touchRange I D len).1.MemOk := by
  unfold State.touchRange
  split
  · exact h
  · refine memOk_foldl_fst h fun _ _ h => ?_
    split
    · exact h
    · extract_lets
      split
      · exact h.xlateCore
      · exact h.xlateCore
      · exact h.xlateCore.meetBlock

theorem State.MemOk.addContribution {n : Contribution} (h : s.MemOk) : (s.addContribution n).MemOk := h

theorem State.MemOk.endInterest {e d code addr cause : ℕ} (h : s.MemOk) :
    (s.endInterest d e code addr cause).MemOk := by
  unfold State.endInterest
  split
  · exact h
  · exact h.modDie.addContribution.reapTeam

theorem State.MemOk.setCopies {l : List TileCopy} {router : ℕ} (h : s.MemOk) : (s.setCopies router l).MemOk :=
  .ite h.modDie h.modHdie

theorem State.MemOk.touchCopy {router : ℕ} {c : TileCopy} (h : s.MemOk) : (s.touchCopy router c).MemOk := h.setCopies

theorem State.MemOk.meetTile {e d : ℕ} {b : List Byte} (h : s.MemOk) : (s.meetTile d e b).MemOk := by
  unfold State.meetTile
  split
  · exact h
  · exact .ite h (.ite h.endInterest h.modDie)

theorem State.MemOk.addInterest {e life d : ℕ} {i : Interest} (h : s.MemOk) : (s.addInterest d e i life).MemOk := by
  unfold State.addInterest
  refine .ite h.modDie.endInterest ?_
  split
  · exact h.modDie.meetTile.touchCopy
  · exact h.modDie

theorem memOk_execIntr {m n : BitVec 7} {r c : BitVec 3} {u : State} (h : u.MemOk) :
    Out.MemOk (execIntr r n m c u) := by
  unfold Machine.execIntr
  refine memOk_issue h fun _ _ h => ?_
  split
  · extract_lets
    split
    · exact h
    · split
      · next e2 =>
          exact CoreErr.memOk_stop (h.checkObj.of_eq e2)
      · next e2 =>
          split
          · next e3 =>
              exact memOk_farWait ((h.checkObj.of_eq e2).touchRange.of_eq e3)
          · next e3 =>
              split
              · exact h
              · exact ((h.checkObj.of_eq e2).touchRange.of_eq e3).addInterest
  · exact h

theorem memOk_execAnnc {m n : BitVec 7} {r c : BitVec 3} {u : State} (h : u.MemOk) :
    Out.MemOk (execAnnc r n m c u) := by
  unfold Machine.execAnnc
  refine memOk_issue h fun _ _ h => ?_
  split
  · extract_lets
    split
    · exact h
    · split
      · next e2 =>
          exact CoreErr.memOk_stop (h.checkObj.of_eq e2)
      · next e2 =>
          exact memOk_startOp (h.checkObj.of_eq e2)
  · exact h

theorem memOk_execNret {r c : BitVec 3} {n : BitVec 7} {u : State} (h : u.MemOk) : Out.MemOk (execNret r n c u) := by
  unfold Machine.execNret
  refine memOk_issue h fun _ _ h => ?_
  extract_lets
  split
  · split
    · exact h
    · exact h
  · split
    · exact h
    · split
      · exact h
      · exact .foldl h.drainWc fun _ _ h => h.foldl fun _ _ h => h

theorem memOk_execNprb {r c : BitVec 3} {n d : BitVec 7} {u : State} (h : u.MemOk) :
    Out.MemOk (execNprb r n d c u) := by
  unfold Machine.execNprb
  refine memOk_issue h fun _ _ h => ?_
  extract_lets
  split
  · exact h
  · exact h

theorem memOk_execGreq {n d : BitVec 7} {c : BitVec 3} {u : State} (h : u.MemOk) : Out.MemOk (execGreq n d c u) := by
  unfold Machine.execGreq
  refine memOk_issue h fun _ _ h => ?_
  extract_lets
  split
  · exact h
  · split
    · exact h
    · exact h
    · extract_lets
      split
      · exact CoreErr.memOk_stop h.xlateCore
      · exact h.xlateCore
      · split
        · exact h.xlateCore
        · split
          · exact h.xlateCore
          · split
            · next e =>
                exact h.xlateCore.meetBlock.of_eq e
            · next e =>
                exact h.xlateCore.meetBlock.of_eq e

theorem memOk_decideFill {v : Option ℕ} {I : Issue} (h : s.MemOk) : (decideFill v I s).MemOk := by
  unfold Machine.decideFill
  split
  · exact h
  · split
    · exact h
    · exact .ite h.drainWc.modTeam h.drainWc

/-! ## Matrix instructions -/

theorem Core.storages_takeMatrix {C : Core} {cycle : ℕ} {frozen : ℕ → Bool} :
    (C.takeMatrix cycle frozen).storages = C.storages := by
  unfold Core.takeMatrix
  split
  · rfl
  · split
    · rfl
    · rfl

theorem State.MemOk.takeMatrix {core : ℕ} (h : s.MemOk) : (s.takeMatrix core).MemOk :=
  h.modCore fun _ => Core.storages_takeMatrix

theorem memOk_enterMatrix {m : MatrixOp} {I : Issue} {waits : Bool} (h : s.MemOk) :
    (enterMatrix I s m waits).MemOk := by
  unfold Machine.enterMatrix
  extract_lets
  split
  · exact h
  · split
    · exact .takeMatrix (.modCore h)
    · exact .takeMatrix (.modCore h)

theorem memOk_matrixIssue {sf : BitVec 3} {kind : ℕ} {n : BitVec 7} {o : Option (BitVec 7)} {I : Issue}
    (h : s.MemOk) : (matrixIssue kind sf n o I s).MemOk := by
  unfold Machine.matrixIssue
  split
  · exact memOk_enterMatrix h
  · split
    · exact h
    · exact h
  · extract_lets
    split
    · exact h.drainWc
    · split
      · exact h.drainWc
      · extract_lets
        split
        · exact h.drainWc
        · split
          · next e4 =>
              exact CoreErr.memOk_stop (h.drainWc.checkObj.of_eq e4)
          · next e4 =>
              exact memOk_enterMatrix (h.drainWc.checkObj.of_eq e4)

/-! ## Rendering instructions -/

theorem State.MemOk.landUnit {I : Issue} (h : s.MemOk) : (s.landUnit I).MemOk := h.performHeld

theorem memOk_execMout {n d : BitVec 7} {c : BitVec 3} {u : State} (h : u.MemOk) : Out.MemOk (execMout n d c u) := by
  unfold Machine.execMout
  refine memOk_issue h fun _ _ h => ?_
  extract_lets
  split
  · extract_lets
    split
    · exact h.landUnit
    · split
      · exact h.landUnit
      · exact h.landUnit.modCore
  · exact h.landUnit

theorem memOk_primSend {I : Issue} {recs : List PrimRec} (h : s.MemOk) : (primSend I s recs).MemOk := by
  unfold Machine.primSend
  split
  · exact h
  · split
    · exact h
    · exact h

theorem State.MemOk.primRec {P : Pass} {key cull b prim topo : ℕ} {vs : List (List Word × List Word)} (h : s.MemOk) :
    (s.primRec P b key prim topo cull vs).1.MemOk := by
  unfold State.primRec
  extract_lets
  split
  · exact h
  · exact h.draw

theorem memOk_execPrim {n : BitVec 7} {c : BitVec 3} {u : State} (h : u.MemOk) : Out.MemOk (execPrim n c u) := by
  unfold Machine.execPrim
  refine memOk_issue h fun _ _ h => ?_
  extract_lets
  split
  · exact memOk_primSend h.landUnit
  · extract_lets
    split
    · exact h.landUnit
    · split
      · exact h.landUnit
      · extract_lets
        split
        · exact h.landUnit
        · split
          · exact h.landUnit
          · split
            · split
              · exact h.landUnit
              · refine memOk_primSend (memOk_foldl_fst ?_ fun _ _ h => h.primRec)
                exact .ite h.landUnit.modTeam.modCore h.landUnit.modTeam
  · exact h.landUnit

theorem memOk_execTld {k c : BitVec 3} {d a : BitVec 7} {u : State} (h : u.MemOk) : Out.MemOk (execTld k d a c u) := by
  unfold Machine.execTld
  refine memOk_issue h fun _ _ h => ?_
  extract_lets
  split
  · exact h.landUnit
  · split
    · exact h.landUnit
    · exact h.landUnit

theorem memOk_execTst {k c : BitVec 3} {d a : BitVec 7} {u : State} (h : u.MemOk) : Out.MemOk (execTst k d a c u) := by
  unfold Machine.execTst
  refine memOk_issue h fun _ _ h => ?_
  extract_lets
  split
  · exact h.landUnit
  · split
    · exact h.landUnit
    · exact h.landUnit.foldl fun _ _ h => .ite h h.scrWrite

theorem memOk_orderStep {l : ℕ} {I : Issue} {a : BitVec 7} {f : ℕ → State → State × Option Trap} {r : Ordered}
    (h : r.s.MemOk) (keeps : ∀ a v, v.MemOk → (f a v).1.MemOk) : (orderStep I a f r l).s.MemOk := by
  unfold Machine.orderStep
  extract_lets
  split
  · exact h
  · split
    · next e =>
        exact (keeps _ _ h).of_eq e
    · next e =>
        exact (keeps _ _ h).of_eq e

theorem memOk_ordered {pre : List LaneOut} {I : Issue} {a : BitVec 7} {f : ℕ → State → State × Option Trap}
    (h : s.MemOk) (keeps : ∀ a v, v.MemOk → (f a v).1.MemOk) : (ordered I a s pre f).MemOk := by
  have folded : ∀ (ls : List ℕ) (r : Ordered), r.s.MemOk → (ls.foldl (orderStep I a f) r).s.MemOk := by
    intro ls
    induction ls with
    | nil => exact fun _ hr => hr
    | cons l ls ih => exact fun r hr => ih _ (memOk_orderStep hr keeps)
  unfold Machine.ordered
  extract_lets
  split
  · exact folded _ _ h
  · exact folded _ _ h

theorem memOk_blendLane {l : ℕ} {I : Issue} {p : Plane} {d a : BitVec 7} (h : s.MemOk) :
    (blendLane I p d a l s).1.MemOk := by
  unfold Machine.blendLane
  split
  · exact h
  · extract_lets
    split
    · exact h
    · exact h.scrWrite.modGroup

theorem memOk_execBlnd {k c : BitVec 3} {d a : BitVec 7} {u : State} (h : u.MemOk) :
    Out.MemOk (execBlnd k d a c u) := by
  unfold Machine.execBlnd
  refine memOk_issue h fun _ _ h => ?_
  split
  · exact h
  · exact memOk_ordered h.landUnit fun _ _ h => memOk_blendLane h

theorem memOk_depthLane {test : Bool} {l k : ℕ} {I : Issue} {p : Plane} {d a : BitVec 7} (h : s.MemOk) :
    (depthLane I p test k d a l s).1.MemOk := by
  unfold Machine.depthLane
  extract_lets
  split
  · exact h.modGroup
  · split
    · exact h
    · exact .modGroup (.ite h.scrWrite h)

theorem memOk_depthRun {test : Bool} {k : BitVec 3} {d a : BitVec 7} {I : Issue} (h : s.MemOk) :
    (depthRun test k d a I s).MemOk := by
  unfold Machine.depthRun
  split
  · exact h
  · split
    · exact h
    · exact memOk_ordered h.landUnit fun _ _ h => memOk_depthLane h

theorem memOk_execDisc {c : BitVec 3} {u : State} (h : u.MemOk) : Out.MemOk (execDisc c u) := by
  unfold Machine.execDisc
  refine memOk_issue h fun _ _ h => ?_
  split
  · exact h
  · exact h

theorem memOk_tretRun {ob plane : ℕ} {I : Issue} {u : State} (h : u.MemOk) : (tretRun I plane ob u).MemOk := by
  unfold Machine.tretRun
  extract_lets
  split
  · exact h.landUnit
  · split
    · exact h.landUnit.modTeam
    · exact h.landUnit

theorem memOk_execTret {n : BitVec 7} {c : BitVec 3} {u : State} (h : u.MemOk) : Out.MemOk (execTret n c u) := by
  unfold Machine.execTret
  refine memOk_issue h fun _ _ h => ?_
  extract_lets
  split
  · exact memOk_tretRun h
  · split
    · exact h
    · split
      · exact h
      · split
        · next e2 =>
            exact CoreErr.memOk_stop (h.checkObj.of_eq e2)
        · next e2 =>
            exact memOk_tretRun (h.checkObj.of_eq e2)

theorem memOk_execIpol {j c : BitVec 3} {d a : BitVec 7} {k : BitVec 1} {u : State} (h : u.MemOk) :
    Out.MemOk (execIpol j d a k c u) := by
  unfold Machine.execIpol
  refine memOk_issue h fun _ _ h => ?_
  refine memOk_eachLaneState h fun _ _ _ h => ?_
  split
  · exact h
  · extract_lets
    split
    · exact h
    · exact h.draw

/-! ## Sampling -/

theorem State.MemOk.reload {core x kind : ℕ} (h : s.MemOk) : (s.reload core x kind).MemOk := h.modCore

theorem State.MemOk.unitFetch {l va n : ℕ} {I : Issue} (h : s.MemOk) : (s.unitFetch I l va n).1.MemOk := by
  unfold State.unitFetch
  extract_lets
  split
  · exact h.xlateCore
  · split
    · exact h.xlateCore
    · exact h.xlateCore.noteLine
    · extract_lets
      split
      · exact h.xlateCore.performHeld.noteLine
      · exact h.xlateCore.performHeld.seen
  · exact h.xlateCore.meetBlock

theorem State.MemOk.imageReads {I : Issue} {l : ℕ} {vas : List ℕ} (h : s.MemOk) : (s.imageReads I l vas).1.MemOk := by
  induction vas generalizing s with
  | nil => exact h
  | cons va vas ih =>
    unfold State.imageReads
    split
    · next e =>
        exact h.unitFetch.of_eq e
    · next e =>
        exact ih (h.unitFetch.of_eq e)

theorem memOk_sampleImage {l k d : ℕ} {I : Issue} (h : s.MemOk) : (sampleImage k d I l s).1.MemOk := by
  unfold Machine.sampleImage
  split
  · next e =>
      split
      · next e1 =>
          exact (h.draw.of_eq e).imageReads.of_eq e1
      · next e1 =>
          exact ((h.draw.of_eq e).imageReads.of_eq e1).draw

theorem State.MemOk.fetchTaps {I : Issue} {l : ℕ} {x : Tex} {ps : List Tap} (h : s.MemOk) :
    (s.fetchTaps I l x ps).1.MemOk := by
  induction ps generalizing s with
  | nil => exact h
  | cons p ps ih =>
    unfold State.fetchTaps
    split
    · next e =>
        exact h.unitFetch.of_eq e
    · next e =>
        split
        · next e1 =>
            exact (ih (h.unitFetch.of_eq e)).of_eq e1
        · next e1 =>
            exact (ih (h.unitFetch.of_eq e)).of_eq e1

theorem State.MemOk.orFree {w : Option Word} (h : s.MemOk) : (s.orFree w).1.MemOk := by
  unfold State.orFree
  split
  · exact h
  · exact h.draw

theorem State.MemOk.orFrees {ws : List (Option Word)} (h : s.MemOk) : (s.orFrees ws).1.MemOk :=
  memOk_foldl_fst h fun _ _ h => h.orFree

theorem memOk_sampleLane {tex : Tex} {grad gather : Bool} {l d a : ℕ} {I : Issue} (h : s.MemOk) :
    (sampleLane tex gather grad d a I l s).1.MemOk := by
  unfold Machine.sampleLane
  extract_lets
  split
  · next e =>
      exact h.fetchTaps.of_eq e
  · next e =>
      exact (h.fetchTaps.of_eq e).orFrees

theorem memOk_sampleOuts {grad gather : Bool} {lodr k : ℕ} {d a : BitVec 7} {I : Issue} (h : s.MemOk) :
    (sampleOuts lodr gather grad k d a I s).1.MemOk := by
  unfold Machine.sampleOuts
  extract_lets
  split
  · exact h
  · split
    · exact memOk_laneOuts h.reload (fun _ _ _ h => memOk_sampleImage h)
    · split
      · next e1 =>
          exact h.reload.unitFetch.of_eq e1
      · next e1 =>
          split
          · exact h.reload.unitFetch.of_eq e1
          · exact memOk_laneOuts (h.reload.unitFetch.of_eq e1) fun _ _ _ h => memOk_sampleLane h

theorem memOk_sampleRun {grad gather : Bool} {tr : BitVec 3} {d a : BitVec 7} {I : Issue} (h : s.MemOk) :
    (sampleRun gather grad tr d a I s).MemOk := memOk_farWait (memOk_sampleOuts h)

/-! ## Rays -/

theorem State.MemOk.setRay {l : ℕ} {q : Option RayQuery} {I : Issue} (h : s.MemOk) : (s.setRay I l q).MemOk :=
  h.modGroup

theorem State.MemOk.rayStops {l : ℕ} {q : Option RayQuery} {I : Issue} {o : LaneOut} (h : s.MemOk) :
    (s.rayStops I l o q).MemOk := .ite h.setRay h.modGroup

theorem memOk_eachLaneFar {f : Issue → ℕ → State → State × LaneOut} {I : Issue} (h : s.MemOk)
    (keeps : ∀ a b v, v.MemOk → (f a b v).1.MemOk) : (eachLaneFar f I s).MemOk :=
  memOk_farWait (memOk_laneOuts h (fun _ _ _ h => keeps _ _ _ h))

theorem memOk_rayOut {l d status : ℕ} {k : Option RayHit} (h : s.MemOk) : (rayOut l d status k s).1.MemOk := by
  unfold Machine.rayOut
  split
  · exact h
  · exact h.orFrees

theorem State.MemOk.rayMalformed {q : RayQuery} {I : Issue} {va : ℕ} (h : s.MemOk) :
    (s.rayMalformed I q va).1.MemOk := by
  unfold State.rayMalformed
  split
  · exact h
  · exact h.logError

theorem Trav.memOk_out {I : Issue} {l d : ℕ} {r : Trav} (h : r.MemOk) : (Trav.out I l d r).1.MemOk := by
  cases r with
  | fault s q o => exact State.MemOk.rayStops h
  | cand s q => exact memOk_rayOut (State.MemOk.setRay h)
  | fin s q => exact memOk_rayOut (State.MemOk.setRay h)
  | more s q => exact h

theorem memOk_rayImage {l k : ℕ} {q : RayQuery} {I : Issue} (h : s.MemOk) : (rayImage k I l q s).MemOk := by
  unfold Machine.rayImage
  split
  · next e =>
      split
      · next e1 =>
          exact (h.draw.of_eq e).imageReads.of_eq e1
      · next e1 =>
          split
          · next e2 =>
              extract_lets
              split
              · exact ((h.draw.of_eq e).imageReads.of_eq e1).draw.of_eq e2
              · exact ((h.draw.of_eq e).imageReads.of_eq e1).draw.of_eq e2

theorem State.MemOk.unitFetchParts {I : Issue} {l : ℕ} {ps : List (ℕ × ℕ)} (h : s.MemOk) :
    (s.unitFetchParts I l ps).1.MemOk := by
  induction ps generalizing s with
  | nil => exact h
  | cons p ps ih =>
    unfold State.unitFetchParts
    split
    · next e =>
        exact h.unitFetch.of_eq e
    · next e =>
        split
        · next e1 =>
            exact (ih (h.unitFetch.of_eq e)).of_eq e1
        · next e1 =>
            exact (ih (h.unitFetch.of_eq e)).of_eq e1

theorem State.MemOk.rayAt {I : Issue} {l : ℕ} {q : RayQuery} {is : List ℕ} (h : s.MemOk) :
    (s.rayAt I l q is).1.MemOk := by
  induction is with
  | nil => exact h
  | cons i is ih =>
    unfold State.rayAt
    split
    · next e =>
        exact ih.of_eq e
    · next e =>
        split
        · next e1 =>
            exact (ih.of_eq e).unitFetchParts.of_eq e1
        · next e1 =>
            exact (ih.of_eq e).unitFetchParts.of_eq e1

theorem State.MemOk.look {l lvl : ℕ} {q : RayQuery} {I : Issue} {n : RayNode} (h : s.MemOk) :
    (s.look I l q n lvl).1.MemOk := by
  unfold State.look
  split
  · next e =>
      exact h.rayAt.of_eq e
  · next e =>
      extract_lets
      split
      · exact (h.rayAt.of_eq e).rayMalformed
      · split
        · next e1 =>
            exact (h.rayAt.of_eq e).unitFetch.of_eq e1
        · next e1 =>
            split
            · exact ((h.rayAt.of_eq e).unitFetch.of_eq e1).rayMalformed
            · exact (h.rayAt.of_eq e).unitFetch.of_eq e1

theorem State.MemOk.instBytes {I : Issue} {l : ℕ} {is : List ℕ} (h : s.MemOk) : (s.instBytes I l is).1.MemOk := by
  induction is generalizing s with
  | nil => exact h
  | cons i is ih =>
    unfold State.instBytes
    split
    · next e =>
        exact h.unitFetchParts.of_eq e
    · next e =>
        split
        · next e1 =>
            exact (ih (h.unitFetchParts.of_eq e)).of_eq e1
        · next e1 =>
            exact (ih (h.unitFetchParts.of_eq e)).of_eq e1

theorem State.MemOk.testRun {I : Issue} {l base slot j n : ℕ} {q : RayQuery} {r : RayOD} {is : List (List Byte)}
    (h : s.MemOk) : (s.testRun I l q r is base slot j n).MemOk := by
  induction n generalizing s q j with
  | zero => exact h
  | succ n ih =>
    unfold State.testRun
    split
    · next e =>
        exact h.unitFetchParts.of_eq e
    · next e =>
        have read := h.unitFetchParts.of_eq e
        split
        · exact ih read.rayMalformed
        · split
          · exact ih read
          · extract_lets
            split
            · exact ih read
            · split
              · exact ih read
              · split
                · exact read
                · exact ih read

theorem State.MemOk.runSlot {l j c : ℕ} {q : RayQuery} {I : Issue} {k : Look} (h : s.MemOk) :
    (s.runSlot I l q k c j).MemOk := by
  unfold State.runSlot
  split
  · next e =>
      exact h.instBytes.of_eq e
  · next e =>
      exact (h.instBytes.of_eq e).testRun

theorem State.MemOk.child {l c : ℕ} {I : Issue} {n : RayNode} {k : Look} (h : s.MemOk) :
    (s.child I l n k c).1.MemOk := by
  unfold State.child
  extract_lets
  split
  · split
    · next e =>
        exact h.unitFetchParts.of_eq e
    · next e =>
        split
        · exact h.unitFetchParts.of_eq e
        · exact h.unitFetchParts.of_eq e
  · exact h

theorem State.MemOk.redescend {I : Issue} {l lvl n : ℕ} {q : RayQuery} {at_ : RayNode} (h : s.MemOk) :
    (s.redescend I l q at_ lvl n).1.MemOk := by
  induction n generalizing s q at_ lvl with
  | zero => exact h
  | succ n ih =>
    unfold State.redescend
    split
    · next e =>
        exact h.look.of_eq e
    · next e =>
        have looked := h.look.of_eq e
        split
        · exact looked
        · split
          · next e1 =>
              exact looked.child.of_eq e1
          · next e1 =>
              exact looked.child.of_eq e1
          · next e1 =>
              exact ih (looked.child.of_eq e1)

theorem State.MemOk.rayUp {I : Issue} {l : ℕ} {q : RayQuery} (h : s.MemOk) : (s.rayUp I l q).MemOk := by
  unfold State.rayUp
  split
  · exact h
  · extract_lets q1 r
    have descended : r.1.MemOk := by
      unfold r
      split
      · exact h
      · exact h.redescend
    clear_value r
    split
    · exact descended
    · split
      · next e =>
          exact State.MemOk.of_eq (State.MemOk.look descended) e
      · next e =>
          exact State.MemOk.of_eq (State.MemOk.look descended) e

theorem State.MemOk.rayStep {l : ℕ} {q : RayQuery} {I : Issue} (h : s.MemOk) : (s.rayStep I l q).MemOk := by
  unfold State.rayStep
  split
  · next e =>
      exact h.look.of_eq e
  · next e =>
      split
      · exact (h.look.of_eq e).runSlot
      · split
        · exact (h.look.of_eq e).rayUp
        · split
          · exact h.look.of_eq e
          · split
            · exact (h.look.of_eq e).runSlot
            · split
              · exact (h.look.of_eq e).logError
              · split
                · next e3 =>
                    exact (h.look.of_eq e).child.of_eq e3
                · next e3 =>
                    exact ((h.look.of_eq e).child.of_eq e3).rayMalformed
                · next e3 =>
                    exact (h.look.of_eq e).child.of_eq e3

theorem State.MemOk.rayLoop {I : Issue} {l n : ℕ} {q : RayQuery} (h : s.MemOk) : (State.rayLoop I l n s q).MemOk := by
  induction n generalizing s q with
  | zero => exact h
  | succ n ih =>
    have stepped := h.rayStep (I := I) (l := l) (q := q)
    unfold State.rayLoop
    split
    · next e =>
        rw [e] at stepped
        exact ih stepped
    · exact stepped

theorem memOk_rayGo {I : Issue} {l d : ℕ} {q : RayQuery} (h : s.MemOk) : (rayGo I l d q s).1.MemOk := by
  unfold Machine.rayGo
  refine Trav.memOk_out ?_
  split
  · exact memOk_rayImage h
  · exact h.rayLoop

theorem memOk_rayqLane {opq ok : Bool} {l entry root d a : ℕ} {I : Issue} {u : State} (h : u.MemOk) :
    (rayqLane opq entry root ok d a I l u).1.MemOk := by
  unfold Machine.rayqLane
  extract_lets
  split
  · exact memOk_rayOut h.setRay
  · split
    · exact memOk_rayOut h.setRay.rayMalformed
    · exact memOk_rayGo h.setRay

theorem memOk_rayqRun {opq : Bool} {sr : BitVec 3} {d a : BitVec 7} {I : Issue} (h : s.MemOk) :
    (rayqRun opq sr d a I s).MemOk := by
  unfold Machine.rayqRun
  extract_lets
  split
  · exact h
  · split
    · next e =>
        exact memOk_farWait ((h.reload.unitFetch.of_eq e).foldl fun _ _ h => h.rayStops)
    · next e =>
        exact memOk_eachLaneFar (h.reload.unitFetch.of_eq e) fun _ _ _ h => memOk_rayqLane h

theorem memOk_rayResume {accept : Bool} {l d : ℕ} {I : Issue} (h : s.MemOk) : (rayResume accept d I l s).1.MemOk := by
  unfold Machine.rayResume
  split
  · exact h
  · split
    · exact h
    · exact memOk_rayGo h

theorem memOk_hint {kind payload : ℕ} (h : s.MemOk) : Out.MemOk (hint kind payload s) := by
  unfold Machine.hint
  split
  · trivial
  · exact h.account.modGroup

/-! ## Reads for a unit -/

theorem State.MemOk.xlateDie {d x va : ℕ} {acc : Access} (h : s.MemOk) : (s.xlateDie d x va acc).1.MemOk := by
  unfold State.xlateDie
  split
  · next e =>
      exact h.leafDie.of_eq e
  · next e =>
      exact h.leafDie.of_eq e

theorem State.MemOk.unitXlate {d : Option ℕ} {x : ℕ} {w : Want} (h : s.MemOk) : (s.unitXlate d x w).1.MemOk := by
  unfold State.unitXlate
  split
  · split
    · exact h
    · split
      · exact h
      · exact h.xlateDie
  · split
    · exact h.noteWalk
    · exact h

theorem State.MemOk.unitOne {d : Option ℕ} {x : ℕ} {gen : Option GenFill} {w : Want} (h : s.MemOk) :
    (s.unitOne d x gen w).1.MemOk := by
  unfold State.unitOne
  extract_lets
  split
  · exact h.unitXlate
  · split
    · exact h.unitXlate
    · exact h.unitXlate
  · exact h.unitXlate

theorem State.MemOk.unitParts {w : FaultWho} {d : Option ℕ} {x : ℕ} {gen : Option GenFill} {ws : List Want}
    (h : s.MemOk) : (s.unitParts w d x gen ws).1.MemOk := by
  induction ws generalizing s with
  | nil => exact h
  | cons a ws ih =>
    unfold State.unitParts
    split
    · next e =>
        exact h.unitOne.of_eq e
    · next e =>
        split
        · exact ih (h.unitOne.of_eq e)
        · exact (h.unitOne.of_eq e).noteLine
        · exact h.unitOne.of_eq e

theorem State.MemOk.addFault {x va access met : ℕ} {w : FaultWho} {fill : Bool} (h : s.MemOk) :
    (s.addFault x va access w fill met).MemOk := h

theorem State.MemOk.openUnit {x : ℕ} {w : FaultWho} {lines : List ℕ} (h : s.MemOk) : (s.openUnit x w lines).MemOk := h

theorem State.MemOk.stopUnit {ps : List (ℕ × ℕ)} {stop : Stop} {w : FaultWho} {x : ℕ} {gen : Option GenFill}
    (h : s.MemOk) : (s.stopUnit w x gen ps stop).1.MemOk := by
  unfold State.stopUnit
  split
  · split
    · exact h.addFault
    · exact h
  · split
    · next e1 =>
        exact h.meetBlock.of_eq e1
    · next e1 =>
        exact (h.meetBlock.of_eq e1).addFault
  · split
    · exact h
    · exact h.openUnit

theorem State.MemOk.served {ws : List Want} {w : FaultWho} {d : Option ℕ} {x : ℕ} {gen : Option GenFill}
    (h : s.MemOk) : (s.served w d x gen ws).1.MemOk := by
  unfold State.served
  split
  · next e =>
      exact h.unitParts.of_eq e
  · next e =>
      exact (h.unitParts.of_eq e).stopUnit

theorem State.MemOk.servedRead {w : FaultWho} {d : Option ℕ} {x va n : ℕ} {gen : Option GenFill} (h : s.MemOk) :
    (s.servedRead w d x gen va n).1.MemOk := by
  unfold State.servedRead
  split
  · next e =>
      split
      · exact (h.served.of_eq e).noteLine
      · exact h.served.of_eq e
  · next e =>
      exact h.served.of_eq e
  · next e =>
      exact h.served.of_eq e

theorem State.MemOk.logStep {c : Contribution} {code addr : ℕ} (h : s.MemOk) : (s.logStep c code addr).MemOk := by
  unfold State.logStep
  extract_lets
  split
  · exact h.logError
  · exact h.logError

theorem State.MemOk.clearFaults {w : FaultWho} (h : s.MemOk) : (s.clearFaults w).MemOk := h

theorem State.MemOk.endStep {n : ℕ} {c : Contribution} (h : s.MemOk) : (s.endStep n c).MemOk := by
  unfold State.endStep
  extract_lets
  split
  · exact .freeInterest h
  · exact h

theorem State.MemOk.freezeUnit {x addr detail : ℕ} {o : Origin} (h : s.MemOk) : (s.freezeUnit x o addr detail).MemOk :=
  .ite h (.ite h.modCtx h.freezeCtx.logTrap.event)

theorem State.MemOk.served64 {w : FaultWho} {d : Option ℕ} {x va : ℕ} (h : s.MemOk) :
    (s.served64 w d x va).1.MemOk := by
  unfold State.served64
  split
  · next e =>
      split
      · exact h.unitOne.of_eq e
      · exact h.unitOne.of_eq e
  · next e =>
      split
      · next e1 =>
          exact (h.unitOne.of_eq e).stopUnit.of_eq e1
      · next e1 =>
          exact (h.unitOne.of_eq e).stopUnit.of_eq e1

theorem State.MemOk.makeStep {n : ℕ} {c : Contribution} (h : s.MemOk) : (s.makeStep n c).MemOk := by
  unfold State.makeStep
  extract_lets logged lost
  have hlogged : ∀ u, u.MemOk → (logged u).MemOk := by
    intro u hu
    unfold logged
    split
    · exact hu.ite hu.logStep
    · exact hu
  have hlost : ∀ u code addr detail frozen, u.MemOk → (lost u code addr detail frozen).MemOk :=
    fun u _ _ _ _ hu => .ite (.freezeUnit (.endStep (.logStep (hlogged u hu)))) (.endStep (.logStep (hlogged u hu)))
  split
  · exact (hlogged _ h).endStep
  · split
    · exact hlost _ _ _ _ _ h
    · split
      · next e =>
          exact h.served64.of_eq e
      · next e =>
          exact hlost _ _ _ _ _ (h.served64.of_eq e)
      · next e =>
          have read := h.served64.of_eq e
          split
          · exact hlost _ _ _ _ _ read
          · exact (hlogged _ read).putObj.endStep

theorem State.MemOk.addDone {q x index obj : ℕ} {fcode : Option ℕ} (h : s.MemOk) :
    (s.addDone x q index obj fcode).MemOk := .ite h h.addContribution.makeStep

theorem State.MemOk.invalidLaunch {q x index obj off rs fcode : ℕ} (h : s.MemOk) :
    (s.invalidLaunch x q index obj off rs fcode).MemOk := h.logError.addDone

/-! ## Launch blocks -/

theorem State.MemOk.advanceHead {x k : ℕ} (h : s.MemOk) : (s.advanceHead x k).MemOk := by
  unfold State.advanceHead
  split
  · exact h.wr
  · exact h

theorem State.MemOk.readRecords {w : FaultWho} {x rtab rmask : ℕ} {js : List ℕ} {acc : List (BitVec 256)}
    (h : s.MemOk) : (s.readRecords w x rtab rmask js acc).1.MemOk := by
  induction js generalizing s acc with
  | nil => exact h
  | cons j js ih =>
    unfold State.readRecords
    split
    · split
      · next e =>
          exact h.servedRead.of_eq e
      · next e =>
          exact h.servedRead.of_eq e
      · next e =>
          extract_lets
          split
          · exact ih (h.servedRead.of_eq e)
          · exact h.servedRead.of_eq e
    · exact ih h

theorem State.MemOk.checkPreds {w : FaultWho} {x : ℕ} {ps : List (ℕ × ℕ)} (h : s.MemOk) :
    (s.checkPreds w x ps).1.MemOk := by
  induction ps generalizing s with
  | nil => exact h
  | cons p ps ih =>
    unfold State.checkPreds
    split
    · exact ih h
    · split
      · exact h
      · split
        · next e =>
            exact h.servedRead.of_eq e
        · next e =>
            exact h.servedRead.of_eq e
        · next e =>
            split
            · split
              · exact ih (h.servedRead.of_eq e)
              · exact h.servedRead.of_eq e
            · exact h.servedRead.of_eq e

theorem State.MemOk.checkBlock {w : FaultWho} {x : ℕ} {bs : List Byte} (h : s.MemOk) :
    (s.checkBlock w x bs).1.MemOk := by
  unfold State.checkBlock
  extract_lets found upTo fail r
  clear_value upTo found
  have hr : r.1.MemOk := by
    unfold r
    split
    · exact h.readRecords
    · exact h
  clear_value r
  split
  · exact hr
  · exact hr
  · extract_lets q
    have hq : q.1.MemOk := by
      unfold q
      split
      · exact State.MemOk.servedRead hr
      · exact hr
    clear_value q
    split
    · exact hq
    · exact hq
    · extract_lets p
      have hp : p.1.MemOk := State.MemOk.checkPreds hq
      clear_value p
      split
      · exact hp
      · exact hp
      · split
        · exact hp
        · exact hp

theorem State.MemOk.farRead {w : FaultWho} {src : ErrSrc} {x va n : ℕ} (h : s.MemOk) :
    (s.farRead w src x va n).1.MemOk := by
  unfold State.farRead
  split
  · exact h.clearFaults
  · split
    · split
      · exact h.clearFaults
      · exact h.openUnit
    · exact h.clearFaults.noteFault

theorem State.MemOk.condition {L : Launch} (h : s.MemOk) : (s.condition L).1.MemOk := by
  unfold State.condition
  split
  · exact h
  · split
    · next e =>
        exact h.farRead.of_eq e
    · next e =>
        exact h.farRead.of_eq e
    · next e =>
        exact h.farRead.of_eq e

theorem State.MemOk.leaveHead {L : Launch} {lid : ℕ} (h : s.MemOk) : (s.leaveHead lid L).MemOk := h.advanceHead

theorem State.MemOk.freeGrid {x : ℕ} (h : s.MemOk) : (s.freeGrid x).1.MemOk := h.draw

theorem State.MemOk.toPending {L : Launch} {lid : ℕ} (h : s.MemOk) : (s.toPending lid L).MemOk := h.freeGrid.advanceHead

end Sys2Proof.Machine
end

section
/-!
SUPPORT. Canonical storages (O58): steps of launches, pre-emption, engines and the matrix unit.
-/

namespace Sys2Proof.Machine

-- The lemmas are elaborated one after another: side by side they need more threads than the memory limit leaves room for.
set_option Elab.async false

variable {s t : State}

/-! ## Launches -/

theorem State.MemOk.evaluate {L : Launch} {lid : ℕ} (h : s.MemOk) : (s.evaluate lid L).MemOk := by
  unfold State.evaluate
  split
  · next e =>
      exact h.condition.of_eq e
  · next e =>
      exact (h.condition.of_eq e).leaveHead.invalidLaunch
  · next e =>
      exact (h.condition.of_eq e).leaveHead.addDone
  · next e =>
      have read := h.condition.of_eq e
      split
      · exact read
      · exact read.toPending

theorem memOk_execLaunchHeadRead {q ctx : ℕ} (h : s.MemOk) : Out.MemOk (execLaunchHeadRead ctx q s) := by
  unfold Machine.execLaunchHeadRead
  refine show State.MemOk _ from ?_
  split
  · exact h
  · extract_lets
    split
    · next e =>
        exact h.servedRead.of_eq e
    · next e =>
        exact (h.servedRead.of_eq e).clearFaults.advanceHead.invalidLaunch
    · next e =>
        split
        · next e2 =>
            exact (h.servedRead.of_eq e).checkBlock.of_eq e2
        · next e2 =>
            exact ((h.servedRead.of_eq e).checkBlock.of_eq e2).clearFaults.advanceHead.invalidLaunch
        · next e2 =>
            have checked := (h.servedRead.of_eq e).checkBlock.of_eq e2
            extract_lets L w v
            have taken : v.MemOk := checked
            exact taken.evaluate.ite taken

theorem memOk_execPredecessorTest {lid : ℕ} (h : s.MemOk) : Out.MemOk (execPredecessorTest lid s) := by
  unfold Machine.execPredecessorTest
  split
  · refine .ite ?_ h
    split
    · exact h.leaveHead.invalidLaunch
    · exact .ite h.evaluate (.foldl h fun _ _ h => h.noteFault)
  · exact h

theorem memOk_execGeometryBatchTake {lid : ℕ} (h : s.MemOk) : Out.MemOk (execGeometryBatchTake lid s) := by
  unfold Machine.execGeometryBatchTake
  split
  · exact h
  · refine .ite ?_ h
    split
    · exact h
    · exact .toPending h

theorem State.MemOk.firmwareFault {x : Option ℕ} {addr v : ℕ} (h : s.MemOk) : (s.firmwareFault x addr v).MemOk := by
  unfold State.firmwareFault
  split
  · exact h.logError
  · exact h.event

theorem State.MemOk.settleArmed {core : ℕ} (h : s.MemOk) : (s.settleArmed core).MemOk := by
  unfold State.settleArmed
  split
  · exact h
  · split
    · exact h
    · exact .ite h.modCore h

theorem State.MemOk.placeGroups {core part lbytes : ℕ} {Gs : List Group} (h : s.MemOk) :
    MaybeMemOk ((s.placeGroups core part lbytes Gs).map Prod.fst) := by
  induction Gs generalizing s with
  | nil => exact h
  | cons G Gs ih =>
    unfold State.placeGroups
    split
    · trivial
    · next e =>
        rw [Option.map_map]
        exact ih (MaybeMemOk.of_fst h.placeGroup e)

theorem State.MemOk.admitTeam {gs : List Group} {core part tid : ℕ} {T : Team} (h : s.MemOk) :
    MaybeMemOk ((s.admitTeam core part tid T gs).map Prod.fst) := by
  unfold State.admitTeam
  split
  · trivial
  · exact State.MemOk.placeGroups (.foldl h fun _ _ h => h.scrClear)

theorem State.MemOk.admitGrid {core part lid ctx grid index : ℕ} {b : Block} {begun : Bool} {frag : Option ℕ}
    {f : Team → Team} (h : s.MemOk) : MaybeMemOk (s.admitGrid core part lid ctx grid index b begun frag f) := by
  unfold State.admitGrid
  extract_lets T gs
  have admitted := h.admitTeam (core := core) (part := part) (tid := s.nextTid) (T := { T with part := part }) (gs := gs)
  cases e : s.admitTeam core part s.nextTid { T with part := part } gs with
  | none => trivial
  | some r =>
    rw [e] at admitted
    exact State.MemOk.settleArmed admitted

theorem State.MemOk.clearBinds {p : BindRec → Bool} (h : s.MemOk) : (s.clearBinds p).MemOk :=
  h.keep (dies := tget_map_keeps Die.scratch)

theorem State.MemOk.dropLaunch {lid : ℕ} {L : Launch} (h : s.MemOk) : (s.dropLaunch lid L).MemOk := by
  unfold State.dropLaunch
  extract_lets s1 s2
  have h1 : s1.MemOk := h.clearBinds
  split
  · exact h1
  · exact h1

theorem State.MemOk.sweepCompleting (h : s.MemOk) : s.sweepCompleting.MemOk := h.foldl fun _ _ h => h.dropLaunch

theorem State.MemOk.unrun {L : Launch} {lid : ℕ} (h : s.MemOk) : (s.unrun lid L).MemOk := by
  unfold State.unrun
  extract_lets
  split
  · exact h
  · exact h

theorem State.MemOk.tryRun {lid : ℕ} (h : s.MemOk) : (s.tryRun lid).MemOk := by
  unfold State.tryRun
  split
  · exact h
  · exact .ite (.ite h.unrun.logError.addDone.sweepCompleting h) h

theorem State.MemOk.runLaunches (h : s.MemOk) : s.runLaunches.MemOk := h.foldl fun _ _ h => h.tryRun

theorem memOk_execBindRecordWrite {die slot : ℕ} {rec_ : BitVec 128} (h : s.MemOk) :
    Out.MemOk (execBindRecordWrite die slot rec_ s) := by
  unfold Machine.execBindRecordWrite
  split
  · exact h
  · extract_lets r old kept s1
    have written : s1.MemOk := h.modDie
    clear_value s1
    split
    · exact written.draw.firmwareFault
    · exact written.runLaunches

theorem State.MemOk.badRender {L : Launch} {lid rs : ℕ} (h : s.MemOk) : (s.badRender lid L rs).MemOk :=
  h.unrun.invalidLaunch.sweepCompleting

theorem memOk_execListStoreAlloc {bases : List ℕ} {lid : ℕ} (h : s.MemOk) :
    Out.MemOk (execListStoreAlloc lid bases s) := by
  unfold Machine.execListStoreAlloc
  refine show State.MemOk _ from ?_
  split
  · exact h
  · split
    · exact h
    · split
      · exact h.badRender
      · split
        · next e =>
            exact h.servedRead.of_eq e
        · next e =>
            exact (h.servedRead.of_eq e).clearFaults.badRender
        · next e =>
            have read := h.servedRead.of_eq e
            split
            · exact read.badRender
            · extract_lets rs ds w u
              have opened : u.MemOk := read
              exact opened.tryRun.ite h

theorem State.MemOk.readGenerator {x gen : ℕ} {f : FillRec} (h : s.MemOk) : (s.readGenerator x f gen).1.MemOk := by
  unfold State.readGenerator
  extract_lets
  split
  · exact h
  · split
    · next e =>
        exact h.servedRead.of_eq e
    · next e =>
        exact h.servedRead.of_eq e
    · next e =>
        extract_lets own
        clear_value own
        split
        · next e1 =>
            exact (h.servedRead.of_eq e).checkBlock.of_eq e1
        · next e1 =>
            exact (h.servedRead.of_eq e).checkBlock.of_eq e1
        · next e1 =>
            split
            · exact (h.servedRead.of_eq e).checkBlock.of_eq e1
            · exact (h.servedRead.of_eq e).checkBlock.of_eq e1

theorem State.MemOk.startFill {x core : ℕ} {f : FillRec} {r : RangeDesc} {b : Block} (h : s.MemOk) :
    MaybeMemOk (s.startFill x core f r b) := by
  unfold State.startFill
  split
  next e =>
    extract_lets g
    exact MaybeMemOk.map (h.freeGrid.of_eq e).admitGrid fun _ h => h.modCtx

theorem State.MemOk.admitNext {L : Launch} {core lid index : ℕ} {r : BindRec} (h : s.MemOk) :
    MaybeMemOk (s.admitNext core r lid L index) := h.admitGrid

theorem State.MemOk.chooseTake {core slot lid : ℕ} {L : Launch} {ts : List (ℕ × ℕ)} {u : State} (h : s.MemOk)
    (e : s.chooseTake core = some (slot, lid, L, ts, u)) : u.MemOk := by
  unfold State.chooseTake at e
  extract_lets at e
  split at e
  · cases e
  · split at e
    · cases e
    · split at e
      · cases e
      · obtain ⟨v, admitted, same⟩ := Option.map_eq_some_iff.1 e
        cases same
        exact MaybeMemOk.of_eq h.admitNext admitted

theorem memOk_execIndexTake {core : ℕ} (h : s.MemOk) : Out.MemOk (execIndexTake core s) := by
  unfold Machine.execIndexTake
  change State.MemOk _
  split
  · exact h
  · next e =>
      have taken := h.chooseTake e
      exact .modDie taken

theorem memOk_execPersistentGridStart {lid : ℕ} (h : s.MemOk) : Out.MemOk (execPersistentGridStart lid s) := by
  unfold Machine.execPersistentGridStart
  split
  · exact h
  · exact .ite (.foldl h fun _ _ h => h.settleArmed) h

theorem memOk_execLaunchCompletion {lid : ℕ} (h : s.MemOk) : Out.MemOk (execLaunchCompletion lid s) := by
  unfold Machine.execLaunchCompletion
  split
  · exact h
  · exact .ite (.sweepCompleting (.addDone h)) h

theorem memOk_execPartitionControlWrite {core : ℕ} {v : BitVec 32} (h : s.MemOk) :
    Out.MemOk (execPartitionControlWrite core v s) := by
  unfold Machine.execPartitionControlWrite
  extract_lets n
  clear_value n
  split
  · exact h.draw.firmwareFault
  · refine State.MemOk.modCore h fun _ => ?_
    simp only [Core.storages]

/-! ## Traps, pages and pre-emption -/

theorem memOk_execMigrationWithdraw {tid : ℕ} (h : s.MemOk) : Out.MemOk (execMigrationWithdraw tid s) := by
  unfold Machine.execMigrationWithdraw
  split
  · exact h
  · exact .ite h (.ite h.modTeam h.modTeam.modCore)

theorem State.MemOk.disposeEach {us : List (ℕ × ℕ × ℕ × Trap)} {core g : ℕ} (h : s.MemOk) :
    (s.disposeEach core g us).MemOk := h.foldl fun _ _ h => h.disposeAll

theorem memOk_execTrapDisposition {core g : ℕ} (h : s.MemOk) : Out.MemOk (execTrapDisposition core g s) := by
  unfold Machine.execTrapDisposition
  split
  · exact h
  · exact .ite h h.disposeEach.disposeEach

theorem State.MemOk.denyFault {tok : ℕ} {F : FaultRec} (h : s.MemOk) : (s.denyFault tok F).MemOk := by
  unfold State.denyFault
  split
  · extract_lets
    split
    · exact h
    · exact .foldl h fun _ _ h => h.modGroup.disposeAll
  · exact h

theorem State.MemOk.settleFault {tok : ℕ} {F : FaultRec} (h : s.MemOk) : (s.settleFault tok F).MemOk := by
  unfold State.settleFault
  split
  · exact .modGroup h
  · exact h

theorem State.MemOk.forwardFault {tok : ℕ} {F : FaultRec} (h : s.MemOk) : (s.forwardFault tok F).MemOk := .event h

theorem State.MemOk.serviceFault {tok : ℕ} {F : FaultRec} (h : s.MemOk) : (s.serviceFault tok F).MemOk :=
  .ite h (.ite h.denyFault (.ite h.settleFault (.ite h.forwardFault h.denyFault)))

theorem memOk_execPageService {token : ℕ} (h : s.MemOk) : Out.MemOk (execPageService token s) := by
  unfold Machine.execPageService
  split
  · exact .ite h.serviceFault h
  · exact h

theorem State.MemOk.doom {x : ℕ} (h : s.MemOk) : (s.doom x).MemOk := h.modCtx

theorem State.MemOk.putParts {ps : List (ℕ × ℕ × ℕ)} {off : ℕ} {bs : List Byte} (h : s.MemOk) :
    (s.putParts ps off bs).MemOk := h.foldl fun _ _ h => .ite h.wr h

theorem State.MemOk.endScratchInterests {tid : ℕ} (h : s.MemOk) : (s.endScratchInterests tid).MemOk :=
  h.foldl fun _ _ h => h.foldl fun _ _ h => .ite h.endInterest h

theorem memOk_execTeamSave {tid : ℕ} (h : s.MemOk) : Out.MemOk (execTeamSave tid s) := by
  unfold Machine.execTeamSave
  refine show State.MemOk _ from ?_
  split
  · exact h
  · extract_lets T
    split
    · exact h
    · extract_lets va
      split
      · next e =>
          exact h.served.of_eq e
      · next e =>
          exact (h.served.of_eq e).clearFaults.doom
      · next e =>
          extract_lets gs drained
          have hdrained : drained.MemOk := (h.served.of_eq e).clearFaults.foldl fun _ _ h => h.drainWc
          clear_value drained
          split
          next e2 =>
            have hdrawn := hdrained.draw.of_eq e2
            extract_lets w C saved v
            have hw : w.MemOk := hdrawn.foldl fun _ _ h => h.putParts
            clear_value w
            have hv : v.MemOk := hw.endScratchInterests.modCore
            clear_value v
            have gone : State.MemOk { v with teams := tdel v.teams tid } := hv
            exact gone.modCtx

theorem State.MemOk.reactivate {x : ℕ} (h : s.MemOk) : (s.reactivate x).MemOk := h.modCtx

theorem State.MemOk.placeSaved {S : SavedTeam} {core tid : ℕ} (h : s.MemOk) :
    MaybeMemOk ((s.placeSaved core tid S).map Prod.fst) := by
  unfold State.placeSaved
  split
  · trivial
  · exact h.admitTeam

theorem State.MemOk.refillTeam {S : SavedTeam} {news : List ℕ} {at_ : List (ℕ × ℕ × ℕ)} {bmax tid : ℕ} (h : s.MemOk) :
    (s.refillTeam at_ bmax tid S news).MemOk := by
  unfold State.refillTeam
  extract_lets T order s1 slices parts
  have grouped : s1.MemOk := h.foldl fun _ _ h => h.modGroup
  clear_value parts s1
  exact (grouped.foldl fun _ _ h => h.scrWrite).modTeam

theorem memOk_execTeamRestore {tid core : ℕ} (h : s.MemOk) : Out.MemOk (execTeamRestore tid core s) := by
  unfold Machine.execTeamRestore
  split
  · exact .ite h.reactivate h
  · split
    · exact h
    · refine .ite h ?_
      split
      · next e2 =>
          exact h.served.of_eq e2
      · next e2 =>
          exact (h.served.of_eq e2).clearFaults.doom
      · next e2 =>
          split
          · exact h
          · next e3 =>
              have placed := MaybeMemOk.of_fst (h.served.of_eq e2).clearFaults.placeSaved e3
              exact placed.refillTeam.modCore.modTeam.modCtx.reactivate

theorem State.MemOk.discardLaunches {x : ℕ} (h : s.MemOk) : (s.discardLaunches x).MemOk := by
  unfold State.discardLaunches
  extract_lets mine s1 s2 s3
  have h1 : s1.MemOk := h.foldl fun _ _ h => h.discardQueue
  have h2 : s2.MemOk := h1.foldl fun _ _ h => h.ite h.logError
  have h3 : s3.MemOk := h2
  exact h3.clearBinds

theorem State.MemOk.zeroStatus {x : ℕ} (h : s.MemOk) : (s.zeroStatus x).MemOk := by
  unfold State.zeroStatus
  refine .ite h ?_
  split
  · next e =>
      exact h.vaWrite.of_eq e
  · exact h.noteFault

theorem State.MemOk.dropCtxFaults {x : ℕ} (h : s.MemOk) : (s.dropCtxFaults x).MemOk := h

theorem State.MemOk.dropCtxOps {x : ℕ} (h : s.MemOk) : (s.dropCtxOps x).MemOk := by
  unfold State.dropCtxOps
  extract_lets s1
  have h1 : s1.MemOk := h.keep (cores := tget_map_keeps Core.storages) (dies := tget_map_keeps Die.scratch)
  exact h1.dropCtxFaults

theorem State.MemOk.dropFills {x : ℕ} (h : s.MemOk) : (s.dropFills x).MemOk := h.foldl fun _ _ h => h.endFill

theorem State.MemOk.resetCtx {x code : ℕ} (h : s.MemOk) : (s.resetCtx x code).MemOk := by
  unfold State.resetCtx
  extract_lets s1 s2 s3
  have h2 : s2.MemOk := h.discardLaunches.foldl fun _ _ h => h.killGroups
  have h3 : s3.MemOk := h2.dropFills.dropCtxOps.zeroStatus
  exact h3.modCtx

theorem State.MemOk.timeOut {x : ℕ} (h : s.MemOk) : (s.timeOut x).MemOk := h.resetCtx.event

theorem memOk_execPusherReschedule {core g : ℕ} (h : s.MemOk) : Out.MemOk (execPusherReschedule core g s) := by
  unfold Machine.execPusherReschedule
  split
  · exact h
  · exact .ite h.setGroup h

theorem State.MemOk.modQuad {q core : ℕ} {f : Islands → Islands} (h : s.MemOk) : (s.modQuad core q f).MemOk := h.modCore

theorem State.MemOk.endSleep {core g : ℕ} (h : s.MemOk) : (s.endSleep core g).MemOk := by
  unfold State.endSleep
  split
  · exact h
  · exact .ite h.modGroup.modQuad h.modGroup

/-! ## Engines -/

theorem State.MemOk.modOp {d id : ℕ} {f : EngineOp → EngineOp} (h : s.MemOk) : (s.modOp d id f).MemOk := h.modDie

theorem State.MemOk.markTaken {d : ℕ} {o : EngineOp} {f : EngineOp → EngineOp} (h : s.MemOk) :
    (s.markTaken d o f).MemOk := h.modDie.modOp

theorem State.MemOk.beginOp {d : ℕ} {o : EngineOp} (h : s.MemOk) : (s.beginOp d o).MemOk := by
  unfold State.beginOp
  refine .ite h.markTaken (.ite h.clearFaults.markTaken ?_)
  split
  · next e =>
      exact h.served64.of_eq e
  · next e =>
      exact (h.served64.of_eq e).clearFaults.markTaken
  · next e =>
      split
      · exact (h.served64.of_eq e).clearFaults.markTaken
      · split
        · next e2 =>
            exact (h.served64.of_eq e).served64.of_eq e2
        · next e2 =>
            exact ((h.served64.of_eq e).served64.of_eq e2).clearFaults.markTaken
        · next e2 =>
            refine .ite ((h.served64.of_eq e).served64.of_eq e2).clearFaults.markTaken ?_
            split
            · exact (h.served64.of_eq e).served64.of_eq e2
            · exact ((h.served64.of_eq e).served64.of_eq e2).clearFaults.putRing.markTaken

theorem memOk_execEngineTake {die op : ℕ} (h : s.MemOk) : Out.MemOk (execEngineTake die op s) := by
  unfold Machine.execEngineTake
  split
  · exact .ite h.beginOp h
  · exact h

theorem memOk_execEngineLineService {token : ℕ} (h : s.MemOk) : Out.MemOk (execEngineLineService token s) := by
  unfold Machine.execEngineLineService
  split
  · exact .ite h h.serviceFault
  · exact h

theorem State.MemOk.reachOp {ws : List (ℕ × Want)} {d : ℕ} {o : EngineOp} (h : s.MemOk) :
    (s.reachOp d o ws).1.MemOk := by
  unfold State.reachOp
  extract_lets
  split
  · next e =>
      exact h.served.of_eq e
  · next e =>
      exact h.served.of_eq e
  · next e =>
      exact h.served.of_eq e

theorem State.MemOk.endOp {more : Option OpFail} {d : ℕ} {o : EngineOp} (h : s.MemOk) : (s.endOp d o more).MemOk := by
  unfold State.endOp
  extract_lets fail s1 s2 s3 s4 s5
  have h2 : s2.MemOk := h.clearFaults.ite h.clearFaults.addContribution
  clear_value s2 fail
  have h3 : s3.MemOk := by
    unfold s3
    split
    · exact h2.freezeUnit.ite h2
    · exact h2
  clear_value s3
  have h4 : s4.MemOk := h3.ite h3
  clear_value s4
  exact h4.modDie.reapTeam

theorem State.MemOk.setTable {d k : ℕ} {o : EngineOp} {r : Except OpFail (List (BitVec 16))} (h : s.MemOk) :
    (s.setTable d k o r).MemOk := h.modDie

theorem State.MemOk.noteOp {S : Side} {fail : Option OpFail} {d : ℕ} {o : EngineOp} (h : s.MemOk) :
    (s.noteOp d o S fail).MemOk := by
  unfold State.noteOp
  split
  · exact .ite h.noteFault h
  · exact h

theorem memOk_execTableReady {die ctx stream : ℕ} (h : s.MemOk) : Out.MemOk (execTableReady die ctx stream s) := by
  unfold Machine.execTableReady
  extract_lets
  refine show State.MemOk _ from ?_
  split
  · exact h
  · split
    · extract_lets
      split
      · next e2 =>
          exact h.reachOp.of_eq e2
      · next e2 =>
          exact (h.reachOp.of_eq e2).setTable.endOp
      · next e2 =>
          split
          · exact (h.reachOp.of_eq e2).noteOp.setTable.endOp
          · exact (h.reachOp.of_eq e2).setTable.endOp
    · exact h

theorem State.MemOk.writeStatus {d k : ℕ} (h : s.MemOk) : (s.writeStatus d k).MemOk := by
  unfold State.writeStatus
  refine .ite h.modDie ?_
  split
  · next e =>
      exact h.modDie.vaWrite.of_eq e
  · exact h.modDie.noteFault

theorem State.MemOk.publishOp {d : ℕ} {o : EngineOp} (h : s.MemOk) : (s.publishOp d o).MemOk := by
  unfold State.publishOp
  extract_lets
  split
  · next e =>
      exact h.served64.of_eq e
  · next e =>
      exact (h.served64.of_eq e).clearFaults.modDie
  · next e =>
      split
      · exact (h.served64.of_eq e).clearFaults.modDie
      · refine .ite ?_ (h.served64.of_eq e)
        split
        · exact (h.served64.of_eq e).putRing.clearFaults.modDie
        · exact (h.served64.of_eq e).clearFaults.modDie

theorem State.MemOk.takeTable {d k overs : ℕ} (h : s.MemOk) : (s.takeTable d k overs).MemOk := h.modDie

theorem State.MemOk.putPlaces {l : List (Option Scr × ℕ × List Byte)} (h : s.MemOk) : (s.putPlaces l).MemOk := by
  unfold State.putPlaces
  refine h.foldl fun _ _ h => ?_
  split
  · exact h.wr
  · exact h.scrWrite

theorem State.MemOk.runBlock {D : Side} {cw d src B n k swz : ℕ} {o : EngineOp} {T : DecodeTable} (h : s.MemOk) :
    (s.runBlock d o T src D cw B n k swz).MemOk := by
  unfold State.runBlock
  extract_lets last ends S E
  have hends : ∀ t f overs tail, t.MemOk → (ends t f overs tail).MemOk := fun _ _ _ _ h =>
    h.clearFaults.takeTable.writeStatus.modDie.endOp.ite h.clearFaults.takeTable.writeStatus.modDie
  clear_value ends
  split
  · exact hends _ _ _ _ h
  · split
    · next e =>
        exact h.reachOp.of_eq e
    · next e =>
        exact hends _ _ _ _ (h.reachOp.of_eq e).putPlaces
    · next e =>
        split
        · exact hends _ _ _ _ (h.reachOp.of_eq e).noteOp.putPlaces
        · exact hends _ _ _ _ (h.reachOp.of_eq e).putPlaces

theorem State.MemOk.runCpy {i d lvl w : ℕ} {toScr : Bool} {ts : List Transfer} {o : EngineOp} (h : s.MemOk) :
    (s.runCpy d o i toScr lvl w ts).MemOk := by
  unfold State.runCpy
  extract_lets lns ln x after ended mine first move
  have hended : ∀ u f, u.MemOk → (ended u f).MemOk := fun _ _ h => h.endOp.ite h.modOp
  have hmove : ∀ a e, a.1.MemOk → (move a e).1.MemOk := by
    intro a e h
    unfold move
    extract_lets t
    split
    · split
      · exact h.noteLine
      · exact h.foldl fun _ _ h => h.ite h.scrWrite
    · split
      · exact h
      · exact h.wr
  clear_value ended move
  split
  · exact hended _ _ (memOk_foldl_fst h hmove)
  · exact hended _ _ h.noteLine
  · split
    · exact hended _ _ h
    · exact h.openUnit

theorem State.MemOk.sideWrite {ps : Parts} {D : Side} {core off : ℕ} {bs : List Byte} (h : s.MemOk) :
    (s.sideWrite core ps D off bs).MemOk := h.putPlaces

theorem State.MemOk.moveChunks {core : ℕ} {ps : Parts} {S D : Side} {cs : List Chunk} (h : s.MemOk) :
    (State.moveChunks core ps S D s cs).1.MemOk := by
  induction cs generalizing s with
  | nil => exact h
  | cons c cs ih =>
    unfold State.moveChunks
    split
    · exact h
    · exact ih h.sideWrite

theorem State.MemOk.runCopy {S D : Side} {d n : ℕ} {o : EngineOp} (h : s.MemOk) : (s.runCopy d o S D n).MemOk := by
  unfold State.runCopy
  extract_lets
  split
  · next e =>
      extract_lets
      split
      · exact (h.reachOp.of_eq e).moveChunks.noteOp.endOp
      · exact (h.reachOp.of_eq e).moveChunks.modOp
  · next e =>
      exact (h.reachOp.of_eq e).moveChunks.noteOp.endOp
  · next e =>
      exact (h.reachOp.of_eq e).moveChunks.noteOp.endOp

theorem State.MemOk.runTmov {S D : Side} {rb ss ds d rows : ℕ} {o : EngineOp} (h : s.MemOk) :
    (s.runTmov d o S D rows rb ss ds).MemOk := h.moveChunks.endOp

theorem State.MemOk.runAnnounce {S : Side} {d n reach name : ℕ} {o : EngineOp} (h : s.MemOk) :
    (s.runAnnounce d o S n reach name).MemOk := by
  unfold State.runAnnounce
  split
  · next e =>
      exact h.reachOp.of_eq e
  · next e =>
      exact (h.reachOp.of_eq e).endOp
  · next e =>
      split
      · exact (h.reachOp.of_eq e).noteOp.endOp
      · extract_lets u f
        have ended : u.MemOk := (h.reachOp.of_eq e).clearFaults.modDie
        have sent : State.MemOk { u with nextOp := u.nextOp + 1, flights := u.flights ++ [f] } := ended
        exact sent.reapTeam

theorem State.MemOk.runOp {d : ℕ} {o : EngineOp} (h : s.MemOk) : (s.runOp d o).MemOk := by
  unfold State.runOp
  split
  · split
    · exact h.runBlock
    · exact h
  · exact h
  · split
    · exact h.runCpy
    · exact h
  · refine .ite h.endOp ?_
    split
    · exact h.runCopy
    · exact h.runTmov
    · exact h.runAnnounce
    · exact h

theorem memOk_execOperationCompletion {die op : ℕ} (h : s.MemOk) : Out.MemOk (execOperationCompletion die op s) := by
  unfold Machine.execOperationCompletion
  split
  · exact .ite h (.ite h.publishOp h.runOp)
  · exact h

theorem memOk_execByteContribution {n : ℕ} (h : s.MemOk) : Out.MemOk (execByteContribution n s) := by
  unfold Machine.execByteContribution
  split
  · exact .ite h h.makeStep.sweepCompleting
  · exact h

/-! ## The matrix unit -/

theorem MRun.memOk_part {f : State → Except ℕ (State × ℕ)} {r : MRun} (h : r.s.MemOk)
    (keeps : ∀ u, u.MemOk → ExceptMemOk ((f u).map Prod.fst)) : (r.part f).s.MemOk := by
  unfold MRun.part
  split
  · split
    · next e =>
        exact ExceptMemOk.of_fst (keeps _ h) e
    · exact h
  · exact h

theorem memOk_runParts {ps : List (State → Except ℕ (State × ℕ))} (h : s.MemOk)
    (keeps : ∀ f ∈ ps, ∀ u : State, u.MemOk → ExceptMemOk ((f u).map Prod.fst)) : (runParts s ps).s.MemOk := by
  have each : ∀ r : MRun, r.s.MemOk → (ps.foldl (fun r p => r.part p) r).s.MemOk := by
    induction ps with
    | nil => exact fun _ h => h
    | cons f ps ih =>
      refine fun r hr => ih (fun g mem => keeps g (List.mem_cons_of_mem _ mem)) _ ?_
      exact MRun.memOk_part hr (keeps f List.mem_cons_self)
  exact each _ h

theorem memOk_mbldPair {T : Team} {daz : Bool} {ws : List Word} {q : ℕ} (h : s.MemOk) :
    ExceptMemOk ((mbldPair T daz ws q s).map Prod.fst) := exceptMemOk_map fun _ => h.scrWrite.scrWrite

theorem State.MemOk.unitWrite {T : Team} {off : ℕ} {bs : List Byte} (h : s.MemOk) : (s.unitWrite T off bs).MemOk :=
  h.scrWrite

theorem memOk_mbldExp {T : Team} {daz : Bool} {ws : List Word} {b c : ℕ} (h : s.MemOk) :
    ExceptMemOk ((mbldExp T daz ws b c s).map Prod.fst) := by
  unfold Machine.mbldExp
  split
  · exact exceptMemOk_map fun _ => h.unitWrite
  · trivial

theorem memOk_mbldKbf {T : Team} {ws : List Word} {q : ℕ} (h : s.MemOk) :
    ExceptMemOk ((mbldKbf T ws q s).map Prod.fst) := exceptMemOk_map fun _ => h.scrWrite

theorem memOk_runMbld {T : Team} {m : MatrixOp} (h : s.MemOk) : (runMbld s T m).s.MemOk := by
  unfold Machine.runMbld
  extract_lets
  split
  · refine memOk_runParts h fun f mem u hu => ?_
    rcases List.mem_append.1 mem with pair | exp
    · obtain ⟨q, -, rfl⟩ := List.mem_map.1 pair
      exact memOk_mbldPair hu
    · obtain ⟨b, -, exps⟩ := List.mem_flatMap.1 exp
      obtain ⟨c, -, rfl⟩ := List.mem_map.1 exps
      exact memOk_mbldExp hu
  · refine memOk_runParts h fun f mem u hu => ?_
    obtain ⟨q, -, rfl⟩ := List.mem_map.1 mem
    exact memOk_mbldKbf hu

theorem memOk_mmulPart {T : Team} {daz : Bool} {ws : List Word} {cols : List (List ℤ)} {i : ℕ} (h : s.MemOk) :
    ExceptMemOk ((mmulPart T daz ws cols i s).map Prod.fst) := exceptMemOk_map fun _ => by
  refine State.MemOk.scrWrite ?_
  split
  · exact h.unitWrite
  · exact h

theorem memOk_runMmul {T : Team} {m : MatrixOp} (h : s.MemOk) : (runMmul s T m).s.MemOk := by
  unfold Machine.runMmul
  extract_lets
  split
  · exact h
  · refine memOk_runParts h fun f mem u hu => ?_
    obtain ⟨i, -, rfl⟩ := List.mem_map.1 mem
    exact memOk_mmulPart hu

theorem memOk_mhadPart {T : Team} {m : MatrixOp} {r j : ℕ} (h : s.MemOk) :
    ExceptMemOk ((mhadPart T m r j s).map Prod.fst) := by
  unfold Machine.mhadPart
  extract_lets
  split
  · exact exceptMemOk_map fun _ => h.unitWrite
  · trivial

theorem memOk_runMhad {T : Team} {m : MatrixOp} (h : s.MemOk) : (runMhad s T m).s.MemOk := by
  refine memOk_runParts h fun f mem u hu => ?_
  obtain ⟨e, -, rfl⟩ := List.mem_map.1 mem
  exact memOk_mhadPart hu

theorem memOk_mscaPart {m : MatrixOp} {i c : ℕ} {T : Team} {r : MRun} (h : r.s.MemOk) :
    (mscaPart T m i c r).s.MemOk := by
  unfold Machine.mscaPart
  extract_lets
  split
  · split
    · exact h
    · exact h.unitWrite
  · exact h
  · exact h

theorem memOk_runMsca {T : Team} {m : MatrixOp} (h : s.MemOk) : (runMsca s T m).s.MemOk := by
  have each : ∀ (es : List (ℕ × ℕ)) (r : MRun), r.s.MemOk →
      (es.foldl (fun r e => mscaPart T m e.1 e.2 r) r).s.MemOk := by
    intro es
    induction es with
    | nil => exact fun _ h => h
    | cons e es ih => exact fun r hr => ih _ (memOk_mscaPart hr)
  exact each _ _ h

theorem memOk_mqntPart {T : Team} {m : MatrixOp} {i b : ℕ} (h : s.MemOk) :
    ExceptMemOk ((mqntPart T m i b s).map Prod.fst) := by
  unfold Machine.mqntPart
  extract_lets
  split
  · exact exceptMemOk_map fun _ => h.unitWrite.unitWrite
  · trivial

theorem memOk_runMqnt {T : Team} {m : MatrixOp} (h : s.MemOk) : (runMqnt s T m).s.MemOk := by
  refine memOk_runParts h fun f mem u hu => ?_
  obtain ⟨e, -, rfl⟩ := List.mem_map.1 mem
  exact memOk_mqntPart hu

theorem memOk_runMatrix {m : MatrixOp} {T : Team} (h : s.MemOk) : (runMatrix s T m).s.MemOk := by
  unfold Machine.runMatrix
  split
  · exact memOk_runMbld h
  · exact memOk_runMmul h
  · exact memOk_runMhad h
  · exact memOk_runMsca h
  · exact memOk_runMqnt h

theorem State.MemOk.endMatrix {m : MatrixOp} {core : ℕ} {r : MRun} (h : s.MemOk) :
    (s.endMatrix core m r).MemOk := .reapTeam (.ite h.modGroup (.ite h.modGroup h.modGroup.addContribution))

theorem State.MemOk.recompute {m : MatrixOp} {core : ℕ} {T : Team} {els : List (Num × ℕ)} (h : s.MemOk) :
    (s.recompute core T m els).MemOk := by
  unfold State.recompute
  refine .ite ?_ h
  split
  · exact h
  · split
    · next e1 =>
        exact (h.ringPut.of_eq e1).logError
    · next e1 =>
        exact h.ringPut.of_eq e1

theorem memOk_execMatrixOpComplete {core : ℕ} (h : s.MemOk) : Out.MemOk (execMatrixOpComplete core s) := by
  unfold Machine.execMatrixOpComplete
  split
  · exact h
  · next m rest e =>
      split
      · exact h
      · have ran : (runMatrix s (s.team m.tid) m).s.MemOk := memOk_runMatrix h
        exact .takeMatrix (State.MemOk.endMatrix (.ite (.recompute (.modCore ran)) (.modCore ran)))

/-! ## Tiles that end -/

theorem State.MemOk.modTile {tile lid : ℕ} {f : TileRec → TileRec} (h : s.MemOk) : (s.modTile lid tile f).MemOk := h

theorem State.MemOk.endTask {task : TileTask} {tid : ℕ} {T : Team} {f : TileRec → TileRec} (h : s.MemOk) :
    (s.endTask tid T task f).MemOk := h.clearFaults.modTile.modTeam.sweepFrags.reapTeam

theorem State.MemOk.noExport {task : TileTask} {ob tid size code : ℕ} {T : Team} {o : Origin} (h : s.MemOk) :
    (s.noExport tid T task o ob size code).MemOk := .endTask (.ite h h.addContribution)

theorem State.MemOk.endExport {task : TileTask} {ob tid size : ℕ} {T : Team} {o : Origin} {fail : Option OpFail}
    (h : s.MemOk) : (s.endExport tid T task o ob size fail).MemOk := by
  unfold State.endExport
  extract_lets s1 s2
  have h1 : s1.MemOk := h.ite h.addContribution
  clear_value s1
  have h2 : s2.MemOk := by
    unfold s2
    split
    · exact h1.freezeUnit.ite h1
    · exact h1
  exact h2.endTask

theorem State.MemOk.wrReach {ps : List (ℕ × ℕ)} {bs : List Byte} (h : s.MemOk) : (s.wrReach ps bs).MemOk := by
  induction ps generalizing s bs with
  | nil => exact h
  | cons p ps ih => exact ih h.wr

end Sys2Proof.Machine
end

section
/-!
SUPPORT. Canonical storages (O58): steps of rendering, names, generators, observation and sessions.
-/

namespace Sys2Proof.Machine

-- The lemmas are elaborated one after another: side by side they need more threads than the memory limit leaves room for.
set_option Elab.async false

variable {s t : State}

/-! ## Exports and the raster sequencer -/

theorem State.MemOk.export_ {task : TileTask} {ob tid : ℕ} {P : Pass} {T : Team} {o : Origin} {p : Plane}
    (h : s.MemOk) : (s.export_ tid T task o ob P p).MemOk := by
  unfold State.export_
  extract_lets
  split
  · exact h.endExport
  · split
    · next e =>
        exact h.served.of_eq e
    · next e =>
        exact (h.served.of_eq e).wrReach.endExport
    · next e =>
        exact (h.served.of_eq e).wrReach.endExport

theorem memOk_execTileExport {tid : ℕ} (h : s.MemOk) : Out.MemOk (execTileExport tid s) := by
  unfold Machine.execTileExport
  refine show State.MemOk _ from ?_
  split
  · exact h
  · extract_lets size bad u
    clear_value bad
    have logged : u.MemOk := by
      unfold u
      split
      · exact h.logError
      · exact h
    clear_value u
    split
    · exact logged.noExport
    · exact logged.noExport
    · exact logged.export_
    · exact logged.noExport

theorem State.MemOk.spill {task : TileTask} {P : Pass} {tid : ℕ} {T : Team} {o : Origin} (h : s.MemOk) :
    (s.spill tid T task o P).MemOk := by
  unfold State.spill
  refine .ite (.ite h.endTask.freezeUnit h.endTask) ?_
  split
  · next e =>
      exact h.served.of_eq e
  · next e =>
      exact .ite (h.served.of_eq e).endTask.freezeUnit (h.served.of_eq e).endTask
  · next e =>
      exact (h.served.of_eq e).wrReach.endTask

theorem memOk_execTileSpill {tid : ℕ} (h : s.MemOk) : Out.MemOk (execTileSpill tid s) := by
  unfold Machine.execTileSpill
  split
  · exact h
  · exact h.spill

theorem State.MemOk.endRemote {n : ℕ} {r : Remote} (h : s.MemOk) : (s.endRemote n r).MemOk := by
  unfold State.endRemote
  extract_lets src t u
  have noted : t.MemOk := h.foldl fun _ _ h => h.noteLine
  clear_value t
  have gone : u.MemOk := noted
  clear_value u
  split
  · exact noted
  · split
    · exact gone.ringDrop
    · exact gone
  · exact noted

theorem memOk_execRemoteTimeout {n : ℕ} (h : s.MemOk) : Out.MemOk (execRemoteTimeout n s) := by
  unfold Machine.execRemoteTimeout
  split
  · exact .ite h h.endRemote
  · exact h

theorem State.MemOk.reapLaunch {lid : ℕ} (h : s.MemOk) : (s.reapLaunch lid).MemOk := h.foldl fun _ _ h => h.reapTeam

theorem memOk_execBinnerAppend {die lid : ℕ} (h : s.MemOk) : Out.MemOk (execBinnerAppend die lid s) := by
  unfold Machine.execBinnerAppend
  split
  · exact h
  · split
    · exact h
    · extract_lets
      split
      · exact .reapLaunch (.modDie h)
      · exact .modDie h

theorem State.MemOk.failPass {lid : ℕ} (h : s.MemOk) : (s.failPass lid).MemOk := h

theorem memOk_execLinkFailed {lid src dst : ℕ} (h : s.MemOk) : Out.MemOk (execLinkFailed lid src dst s) := by
  unfold Machine.execLinkFailed
  split
  · exact .ite h.failPass.logError h
  · exact h

theorem State.MemOk.loadPlanes {tile lid x die : ℕ} {P : Pass} (h : s.MemOk) :
    (s.loadPlanes lid x tile die P).1.MemOk := by
  unfold State.loadPlanes
  extract_lets
  split
  · exact h
  · split
    · next e =>
        exact h.servedRead.of_eq e
    · next e =>
        exact (h.servedRead.of_eq e).clearFaults
    · next e =>
        exact .ite (h.servedRead.of_eq e).clearFaults.modTile.freezeUnit (h.servedRead.of_eq e).clearFaults.modTile

theorem State.MemOk.setPlanes {T : Team} {ps : List Plane} {bs : List Byte} (h : s.MemOk) :
    (s.setPlanes T ps bs).MemOk := by
  induction ps generalizing s bs with
  | nil => exact h
  | cons p ps ih => exact ih h.scrWrite

theorem State.MemOk.admitTask {lid tile core : ℕ} (h : s.MemOk) : MaybeMemOk (s.admitTask lid tile core) := by
  unfold State.admitTask
  split
  · trivial
  · extract_lets
    split
    · trivial
    · split
      · next e =>
          exact h.loadPlanes.of_eq e
      · next e =>
          exact MaybeMemOk.map (State.MemOk.admitGrid (h.loadPlanes.of_eq e)) fun _ h => h.setPlanes

theorem memOk_execTileTaskAdmit {lid tile core : ℕ} (h : s.MemOk) : Out.MemOk (execTileTaskAdmit lid tile core s) :=
  h.admitTask.getD h

theorem State.MemOk.rasterImage {task : TileTask} {T : Team} (h : s.MemOk) : (s.rasterImage T task).MemOk := h.modCore

theorem State.MemOk.putDepth {pix : ℕ} {T : Team} {p : Plane} {z : Word} (h : s.MemOk) : (s.putDepth T p pix z).MemOk :=
  .ite h.scrWrite h

theorem State.MemOk.resolve {task : TileTask} {P : Pass} {tid : ℕ} {T : Team} {p : Plane} (h : s.MemOk) :
    (s.resolve tid T task P p).MemOk := by
  unfold State.resolve
  extract_lets es r
  have resolved : r.1.MemOk := by
    refine memOk_foldl_fst h fun _ _ h => ?_
    split
    · exact h
    · refine memOk_foldl_fst h fun _ _ h => ?_
      extract_lets
      split
      · exact h.putDepth
      · exact h
  exact resolved.modTeam

theorem State.MemOk.quadDepths {task : TileTask} {P : Pass} {px : List (ℕ × Bool × Sample)} {T : Team} (h : s.MemOk) :
    (s.quadDepths T task P px).MemOk := by
  unfold State.quadDepths
  split
  · exact h
  · exact h.foldl fun _ _ h => .ite h.putDepth h
  · exact .ite h (h.foldl fun _ _ h => .ite h.putDepth h)

theorem State.MemOk.createQuad {l0 q tid g pc : ℕ} {task : TileTask} {P : Pass} {T : Team} {r : PrimRec}
    (h : s.MemOk) : (s.createQuad tid g l0 q T task P r pc).MemOk := h.quadDepths.modGroup.modTeam

theorem State.MemOk.rasterStep {tid : ℕ} (h : s.MemOk) : MaybeMemOk (s.rasterStep tid) := by
  unfold State.rasterStep
  split
  · trivial
  · extract_lets u skip
    have skipped : skip.MemOk := h.rasterImage.modTeam
    clear_value skip
    split
    · exact h.rasterImage.resolve
    · split
      · exact skipped
      · split
        · exact skipped
        · split
          · exact h.rasterImage.createQuad
          · trivial

theorem memOk_execFragmentCreate {tid : ℕ} (h : s.MemOk) : Out.MemOk (execFragmentCreate tid s) := h.rasterStep.getD h

theorem State.MemOk.atSequencer {kind core g : ℕ} {u : State} (h : s.MemOk) (e : s.atSequencer kind core g = some u) :
    u.MemOk := by
  unfold State.atSequencer at e
  split at e
  · cases e
  · obtain ⟨b, -, found⟩ := List.exists_of_findSome?_eq_some e
    split at found
    · cases found
    · split at found
      · cases found
      · split at found
        · split at found
          · split at found
            · cases found
              exact h
            · cases found
          · cases found
        · cases found

theorem State.MemOk.hangTrap {kind core g : ℕ} (h : s.MemOk) : (s.hangTrap kind core g).MemOk := by
  unfold State.hangTrap
  split
  · exact h
  · split
    · exact h
    · split
      · exact h
      · next e =>
          obtain ⟨v, at_, issued⟩ := Option.bind_eq_some_iff.1 e
          obtain ⟨I, -, same⟩ := Option.map_eq_some_iff.1 issued
          cases same
          have hv := h.atSequencer at_
          exact (State.MemOk.ite (hv.foldl fun _ _ h => h.modGroup) hv).account.finish.logError

theorem memOk_execSeqHang {kind core g : ℕ} (h : s.MemOk) : Out.MemOk (execSeqHang kind core g s) := by
  unfold Machine.execSeqHang
  refine .ite h.hangTrap ?_
  split
  · exact h
  · refine .ite h ?_
    split
    · exact h
    · exact h.failPass.logError

/-! ## Images and Onyx code -/

theorem memOk_execCswInstall {core g : ℕ} (h : s.MemOk) : Out.MemOk (execCswInstall core g s) := by
  unfold Machine.execCswInstall
  split
  · exact h
  · next q _ =>
      split
      · exact h
      · have read : (if q.dflt then (s, .ok []) else s.farRead (.csw core g) (srcHdie 0) q.ctx q.va q.len).1.MemOk := by
          split
          · exact h
          · exact h.farRead
        split
        · next e =>
            exact read.of_eq e
        · next e =>
            have hs := read.of_eq e
            extract_lets s1
            have h1 : s1.MemOk := hs
            clear_value s1
            split
            extract_lets s2
            have h2 : s2.MemOk := h1.ite h1.modCtx
            exact h2.modGroup

theorem State.MemOk.installOnyx {x pa va : ℕ} {mode : Word} (h : s.MemOk) : (s.installOnyx x pa va mode).MemOk := by
  unfold State.installOnyx
  refine .modCtx ?_
  split
  · next e =>
      exact h.vaWrite.of_eq e
  · exact h.noteFault

theorem memOk_execOnyxTranslate {ctx pa : ℕ} {mode : BitVec 32} (h : s.MemOk) :
    Out.MemOk (execOnyxTranslate ctx pa mode s) := by
  unfold Machine.execOnyxTranslate
  extract_lets ws
  refine show State.MemOk _ from ?_
  clear_value ws
  split
  · exact h
  · extract_lets va s1
    have installed : s1.MemOk := h.installOnyx.ite h
    exact installed.foldl fun _ _ h => h.modGroup

/-! ## Names -/

theorem State.MemOk.markSent {e d : ℕ} (h : s.MemOk) : (s.markSent d e).MemOk := h.modDie

theorem State.MemOk.addFlight {f : Flight} (h : s.MemOk) : (s.addFlight f).MemOk := h

theorem State.MemOk.sendDown {x name reach d : ℕ} {bs : List Byte} (h : s.MemOk) :
    (s.sendDown x name reach d bs).MemOk := h.addFlight

theorem State.MemOk.sendRequest {e d : ℕ} {i : Interest} (h : s.MemOk) : (s.sendRequest d e i).MemOk := by
  unfold State.sendRequest
  extract_lets
  split
  · exact h.markSent.touchCopy.sendDown
  · exact .ite h.markSent.modHdie h.markSent.modHdie

theorem memOk_execInterestForward {e die : ℕ} (h : s.MemOk) : Out.MemOk (execInterestForward die e s) := by
  unfold Machine.execInterestForward
  split
  · exact h.sendRequest
  · exact h

theorem State.MemOk.endAnnounce {f : Flight} {flag : ℕ} (h : s.MemOk) : (s.endAnnounce f flag).MemOk :=
  .ite h h.addContribution

theorem State.MemOk.storeCopy {router : ℕ} {f : Flight} (h : s.MemOk) : (s.storeCopy router f).MemOk :=
  .ite h.setCopies h.setCopies

theorem State.MemOk.giveRequests {f : Flight} (h : s.MemOk) : (s.giveRequests f).MemOk :=
  h.modHdie.foldl fun _ _ h => h.sendDown

theorem State.MemOk.giveTile {f : Flight} (h : s.MemOk) : (s.giveTile f).MemOk := h.foldl fun _ _ h => h.meetTile

theorem State.MemOk.visit {f : Flight} (h : s.MemOk) : (s.visit f).MemOk :=
  .ite h.endAnnounce (.ite h.endAnnounce (.ite h.storeCopy.giveRequests.endAnnounce
    (.ite h.storeCopy.giveTile.endAnnounce h.storeCopy.giveTile.addFlight)))

theorem memOk_execTileArrival {n : ℕ} (h : s.MemOk) : Out.MemOk (execTileArrival n s) := by
  unfold Machine.execTileArrival
  split
  · exact h
  · exact .ite h (.ite (.visit h) (.ite h (.giveTile h)))

theorem memOk_execInterestWriteDone {e die : ℕ} (h : s.MemOk) : Out.MemOk (execInterestWriteDone die e s) := by
  unfold Machine.execInterestWriteDone
  refine show State.MemOk _ from ?_
  split
  · exact h
  · split
    · exact h.endInterest
    · extract_lets
      split
      · next e =>
          exact h.served.of_eq e
      · next e =>
          extract_lets u
          have ended : u.MemOk := (h.served.of_eq e).clearFaults.endInterest
          exact ended.freezeUnit.ite ended
      · next e =>
          exact ((h.served.of_eq e).clearFaults.foldl fun _ _ h => h.sideWrite).endInterest

theorem memOk_execInterestLifetimeEnd {e die : ℕ} (h : s.MemOk) : Out.MemOk (execInterestLifetimeEnd die e s) := by
  unfold Machine.execInterestLifetimeEnd
  split
  · exact .ite h.endInterest h
  · exact h

theorem State.MemOk.setMark {name i x router : ℕ} (h : s.MemOk) : (s.setMark x router name i).MemOk := .ite h h.wr.wr

theorem State.MemOk.applyRetire {r : Retire} (h : s.MemOk) : (s.applyRetire r).MemOk :=
  .ite h.setMark.setCopies (h.setMark.setCopies.foldl fun _ _ h => .ite h.endInterest h)

theorem memOk_execRetirementApply {n : ℕ} (h : s.MemOk) : Out.MemOk (execRetirementApply n s) := by
  unfold Machine.execRetirementApply
  split
  · exact .applyRetire h
  · exact h

/-! ## Generators and evictions -/

theorem State.MemOk.badGenerator {x gen off fcode : ℕ} {f : FillRec} (h : s.MemOk) :
    (s.badGenerator x f gen off fcode).MemOk := h.logError.poisonBlock

theorem memOk_execGeneratorStart {ctx va core : ℕ} (h : s.MemOk) : Out.MemOk (execGeneratorStart ctx va core s) := by
  unfold Machine.execGeneratorStart
  change State.MemOk _
  split
  · exact h
  · split
    · exact h.badGenerator
    · split
      · next e =>
          exact h.readGenerator.of_eq e
      · next e =>
          exact (h.readGenerator.of_eq e).clearFaults.badGenerator
      · next e =>
          exact h.ite (MaybeMemOk.getD (h.readGenerator.of_eq e).clearFaults.startFill h)

theorem State.MemOk.purgeTlbs {x : ℕ} {range : Option (ℕ × ℕ)} (h : s.MemOk) : (s.purgeTlbs x range).MemOk := by
  unfold State.purgeTlbs
  extract_lets hit s1
  have h1 : s1.MemOk := h.foldl fun _ _ h => h.modCore.foldl fun _ _ h => h.dropTlb1
  exact h1.foldl fun _ _ h => h.modDie.foldl fun _ _ h => h.sendHeat

theorem State.MemOk.killOnyx {x : ℕ} {range : Option (ℕ × ℕ)} (h : s.MemOk) : (s.killOnyx x range).MemOk := h.modCtx

theorem State.MemOk.startInval {x : ℕ} {range : Option (ℕ × ℕ)} {cmd : Option (ℕ × ℕ × ℕ)} {evict : Option (ℕ × ℕ)}
    (h : s.MemOk) : (s.startInval x range cmd evict).MemOk := .purgeTlbs (.killOnyx h)

theorem State.MemOk.startEvict {x block range size : ℕ} {cmd : Option (ℕ × ℕ × ℕ)} (h : s.MemOk) :
    (s.startEvict x block range size cmd).MemOk := h.modCtx.startInval

theorem State.MemOk.cmdDone {x op status seq : ℕ} (h : s.MemOk) : (s.cmdDone x op status seq).MemOk := h.event

theorem State.MemOk.startAsked {e : ℕ × ℕ × ℕ × ℕ} {x : ℕ} (h : s.MemOk) : (s.startAsked x e).MemOk :=
  .ite h.modCtx.startEvict h.modCtx.cmdDone

theorem memOk_execProcEviction {ctx range : ℕ} (h : s.MemOk) : Out.MemOk (execProcEviction ctx range s) := by
  unfold Machine.execProcEviction
  refine .ite h ?_
  split
  · exact h.startAsked
  · split
    · exact h
    · extract_lets
      split
      · exact h.modCtx
      · refine .ite ?_ h.modCtx
        split
        · exact h.modCtx.startEvict
        · exact h.modCtx

theorem State.MemOk.drainCtx {x : ℕ} (h : s.MemOk) : (s.drainCtx x).MemOk := h.foldl fun _ _ h => .ite h.drainWc h

theorem State.MemOk.endEvict {x block range : ℕ} (h : s.MemOk) : (s.endEvict x block range).MemOk := by
  unfold State.endEvict
  extract_lets counted s1 va s2
  have h1 : s1.MemOk := h.endFill.modCtx
  clear_value s1
  have h2 : s2.MemOk := by
    unfold s2
    split
    · exact h1
    · split
      · exact h1.wr
      · exact h1.noteTable
  exact h2.wakeFill

theorem memOk_execInvalidationComplete {n : ℕ} (h : s.MemOk) : Out.MemOk (execInvalidationComplete n s) := by
  unfold Machine.execInvalidationComplete
  refine show State.MemOk _ from ?_
  split
  · exact h
  · split
    · exact h
    · extract_lets t s1 s2
      have h1 : s1.MemOk := h.drainCtx
      clear_value s1
      have h2 : s2.MemOk := by
        unfold s2
        split
        · exact h1.endEvict
        · exact h1
      clear_value s2
      split
      · exact h2.cmdDone
      · exact h2

/-! ## Observation and power -/

theorem State.MemOk.flushTraces {x d : ℕ} (h : s.MemOk) : (s.flushTraces x d).MemOk := .foldl h fun _ _ h => h.putTrace

theorem memOk_execLatencyAccount {n : ℕ} (h : s.MemOk) : Out.MemOk (execLatencyAccount n s) := by
  unfold Machine.execLatencyAccount
  split
  · exact h
  · exact .flushTraces (.putTrace h)

theorem State.MemOk.takeSample {core g : ℕ} {G : Group} (h : s.MemOk) : (s.takeSample core g G).MemOk :=
  h.draw.ringPut.modCore

theorem memOk_execSampleExpiry {core : ℕ} (h : s.MemOk) : Out.MemOk (execSampleExpiry core s) := by
  unfold Machine.execSampleExpiry
  refine .ite h ?_
  split
  · exact h.modCore.takeSample
  · exact h.modCore

theorem State.MemOk.ignoreWrite {v : ℕ} (h : s.MemOk) : (s.ignoreWrite v).MemOk := h.draw.firmwareFault

theorem State.MemOk.writePattern {cl : ℕ} {v : Word} (h : s.MemOk) : (s.writePattern cl v).MemOk := h.modCluster

theorem memOk_execRampAdmit {die : ℕ} (h : s.MemOk) : Out.MemOk (execRampAdmit die s) := by
  unfold Machine.execRampAdmit
  split
  · exact h
  · exact h.modQuad.modDie

/-! ## Sessions -/

theorem State.MemOk.modHost {f : HostState → HostState} (h : s.MemOk) : (s.modHost f).MemOk := h

theorem State.MemOk.enumerate (h : s.MemOk) : s.enumerate.MemOk := h

theorem State.MemOk.afterReset : s.afterReset.MemOk := State.memOk_reset

theorem State.MemOk.discardFrame (h : s.MemOk) : s.discardFrame.MemOk := h.modHost

theorem State.MemOk.linkEvent {port ns st : ℕ} (h : s.MemOk) : (s.linkEvent port st ns).MemOk := h.event

theorem State.MemOk.setFabric {port : ℕ} {up : Bool} (h : s.MemOk) : (s.setFabric port up).MemOk := h.modHost

theorem State.MemOk.arrive {k : State → State} (h : s.MemOk) (keeps : ∀ v, v.MemOk → (k v).MemOk) :
    (s.arrive k).MemOk := .ite (keeps _ h) (.ite h.discardFrame h)

theorem State.MemOk.sendReply {k : ℕ} {r : Reply} (h : s.MemOk) : (s.sendReply k r).MemOk := h.modHost

theorem State.MemOk.hello {cred nonce : List Byte} {seq : ℕ} (h : s.MemOk) : (s.hello seq cred nonce).MemOk :=
  .ite h.modHost.sendReply (.ite h.modHost h.modHost)

theorem State.MemOk.modSession {k : ℕ} {f : Session → Session} (h : s.MemOk) : (s.modSession k f).MemOk := h.modHost

theorem State.MemOk.hear {k : ℕ} (h : s.MemOk) : (s.hear k).MemOk := h.modSession.modHost

theorem memOk_refuse {status : ℕ} (h : s.MemOk) : (refuse s status).state.MemOk := h

theorem memOk_answered {p : State × ℕ} (h : p.1.MemOk) : (answered p).state.MemOk := h

theorem State.MemOk.acceptFeatures {x : ℕ} {f : BitVec 256} (h : s.MemOk) : (s.acceptFeatures x f).1.MemOk := by
  unfold State.acceptFeatures
  split
  · exact h
  · split
    · exact h
    · exact h.modCtx

theorem State.MemOk.setOwner {k cause : ℕ} (h : s.MemOk) : (s.setOwner k cause).MemOk := h.modHost.event

theorem State.MemOk.hostClaim {k at_ : ℕ} (h : s.MemOk) : (s.hostClaim k at_).state.MemOk :=
  .ite h.modSession.setOwner h.modSession

theorem State.MemOk.hostHandover {to_ : ℕ} (h : s.MemOk) : (s.hostHandover to_).state.MemOk := by
  unfold State.hostHandover
  split
  · exact memOk_answered h.setOwner
  · exact memOk_refuse h

theorem State.MemOk.hostLease {at_ : ℕ} (h : s.MemOk) : (s.hostLease at_).state.MemOk := h.modHost

theorem State.MemOk.freezeSession {k : ℕ} (h : s.MemOk) : (s.freezeSession k).state.MemOk :=
  memOk_refuse h.modSession.event

theorem State.MemOk.refuseFault {k x code va : ℕ} (h : s.MemOk) : (s.refuseFault k x code va).state.MemOk := by
  unfold State.refuseFault
  split
  · exact h.freezeSession
  · exact memOk_refuse h.noteFault

theorem State.MemOk.waitHost {k x : ℕ} {lines : List ℕ} (h : s.MemOk) : (s.waitHost k x lines).state.MemOk := h.openUnit

theorem State.MemOk.noteLines {ls : List (ℕ × ℕ × HostLine)} {x : ℕ} (h : s.MemOk) : (s.noteLines x ls).MemOk := by
  unfold State.noteLines
  refine h.foldl fun _ _ h => ?_
  split
  · exact h.noteLine
  · exact .ite h h.noteFault

theorem State.MemOk.readMem {k x va n : ℕ} (h : s.MemOk) : (s.readMem k x va n).state.MemOk := by
  unfold State.readMem
  split
  · exact memOk_refuse h
  · split
    · exact h
    · extract_lets
      split
      · exact h.refuseFault
      · exact h.waitHost
      · exact h.noteLines.draw

theorem State.MemOk.hostRead {k space x addr n : ℕ} (h : s.MemOk) : (s.hostRead k space x addr n).state.MemOk := by
  unfold State.hostRead
  split
  · exact memOk_refuse h
  · extract_lets fits
    clear_value fits
    split
    · exact h.readMem
    · split
      · exact h
      · exact memOk_refuse h
    · split
      · exact h
      · exact memOk_refuse h
    · exact memOk_refuse h

theorem State.MemOk.wrLines {ps : List (ℕ × ℕ × HostLine)} {bs : List Byte} (h : s.MemOk) :
    (s.wrLines ps bs).MemOk := by
  induction ps generalizing s bs with
  | nil => exact h
  | cons p ps ih =>
    unfold State.wrLines
    split
    · exact h
    · next e =>
        cases e
        exact ih h.wr
    · next e =>
        cases e
        exact ih h

theorem State.MemOk.writeMem {data : List Byte} {k x va : ℕ} (h : s.MemOk) : (s.writeMem k x va data).state.MemOk := by
  unfold State.writeMem
  split
  · exact memOk_refuse h
  · split
    · next e =>
        exact memOk_answered (ExceptMemOk.of_eq h.vaWrite e)
    · extract_lets
      split
      · exact h.refuseFault
      · exact h.waitHost
      · exact memOk_answered h.noteLines.wrLines

/-! ## Commands -/

theorem State.MemOk.clearCounts {x : ℕ} {channels : List ℕ} (h : s.MemOk) : (s.clearCounts x channels).MemOk :=
  h.keep (cores := tget_map_keeps Core.storages)

theorem State.MemOk.cmdIf {ok : Bool} {x op seq : ℕ} {t : State} (h : s.MemOk) (k : t.MemOk) :
    (s.cmdIf ok x op seq t).1.MemOk := by
  unfold State.cmdIf
  split
  · exact k.cmdDone
  · exact h

theorem State.MemOk.wakeSleepers {x : ℕ} (h : s.MemOk) : (s.wakeSleepers x).MemOk := h.foldl fun _ _ h => h.endSleep

theorem State.MemOk.preempt {x : ℕ} (h : s.MemOk) : (s.preempt x).MemOk := .ite h.modCtx.wakeSleepers.freePushers h

theorem State.MemOk.withdraw {x : ℕ} (h : s.MemOk) : (s.withdraw x).MemOk := .ite h.modCtx.mapGroups h

theorem State.MemOk.resume {x : ℕ} (h : s.MemOk) : (s.resume x).MemOk := .ite h.modCtx.mapGroups h

theorem State.MemOk.wakeFills {x : ℕ} (h : s.MemOk) : (s.wakeFills x).MemOk := h.foldl fun _ _ h => h.wakeFill

theorem State.MemOk.thaw {x : ℕ} (h : s.MemOk) : (s.thaw x).MemOk := .ite h.modCtx.wakeFills h

theorem State.MemOk.clear {x : ℕ} (h : s.MemOk) : (s.clear x).MemOk := .ite h.modCtx h

theorem State.MemOk.cmdInvalidate {x va len seq : ℕ} (h : s.MemOk) : (s.cmdInvalidate x va len seq).1.MemOk := by
  unfold State.cmdInvalidate
  split
  · exact h
  · exact h.startInval

theorem State.MemOk.cmdEvict {x va seq : ℕ} (h : s.MemOk) : (s.cmdEvict x va seq).1.MemOk := by
  unfold State.cmdEvict
  split
  · exact h
  · split
    · split
      · split
        · exact h.modCtx
        · exact h.startEvict
      · exact h
    · exact h

theorem State.MemOk.command {x seq : ℕ} {k : Command} (h : s.MemOk) : (s.command x seq k).1.MemOk := by
  unfold State.command
  extract_lets
  split
  · exact h
  · split
    · split
      · next e =>
          exact (h.acceptFeatures.of_eq e).clearCounts.cmdDone
      · exact h.acceptFeatures
    · exact h.cmdIf h.preempt
    · exact h.cmdIf h.withdraw
    · exact h.cmdIf h.resume
    · exact h.cmdIf h.thaw
    · exact h.cmdIf h.resetCtx
    · exact h.cmdIf h.clear
    · exact h.cmdInvalidate
    · exact h.cmdEvict
    · exact h.cmdIf h.modCtx
    · exact h.cmdIf h.resetCtx
    · split
      · exact h.cmdIf h.settleFault
      · exact h
    · split
      · exact h.cmdIf h.denyFault
      · exact h
    · exact h

end Sys2Proof.Machine
end

section
/-!
SUPPORT. Canonical storages (O58): requests of the host, and steps of the device.
-/

namespace Sys2Proof.Machine

-- The lemmas are elaborated one after another: side by side they need more threads than the memory limit leaves room for.
set_option Elab.async false

variable {s t : State}

/-! ## Requests of a session -/

theorem State.MemOk.clearSeqs {x : ℕ} (h : s.MemOk) : (s.clearSeqs x).MemOk :=
  h.keep (cores := tget_map_keeps Core.storages)

theorem State.MemOk.writeSpace {data : List Byte} {x addr : ℕ} (h : s.MemOk) :
    MaybeMemOk (s.writeSpace x addr data) := by
  unfold State.writeSpace
  extract_lets
  split
  · trivial
  · split
    · exact .ite (.ite h.modCtx.clearSeqs h.modCtx) (.clearCounts (.ite h.modCtx.clearSeqs h.modCtx))
    · trivial

theorem State.MemOk.writeCtl {data : List Byte} {x seq addr : ℕ} (h : s.MemOk) :
    (s.writeCtl x seq addr data).1.MemOk := by
  unfold State.writeCtl
  extract_lets
  split
  · exact h
  · split
    · split
      · exact h.command
      · exact h
    · split
      · exact h
      · split
        · next e =>
            exact h.writeSpace.of_eq e
        · exact h

theorem State.MemOk.sessionCommand {data : List Byte} (h : s.MemOk) : (s.sessionCommand data).1.MemOk := by
  unfold State.sessionCommand
  extract_lets
  split
  · split
    · exact h
    · exact h
  · exact h

theorem State.MemOk.writeSampling {core v : ℕ} (h : s.MemOk) : (s.writeSampling core v).MemOk := h.modCore

theorem State.MemOk.putDevice {o v : ℕ} (h : s.MemOk) : (s.putDevice o v).MemOk :=
  .ite h (.ite h (.ite h (.ite h (.ite h.writeSampling h))))

theorem State.MemOk.writeDevice {data : List Byte} {addr : ℕ} (h : s.MemOk) : (s.writeDevice addr data).1.MemOk := by
  unfold State.writeDevice
  extract_lets
  split
  · exact h
  · split
    · exact h.sessionCommand
    · split
      · exact h.foldl fun _ _ h => h.putDevice
      · exact h

theorem State.MemOk.writeImage {data : List Byte} {addr : ℕ} (h : s.MemOk) : (s.writeImage addr data).state.MemOk := by
  unfold State.writeImage
  split
  · split
    · exact memOk_answered h.modHost
    · exact memOk_refuse h
  · split
    · exact memOk_refuse h
    · exact memOk_answered h.modHost

theorem State.MemOk.hostWrite {data : List Byte} {k seq space x addr : ℕ} (h : s.MemOk) :
    (s.hostWrite k seq space x addr data).state.MemOk := by
  unfold State.hostWrite
  extract_lets
  split
  · exact memOk_refuse h
  · split
    · exact h.writeMem
    · exact memOk_answered h.writeCtl
    · exact memOk_answered h.writeDevice
    · split
      · exact memOk_refuse h
      · exact h.writeImage

theorem State.MemOk.noQueue {q k x : ℕ} (h : s.MemOk) : (s.noQueue k x q).state.MemOk := by
  unfold State.noQueue
  extract_lets
  split
  · exact h.waitHost
  · exact memOk_refuse (.ite h h.noteTable)

theorem State.MemOk.putBlocks {x pos : ℕ} {q : LaunchQueue} {bs : List (List Byte)} (h : s.MemOk) :
    ExceptMemOk (s.putBlocks x q pos bs) := by
  induction bs generalizing s pos with
  | nil => exact h
  | cons b bs ih =>
    unfold State.putBlocks
    split
    · next e =>
        exact ih (ExceptMemOk.of_eq h.vaWrite e)
    · trivial

theorem State.MemOk.hostSubmit {q k x : ℕ} {blocks : List (List Byte)} (h : s.MemOk) :
    (s.hostSubmit k x q blocks).state.MemOk := by
  unfold State.hostSubmit
  extract_lets n
  split
  · exact memOk_refuse h
  · split
    · exact memOk_refuse h
    · split
      · exact h.noQueue
      · extract_lets moved
        split
        · exact memOk_refuse h
        · split
          · next e =>
              exact (ExceptMemOk.of_eq h.putBlocks e).wr
          · split
            · exact memOk_refuse h.noteFault
            · exact h.waitHost
            · exact h.noteLines.wrLines.wr

theorem State.MemOk.hostPower {S : Session} {at_ : ℕ} {p : List Byte} (h : s.MemOk) :
    (s.hostPower S at_ p).state.MemOk := by
  unfold State.hostPower
  split
  · exact memOk_refuse h
  · split
    · exact memOk_refuse h
    · exact memOk_answered h.modHost

theorem State.MemOk.serve {S : Session} {r : HostReq} {k seq at_ : ℕ} (h : s.MemOk) :
    (s.serve k seq at_ S r).state.MemOk := by
  unfold State.serve
  split
  · exact h
  · split
    · exact memOk_answered h.acceptFeatures
    · exact memOk_refuse h
  · exact h.hostClaim
  · exact h.hostHandover
  · exact h.hostLease
  · exact h.hostRead
  · exact h.hostWrite
  · exact h.hostSubmit
  · exact h.hostPower
  · exact memOk_refuse h

theorem State.MemOk.performReq {S : Session} {k seq at_ : ℕ} {r : HostReq} (h : s.MemOk) :
    (s.performReq k seq at_ S r).state.MemOk := by
  unfold State.performReq
  split
  · exact memOk_refuse h
  · split
    · exact memOk_refuse h
    · split
      · exact memOk_refuse h
      · split
        · exact memOk_refuse h
        · exact h.serve

theorem State.MemOk.performNext {k seq at_ : ℕ} {r : HostReq} (h : s.MemOk) : (s.performNext k seq at_ r).MemOk := by
  unfold State.performNext
  split
  · exact h
  · exact .ite h.performReq.modSession h.performReq.modSession.sendReply

theorem State.MemOk.takeRequest {k seq : ℕ} {r : HostReq} (h : s.MemOk) : (s.takeRequest k seq r).MemOk := by
  unfold State.takeRequest
  split
  · exact .ite h.hear.sendReply h.hear
  · refine .ite h.hear (.ite h.hear.performNext (.ite h.hear.modSession ?_))
    split
    · exact h.hear.sendReply
    · exact h.hear

theorem State.MemOk.receive {k seq : ℕ} {r : HostReq} (h : s.MemOk) : (s.receive k seq r).MemOk :=
  h.arrive fun _ h => h.takeRequest

theorem State.MemOk.takeAck {sess num : ℕ} (h : s.MemOk) : (s.takeAck sess num).MemOk := h.hear.modHost

theorem State.MemOk.elect (h : s.MemOk) : s.elect.MemOk := by
  unfold State.elect
  split
  · exact h.setOwner
  · exact h.modHost.event

theorem State.MemOk.sendCommand {sess seq ctx op : ℕ} {args : List Byte} (h : s.MemOk) :
    (s.sendCommand sess seq ctx op args).MemOk := h.receive

theorem State.MemOk.sendDevice {sess seq addr : ℕ} {data : List Byte} (h : s.MemOk) :
    (s.sendDevice sess seq addr data).MemOk := h.receive

theorem State.MemOk.sendBlock {sess seq ctx base off : ℕ} {data : List Byte} (h : s.MemOk) :
    (s.sendBlock sess seq ctx base off data).MemOk := h.receive

/-! ## Steps of the device -/

theorem memOk_execTileStoreSizeEffect (h : s.MemOk) : Out.MemOk (execTileStoreSizeEffect s) :=
  State.MemOk.ite (h.keep (dies := tget_map_keeps Die.scratch)) h

theorem memOk_execReservedEncoding {w : BitVec 32} (h : s.MemOk) : Out.MemOk (execReservedEncoding w s) := by
  unfold Machine.execReservedEncoding
  split
  · exact memOk_hint h
  · split
    · trivial
    · exact h.account.finish

theorem memOk_execMigrationRequest {tid : ℕ} (h : s.MemOk) : Out.MemOk (execMigrationRequest tid s) := .ite h.modTeam h

theorem memOk_execDeadlineExpiry {ctx : ℕ} (h : s.MemOk) : Out.MemOk (execDeadlineExpiry ctx s) := .ite h.timeOut h

theorem memOk_execTouchEntryExpiry {core g : ℕ} (h : s.MemOk) : Out.MemOk (execTouchEntryExpiry core g s) := h.modGroup

theorem memOk_execWcBufferTimeout {core g : ℕ} (h : s.MemOk) : Out.MemOk (execWcBufferTimeout core g s) := h.performHeld

theorem memOk_execSleepEnd {core g : ℕ} (h : s.MemOk) : Out.MemOk (execSleepEnd core g s) := .ite h.endSleep h

theorem memOk_execBarrierWaveRelease {core : ℕ} (h : s.MemOk) : Out.MemOk (execBarrierWaveRelease core s) :=
  h.foldl fun _ _ h => h.modGroup

theorem memOk_execStreamStatusWrite {die ctx stream : ℕ} (h : s.MemOk) :
    Out.MemOk (execStreamStatusWrite die ctx stream s) := .ite h.writeStatus h

theorem memOk_execSyncPacket {die : ℕ} (h : s.MemOk) : Out.MemOk (execSyncPacket die s) := by
  unfold Machine.execSyncPacket
  refine show State.MemOk _ from ?_
  split
  · exact h
  · exact h.draw.modDie.foldl fun _ _ h => h.logTrace

theorem memOk_execClockPatternWrite {cluster : ℕ} {v : BitVec 32} (h : s.MemOk) :
    Out.MemOk (execClockPatternWrite cluster v s) := .ite h.ignoreWrite h.writePattern

theorem memOk_execCurrentSlopeWrite {cluster : ℕ} {v : BitVec 32} (h : s.MemOk) :
    Out.MemOk (execCurrentSlopeWrite cluster v s) := .ite h.ignoreWrite h.modCluster

theorem memOk_execPowerRegisterWrite {die : ℕ} {v : BitVec 32} (h : s.MemOk) :
    Out.MemOk (execPowerRegisterWrite die v s) := .ite h.ignoreWrite h.modDie

theorem memOk_execNtEntry {core quad island : ℕ} (h : s.MemOk) : Out.MemOk (execNtEntry core quad island s) :=
  .ite h.modQuad h

theorem memOk_execNtExit {core quad island : ℕ} (h : s.MemOk) : Out.MemOk (execNtExit core quad island s) :=
  .ite h.modQuad h

theorem memOk_execHoldExpiry {core quad : ℕ} (h : s.MemOk) : Out.MemOk (execHoldExpiry core quad s) := .ite h.modQuad h

theorem memOk_execRampDone {core quad : ℕ} (h : s.MemOk) : Out.MemOk (execRampDone core quad s) := .ite h.modQuad h

theorem memOk_execBudgetLeaseEnd (h : s.MemOk) : Out.MemOk (execBudgetLeaseEnd s) := .ite h h

theorem Die.scratch_setKhz {D : Die} {khz : ℕ} : (D.setKhz khz).scratch = D.scratch := by
  unfold Die.setKhz
  split
  · rfl
  · rfl

theorem memOk_execAgeingReplan {die mv mhz : ℕ} (h : s.MemOk) : Out.MemOk (execAgeingReplan die mv mhz s) := by
  unfold Machine.execAgeingReplan
  extract_lets D khz s1
  refine show State.MemOk _ from ?_
  split
  · exact h
  · have replanned : s1.MemOk := h.modDie fun _ => Die.scratch_setKhz
    exact replanned.event.ite replanned

theorem memOk_execThermalThrottle {cluster : ℕ} {v : BitVec 32} (h : s.MemOk) :
    Out.MemOk (execThermalThrottle cluster v s) := .ite h.writePattern h

theorem memOk_execThermalTrip : Out.MemOk (execThermalTrip s) := State.memOk_reset

theorem memOk_execDeviceReset {id : List Byte} : Out.MemOk (execDeviceReset id s) :=
  State.MemOk.afterReset.enumerate.modHost

theorem memOk_execLinkLoss {port : ℕ} (h : s.MemOk) : Out.MemOk (execLinkLoss port s) := .ite h.setFabric.linkEvent h

theorem memOk_execLinkRetrainDone {port ns : ℕ} (h : s.MemOk) : Out.MemOk (execLinkRetrainDone port ns s) :=
  .ite (.ite h h.setFabric.linkEvent.linkEvent) (.ite h.modHdie.linkEvent.linkEvent h)

theorem memOk_execCxlLinkDown {hdie : ℕ} (h : s.MemOk) : Out.MemOk (execCxlLinkDown hdie s) :=
  .ite h.modHdie.linkEvent h

theorem memOk_execEventResend {num : ℕ} (h : s.MemOk) : Out.MemOk (execEventResend num s) := .ite h.modHost h

theorem memOk_execSessionTimeout {sess : ℕ} (h : s.MemOk) : Out.MemOk (execSessionTimeout sess s) :=
  .ite h.clearFaults.modHost h

theorem memOk_execOwnerLeaseEnd (h : s.MemOk) : Out.MemOk (execOwnerLeaseEnd s) := .ite h.elect h

theorem memOk_execCredentialExpiry {sess : ℕ} (h : s.MemOk) : Out.MemOk (execCredentialExpiry sess s) := .ite h.elect h

theorem memOk_execRequestPreemption {sess seq ctx : ℕ} (h : s.MemOk) :
    Out.MemOk (execRequestPreemption sess seq ctx s) := .ite (.ite h.preempt h) h.sendCommand

theorem memOk_execPackageIdEffect (h : s.MemOk) : Out.MemOk (execPackageIdEffect s) := .ite h h

theorem memOk_execHostPortLinkChange {up : Bool} {ns : ℕ} (h : s.MemOk) : Out.MemOk (execHostPortLinkChange up ns s) :=
  .ite h h.modHost.linkEvent

theorem memOk_execDieFrequencyChange {die khz : ℕ} (h : s.MemOk) : Out.MemOk (execDieFrequencyChange die khz s) :=
  .ite h (h.modDie fun _ => Die.scratch_setKhz)

theorem memOk_execBalancerEvaluate {die : ℕ} (h : s.MemOk) : Out.MemOk (execBalancerEvaluate die s) := by
  unfold Machine.execBalancerEvaluate
  refine show State.MemOk _ from ?_
  split
  · exact h
  · extract_lets s1
    have evaluated : s1.MemOk := h.foldl fun _ _ h => h.draw.modCore fun C => by
      dsimp only
      split
      · rfl
      · rfl
    exact evaluated.modDie

end Sys2Proof.Machine
end

section
/-!
SUPPORT. Canonical storages (O58): every instruction, Onyx code, and the step.
-/

namespace Sys2Proof.Machine

-- The lemmas are elaborated one after another: side by side they need more threads than the memory limit leaves room for.
set_option Elab.async false

variable {s t : State}

/-! ## Instructions -/

theorem memOk_exec {i : Instr} (h : s.MemOk) : Out.MemOk (exec i s) := by
  cases i <;> simp only [exec]
  case ill | nop | trap | mfs | mfsV | mfsB | feat | clk | bkpt => exact memOk_issue h fun _ _ h => h
  case eret => exact memOk_issue h (fun _ _ h => h.modGroup)
  case mts | mtsV => exact memOk_issue h (fun _ _ h => memOk_mtsRun h)
  case mtsB => exact memOk_execMtsB h
  case fence | fenceAx => exact memOk_issue h (fun _ _ h => memOk_fenceRun h)
  case sleep | sleepLv => exact memOk_issue h (fun _ _ h => memOk_sleepRun h)
  case mark => exact memOk_execMark h
  case rege => exact memOk_issue h (fun _ _ h => memOk_regionRun h)
  case regl => exact memOk_execRegl h
  case csw => exact memOk_execCsw h
  case bra | brp | brn | brpAny | brpAll => exact memOk_branch h
  case call | calli | ret | jmpi | brx => exact memOk_issue h (fun _ _ h => memOk_transfer h)
  case fork => exact memOk_execFork h
  case fend | shfl | elect | voteAny | voteAll | voteBallot | shflX | pnot | pset | vaddc | vmovs | vcmp | fcmp
      | dcmp | fdiv | dqnt | pack2 | unpk => exact memOk_issue h (fun _ _ h => memOk_eachLane h)
  case rcv => exact memOk_execRcv h
  case spawn => exact memOk_execSpawn h
  case spawnT => exact memOk_execSpawnT h
  case yield => exact memOk_execYield h
  case qpop | qpopT => exact memOk_issue h (fun _ _ h => memOk_qpopRun h)
  case qpush => exact memOk_execQpush h
  case qstatDepth | qstatFree | qstatFlags => exact memOk_qstat h
  case bar | barv => exact memOk_issue h (fun _ _ h => memOk_barRun h (fun _ _ h => h.modGroup))
  case barw => exact memOk_execBarw h
  case pand | por | pxor => exact memOk_pred2 h
  case sadd | ssub | smul | smulh | sand | sor | sxor | sshl | sshr | ssra | smin | smax | scmp | ssel | slea =>
    exact memOk_scalar3 h
  case smov | saddi | sxori => exact memOk_scalar2 h
  case vadd | vsub | vmad => exact memOk_vec3 h
  case vmul | vmulhS | vmulhU | vand | vor | vxor | vbfe | vshl | vshr | vsra | vbfi | vminS | vminU | vmaxS | vmaxU
      | vsel => exact memOk_vecPlain h
  case vabs | vclz | vpopc | vbrev | vmov | vaddi | vshli | vshri | vsrai => exact memOk_vec2 h
  case vdivS | vdivU | vremS | vremU => exact memOk_vecDiv h
  case fadd | fsub | fmul | fmin | fmax => exact memOk_float2 h
  case ffma | ffms | fldexp | hadd2 | hmul2 | hfma2 | bfma2 => exact memOk_float3 h
  case frnd | ffrac | fclass | fexpo => exact memOk_float1 h
  case dadd | dmul | dfma => exact memOk_double3 h
  case frcp | frsq | fsqrt | fexp2 | flog2 | fsin | fcos => exact memOk_floatFn h
  case cvtf | cvti | cvtn =>
    simp only [execCvtf, execCvti, execCvtn]
    exact memOk_convert h
  case qnt =>
    simp only [execQnt]
    exact memOk_issue h fun _ _ h => h
  case ldg => exact memOk_execLdg h
  case stg => exact memOk_execStg h
  case tch => exact memOk_execTch h
  case atg => exact memOk_execAtg h
  case atgc => exact memOk_execAtgc h
  case mcs => exact memOk_issue h (fun _ _ h => memOk_multiRun h (fun _ _ _ _ _ _ h => h.storeBytes))
  case rds | rdsF => exact memOk_issue h (fun _ _ h => memOk_multiRun h (fun _ _ _ _ _ _ h => memOk_rdsPut h))
  case ldx | ldl => exact memOk_issue h (fun _ _ h => memOk_eachLaneState h (fun _ _ _ h => memOk_placeLoad h))
  case stx =>
    exact memOk_issue h fun _ _ h => memOk_eachLaneState h fun _ _ _ h => memOk_placeStore h fun _ _ _ _ h => h.storeScr
  case atx => exact memOk_execAtx h
  case stl =>
    exact memOk_issue h fun _ _ h => memOk_eachLaneState h fun _ _ _ h => memOk_placeStore h fun _ _ _ _ h => h.scrWrite
  case tmov => exact memOk_execTmov h
  case tmovW => exact memOk_execTmovW h
  case acq => exact memOk_execAcq h
  case rel => exact memOk_execRel h
  case arv => exact memOk_execArv h
  case arvX => exact memOk_execArvX h
  case waitp | waitpNf => exact memOk_issue h (fun _ _ h => memOk_waitpRun h)
  case soflg => exact memOk_issue h (fun _ _ h => memOk_onObject h (fun _ _ _ _ _ h => h))
  case soflgFlagC => exact memOk_issue h (fun _ _ h => memOk_onObject h (fun _ _ _ _ _ h => h.putObj))
  case rget | rgetT | rclm | rclmT => exact memOk_issue h (fun _ _ h => memOk_ringSlot h)
  case rput | rpub => exact memOk_issue h (fun _ _ h => memOk_ringCount h)
  case cpy => exact memOk_execCpy h
  case cpyb => exact memOk_execCpyb h
  case cpyd => exact memOk_execCpyd h
  case ctab => exact memOk_execCtab h
  case intr => exact memOk_execIntr h
  case annc => exact memOk_execAnnc h
  case nret => exact memOk_execNret h
  case nprb => exact memOk_execNprb h
  case greq => exact memOk_execGreq h
  case gdone | gfail => exact memOk_issue h (fun _ _ h => memOk_decideFill h)
  case mbld | mbldW | mmul | mmulW | mhad | mhadW | msca | mscaW | mqnt | mqntW =>
    exact memOk_issue h (fun _ _ h => memOk_matrixIssue h)
  case mout => exact memOk_execMout h
  case prim => exact memOk_execPrim h
  case tld => exact memOk_execTld h
  case tst => exact memOk_execTst h
  case blnd => exact memOk_execBlnd h
  case dpth | dpthT => exact memOk_issue h (fun _ _ h => memOk_depthRun h)
  case disc => exact memOk_execDisc h
  case tret => exact memOk_execTret h
  case ipol => exact memOk_execIpol h
  case smpl | smplG | smpg | smpgG => exact memOk_issue h (fun _ _ h => memOk_sampleRun h)
  case rayq | rayqO => exact memOk_issue h (fun _ _ h => memOk_rayqRun h)
  case rayc | raya => exact memOk_issue h (fun _ _ h => memOk_eachLaneFar h.reload (fun _ _ _ h => memOk_rayResume h))
  case hntImm | hntGap | hntPred | hntRnd | hntScope | hntMod | hntRelax => exact memOk_hint h
  case launchHeadRead => exact memOk_execLaunchHeadRead h
  case predecessorTest => exact memOk_execPredecessorTest h
  case geometryBatchTake => exact memOk_execGeometryBatchTake h
  case bindRecordWrite => exact memOk_execBindRecordWrite h
  case listStoreAlloc => exact memOk_execListStoreAlloc h
  case indexTake => exact memOk_execIndexTake h
  case persistentGridStart => exact memOk_execPersistentGridStart h
  case launchCompletion => exact memOk_execLaunchCompletion h
  case balancerEvaluate => exact memOk_execBalancerEvaluate h
  case partitionControlWrite => exact memOk_execPartitionControlWrite h
  case migrationRequest => exact memOk_execMigrationRequest h
  case migrationWithdraw => exact memOk_execMigrationWithdraw h
  case trapDisposition => exact memOk_execTrapDisposition h
  case pageService => exact memOk_execPageService h
  case teamSave => exact memOk_execTeamSave h
  case teamRestore => exact memOk_execTeamRestore h
  case deadlineExpiry => exact memOk_execDeadlineExpiry h
  case pusherReschedule => exact memOk_execPusherReschedule h
  case touchEntryExpiry => exact memOk_execTouchEntryExpiry h
  case wcBufferTimeout => exact memOk_execWcBufferTimeout h
  case sleepEnd => exact memOk_execSleepEnd h
  case barrierWaveRelease => exact memOk_execBarrierWaveRelease h
  case engineTake => exact memOk_execEngineTake h
  case engineLineService => exact memOk_execEngineLineService h
  case tableReady => exact memOk_execTableReady h
  case streamStatusWrite => exact memOk_execStreamStatusWrite h
  case operationCompletion => exact memOk_execOperationCompletion h
  case byteContribution => exact memOk_execByteContribution h
  case matrixOpComplete => exact memOk_execMatrixOpComplete h
  case tileExport => exact memOk_execTileExport h
  case tileSpill => exact memOk_execTileSpill h
  case remoteTimeout => exact memOk_execRemoteTimeout h
  case binnerAppend => exact memOk_execBinnerAppend h
  case linkFailed => exact memOk_execLinkFailed h
  case tileTaskAdmit => exact memOk_execTileTaskAdmit h
  case fragmentCreate => exact memOk_execFragmentCreate h
  case seqHang => exact memOk_execSeqHang h
  case cswInstall => exact memOk_execCswInstall h
  case onyxTranslate => exact memOk_execOnyxTranslate h
  case interestForward => exact memOk_execInterestForward h
  case tileArrival => exact memOk_execTileArrival h
  case interestWriteDone => exact memOk_execInterestWriteDone h
  case interestLifetimeEnd => exact memOk_execInterestLifetimeEnd h
  case retirementApply => exact memOk_execRetirementApply h
  case generatorStart => exact memOk_execGeneratorStart h
  case procEviction => exact memOk_execProcEviction h
  case invalidationComplete => exact memOk_execInvalidationComplete h
  case latencyAccount => exact memOk_execLatencyAccount h
  case sampleExpiry => exact memOk_execSampleExpiry h
  case syncPacket => exact memOk_execSyncPacket h
  case clockPatternWrite => exact memOk_execClockPatternWrite h
  case currentSlopeWrite => exact memOk_execCurrentSlopeWrite h
  case powerRegisterWrite => exact memOk_execPowerRegisterWrite h
  case ntEntry => exact memOk_execNtEntry h
  case ntExit => exact memOk_execNtExit h
  case holdExpiry => exact memOk_execHoldExpiry h
  case rampAdmit => exact memOk_execRampAdmit h
  case rampDone => exact memOk_execRampDone h
  case budgetLeaseEnd => exact memOk_execBudgetLeaseEnd h
  case ageingReplan => exact memOk_execAgeingReplan h
  case thermalThrottle => exact memOk_execThermalThrottle h
  case thermalTrip => exact memOk_execThermalTrip
  case deviceReset => exact memOk_execDeviceReset
  case frameDiscard => exact h.discardFrame
  case ptpMessage | ptpLockLoss => exact h
  case linkLoss => exact memOk_execLinkLoss h
  case linkRetrainDone => exact memOk_execLinkRetrainDone h
  case cxlLinkDown => exact memOk_execCxlLinkDown h
  case hello => exact h.arrive (fun _ h => h.hello)
  case featureRead | featureAccept | claim | handover | lease | read | write | submit | power | firmwareImageWrite
      | firmwareVerify => exact h.receive
  case eventAck => exact h.arrive (fun _ h => h.takeAck)
  case eventResend => exact memOk_execEventResend h
  case sessionTimeout => exact memOk_execSessionTimeout h
  case ownerLeaseEnd => exact memOk_execOwnerLeaseEnd h
  case credentialExpiry => exact memOk_execCredentialExpiry h
  case create | withdraw | resume | thaw | reset | clear | invalidate | evictBlock | flushRegion | tearDown
      | retryFault | declareUnresolvable => exact h.sendCommand
  case requestPreemption => exact memOk_execRequestPreemption h
  case sessionThaw | samplingControlWrite | tileStoreSizeWrite | packageIdWrite | powerFloorWrite => exact h.sendDevice
  case trapControlWrite | translationBlockWrite | sampleBlockWrite | traceControlWrite | nameControlWrite
      | telemetryControlWrite | contextTablesWrite | errorLogControlWrite => exact h.sendBlock
  case tileStoreSizeEffect => exact memOk_execTileStoreSizeEffect h
  case packageIdEffect => exact memOk_execPackageIdEffect h
  case reservedEncoding => exact memOk_execReservedEncoding h
  case hostPortLinkChange => exact memOk_execHostPortLinkChange h
  case dieFrequencyChange => exact memOk_execDieFrequencyChange h
  case macsecKeyAgreement => exact h.modHost

/-! ## What comes from outside and what is due -/

theorem State.MemOk.message {m : List Byte} (h : s.MemOk) : (s.message m).MemOk :=
  .ite h (.ite (.ite h.hello h.hello) (.ite (.ite h.takeAck h) h.takeRequest))

theorem State.MemOk.takeFrame {f : List Byte} (h : s.MemOk) : (s.takeFrame f).MemOk := by
  unfold State.takeFrame
  refine .ite h (.ite h.discardFrame ?_)
  split
  · exact h.message
  · exact h

theorem Input.memOk_run {i : Input} (h : s.MemOk) : Out.MemOk (Input.run i s) := by
  unfold Machine.Input.run
  split
  · split
    · exact memOk_exec h
    · exact h
  · exact h.takeFrame

theorem State.MemOk.freezeLeft (h : s.MemOk) : MaybeMemOk s.freezeLeft :=
  maybeMemOk_map fun _ => h.modCtx.foldl fun _ _ h => h.freezeUnit

theorem State.MemOk.performHeldReq {k : ℕ} {r : HeldReq} (h : s.MemOk) : (s.performHeldReq k r).MemOk :=
  .ite h.modSession.performNext h.modSession.performNext.clearFaults

theorem Due.memOk_run {d : Due} (h : s.MemOk) : Out.MemOk (Due.run d s) := by
  cases d with
  | launchHeadRead => exact memOk_execLaunchHeadRead h
  | predecessorTest => exact memOk_execPredecessorTest h
  | geometryBatchTake => exact memOk_execGeometryBatchTake h
  | listStoreAlloc => exact memOk_execListStoreAlloc h
  | indexTake => exact memOk_execIndexTake h
  | persistentGridStart => exact memOk_execPersistentGridStart h
  | launchCompletion => exact memOk_execLaunchCompletion h
  | balancerEvaluate => exact memOk_execBalancerEvaluate h
  | migrationWithdraw => exact memOk_execMigrationWithdraw h
  | trapDisposition => exact memOk_execTrapDisposition h
  | pageService => exact memOk_execPageService h
  | engineLineService => exact memOk_execEngineLineService h
  | teamSave => exact memOk_execTeamSave h
  | deadlineExpiry => exact memOk_execDeadlineExpiry h
  | pusherReschedule => exact memOk_execPusherReschedule h
  | touchEntryExpiry => exact memOk_execTouchEntryExpiry h
  | wcBufferTimeout => exact memOk_execWcBufferTimeout h
  | sleepEnd => exact memOk_execSleepEnd h
  | barrierWaveRelease => exact memOk_execBarrierWaveRelease h
  | engineTake => exact memOk_execEngineTake h
  | tableReady => exact memOk_execTableReady h
  | streamStatusWrite => exact memOk_execStreamStatusWrite h
  | operationCompletion => exact memOk_execOperationCompletion h
  | byteContribution => exact memOk_execByteContribution h
  | matrixOpComplete => exact memOk_execMatrixOpComplete h
  | tileExport => exact memOk_execTileExport h
  | tileSpill => exact memOk_execTileSpill h
  | remoteTimeout => exact memOk_execRemoteTimeout h
  | binnerAppend => exact memOk_execBinnerAppend h
  | tileTaskAdmit => exact memOk_execTileTaskAdmit h
  | fragmentCreate => exact memOk_execFragmentCreate h
  | cswInstall => exact memOk_execCswInstall h
  | onyxTranslate => exact memOk_execOnyxTranslate h
  | interestForward => exact memOk_execInterestForward h
  | tileArrival => exact memOk_execTileArrival h
  | interestWriteDone => exact memOk_execInterestWriteDone h
  | interestLifetimeEnd => exact memOk_execInterestLifetimeEnd h
  | retirementApply => exact memOk_execRetirementApply h
  | generatorStart => exact memOk_execGeneratorStart h
  | procEviction => exact memOk_execProcEviction h
  | invalidationComplete => exact memOk_execInvalidationComplete h
  | latencyAccount => exact memOk_execLatencyAccount h
  | sampleExpiry => exact memOk_execSampleExpiry h
  | syncPacket => exact memOk_execSyncPacket h
  | ntEntry => exact memOk_execNtEntry h
  | ntExit => exact memOk_execNtExit h
  | holdExpiry => exact memOk_execHoldExpiry h
  | rampAdmit => exact memOk_execRampAdmit h
  | rampDone => exact memOk_execRampDone h
  | budgetLeaseEnd => exact memOk_execBudgetLeaseEnd h
  | eventResend => exact memOk_execEventResend h
  | sessionTimeout => exact memOk_execSessionTimeout h
  | ownerLeaseEnd => exact memOk_execOwnerLeaseEnd h
  | credentialExpiry => exact memOk_execCredentialExpiry h
  | tileStoreSizeEffect => exact memOk_execTileStoreSizeEffect h
  | packageIdEffect => exact memOk_execPackageIdEffect h
  | ageingReplan => exact memOk_execAgeingReplan h

/-! ## Onyx code -/

theorem State.MemOk.finishOnyx {I : Issue} {outs : List LaneOut} (h : s.MemOk) : (s.finishOnyx I outs).MemOk :=
  h.finish.foldl fun _ _ h => h.takeTraps

theorem memOk_owrite {l n mask : ℕ} {I : Issue} {v : List Word} (h : s.MemOk) : (owrite I l n mask v s).MemOk := by
  unfold Machine.owrite
  split
  · exact h
  · exact h.foldl fun _ _ h => h.scrWrite

theorem memOk_ostore {O : OIssue} {rs : List (ℕ × OVal)} (h : s.MemOk) : (ostore O rs s).MemOk := by
  unfold Machine.ostore
  refine h.foldl fun _ _ h => ?_
  split
  · exact memOk_owrite h
  · exact h

theorem OIssue.memOk_takeData {O : OIssue} {sat : Bool} {outs : List LaneOut} (h : s.MemOk) :
    (OIssue.takeData O sat outs s).1.MemOk := by
  unfold Machine.OIssue.takeData
  refine memOk_foldl_fst h fun _ _ h => ?_
  extract_lets
  split
  · exact h
  · exact memOk_owrite h

theorem OIssue.memOk_texRun {O : OIssue} (h : s.MemOk) : (OIssue.texRun O s).MemOk := by
  unfold Machine.OIssue.texRun
  refine memOk_remoteRetry h fun _ => ?_
  split
  · exact h
  · exact memOk_farWait (OIssue.memOk_takeData (memOk_sampleOuts h))

theorem OIssue.memOk_ldcRun {O : OIssue} (h : s.MemOk) : (OIssue.ldcRun O s).MemOk := by
  unfold Machine.OIssue.ldcRun
  refine memOk_remoteRetry h fun _ => ?_
  extract_lets I rec_ bad idx ls lines
  split
  next e =>
    extract_lets r shares s2 cs first
    have touched : r.1.MemOk := by
      refine memOk_foldl_fst (h.xlateLines.of_eq e) fun _ _ h => ?_
      split
      · exact h
      · exact memOk_owrite h
      · exact h.touchLane
    clear_value r
    have recorded : s2.MemOk := State.MemOk.ite touched (State.MemOk.modGroup touched)
    generalize eq : loadRun _ _ _ _ _ _ _ _ = q
    have ran : q.MemOk := by
      rw [← eq]
      refine memOk_loadRun recorded fun _ _ _ _ h => ?_
      split
      · exact h.noteLine
      · exact memOk_owrite h.readSeen
    split
    · exact ran
    · exact ran
    · exact ran

theorem OIssue.memOk_interpRun {O : OIssue} (h : s.MemOk) : (OIssue.interpRun O s).MemOk := by
  unfold Machine.OIssue.interpRun
  refine memOk_foldl_fst h fun _ _ h => ?_
  split
  · exact h
  · exact memOk_owrite (by split; exacts [h, memOk_foldl_fst h fun _ _ h => h.draw])

theorem OIssue.memOk_outRun {O : OIssue} (h : s.MemOk) : (OIssue.outRun O s).MemOk := by
  unfold Machine.OIssue.outRun
  extract_lets
  split
  · exact h
  · exact memOk_ordered h fun _ _ h => memOk_blendLane h

theorem OIssue.memOk_killRun {O : OIssue} (h : s.MemOk) : (OIssue.killRun O s).MemOk := h

theorem OIssue.memOk_depths {O : OIssue} {outs : List LaneOut} {d : ℕ → ℕ} (h : s.MemOk) :
    (OIssue.depths O outs d s).MemOk := h.modGroup

theorem OIssue.memOk_run {O : OIssue} {q : OKind} (h : s.MemOk) : (OIssue.run O q s).MemOk := by
  unfold Machine.OIssue.run
  extract_lets
  split
  · exact memOk_ostore h
  · exact memOk_ostore h
  · exact OIssue.memOk_texRun h
  · exact OIssue.memOk_ldcRun h
  · exact OIssue.memOk_interpRun h
  · exact OIssue.memOk_outRun h
  · exact OIssue.memOk_killRun h
  · exact memOk_ostore h
  · exact h
  · exact h
  · exact OIssue.memOk_depths h
  · exact OIssue.memOk_depths h
  · exact h

theorem memOk_onyxWord {tr : OnyxTr} {k : ℕ} (h : s.MemOk) : Out.MemOk (onyxWord tr k s) := by
  unfold Machine.onyxWord
  split
  · trivial
  · extract_lets O I q s1 pre J
    have accounted : s1.MemOk := h.account.ite h
    clear_value s1 pre
    split
    · exact h.stall
    · split
      · exact accounted.finishOnyx
      · split
        · exact accounted.finish
        · have ran : Result.MemOk (if J.act.isEmpty then .go s1 [] else ({ O with I := J } : OIssue).run q s1) := by
            split
            · exact accounted
            · exact OIssue.memOk_run accounted
          split
          · next e =>
              rw [e] at ran
              exact (State.MemOk.draw ran).modGroup.finishOnyx
          · next e =>
              rw [e] at ran
              exact State.MemOk.hold ran
          · next e =>
              rw [e] at ran
              exact State.MemOk.hold ran
          · next e =>
              rw [e] at ran
              exact ran

/-! ## Issue -/

theorem State.MemOk.tryLater (h : s.MemOk) : s.tryLater.MemOk := h.modGroup

theorem State.MemOk.retryFetch {B : Batch} (h : s.MemOk) : Out.MemOk (s.retryFetch B) := by
  unfold State.retryFetch
  split
  · split
    · exact h.tryLater
    · exact h.finish
  · exact h.tryLater

theorem State.MemOk.retry {c : Cur} (h : s.MemOk) : Out.MemOk (s.retry c) := by
  unfold State.retry
  extract_lets
  split
  · exact h
  · split
    · exact h
    · split
      · exact memOk_exec h
      · split
        · exact memOk_onyxWord h
        · exact State.MemOk.retryFetch h

theorem State.MemOk.performOldest {core g : ℕ} (h : s.MemOk) : (s.performOldest core g).MemOk := by
  unfold State.performOldest
  split
  · exact h.performHeld
  · exact h

theorem State.MemOk.choose {q core : ℕ} (h : s.MemOk) : MaybeMemOk (s.choose core q) := by
  unfold State.choose
  split
  · trivial
  · extract_lets
    split
    · trivial
    · exact (h.foldl fun _ _ h => h.modGroup).modGroup

theorem State.MemOk.fetchTrap {tr : Trap} (h : s.MemOk) : Out.MemOk (s.fetchTrap tr) := by
  unfold State.fetchTrap
  split
  · trivial
  · exact h.account.finish

theorem memOk_onyxEntry {pa : ℕ} {readable : Bool} (h : s.MemOk) : Out.MemOk (onyxEntry pa readable s) := by
  unfold Machine.onyxEntry
  split
  · trivial
  · extract_lets I s1 via gr k c tr o
    have accounted : s1.MemOk := h.account
    clear_value s1 o tr
    split
    · exact accounted.finish
    · split
      · exact accounted.finish
      · split
        · exact accounted.finishOnyx
        · split
          · split
            · exact h.hold.freeSlot
            · exact accounted.finishOnyx
          · exact accounted.modGroup

theorem State.MemOk.runWord {x pc w : ℕ} (h : s.MemOk) : Out.MemOk (s.runWord x pc w) := by
  unfold State.runWord
  split
  · exact memOk_onyxWord h
  · split
    · exact memOk_exec h
    · exact memOk_execReservedEncoding h

theorem State.MemOk.park {w : Wait} (h : s.MemOk) : (s.park w).MemOk := h.modGroup.freeSlot

theorem State.MemOk.fetchFar {line : ℕ} (h : s.MemOk) : (s.fetchFar line).MemOk := by
  unfold State.fetchFar
  split
  · exact h
  · exact .park h

theorem State.MemOk.runFetched {f : Fetched} {x pc : ℕ} (h : s.MemOk) : Out.MemOk (s.runFetched x pc f) := by
  unfold State.runFetched
  split
  · exact h.fetchTrap
  · exact memOk_onyxEntry h
  · exact h.runWord
  · exact h.park
  · exact h.fetchFar

theorem State.MemOk.issueCur (h : s.MemOk) : Out.MemOk (s.issueCur) := by
  unfold State.issueCur
  split
  · exact h
  · next e =>
      exact (State.MemOk.fetchCur h e).runFetched

theorem State.MemOk.issueQuad {q core : ℕ} (h : s.MemOk) : Out.MemOk (s.issueQuad core q) := by
  unfold State.issueQuad
  split
  · exact h
  · next t e =>
      have chosen := MaybeMemOk.of_eq h.choose e
      have counted : State.MemOk { t with issued := (core * 4 + q) :: t.issued } := chosen
      split
      · exact chosen
      · next e =>
          extract_lets o
          split
          · exact State.MemOk.issueCur h
          · exact (State.MemOk.fetchCur counted e).runFetched

/-! ## The clock -/

theorem State.MemOk.islandTick {q core : ℕ} (h : s.MemOk) : (s.islandTick core q).MemOk :=
  .ite h (.ite h.modQuad.modDie h.modQuad)

theorem State.MemOk.setWaves {core : ℕ} (h : s.MemOk) : (s.setWaves core).MemOk := h.foldl fun _ _ h => h.modGroup

theorem Core.storages_settleWithheld {C : Core} : C.settleWithheld.storages = C.storages := by
  unfold Core.settleWithheld
  split
  · split
    · rfl
    · rfl
  · rfl

theorem State.MemOk.tickBlocked {core : ℕ} (h : s.MemOk) : (s.tickBlocked core).MemOk :=
  h.modCore fun _ => Core.storages_settleWithheld

theorem State.MemOk.tickCore {core : ℕ} (h : s.MemOk) : (s.tickCore core).MemOk :=
  .ite h (h.setWaves.foldl fun _ _ h => h.islandTick).modCore.tickBlocked.takeMatrix

theorem Die.scratch_countStalls {D : Die} : D.countStalls.scratch = D.scratch := by
  have folded : ∀ (ks : List ℕ) (E : Die), (ks.foldl (fun E k =>
      if D.stalled k then
        { E with streams := tset E.streams k { E.stream k with stall := ((E.stream k).stall + 1) % 2 ^ 64 } }
      else E) E).scratch = E.scratch := by
    intro ks
    induction ks with
    | nil => exact fun _ => rfl
    | cons k ks ih =>
      intro E
      rw [List.foldl_cons, ih]
      split
      · rfl
      · rfl
  exact folded _ D

theorem Die.scratch_tick {D : Die} {cycle : ℕ} : (D.tick cycle).scratch = D.scratch := by
  unfold Die.tick
  extract_lets E
  split
  · exact Die.scratch_countStalls
  · exact Die.scratch_countStalls

theorem State.MemOk.tickDie {d : ℕ} (h : s.MemOk) : (s.tickDie d).MemOk := h.modDie fun _ => by
  unfold Die.advance
  dsimp only
  split
  · exact Die.scratch_tick
  · rfl

theorem State.MemOk.tickDies (h : s.MemOk) : s.tickDies.MemOk := h.foldl fun _ _ h => h.tickDie

theorem Cluster.scratch_tick {C : Cluster} {cycle : ℕ} : (C.tick cycle).scratch = C.scratch := by
  unfold Cluster.tick
  extract_lets D
  have here : D.scratch = C.scratch := by
    unfold D
    split
    · rfl
    · rfl
  split
  · split
    · exact here
    · exact here
  · exact here

theorem State.MemOk.tickCluster {cl : ℕ} (h : s.MemOk) : (s.tickCluster cl).MemOk :=
  .ite (h.modCluster fun _ => Cluster.scratch_tick) h

theorem State.MemOk.drained {x : ℕ} (h : s.MemOk) : (s.drained x).MemOk := .ite h.modCtx h

theorem State.MemOk.tick (h : s.MemOk) : s.tick.MemOk := by
  unfold State.tick
  extract_lets s1 s2 s3 s4
  have h1 : s1.MemOk := h.foldl fun _ _ h => h.settleGen.ite h
  clear_value s1
  have h2 : s2.MemOk := h1.foldl fun _ _ h => h.tickCore
  clear_value s2
  have h3 : s3.MemOk := (h2.foldl fun _ _ h => h.tickCluster).tickDies
  clear_value s3
  have h4 : s4.MemOk := (h3.foldl fun _ _ h => h.drained).sweepCompleting.runLaunches
  exact h4

/-! ## The step -/

theorem Cand.memOk_run {c : Cand} (h : s.MemOk) : Out.MemOk (Cand.run c s) := by
  unfold Machine.Cand.run
  split
  · exact Due.memOk_run h
  · exact h.retry
  · exact h.performOldest
  · exact h.issueQuad
  · exact h
  · exact h.tick

theorem State.MemOk.pick (h : s.MemOk) : Out.MemOk (s.pick) := by
  unfold State.pick
  extract_lets
  split
  · exact Cand.memOk_run h
  · exact h

theorem State.MemOk.goes (h : s.MemOk) : Out.MemOk (s.goes) := by
  unfold State.goes
  split
  · exact Due.memOk_run h
  · split
    · exact h.performHeldReq
    · split
      · next e =>
          exact Input.memOk_run (State.MemOk.inboxTake h e)
      · exact h.pick

theorem State.MemOk.opens {o : Out} (h : s.MemOk) (e : s.opens = some o) : Out.MemOk o := by
  unfold State.opens at e
  split at e
  · split at e
    · next taken =>
        cases e
        exact Input.memOk_run (State.MemOk.inboxTake h taken)
    · split at e
      · cases e
        exact h.performHeldReq
      · cases e
        exact Due.memOk_run h
      · next frozen =>
        cases e
        exact MaybeMemOk.of_eq h.freezeLeft frozen
      · cases e
        exact Due.memOk_run h
      · cases e
  · cases e

theorem State.MemOk.act (h : s.MemOk) : Out.MemOk (s.act) := by
  unfold State.act
  split
  · next e =>
      exact h.opens e
  · have body : State.MemOk { s with phase := if s.phase = .opening then .body else s.phase } := h
    exact body.goes

theorem State.MemOk.advance (h : s.MemOk) : Out.MemOk (s.advance) := memOk_onNext h.act fun _ h => h.scoreAll.observeAll

theorem memOk_step (h : s.MemOk) : Out.MemOk (step s) := h.advance

/-- Settles O58: each function that a step is made of gives a state with canonical storages from one, by a lemma for each. -/
theorem stepKeepsMemOk : Obligations.StepKeepsMemOk := by
  unfold Obligations.StepKeepsMemOk
  intro s t h e
  have stepped := memOk_step h
  rw [e] at stepped
  exact stepped

end Sys2Proof.Machine
end
